-- ==== Sys2Proof/Word.lean ====
section
/-! DEFINITION. Word.lean: the word types, the channel names and the plain containers every other file uses. -/

namespace Sys2Proof

/-- One byte. -/
abbrev Byte := BitVec 8
/-- A 32-bit lane, status field or FP32 word. -/
abbrev W32 := BitVec 32
/-- A 64-bit register, scalar or counter. -/
abbrev W64 := BitVec 64

/-- The four channels of the device (R2, Table 0.6). -/
inductive Ch where
  | c0 | c1 | c2 | c3
  deriving DecidableEq, Repr

/-- The channel's number, 0 to 3. -/
def Ch.num : Ch → Nat
  | .c0 => 0 | .c1 => 1 | .c2 => 2 | .c3 => 3

/-- The channel with a number; numbers are taken modulo 4. -/
def Ch.ofNum (n : Nat) : Ch :=
  if n % 4 = 0 then .c0 else if n % 4 = 1 then .c1 else if n % 4 = 2 then .c2 else .c3

/-- All channels in ascending order. -/
def Ch.all : List Ch := [.c0, .c1, .c2, .c3]

/-- One value per channel (or per suite: a device holds at most four, Table 0.7). -/
structure Quad (α : Type) where
  c0 : α
  c1 : α
  c2 : α
  c3 : α
  deriving DecidableEq, Repr

def Quad.get {α : Type} (q : Quad α) : Ch → α
  | .c0 => q.c0 | .c1 => q.c1 | .c2 => q.c2 | .c3 => q.c3

def Quad.set {α : Type} (q : Quad α) (c : Ch) (a : α) : Quad α :=
  match c with
  | .c0 => { q with c0 := a }
  | .c1 => { q with c1 := a }
  | .c2 => { q with c2 := a }
  | .c3 => { q with c3 := a }

def Quad.map {α β : Type} (f : α → β) (q : Quad α) : Quad β :=
  ⟨f q.c0, f q.c1, f q.c2, f q.c3⟩

def Quad.same {α : Type} (a : α) : Quad α := ⟨a, a, a, a⟩

/-- A sparse table: keys strictly rising, an unlisted key holding the default. -/
abbrev Tab (α : Type) := List (Nat × α)

end Sys2Proof
end

