-- ==== Sys2Proof/Types/RegWord.lean ====
section
/-! DEFINITION. Types/RegWord.lean: every 64-bit register word of the register tables, with the CCS, BAR2 or mailbox window it lies in. -/

namespace Sys2Proof

/-- One constructor per 64-bit word of a register table: the register's name and the word's number in it. -/
inductive RegWord where
  | fyDevStatus0  -- FY_DEV_STATUS word 0 (R52)
  | fyArrWidth0  -- FY_ARR_WIDTH word 0 (R53)
  | arrChkStatus0  -- ARR_CHK_STATUS word 0 (R100)
  | arrChkCount0  -- ARR_CHK_COUNT word 0 (R101)
  | ccStreamFault0  -- CC_STREAM_FAULT word 0 (R153)
  | ccIssueCount0  -- CC_ISSUE_COUNT word 0 (R154)
  | ccWaitLimit0  -- CC_WAIT_LIMIT word 0 (R155)
  | stkState0  -- STK_STATE_s word 0 (R177)
  | stkState1  -- STK_STATE_s word 1 (R177)
  | stkScrub0  -- STK_SCRUB word 0 (R178)
  | tierT2Region0  -- TIER_T2_REGION_r word 0 (R183)
  | tierT2Region1  -- TIER_T2_REGION_r word 1 (R183)
  | tierT2Region2  -- TIER_T2_REGION_r word 2 (R183)
  | pmpStatus0  -- PMP_STATUS word 0 (R193)
  | tierAcct0  -- TIER_ACCT_n word 0 (R206)
  | tierAcct1  -- TIER_ACCT_n word 1 (R206)
  | tierAcct2  -- TIER_ACCT_n word 2 (R206)
  | tierAcct3  -- TIER_ACCT_n word 3 (R206)
  | tierCtl0  -- TIER_CTL word 0 (R207)
  | tierCtl1  -- TIER_CTL word 1 (R207)
  | tierWmap0  -- TIER_WMAP_n_m word 0 (R208)
  | kvRoom0  -- KV_ROOM_n word 0 (R252)
  | kvRoom1  -- KV_ROOM_n word 1 (R252)
  | kvRoom2  -- KV_ROOM_n word 2 (R252)
  | kvRoom3  -- KV_ROOM_n word 3 (R252)
  | kvRoom4  -- KV_ROOM_n word 4 (R252)
  | kvRoom5  -- KV_ROOM_n word 5 (R252)
  | kvRoom6  -- KV_ROOM_n word 6 (R252)
  | kvRoom7  -- KV_ROOM_n word 7 (R252)
  | srvBudget0  -- SRV_BUDGET_c word 0 (R272)
  | srvBudget1  -- SRV_BUDGET_c word 1 (R272)
  | srvBudget2  -- SRV_BUDGET_c word 2 (R272)
  | srvBudget3  -- SRV_BUDGET_c word 3 (R272)
  | srvRoom0  -- SRV_ROOM_n word 0 (R298)
  | srvRoom1  -- SRV_ROOM_n word 1 (R298)
  | srvRoom2  -- SRV_ROOM_n word 2 (R298)
  | srvRoom3  -- SRV_ROOM_n word 3 (R298)
  | srvRoom4  -- SRV_ROOM_n word 4 (R298)
  | srvRoom5  -- SRV_ROOM_n word 5 (R298)
  | srvRoom6  -- SRV_ROOM_n word 6 (R298)
  | srvRoom7  -- SRV_ROOM_n word 7 (R298)
  | rngRoom0  -- RNG_ROOM_n word 0 (R319)
  | rngRoom1  -- RNG_ROOM_n word 1 (R319)
  | rngRoom2  -- RNG_ROOM_n word 2 (R319)
  | rngRoom3  -- RNG_ROOM_n word 3 (R319)
  | adpRoom0  -- ADP_ROOM_n word 0 (R351)
  | adpRoom1  -- ADP_ROOM_n word 1 (R351)
  | adpRoom2  -- ADP_ROOM_n word 2 (R351)
  | adpRoom3  -- ADP_ROOM_n word 3 (R351)
  | adpRoom4  -- ADP_ROOM_n word 4 (R351)
  | adpRoom5  -- ADP_ROOM_n word 5 (R351)
  | adpRoom6  -- ADP_ROOM_n word 6 (R351)
  | adpRoom7  -- ADP_ROOM_n word 7 (R351)
  | adpSlot0  -- ADP_SLOT_s word 0 (R352)
  | adpSlot1  -- ADP_SLOT_s word 1 (R352)
  | adpSlot2  -- ADP_SLOT_s word 2 (R352)
  | adpSlot3  -- ADP_SLOT_s word 3 (R352)
  | adpBind0  -- ADP_BIND_n_c word 0 (R353)
  | trnRoom0  -- TRN_ROOM_n word 0 (R394)
  | trnRoom1  -- TRN_ROOM_n word 1 (R394)
  | trnRoom2  -- TRN_ROOM_n word 2 (R394)
  | trnRoom3  -- TRN_ROOM_n word 3 (R394)
  | trnRoom4  -- TRN_ROOM_n word 4 (R394)
  | trnRoom5  -- TRN_ROOM_n word 5 (R394)
  | trnRoom6  -- TRN_ROOM_n word 6 (R394)
  | trnRoom7  -- TRN_ROOM_n word 7 (R394)
  | trnRoom8  -- TRN_ROOM_n word 8 (R394)
  | trnRoom9  -- TRN_ROOM_n word 9 (R394)
  | trnRoom10  -- TRN_ROOM_n word 10 (R394)
  | trnRoom11  -- TRN_ROOM_n word 11 (R394)
  | trnRoom12  -- TRN_ROOM_n word 12 (R394)
  | trnRoom13  -- TRN_ROOM_n word 13 (R394)
  | trnRoom14  -- TRN_ROOM_n word 14 (R394)
  | updRoom0  -- UPD_ROOM_n word 0 (R430)
  | updRoom1  -- UPD_ROOM_n word 1 (R430)
  | updRoom2  -- UPD_ROOM_n word 2 (R430)
  | updRoom3  -- UPD_ROOM_n word 3 (R430)
  | updRoom4  -- UPD_ROOM_n word 4 (R430)
  | updRoom5  -- UPD_ROOM_n word 5 (R430)
  | updRoom6  -- UPD_ROOM_n word 6 (R430)
  | updRoom7  -- UPD_ROOM_n word 7 (R430)
  | updRoom8  -- UPD_ROOM_n word 8 (R430)
  | updRoom9  -- UPD_ROOM_n word 9 (R430)
  | updRoom10  -- UPD_ROOM_n word 10 (R430)
  | updRoom11  -- UPD_ROOM_n word 11 (R430)
  | updRoom12  -- UPD_ROOM_n word 12 (R430)
  | updRoom13  -- UPD_ROOM_n word 13 (R430)
  | updRoom14  -- UPD_ROOM_n word 14 (R430)
  | srvWcopy0  -- SRV_WCOPY_k word 0 (R461)
  | srvWcopy1  -- SRV_WCOPY_k word 1 (R461)
  | srvWcopy2  -- SRV_WCOPY_k word 2 (R461)
  | srvWcopy3  -- SRV_WCOPY_k word 3 (R461)
  | srvWmodel0  -- SRV_WMODEL_m word 0 (R462)
  | srvWmodel1  -- SRV_WMODEL_m word 1 (R462)
  | srvWmodel2  -- SRV_WMODEL_m word 2 (R462)
  | srvWmodel3  -- SRV_WMODEL_m word 3 (R462)
  | srvWmodel4  -- SRV_WMODEL_m word 4 (R462)
  | srvWmodel5  -- SRV_WMODEL_m word 5 (R462)
  | trnBcast0  -- TRN_BCAST_n word 0 (R463)
  | trnBcast1  -- TRN_BCAST_n word 1 (R463)
  | trnBcast2  -- TRN_BCAST_n word 2 (R463)
  | trnXs0  -- TRN_XS_j word 0 (R464)
  | trnXs1  -- TRN_XS_j word 1 (R464)
  | trnXs2  -- TRN_XS_j word 2 (R464)
  | trnXs3  -- TRN_XS_j word 3 (R464)
  | trnXs4  -- TRN_XS_j word 4 (R464)
  | trnXs5  -- TRN_XS_j word 5 (R464)
  | trnXs6  -- TRN_XS_j word 6 (R464)
  | trnXs7  -- TRN_XS_j word 7 (R464)
  | fabNode0  -- FAB_NODE word 0 (R512)
  | fabNode1  -- FAB_NODE word 1 (R512)
  | fabPort0  -- FAB_PORT_p word 0 (R513)
  | fabPort1  -- FAB_PORT_p word 1 (R513)
  | fabPort2  -- FAB_PORT_p word 2 (R513)
  | fabPort3  -- FAB_PORT_p word 3 (R513)
  | fabPort4  -- FAB_PORT_p word 4 (R513)
  | fabPort5  -- FAB_PORT_p word 5 (R513)
  | fabPort6  -- FAB_PORT_p word 6 (R513)
  | fabPort7  -- FAB_PORT_p word 7 (R513)
  | fabRt0  -- FAB_RT_i word 0 (R514)
  | fabEthPeer0  -- FAB_ETH_PEER_j word 0 (R515)
  | fabEthPeer1  -- FAB_ETH_PEER_j word 1 (R515)
  | fabEthPeer2  -- FAB_ETH_PEER_j word 2 (R515)
  | fabColl0  -- FAB_COLL_k word 0 (R516)
  | fabColl1  -- FAB_COLL_k word 1 (R516)
  | fabColl2  -- FAB_COLL_k word 2 (R516)
  | fabColl3  -- FAB_COLL_k word 3 (R516)
  | fabColl4  -- FAB_COLL_k word 4 (R516)
  | fabColl5  -- FAB_COLL_k word 5 (R516)
  | fabColl6  -- FAB_COLL_k word 6 (R516)
  | fabColl7  -- FAB_COLL_k word 7 (R516)
  | fabRed0  -- FAB_RED word 0 (R517)
  | fabRed1  -- FAB_RED word 1 (R517)
  | fabRed2  -- FAB_RED word 2 (R517)
  | fabRed3  -- FAB_RED word 3 (R517)
  | fabRoom0  -- FAB_ROOM_n word 0 (R518)
  | fabRoom1  -- FAB_ROOM_n word 1 (R518)
  | fabRoom2  -- FAB_ROOM_n word 2 (R518)
  | fabRoom3  -- FAB_ROOM_n word 3 (R518)
  | roomCfg0  -- ROOM_CFG_n word 0 (R546)
  | roomCfg1  -- ROOM_CFG_n word 1 (R546)
  | roomCfg2  -- ROOM_CFG_n word 2 (R546)
  | roomCfg3  -- ROOM_CFG_n word 3 (R546)
  | schSuite0  -- SCH_SUITE_s word 0 (R547)
  | schSuite1  -- SCH_SUITE_s word 1 (R547)
  | schSuite2  -- SCH_SUITE_s word 2 (R547)
  | schRoom0  -- SCH_ROOM_n word 0 (R548)
  | schRoom1  -- SCH_ROOM_n word 1 (R548)
  | schRoom2  -- SCH_ROOM_n word 2 (R548)
  | schRoom3  -- SCH_ROOM_n word 3 (R548)
  | schAcct0  -- SCH_ACCT_n word 0 (R549)
  | schAcct1  -- SCH_ACCT_n word 1 (R549)
  | schAcct2  -- SCH_ACCT_n word 2 (R549)
  | schAcct3  -- SCH_ACCT_n word 3 (R549)
  | schAcct4  -- SCH_ACCT_n word 4 (R549)
  | schAcct5  -- SCH_ACCT_n word 5 (R549)
  | schAcct6  -- SCH_ACCT_n word 6 (R549)
  | schAcct7  -- SCH_ACCT_n word 7 (R549)
  | schAcct8  -- SCH_ACCT_n word 8 (R549)
  | schAcct9  -- SCH_ACCT_n word 9 (R549)
  | schAcct10  -- SCH_ACCT_n word 10 (R549)
  | schAcct11  -- SCH_ACCT_n word 11 (R549)
  | schAcct12  -- SCH_ACCT_n word 12 (R549)
  | schAcct13  -- SCH_ACCT_n word 13 (R549)
  | schAcct14  -- SCH_ACCT_n word 14 (R549)
  | secStatus0  -- SEC_STATUS word 0 (R579)
  | secDebug0  -- SEC_DEBUG word 0 (R580)
  | secProgRoot0  -- SEC_PROG_ROOT_i word 0 (R581)
  | secProgRoot1  -- SEC_PROG_ROOT_i word 1 (R581)
  | secProgRoot2  -- SEC_PROG_ROOT_i word 2 (R581)
  | secProgRoot3  -- SEC_PROG_ROOT_i word 3 (R581)
  | secProgRoot4  -- SEC_PROG_ROOT_i word 4 (R581)
  | fltStatus0  -- FLT_STATUS word 0 (R618)
  | fltStatus1  -- FLT_STATUS word 1 (R618)
  | fltHist0  -- FLT_HIST word 0 (R619)
  | fltHist1  -- FLT_HIST word 1 (R619)
  | fltReplace0  -- FLT_REPLACE word 0 (R620)
  | fltReplace1  -- FLT_REPLACE word 1 (R620)
  | ckpRoom0  -- CKP_ROOM_n word 0 (R651)
  | ckpRoom1  -- CKP_ROOM_n word 1 (R651)
  | ckpRoom2  -- CKP_ROOM_n word 2 (R651)
  | ckpRoom3  -- CKP_ROOM_n word 3 (R651)
  | ckpRoom4  -- CKP_ROOM_n word 4 (R651)
  | ckpRoom5  -- CKP_ROOM_n word 5 (R651)
  | ckpRoom6  -- CKP_ROOM_n word 6 (R651)
  | ckpRoom7  -- CKP_ROOM_n word 7 (R651)
  | ckpHost0  -- CKP_HOST_c word 0 (R652)
  | ckpHost1  -- CKP_HOST_c word 1 (R652)
  | mbxWords0  -- MBX_WORDS word 0 (R695)
  | mbxWords1  -- MBX_WORDS word 1 (R695)
  | mbxWords2  -- MBX_WORDS word 2 (R695)
  | mbxWords3  -- MBX_WORDS word 3 (R695)
  | mbxWords4  -- MBX_WORDS word 4 (R695)
  | mbxWords5  -- MBX_WORDS word 5 (R695)
  | fnWords0  -- FN_WORDS word 0 (R696)
  | fnWords1  -- FN_WORDS word 1 (R696)
  | fnWords2  -- FN_WORDS word 2 (R696)
  | fnWords3  -- FN_WORDS word 3 (R696)
  | fnWords4  -- FN_WORDS word 4 (R696)
  | irqMod0  -- IRQ_MOD_v word 0 (R697)
  | fyCellar0  -- FY_CELLAR_r word 0 (R698)
  | fyCellar1  -- FY_CELLAR_r word 1 (R698)
  | fyCellar2  -- FY_CELLAR_r word 2 (R698)
  | fyCellar3  -- FY_CELLAR_r word 3 (R698)
  | fyVfSuite0  -- FY_VF_SUITE_p_v word 0 (R699)
  | irqChan0  -- IRQ_CHAN word 0 (R700)
  | pwrStatus0  -- PWR_STATUS word 0 (R741)
  | pwrStatus1  -- PWR_STATUS word 1 (R741)
  | pwrEnergy0  -- PWR_ENERGY word 0 (R742)
  | pwrEnergy1  -- PWR_ENERGY word 1 (R742)
  | pwrEnergy2  -- PWR_ENERGY word 2 (R742)
  | pwrEnergy3  -- PWR_ENERGY word 3 (R742)
  | pwrLaser0  -- PWR_LASER_i word 0 (R743)
  | fyBoot0  -- FY_BOOT word 0 (R744)
  | fyBoot1  -- FY_BOOT word 1 (R744)
  | fyBoot2  -- FY_BOOT word 2 (R744)
  deriving DecidableEq, Repr

end Sys2Proof
end

