-- ==== Sys2Proof/Machine/RegIndex.lean ====
section
/-! DEFINITION. Machine/RegIndex.lean: how many registers each register word has, by its two indexes. -/

namespace Sys2Proof.Machine

/-- The bounds of the two indexes of a register word, from its register's rule; a register that is not an array has the one index 0. -/
def regBounds : RegWord → Nat × Nat
  | .stkState0 | .stkState1 => (4, 1)
  | .tierT2Region0 | .tierT2Region1 | .tierT2Region2 => (16, 1)
  | .tierAcct0 | .tierAcct1 | .tierAcct2 | .tierAcct3 => (65, 1)
  | .tierWmap0 => (64, 4)
  | .kvRoom0 | .kvRoom1 | .kvRoom2 | .kvRoom3 | .kvRoom4 | .kvRoom5 | .kvRoom6 | .kvRoom7 => (64, 1)
  | .srvBudget0 | .srvBudget1 | .srvBudget2 | .srvBudget3 => (4096, 1)
  | .srvRoom0 | .srvRoom1 | .srvRoom2 | .srvRoom3 | .srvRoom4 | .srvRoom5 | .srvRoom6 | .srvRoom7 => (64, 1)
  | .rngRoom0 | .rngRoom1 | .rngRoom2 | .rngRoom3 => (64, 1)
  | .adpRoom0 | .adpRoom1 | .adpRoom2 | .adpRoom3 | .adpRoom4 | .adpRoom5 | .adpRoom6 | .adpRoom7 => (64, 1)
  | .adpSlot0 | .adpSlot1 | .adpSlot2 | .adpSlot3 => (4096, 1)
  | .adpBind0 => (64, 4096)
  | .trnRoom0 | .trnRoom1 | .trnRoom2 | .trnRoom3 | .trnRoom4 | .trnRoom5 | .trnRoom6 | .trnRoom7 | .trnRoom8 | .trnRoom9 | .trnRoom10 | .trnRoom11 | .trnRoom12 | .trnRoom13 | .trnRoom14 => (64, 1)
  | .updRoom0 | .updRoom1 | .updRoom2 | .updRoom3 | .updRoom4 | .updRoom5 | .updRoom6 | .updRoom7 | .updRoom8 | .updRoom9 | .updRoom10 | .updRoom11 | .updRoom12 | .updRoom13 | .updRoom14 => (64, 1)
  | .srvWcopy0 | .srvWcopy1 | .srvWcopy2 | .srvWcopy3 => (8, 1)
  | .srvWmodel0 | .srvWmodel1 | .srvWmodel2 | .srvWmodel3 | .srvWmodel4 | .srvWmodel5 => (4, 1)
  | .trnBcast0 | .trnBcast1 | .trnBcast2 => (64, 1)
  | .trnXs0 | .trnXs1 | .trnXs2 | .trnXs3 | .trnXs4 | .trnXs5 | .trnXs6 | .trnXs7 => (16, 1)
  | .fabPort0 | .fabPort1 | .fabPort2 | .fabPort3 | .fabPort4 | .fabPort5 | .fabPort6 | .fabPort7 => (4, 1)
  | .fabRt0 => (4096, 1)
  | .fabEthPeer0 | .fabEthPeer1 | .fabEthPeer2 => (1024, 1)
  | .fabColl0 | .fabColl1 | .fabColl2 | .fabColl3 | .fabColl4 | .fabColl5 | .fabColl6 | .fabColl7 => (256, 1)
  | .fabRoom0 | .fabRoom1 | .fabRoom2 | .fabRoom3 => (64, 1)
  | .roomCfg0 | .roomCfg1 | .roomCfg2 | .roomCfg3 => (64, 1)
  | .schSuite0 | .schSuite1 | .schSuite2 => (4, 1)
  | .schRoom0 | .schRoom1 | .schRoom2 | .schRoom3 => (64, 1)
  | .schAcct0 | .schAcct1 | .schAcct2 | .schAcct3 | .schAcct4 | .schAcct5 | .schAcct6 | .schAcct7 | .schAcct8 | .schAcct9 | .schAcct10 | .schAcct11 | .schAcct12 | .schAcct13 | .schAcct14 => (64, 1)
  | .secProgRoot0 | .secProgRoot1 | .secProgRoot2 | .secProgRoot3 | .secProgRoot4 => (4, 1)
  | .ckpRoom0 | .ckpRoom1 | .ckpRoom2 | .ckpRoom3 | .ckpRoom4 | .ckpRoom5 | .ckpRoom6 | .ckpRoom7 => (64, 1)
  | .ckpHost0 | .ckpHost1 => (4, 1)
  | .mbxWords0 | .mbxWords1 | .mbxWords2 | .mbxWords3 | .mbxWords4 | .mbxWords5 => (16, 1)
  | .irqMod0 => (288, 1)
  | .fyCellar0 | .fyCellar1 | .fyCellar2 | .fyCellar3 => (16, 1)
  | .fyVfSuite0 => (2, 256)
  | .pwrLaser0 => (8, 1)
  | _ => (1, 1)

/-- A register exists at the indexes; VF entries are numbered from 1 (R699). -/
def regExists (w : RegWord) (i j : Nat) : Bool :=
  i < (regBounds w).1 && j < (regBounds w).2 && !(w == .fyVfSuite0 && j == 0)

end Sys2Proof.Machine
end

