-- ==== Sys2Proof/Types/Regs.lean ====
section
/-! DEFINITION. Types/Regs.lean: one structure per register table of the spec; field widths, places and reset values are those of the tables. -/

namespace Sys2Proof

/-- FY_DEV_STATUS: 01, R52. -/
structure FyDevStatus where
  chService : BitVec 4 := 0
  chDegraded : BitVec 4 := 0
  stkOk : BitVec 16 := 0
  hostaUp : Bool := false
  hostbUp : Bool := false
  degraded : Bool := false
  draining : Bool := false
  compatH1 : Bool := false
  deriving DecidableEq, Repr

/-- FY_ARR_WIDTH: 01, R53. -/
structure FyArrWidth where
  c0Width : BitVec 8 := 0
  c1Width : BitVec 8 := 0
  c2Width : BitVec 8 := 0
  c3Width : BitVec 8 := 0
  deriving DecidableEq, Repr

/-- ARR_CHK_STATUS: 02, R100. -/
structure ArrChkStatus where
  lastKind : BitVec 2 := 0
  lastPcol : BitVec 10 := 0
  lastRetryOk : Bool := false
  steered : Bool := false
  failedCols : BitVec 7 := 0
  failedRows : BitVec 6 := 0
  deriving DecidableEq, Repr

/-- ARR_CHK_COUNT: 02, R101. -/
structure ArrChkCount where
  resMismatch : BitVec 16 := 0
  addMismatch : BitVec 16 := 0
  retryOk : BitVec 16 := 0
  retryFail : BitVec 16 := 0
  deriving DecidableEq, Repr

/-- CC_STREAM_FAULT: 03, R153. -/
structure CcStreamFault where
  kind : BitVec 8 := 0
  slot : BitVec 4 := 0
  room : BitVec 6 := 0
  pc : BitVec 24 := 0
  valid : Bool := false
  deriving DecidableEq, Repr

/-- CC_ISSUE_COUNT: 03, R154. -/
structure CcIssueCount where
  boundMiss : BitVec 32 := 0
  tierMiss : BitVec 32 := 0
  deriving DecidableEq, Repr

/-- CC_WAIT_LIMIT: 03, R155. -/
structure CcWaitLimit where
  limitUs : BitVec 32 := 0xf4240
  deriving DecidableEq, Repr

/-- STK_STATE_s: 04, R177. -/
structure StkState where
  up : Bool := false
  sparesUsed : BitVec 4 := 0
  migrating : Bool := false
  migCh : BitVec 7 := 0
  ceCount : BitVec 32 := 0
  spares : BitVec 64 := 0
  deriving DecidableEq, Repr

/-- STK_SCRUB: 04, R178. -/
structure StkScrub where
  periodH : BitVec 8 := 0x18
  passes : BitVec 32 := 0
  deriving DecidableEq, Repr

/-- TIER_T2_REGION_r: 04, R183. -/
structure TierT2Region where
  node : BitVec 18 := 0
  kind : BitVec 4 := 0
  base : BitVec 64 := 0
  pages : BitVec 32 := 0
  free : BitVec 32 := 0
  deriving DecidableEq, Repr

/-- PMP_STATUS: 04, R193. -/
structure PmpStatus where
  working : BitVec 16 := 0xffff
  count : BitVec 5 := 0x10
  deriving DecidableEq, Repr

/-- TIER_ACCT_n: 04, R206. -/
structure TierAcct where
  t1min : BitVec 32 := 0
  t1max : BitVec 32 := 0
  t2max : BitVec 32 := 0
  wsSize : BitVec 12 := 0
  t1use : BitVec 32 := 0
  t2use : BitVec 32 := 0
  pinned : BitVec 32 := 0
  moves : BitVec 32 := 0
  deriving DecidableEq, Repr

/-- TIER_CTL: 04, R207. -/
structure TierCtl where
  promoteMin : BitVec 8 := 8
  hyst : BitVec 8 := 4
  moveBudget : BitVec 16 := 0x400
  epochs : BitVec 64 := 0
  deriving DecidableEq, Repr

/-- TIER_WMAP_n_m: 04, R208. -/
structure TierWmap where
  base : BitVec 32 := 0
  ppl : BitVec 16 := 0
  layers : BitVec 16 := 0
  deriving DecidableEq, Repr

/-- KV_ROOM_n: 05, R252. -/
structure KvRoom where
  cls : BitVec 2 := 0
  hg : BitVec 6 := 0
  db : BitVec 4 := 0
  g : BitVec 7 := 0
  layers : BitVec 10 := 0
  ablk : BitVec 2 := 0
  slots : BitVec 17 := 0
  maxlen : BitVec 14 := 0
  sumpSize : BitVec 8 := 0
  kvBase : BitVec 48 := 0
  kvsBase : BitVec 48 := 0
  ltAddr : BitVec 28 := 0
  vscAddr : BitVec 28 := 0
  pages : BitVec 32 := 0
  slotsUsed : BitVec 32 := 0
  drops : BitVec 32 := 0
  starved : BitVec 32 := 0
  saturated : BitVec 32 := 0
  relinks : BitVec 32 := 0
  deriving DecidableEq, Repr

/-- SRV_BUDGET_c: 06, R272. -/
structure SrvBudget where
  rate : BitVec 32 := 0
  inW : BitVec 16 := 0x100
  outW : BitVec 16 := 0x100
  burst : BitVec 48 := 0
  level : BitVec 48 := 0
  refused : BitVec 32 := 0
  holds : BitVec 32 := 0
  deriving DecidableEq, Repr

/-- SRV_ROOM_n: 06, R298. -/
structure SrvRoom where
  smpAddr : BitVec 28 := 0
  recAddr : BitVec 28 := 0
  rowTarget : BitVec 16 := 0
  chunk : BitVec 14 := 0x800
  pinHoldMs : BitVec 16 := 0x2710
  budgetHoldMs : BitVec 16 := 0x7d0
  eos0 : BitVec 32 := 0xffffffff
  eos1 : BitVec 32 := 0xffffffff
  eos2 : BitVec 32 := 0xffffffff
  eos3 : BitVec 32 := 0xffffffff
  histBase : BitVec 48 := 0
  ringRegion : BitVec 4 := 0
  ringEn : Bool := false
  ringLog2 : BitVec 5 := 0xa
  pendMax : BitVec 16 := 0x1000
  ringBase : BitVec 64 := 0
  pending : BitVec 32 := 0
  active : BitVec 32 := 0
  deriving DecidableEq, Repr

/-- RNG_ROOM_n: 07, R319. -/
structure RngRoom where
  seed : BitVec 64 := 0
  salt : BitVec 64 := 0
  mode : Bool := false
  seedSrc : Bool := false
  ngen : BitVec 13 := 0
  draws : BitVec 64 := 0
  deriving DecidableEq, Repr

/-- ADP_ROOM_n: 08, R351. -/
structure AdpRoom where
  points : BitVec 11 := 0
  xexpN : BitVec 7 := 0
  stepMax : BitVec 11 := 0x100
  mergedMax : BitVec 4 := 8
  forceRow : Bool := false
  pointSig : BitVec 64 := 0
  stepAddr : BitVec 28 := 0
  warmBase : BitVec 48 := 0
  warmMax : BitVec 16 := 0
  cacheMax : BitVec 16 := 0
  xexpBase : BitVec 48 := 0
  xexpMib : BitVec 16 := 0
  rowSteps : BitVec 32 := 0
  sortedSteps : BitVec 32 := 0
  deferred : BitVec 32 := 0
  warmLoads : BitVec 32 := 0
  deriving DecidableEq, Repr

/-- ADP_SLOT_s: 08, R352. -/
structure AdpSlot where
  state : BitVec 3 := 0
  room : BitVec 6 := 0
  owner : BitVec 12 := 0
  merged : Bool := false
  refs : BitVec 32 := 0
  va : BitVec 48 := 0
  warm : BitVec 16 := 0
  xexp : BitVec 64 := 0
  mergeVa : BitVec 48 := 0
  deriving DecidableEq, Repr

/-- ADP_BIND_n_c: 08, R353. -/
structure AdpBind where
  kind : BitVec 2 := 0
  slot : BitVec 12 := 0
  warm : BitVec 16 := 0
  deriving DecidableEq, Repr

/-- TRN_ROOM_n: 09, R394. -/
structure TrnRoom where
  stwBase : BitVec 48 := 0
  stwPages : BitVec 32 := 0
  stwSeg : BitVec 32 := 0
  stwKeep : BitVec 32 := 0
  stwTop : BitVec 40 := 0
  topMb : BitVec 12 := 0
  cisSize : BitVec 10 := 0
  cisLive : BitVec 10 := 0
  spillBase : BitVec 48 := 0
  amaxAddr : BitVec 28 := 0
  gfmtAddr : BitVec 28 := 0
  tpl : BitVec 4 := 0
  glayers : BitVec 10 := 0
  segments : Bool := false
  vwBase : BitVec 48 := 0
  vwPages : BitVec 32 := 0
  shdPages : BitVec 32 := 0
  shdBase : BitVec 48 := 0
  wgen : BitVec 32 := 0
  leaseMs : BitVec 16 := 0x1388
  droppedSegs : BitVec 32 := 0
  shadows : BitVec 32 := 0
  shadowStalls : BitVec 32 := 0
  fmtChanges : BitVec 32 := 0
  mbRetired : BitVec 32 := 0
  steps : BitVec 32 := 0
  deriving DecidableEq, Repr

/-- UPD_ROOM_n: 10, R430. -/
structure UpdRoom where
  lr : BitVec 32 := 0
  clip : BitVec 32 := 0
  b1 : BitVec 32 := 0x3f666666
  b2 : BitVec 32 := 0x3f7fbe77
  eps : BitVec 32 := 0x322bcc77
  epsRel : BitVec 32 := 0x358637bd
  pivotRel : BitVec 32 := 0x3f000000
  statBeta : BitVec 32 := 0x3f7fbe77
  nsA : BitVec 32 := 0x3ff00000
  nsB : BitVec 32 := 0xbfa00000
  nsC : BitVec 32 := 0x3ec00000
  nsIters : BitVec 8 := 6
  nrIters : BitVec 8 := 0xa
  preEvery : BitVec 16 := 0xa
  emaDecay : BitVec 32 := 0x3f7fbe77
  emaWarm : BitVec 16 := 0xa
  ttBase : BitVec 48 := 0
  ntensors : BitVec 16 := 0
  shard : BitVec 16 := 0
  nshards1 : BitVec 16 := 0
  rootNode : BitVec 18 := 0
  recAddr : BitVec 28 := 0
  schedLen : BitVec 32 := 0
  schedBase : BitVec 48 := 0
  step : BitVec 32 := 0
  skipped : BitVec 32 := 0
  fallbacks : BitVec 32 := 0
  deferred : BitVec 32 := 0
  clamped : BitVec 32 := 0
  lastSumsq : BitVec 32 := 0
  lastStatus : BitVec 16 := 0
  lastFbTensor : BitVec 16 := 0
  lastFbBlock : BitVec 32 := 0
  deriving DecidableEq, Repr

/-- SRV_WCOPY_k: 11, R461. -/
structure SrvWcopy where
  state : BitVec 3 := 0
  model : BitVec 2 := 0
  suspect : Bool := false
  deferred : Bool := false
  wgen : BitVec 32 := 0
  base : BitVec 32 := 0
  pages : BitVec 32 := 0
  tiles : BitVec 32 := 0
  refs : BitVec 32 := 0
  repairs : BitVec 32 := 0
  deriving DecidableEq, Repr

/-- SRV_WMODEL_m: 11, R462. -/
structure SrvWmodel where
  auto : Bool := true
  source : Bool := false
  cur : BitVec 4 := 0xf
  arm : BitVec 4 := 0xf
  replN : BitVec 3 := 0
  switches : BitVec 32 := 0
  srcNode : BitVec 18 := 0
  defers : BitVec 32 := 0
  repl0 : BitVec 18 := 0
  repl1 : BitVec 18 := 0
  repl2 : BitVec 18 := 0
  repl3 : BitVec 18 := 0
  repl4 : BitVec 18 := 0
  repl5 : BitVec 18 := 0
  repl6 : BitVec 18 := 0
  deriving DecidableEq, Repr

/-- TRN_BCAST_n: 11, R463. -/
structure TrnBcast where
  en : Bool := false
  src : Bool := false
  model : BitVec 2 := 0
  every : BitVec 16 := 1
  ntarget : BitVec 4 := 0
  sent : BitVec 32 := 0
  lastWgen : BitVec 32 := 0
  tgtVa : BitVec 48 := 0
  deriving DecidableEq, Repr

/-- TRN_XS_j: 11, R464. -/
structure TrnXs where
  room : BitVec 6 := 0
  en : Bool := false
  fullPolicy : Bool := false
  maxLag : BitVec 32 := 0
  xsBase : BitVec 48 := 0
  slotPages : BitVec 16 := 0
  nslots : BitVec 14 := 0
  produced : BitVec 64 := 0
  consumed : BitVec 64 := 0
  stale : BitVec 32 := 0
  replaced : BitVec 32 := 0
  waits : BitVec 32 := 0
  claimed : BitVec 64 := 0
  deriving DecidableEq, Repr

/-- FAB_NODE: 12, R512. -/
structure FabNode where
  device : BitVec 16 := 0
  channel : BitVec 2 := 0
  joined : Bool := false
  count : BitVec 64 := 0
  deriving DecidableEq, Repr

/-- FAB_PORT_p: 12, R513. -/
structure FabPort where
  pers : Bool := false
  state : BitVec 3 := 0
  spareUsed : Bool := false
  spareFor : BitVec 4 := 0
  peer : BitVec 18 := 0
  peerPort : BitVec 2 := 0
  peerChanges : BitVec 12 := 0
  crcErr : BitVec 32 := 0
  replays : BitVec 32 := 0
  retrains : BitVec 32 := 0
  tagFail : BitVec 32 := 0
  fecCorr : BitVec 64 := 0
  txBytes : BitVec 64 := 0
  rxBytes : BitVec 64 := 0
  ethMac : BitVec 48 := 0
  ethIpv4 : BitVec 32 := 0
  deriving DecidableEq, Repr

/-- FAB_RT_i: 12, R514. -/
structure FabRt where
  matchVal : BitVec 18 := 0
  plen : BitVec 5 := 0
  valid : Bool := false
  ports : BitVec 4 := 0
  alt : BitVec 4 := 0
  vlinc : Bool := false
  deriving DecidableEq, Repr

/-- FAB_ETH_PEER_j: 12, R515. -/
structure FabEthPeer where
  node : BitVec 18 := 0
  port : BitVec 2 := 0
  valid : Bool := false
  dqpn : BitVec 24 := 0
  ipv4 : BitVec 32 := 0
  mac : BitVec 48 := 0
  deriving DecidableEq, Repr

/-- FAB_COLL_k: 12, R516. -/
structure FabColl where
  kind : BitVec 2 := 0
  fmt : BitVec 4 := 0
  room : BitVec 6 := 0
  contrib : Bool := false
  deliver : Bool := false
  fpw : Bool := false
  hasPrev : Bool := false
  hasNext : Bool := false
  nchild : BitVec 3 := 0
  common : Bool := false
  bytes : BitVec 32 := 0
  localVa : BitVec 48 := 0
  destVa : BitVec 48 := 0
  fpaddr : BitVec 48 := 0
  prev : BitVec 18 := 0
  next : BitVec 18 := 0
  root : BitVec 18 := 0
  child0 : BitVec 18 := 0
  child1 : BitVec 18 := 0
  child2 : BitVec 18 := 0
  child3 : BitVec 18 := 0
  uses : BitVec 32 := 0
  fallbacks : BitVec 32 := 0
  deriving DecidableEq, Repr

/-- FAB_RED: 12, R517. -/
structure FabRed where
  free : BitVec 9 := 0x100
  grants : BitVec 32 := 0
  fallbacks : BitVec 32 := 0
  fbPages : BitVec 32 := 0x800
  fbUsed : BitVec 32 := 0
  errors : BitVec 32 := 0
  resends : BitVec 32 := 0
  deriving DecidableEq, Repr

/-- FAB_ROOM_n: 12, R518. -/
structure FabRoom where
  arrBase : BitVec 48 := 0
  arrPages : BitVec 32 := 0
  arrUsed : BitVec 32 := 0
  xferOut : BitVec 32 := 0
  xferIn : BitVec 32 := 0
  early : BitVec 32 := 0
  redFb : BitVec 32 := 0
  deriving DecidableEq, Repr

/-- ROOM_CFG_n: 13, R546. -/
structure RoomCfg where
  state : BitVec 3 := 0
  kind : BitVec 2 := 0
  h1Mode : Bool := false
  suite : BitVec 2 := 0
  span : BitVec 4 := 0
  saveBase : BitVec 48 := 0
  savePages : BitVec 32 := 0
  tbBase : BitVec 48 := 0
  deriving DecidableEq, Repr

/-- SCH_SUITE_s: 13, R547. -/
structure SchSuite where
  mask : BitVec 4 := 0
  lead : BitVec 2 := 0
  running : BitVec 6 := 0
  idle : Bool := true
  sliceUs : BitVec 16 := 0x7d0
  switches : BitVec 64 := 0
  idleUj : BitVec 64 := 0
  deriving DecidableEq, Repr

/-- SCH_ROOM_n: 13, R548. -/
structure SchRoom where
  shares : BitVec 16 := 1
  sstate : BitVec 2 := 0
  vt : BitVec 64 := 0
  lastSwitchNs : BitVec 32 := 0
  maxSwitchNs : BitVec 32 := 0
  liveUnits : BitVec 32 := 0
  deriving DecidableEq, Repr

/-- SCH_ACCT_n: 13, R549. -/
structure SchAcct where
  arrayCyc : BitVec 64 := 0
  vuCyc : BitVec 64 := 0
  t0Bytes : BitVec 64 := 0
  t1Bytes : BitVec 64 := 0
  t2Bytes : BitVec 64 := 0
  fabTxBytes : BitVec 64 := 0
  fabRxBytes : BitVec 64 := 0
  energyUj : BitVec 64 := 0
  runNs : BitVec 64 := 0
  switchNs : BitVec 64 := 0
  waitNs : BitVec 64 := 0
  preempts : BitVec 64 := 0
  switches : BitVec 64 := 0
  tokIn : BitVec 64 := 0
  tokOut : BitVec 64 := 0
  deriving DecidableEq, Repr

/-- SEC_STATUS: 14, R579. -/
structure SecStatus where
  trngOk : Bool := false
  drbgReady : Bool := false
  debug : Bool := false
  identOk : Bool := false
  svn : BitVec 8 := 0
  minSvn : BitVec 8 := 0
  minPeer : BitVec 8 := 0
  healthFail : BitVec 16 := 0
  roomKeys : BitVec 8 := 0
  linkKeys : BitVec 8 := 0
  deriving DecidableEq, Repr

/-- SEC_DEBUG: 14, R580. -/
structure SecDebug where
  req : Bool := false
  opened : Bool := false
  pending : Bool := false
  reason : BitVec 3 := 0
  refused : BitVec 16 := 0
  deriving DecidableEq, Repr

/-- SEC_PROG_ROOT_i: 14, R581. -/
structure SecProgRoot where
  digest0 : BitVec 64 := 0
  digest1 : BitVec 64 := 0
  digest2 : BitVec 64 := 0
  digest3 : BitVec 64 := 0
  valid : Bool := false
  deriving DecidableEq, Repr

/-- FLT_STATUS: 15, R618. -/
structure FltStatus where
  draining : Bool := false
  drainDone : Bool := false
  cause : Bool := false
  oneCore : Bool := false
  cmdCore : Bool := false
  permanent : BitVec 16 := 0
  uncorr : BitVec 32 := 0
  drainedRooms : BitVec 64 := 0
  deriving DecidableEq, Repr

/-- FLT_HIST: 15, R619. -/
structure FltHist where
  present : Bool := false
  blank : Bool := false
  rebuilt : Bool := false
  writeFail : Bool := false
  records : BitVec 32 := 0
  lifeMs : BitVec 64 := 0
  deriving DecidableEq, Repr

/-- FLT_REPLACE: 15, R620. -/
structure FltReplace where
  isSet : Bool := false
  ch : BitVec 4 := 0
  cls : BitVec 8 := 0
  unit : BitVec 16 := 0
  drainAny : Bool := false
  drainLimitS : BitVec 16 := 0x3c
  deriving DecidableEq, Repr

/-- CKP_ROOM_n: 16, R651. -/
structure CkpRoom where
  en : Bool := false
  cut : Bool := false
  mirror : Bool := false
  mirrorRegion : BitVec 4 := 0
  everySteps : BitVec 16 := 0
  everyMs : BitVec 32 := 0
  atticNode : BitVec 18 := 0
  atticPages : BitVec 32 := 0
  mirrorOffset : BitVec 64 := 0
  cbwPages : BitVec 32 := 0
  scratchPages : BitVec 32 := 0
  seq : BitVec 64 := 0
  step : BitVec 64 := 0
  slot : Bool := false
  busy : Bool := false
  pending : Bool := false
  aValid : Bool := false
  bValid : Bool := false
  lastStatus : BitVec 16 := 0
  cbwCopies : BitVec 32 := 0
  failed : BitVec 32 := 0
  merged : BitVec 32 := 0
  deriving DecidableEq, Repr

/-- CKP_HOST_c: 16, R652. -/
structure CkpHost where
  maxPages : BitVec 32 := 0
  used : BitVec 32 := 0
  hosted : BitVec 8 := 0
  freeAll : Bool := false
  deriving DecidableEq, Repr

/-- MBX_WORDS: 17, R695. -/
structure MbxWords where
  go : Bool := false
  postStatus : BitVec 16 := 0
  postSeq : BitVec 32 := 0
  ackSlot : BitVec 3 := 0
  ackSeq : BitVec 32 := 0
  slotState : BitVec 16 := 0
  cmdBusy : Bool := false
  holdMs : BitVec 16 := 0x2710
  overrun : BitVec 16 := 0
  ackMismatch : BitVec 16 := 0
  expired : BitVec 16 := 0
  evqLost : BitVec 16 := 0
  deriving DecidableEq, Repr

/-- FN_WORDS: 17, R696. -/
structure FnWords where
  evqBase : BitVec 64 := 0
  evqEn : Bool := false
  evqLog2 : BitVec 5 := 6
  evqProd : BitVec 64 := 0
  evqCons : BitVec 64 := 0
  port : Bool := false
  func : BitVec 8 := 0
  deriving DecidableEq, Repr

/-- IRQ_MOD_v: 17, R697. -/
structure IrqMod where
  count : BitVec 16 := 1
  timeUs : BitVec 16 := 0
  sent : BitVec 32 := 0
  deriving DecidableEq, Repr

/-- FY_CELLAR_r: 17, R698. -/
structure FyCellar where
  node : BitVec 18 := 0
  kind : BitVec 4 := 0
  ch : BitVec 4 := 0
  base : BitVec 64 := 0
  pages : BitVec 32 := 0
  apply : Bool := false
  refused : Bool := false
  deriving DecidableEq, Repr

/-- FY_VF_SUITE_p_v: 17, R699. -/
structure FyVfSuite where
  suites : BitVec 4 := 0
  deriving DecidableEq, Repr

/-- IRQ_CHAN: 17, R700. -/
structure IrqChan where
  maskCmd : BitVec 8 := 0
  maskHk : BitVec 8 := 0
  route : BitVec 8 := 0x86
  depthCmd : BitVec 4 := 0
  depthHk : BitVec 4 := 0
  wakes : BitVec 32 := 0
  deriving DecidableEq, Repr

/-- PWR_STATUS: 18, R741. -/
structure PwrStatus where
  seq : BitVec 4 := 0
  pg : BitVec 3 := 0
  vstkOn : Bool := false
  voptOn : Bool := false
  refSsc : Bool := false
  bflBusy : Bool := false
  step : BitVec 20 := 0
  tmax : BitVec 8 := 0
  tstack : BitVec 8 := 0
  limiter : BitVec 3 := 0
  limitW : BitVec 16 := 0x834
  minStep : BitVec 5 := 0
  deriving DecidableEq, Repr

/-- PWR_ENERGY: 18, R742. -/
structure PwrEnergy where
  totalUj : BitVec 64 := 0
  vcoreMeasUj : BitVec 64 := 0
  foyerUj : BitVec 64 := 0
  nosuiteUj : BitVec 64 := 0
  deriving DecidableEq, Repr

/-- PWR_LASER_i: 18, R743. -/
structure PwrLaser where
  powerUw : BitVec 20 := 0
  inWindow : Bool := false
  losses : BitVec 32 := 0
  deriving DecidableEq, Repr

/-- FY_BOOT: 18, R744. -/
structure FyBoot where
  copy : Bool := false
  hostLoaded : Bool := false
  bootSel : BitVec 2 := 0
  smbAddr : BitVec 3 := 0
  aFail : Bool := false
  bFail : Bool := false
  bootMs : BitVec 16 := 0
  boots : BitVec 32 := 0
  hostAddr : BitVec 64 := 0
  go : Bool := false
  deriving DecidableEq, Repr

end Sys2Proof
end

