-- ==== Sys2Proof/Types/Fabric.lean ====
section
/-! DEFINITION. Types/Fabric.lean: frames, chunks, port and transfer state of a channel's router (chapter 12). -/

namespace Sys2Proof

/-- The TYPE codes of a frame (Table 12.1). -/
inductive FrameType where
  | request | response | tag | hello | error
  deriving DecidableEq, Repr

/-- The OP codes of a chunk descriptor (Table 12.2). -/
inductive ChunkOp where
  | data | red | bcast | msg | memw | memr
  deriving DecidableEq, Repr

def ChunkOp.code : ChunkOp → BitVec 3
  | .data => 0 | .red => 1 | .bcast => 2 | .msg => 3 | .memw => 4 | .memr => 5

/-- A chunk descriptor (Table 12.2). -/
structure ChunkDesc where
  tag : W32 := 0
  chunk : W32 := 0
  bytes : W32 := 0
  op : ChunkOp := .data
  final : Bool := false
  coll : BitVec 8 := 0
  stamp : W64 := 0
  addr : W64 := 0
  deriving DecidableEq, Repr

/-- A frame (Table 12.1): its header and its payload after the chunk descriptor, if it is FIRST. -/
structure FabFrame where
  type : FrameType := .request
  vl : BitVec 2 := 0
  first : Bool := false
  last : Bool := false
  poison : Bool := false
  dst : BitVec 18 := 0
  src : BitVec 18 := 0
  droom : BitVec 6 := 0
  sroom : BitVec 6 := 0
  seq : BitVec 12 := 0
  fidx : BitVec 12 := 0
  xid : W32 := 0
  desc : Option ChunkDesc := none
  payload : List Byte := []
  deriving DecidableEq, Repr

/-- The links of a router: four optical ports, and the on-package link to each other channel. -/
inductive Link where
  | port (p : BitVec 2)
  | pack (c : Ch)
  deriving DecidableEq, Repr

/-- A frame kept until its next hop acknowledges it (R473, R474). -/
structure HeldFrame where
  frame : FabFrame
  replays : Nat := 0
  /-- For a frame in transit: the upstream link and its SEQ there, acknowledged once the next hop has it. -/
  up : Option (Link × BitVec 12) := none
  deriving DecidableEq, Repr

/-- A frame that waits at an output for its turn (R490): it came by an input of the router, its links numbered 0 to 7, or from the channel itself, 8. -/
structure OutFrame where
  frame : FabFrame
  up : Option (Link × BitVec 12) := none
  input : Nat := 8
  deriving DecidableEq, Repr

/-- One link of a router: its replay buffer, and the frames received whose TAG has not come (R473 to R477). -/
structure LinkState where
  nextSeq : BitVec 12 := 0
  expectSeq : BitVec 12 := 0
  held : List HeldFrame := []
  /-- Frames that wait for a place in the replay buffer, oldest first; the VL served last, and for each VL the input served last (R490). -/
  waiting : List OutFrame := []
  lastVl : Nat := 3
  lastIn : Tab Nat := []
  /-- Frames received and not yet authenticated, oldest first. -/
  unverified : List FabFrame := []
  tagFails : Nat := 0
  /-- Frames sent since the last TAG frame. -/
  sinceTag : Nat := 0
  /-- A session is set up; its TAG counters in each direction (R562, R564). -/
  session : Bool := false
  /-- Session keys to the peer and from it, and those of a rekey that take effect at the next TAG (R562, R564). -/
  keyTx : BitVec 256 := 0
  keyRx : BitVec 256 := 0
  nextTx : Option (BitVec 256) := none
  nextRx : Option (BitVec 256) := none
  tagTx : Nat := 0
  tagRx : Nat := 0
  setup : Nat := 0
  deriving DecidableEq, Repr

/-- The link that a chunk has chosen at this router (R487). -/
structure ChunkPath where
  src : BitVec 18
  xid : W32
  link : Link
  vlinc : Bool
  deriving DecidableEq, Repr

/-- A receive posted by a RECV descriptor (R492, R493). -/
structure Posted where
  room : Nat
  node : BitVec 18
  sroom : BitVec 6
  tag : W32
  bytes : Nat
  /-- Issue number of the RECV descriptor. -/
  seq : Nat
  /-- Chunks that have come: index, bytes, and whether they carry poison. -/
  chunks : List (Nat × List Byte × Bool) := []
  /-- Data began to land while the room is on the islands (R537). -/
  begun : Bool := false
  deriving DecidableEq, Repr

/-- A transfer that arrived before its receive (R493). -/
structure EarlyXfer where
  room : Nat
  node : BitVec 18
  sroom : BitVec 6
  tag : W32
  chunks : List (Nat × List Byte × Bool) := []
  /-- Bytes of the whole transfer, once its last chunk has come. -/
  total : Option Nat := none
  deriving DecidableEq, Repr

/-- A partial chunk of a reduction at this rank (R502 to R505). -/
structure RedChunk where
  k : Nat
  tag : W32
  chunk : Nat
  /-- Granted slots; otherwise in the fallback area. -/
  granted : Bool
  data : List Byte
  /-- The chunk carried poison. -/
  bad : Bool := false
  /-- Sent on, as this XID: its slots are held until the next hop has acknowledged it. -/
  xid : Option W32 := none
  deriving DecidableEq, Repr

/-- An instance of a collective at this channel (R499). -/
structure CollInst where
  k : Nat
  tag : W32
  armed : Bool := false
  /-- Chunks delivered here, and chunks that this channel has sent. -/
  delivered : List Nat := []
  sent : List Nat := []
  /-- Transmissions not yet acknowledged by the next hop: XID and chunk. -/
  wait : List (W32 × Nat) := []
  /-- Its completion has been counted in USES. -/
  counted : Bool := false
  deriving DecidableEq, Repr

/-- A RoCEv2 queue pair's injection rate, in eighths of the port rate times 2^16 (R510). -/
structure QpRate where
  peer : Nat
  rate : Nat
  deriving DecidableEq, Repr

/-- A controller message that waits for credit, or is queued for Ballutos (R496). -/
structure Msg where
  node : BitVec 18
  queue : W32
  reply : W32
  bytes : List Byte
  deriving DecidableEq, Repr

/-- Messages in flight to one receiver and queue (R496). -/
structure MsgLane where
  node : BitVec 18
  queue : W32
  inFlight : Nat := 0
  waiting : List Msg := []
  deriving DecidableEq, Repr

end Sys2Proof
end

