-- ==== Sys2Proof/Types/Host.lean ====
section
/-! DEFINITION. Types/Host.lean: status codes, PCIe functions, result slots, mailboxes, event records and MSI-X vectors (chapter 17). -/

namespace Sys2Proof

/-- The status codes of Table 17.13 (R679). -/
inductive Status where
  | ok | pending | mbxResultExpired | slotBusy | quotaExceeded | budgetEmpty | kvStarved | kvRecompute
  | poisonConsumed | arrayFaultRetried | staleWgen | switchDeferred | nonFiniteStep | singularFallback
  | reductionFallback | roomFault | stairwellFull | draining | degraded | attestFail | badCommand
  deriving DecidableEq, Repr

/-- The 16-bit code of each status (Table 17.13). -/
def Status.code : Status → BitVec 16
  | .ok => 0x0000 | .pending => 0x0001 | .mbxResultExpired => 0x0002 | .slotBusy => 0x0010
  | .quotaExceeded => 0x0011 | .budgetEmpty => 0x0012 | .kvStarved => 0x0020 | .kvRecompute => 0x0021
  | .poisonConsumed => 0x0030 | .arrayFaultRetried => 0x0031 | .staleWgen => 0x0040
  | .switchDeferred => 0x0041 | .nonFiniteStep => 0x0050 | .singularFallback => 0x0051
  | .reductionFallback => 0x0060 | .roomFault => 0x0070 | .stairwellFull => 0x0071
  | .draining => 0x0080 | .degraded => 0x0081 | .attestFail => 0x0090 | .badCommand => 0x00A0

/-- A PCIe function: its port (0 is A, 1 is B) and its number, 0 the PF (Table 17.1). -/
structure Fn where
  portB : Bool
  num : BitVec 8
  deriving DecidableEq, Repr

/-- The function's key in the foyer's tables: port A's 256 functions, then port B's. -/
def Fn.key (f : Fn) : Nat := (if f.portB then 256 else 0) + f.num.toNat

def Fn.isPF (f : Fn) : Bool := f.num == 0

/-- The STATE codes of a result slot (Table 17.5). -/
inductive SlotState where
  | free | pending | ready | expired
  deriving DecidableEq, Repr

def SlotState.code : SlotState → BitVec 2
  | .free => 0 | .pending => 1 | .ready => 2 | .expired => 3

/-- One result slot (Table 17.5, R665), with the Porch millisecond at which it became READY. -/
structure ResultSlot where
  state : SlotState := .free
  status : Status := .ok
  reread : BitVec 8 := 0
  seq : W32 := 0
  opcode : Byte := 0
  words : List W32 := []
  readyMs : Nat := 0
  deriving DecidableEq, Repr

/-- One mailbox (Table 17.3): its command area, status words and result slots. -/
structure Mailbox where
  header : BitVec 512 := 0
  params : BitVec 15872 := 0
  words : MbxWords := {}
  slots : Tab ResultSlot := []
  deriving DecidableEq, Repr

/-- One MSI-X vector of a function (R685): mask, pending bit, moderation and the unannounced units. -/
structure Vec where
  masked : Bool := true
  pend : Bool := false
  mod : IrqMod := {}
  units : Nat := 0
  firstUs : Nat := 0
  deriving DecidableEq, Repr

/-- What the foyer holds for one function (R658, R695 to R697). -/
structure FnState where
  words : FnWords := {}
  mailboxes : Tab Mailbox := []
  vectors : Tab Vec := []
  /-- Records dropped since the last record of code 0x07 (R683). -/
  dropped : Nat := 0
  busMaster : Bool := false
  d3hot : Bool := false
  deriving DecidableEq, Repr

/-- An event record (Table 17.19). -/
structure EventRecord where
  code : Byte
  suite : BitVec 2 := 0
  room : BitVec 6 := 0
  mbx : BitVec 4 := 0
  slot : BitVec 3 := 0
  seq : W32 := 0
  detail : W64 := 0
  deriving DecidableEq, Repr

end Sys2Proof
end

