-- ==== Sys2Proof/Types/Faults.lean ====
section
/-! DEFINITION. Types/Faults.lean: fault records, the fault history store, monitors and drains (chapter 15). -/

namespace Sys2Proof

/-- A fault history record (Table 15.4) without its CRC, which is computed when the record is written out. -/
structure FaultRec where
  causal : W64 := 0
  node : BitVec 18 := 0
  room : BitVec 6 := 0x3F
  cls : Byte
  unit : BitVec 16 := 0
  kind : BitVec 4
  /-- 0 transient, 1 permanent, 2 not judged. -/
  judge : BitVec 2 := 2
  addr : W64 := 0
  lifeMs : W64 := 0
  status : Status := .ok
  count : BitVec 16 := 0
  detail : BitVec 192 := 0
  deriving DecidableEq, Repr

/-- A row of the unit table: an address that faulted, and the life-clock times of its last three faults (R598). -/
structure FaultAddr where
  cls : Byte
  unit : BitVec 16
  addr : W64
  times : List Nat
  deriving DecidableEq, Repr

/-- One unit judged permanent, as kept for every boot (R608). -/
structure PermUnit where
  cls : Byte
  unit : BitVec 16
  addr : W64
  deriving DecidableEq, Repr

/-- A channel's fault history: its flash and the mirrored buffer in front of it (R597 to R603). -/
structure History where
  /-- Nothing has ever been written to the flash. -/
  blank : Bool := true
  /-- Records on the flash, newest first. -/
  flash : List FaultRec := []
  /-- Records in the mirrored buffer, newest first. -/
  buffer : List FaultRec := []
  /-- The unit table. -/
  table : List FaultAddr := []
  perm : List PermUnit := []
  /-- Life clock written in the header, and its value at the last channel boot beside the Porch millisecond of that moment. -/
  headerMs : Nat := 0
  lifeBase : Nat := 0
  lifeAtMs : Nat := 0
  records : BitVec 32 := 0
  uncorr : BitVec 32 := 0
  permanent : BitVec 16 := 0
  /-- Boots of the channel, as attestation reports carry them (R574). -/
  boots : Nat := 0
  /-- Lifetime counts of the array's checks (R101). -/
  resMismatch : Nat := 0
  addMismatch : Nat := 0
  retryOk : Nat := 0
  retryFail : Nat := 0
  /-- Bound misses already recorded under R601. -/
  missSeen : Nat := 0
  /-- The history holds a drain trigger (R608). -/
  trigger : Bool := false
  deriving DecidableEq, Repr

/-- The monitors of Table 15.3. -/
inductive Monitor where
  | tjMax | vcore | vstk | vopt (port : Nat) | pllCompute | pllOther | sysclk
  deriving DecidableEq, Repr

/-- A drain on one channel (R609 to R613). -/
structure Drain where
  /-- Started by DRAIN_DEVICE without REPLACE, so it can be cancelled. -/
  cancellable : Bool
  startMs : Nat
  limitS : Nat
  /-- DRAIN_LIMIT_S has passed. -/
  expired : Bool := false
  deriving DecidableEq, Repr

end Sys2Proof
end

