-- ==== Sys2Proof/Types/Memory.lean ====
section
/-! DEFINITION. Types/Memory.lean: page table entries, frame pools, tile tags and stack state (chapter 4). -/

namespace Sys2Proof

/-- A page table entry (Table 4.3, R167). -/
structure Pte where
  valid : Bool := false
  /-- 0 in T1, 1 in T2. -/
  t2 : Bool := false
  /-- 0 tiered by heat, 1 pinned to T1, 2 pinned to T2. -/
  place : BitVec 2 := 0
  /-- The entry refers to entry frame of the suite's common page table. -/
  shared : Bool := false
  dirty : Bool := false
  poison : Bool := false
  moving : Bool := false
  heat : BitVec 8 := 0
  frame : BitVec 32 := 0
  /-- Room index 0 to 63, or 0xFF for the common account. -/
  owner : BitVec 8 := 0
  t2fp : W64 := 0
  deriving DecidableEq, Repr

/-- A page named for the tiering engine: a room's own page, or an entry of the common table. -/
inductive PageRef where
  | room (n page : Nat)
  | common (idx : Nat)
  deriving DecidableEq, Repr

/-- Where poison lies: a 64 B line of a room in WS, the Sump, the Cistern or its memory, a line of the common pages, or a page by its entry. -/
inductive PoisonPlace where
  | ws (n line : Nat)
  | sump (n line : Nat)
  | cistern (n line : Nat)
  | mem (n line : Nat)
  | common (line : Nat)
  | page (r : PageRef)
  deriving DecidableEq, Repr

/-- The unit in which poison arose, as the fault history names it: class, unit and address (R594). -/
structure Arose where
  cls : BitVec 8
  unit : BitVec 16
  addr : W64
  deriving DecidableEq, Repr

/-- A move the tiering engine has chosen or is carrying out (R195, R196, R199). -/
structure Move where
  page : PageRef
  promote : Bool
  /-- Chosen by the epoch pass, and so counted against MOVE_BUDGET. -/
  epoch : Bool
  deriving DecidableEq, Repr

/-- Frames or Cellar pages handed out: those never used yet from next on, and those given back. -/
structure Pool where
  next : Nat := 0
  freed : List Nat := []
  deriving DecidableEq, Repr

/-- The tag and residues of one tile in the residue shadow (R159). -/
structure TileTag where
  fmt : BitVec 4
  xorder : Bool
  residues : List (BitVec 16)
  deriving DecidableEq, Repr

/-- One KS4 stack of a channel (R172, R174 to R177). -/
structure Stack where
  reg : StkState := {}
  powered : Bool := false
  /-- Training has ended, well or not (R721 stage 7). -/
  trained : Bool := false
  deriving DecidableEq, Repr

end Sys2Proof
end

