-- ==== Sys2Proof/Types/Island.lean ====
section
/-! DEFINITION. Types/Island.lean: the compute island's state: registers, pipelines, loops, the array, pump queues (chapter 3). -/

namespace Sys2Proof

/-- Where a pipelined result lands (R107). -/
inductive Target where
  | x (r : Nat) (v : W64)
  | q (i : Nat) (v : Bool)
  /-- All 256 lanes of one group of a vector register. -/
  | lanes (reg grp : Nat) (vals : List W32)
  /-- Lane 0 of one group of a vector register. -/
  | lane0 (reg grp : Nat) (v : W32)
  /-- Bytes of the working store; a vector store also updates the residues of tagged tiles (R161). -/
  | ws (addr : Nat) (bytes : List Byte) (vec : Bool)
  deriving DecidableEq, Repr

/-- A result on its way: it lands at island cycle due (R107). -/
structure PendWrite where
  due : Nat
  target : Target
  deriving DecidableEq, Repr

/-- A loop in progress: its body, and the iterations still to start after this one (R141, R745). -/
structure LoopFrame where
  start : Nat
  len : Nat
  left : Nat
  deriving DecidableEq, Repr

/-- The region resident in the Loop room: its bundles as decoded on the first iteration (R142). -/
structure LoopRegion where
  start : Nat
  len : Nat
  bundles : Tab (BitVec 1024)
  deriving DecidableEq, Repr

/-- The island state that belongs to the running room (R106, Table 13.6). -/
structure Ctx where
  x : Tab W64 := []
  q : BitVec 8 := 0
  /-- Row of 256 lanes for key 64 * register + group. -/
  lanes : Tab (List W32) := []
  tk : Tab (BitVec 8) := []
  /-- A counter went beyond 255, so the next bundle is illegal (R132). -/
  tkOver : Bool := false
  pc : Nat := 0
  loops : List LoopFrame := []
  /-- The room's issue-cycle counter (SCYC). -/
  scyc : W64 := 0
  /-- Switch points issued since the room last resumed (R536). -/
  ordinal : Nat := 0
  /-- The program has issued END on this channel (R524). -/
  ended : Bool := false
  /-- ARR.MMs that the room has issued on this channel since its job started: by it the place of an operation in its tensor is free (R82). -/
  mms : Nat := 0
  deriving DecidableEq, Repr

/-- A weight buffer's image (R117, R118, R122, R126). -/
structure WBuf where
  bfmt : BitVec 4
  rate : Nat
  image : List Byte
  /-- Island cycle at which the load ends. -/
  ready : Nat
  /-- Island cycle at which the loading ARR.LDW issued (R125). -/
  issued : Nat
  /-- The image's address in 512 B units, and the units it covers (R133). -/
  addr : Nat
  units : Nat
  /-- The residue unit's copy, in step with the image: the residue of every element (R89). -/
  residues : List (BitVec 16) := []
  deriving DecidableEq, Repr

/-- How far the array's operation has come with its checks (R93 to R98). -/
inductive ArrPhase where
  | running   -- first run, or its check token awaited
  | retrying  -- an array fault withheld the token and the operation runs once more
  deriving DecidableEq, Repr

/-- Where an operation's output lies in the program's logical output tensor (R82): its first row and column, the tensor's width, and whether the
operation computes it transposed (R84). -/
structure OutPlace where
  row : Nat := 0
  col : Nat := 0
  width : Nat := 0
  flip : Bool := false
  deriving DecidableEq, Repr

/-- The array operation whose check token has not been released (R119 to R125). -/
structure ArrOp where
  slot : BitVec 128
  room : Nat
  tensor : BitVec 24
  issue : Nat
  passEnd : Nat
  lastOut : Nat
  phase : ArrPhase := .running
  place : OutPlace := {}
  /-- The buffer WB at issue, which holds the first pass's image when PRE is 1. -/
  buf : Option WBuf := none
  /-- Its room has left the islands for good: the operation completes, and its token is discarded (R150). -/
  dead : Bool := false
  deriving DecidableEq, Repr

/-- A pump descriptor in a queue (R127, R135). -/
structure PumpEntry where
  desc : BitVec 512
  tok : BitVec 6
  room : Nat
  /-- The time in picoseconds by which its token arrives (R135); 0 for the unbounded classes. -/
  bound : Nat
  tierMiss : Bool
  /-- Its room has left the islands for good: it completes, and its token is discarded (R150). -/
  dead : Bool := false
  /-- Issue order among the island's descriptors. -/
  seq : Nat := 0
  /-- The Stairwell frame that it pushes or pops (R364, R367). -/
  frame : Option Nat := none
  deriving DecidableEq, Repr

/-- What an island hold is waiting for. -/
inductive Hold where
  /-- In-flight locks on the units that the bundle would read and write in WS (R133). -/
  | lock (reads writes : List (Nat × Nat))
  | token (t c : Nat) (yield : Bool)
  /-- Cistern runs that a window descriptor covers (R378). -/
  | cistern (runs : List (Nat × Nat))
  /-- Full pump queues (R129). -/
  | queue (qs : List Nat)
  | signal | check | sump | shadow
  /-- A line under write-back (R585) or of a row that is copied to its spare (R606), until an island time in ps. -/
  | line (til : Nat)
  deriving DecidableEq, Repr

/-- A sampling run in progress: its records, where they go, and the token counter named (R115). -/
structure SmpRun where
  room : Nat
  tok : Nat
  out : Nat
  records : List (List Byte)
  due : Nat
  /-- As for the array. -/
  dead : Bool := false
  deriving DecidableEq, Repr

/-- What a hold that has ended is counted as (R33, R138, R154, R754). -/
inductive Miss where
  | bound | tier
  deriving DecidableEq, Repr

/-- The stores whose lines an access may hold for. -/
inductive LineStore where
  | ws | sump | cistern
  deriving DecidableEq, Repr

/-- A 64 B line that an access holds for: under write-back, or of a row on its way to its spare, until an island time in ps (R585, R606). -/
structure LineHold where
  store : LineStore
  line : Nat
  til : Nat
  deriving DecidableEq, Repr

/-- One channel's compute island. -/
structure Island where
  /-- The room on the island, when one is. -/
  room : Option Nat := none
  ctx : Ctx := {}
  /-- Cycles since channel reset. -/
  cycle : Nat := 0
  /-- Picoseconds since channel reset, at the throttled period. -/
  ps : Nat := 0
  writes : List PendWrite := []
  loopRoom : Option LoopRegion := none
  wb0 : Option WBuf := none
  wb1 : Option WBuf := none
  arr : Option ArrOp := none
  smp : Option SmpRun := none
  /-- Descriptors issued so far. -/
  pumpSeq : Nat := 0
  /-- What the unit that last stood in the way of the held bundle makes of the hold (R754). -/
  miss : Option Miss := none
  /-- Run-time columns steered out for retries since the last context switch (R95, R97). -/
  steered : List (BitVec 10) := []
  lineHolds : List LineHold := []
  /-- Queue q's descriptors, oldest first (R128, R129). -/
  pumps : Tab (List PumpEntry) := []
  /-- bound_ps of each queue (R135). -/
  boundPs : Tab Nat := []
  /-- The hold in progress. -/
  hold : Option Hold := none
  /-- The microsecond of the Porch at which the present hold began. -/
  holdUs : Nat := 0
  /-- Event codes signalled and not yet taken by the controller (Table 3.10). -/
  signals : List (BitVec 8) := []
  /-- A switch is decided for this ordinal of switch point (R535, R536). -/
  switchAt : Option Nat := none
  /-- The island waits at its switch point for the switch (R146, R147). -/
  atSwitch : Bool := false
  /-- Bundle counter of that switch point, by which the switch-point table lists what is live (R539). -/
  switchPc : Nat := 0
  /-- Hold cycles inserted by the power controller (R737). -/
  powerHold : Bool := false
  deriving DecidableEq, Repr

end Sys2Proof
end

