-- ==== Sys2Proof/Types/Training.lean ====
section
/-! DEFINITION. Types/Training.lean: Stairwell frames, references, shadows and version maps (chapter 9). -/

namespace Sys2Proof

/-- A Stairwell frame (Table 9.3), with its place and its progress: pushed and landed, bound by a pop, freed. -/
structure Frame where
  /-- Issue number of the push. -/
  id : Nat
  off : Nat
  size : Nat
  tag : BitVec 8
  seg : BitVec 8
  mb : BitVec 12
  kind : BitVec 2
  fmt : BitVec 4
  dropped : Bool
  count : W32
  wgen : W32
  /-- Offset of the frame below when it was pushed, in 512 B units, or 0xFFFF_FFFF. -/
  prev : W32
  /-- Which tiles of the payload are stored in X-order, in order: those pushed so (R164, R186). -/
  orders : List Bool := []
  landed : Bool := false
  bound : Bool := false
  deriving DecidableEq, Repr

/-- A reference of a reader to a version of this room's weights (R388): the reader, and the Porch millisecond at which its lease lapses. -/
structure VerRef where
  reader : W64
  wgen : W32
  leaseMs : Nat
  deriving DecidableEq, Repr

/-- A reference that a micro-batch of this room holds, as a reader, to another room's weights, or its own: the owner's node and room, the version,
and the micro-batch that releases it when it retires (R388). -/
structure HeldRef where
  node : BitVec 18
  room : BitVec 6
  wgen : W32
  mb : BitVec 12
  deriving DecidableEq, Repr

/-- A shadow of one versioned page (R390): page of the versioned area, version kept, shadow page used. -/
structure Shadow where
  page : Nat
  wgen : W32
  slot : Nat
  deriving DecidableEq, Repr

/-- What a channel keeps of a room's training beside TRN_ROOM_n. -/
structure TrainState where
  /-- Frames on the Stairwell, top first; frames bound by a pop stay listed until its token (R368). -/
  frames : List Frame := []
  /-- Dropped segments of the current micro-batch: (MB, SEG) (R366). -/
  droppedSegs : List (BitVec 12 × BitVec 8) := []
  /-- Live Cistern pages (R380). -/
  cisLive : List Nat := []
  /-- Amax history of each tensor, oldest first, at most 16 (R382). -/
  hist : Tab (List W32) := []
  /-- GFMT bytes as last written (R384). -/
  gfmt : Tab (BitVec 8) := []
  /-- Version map: WGEN of each page of the versioned area (R387). -/
  verMap : Tab W32 := []
  refs : List VerRef := []
  shadows : List Shadow := []
  held : List HeldRef := []
  /-- Cistern adds and window descriptors outstanding in the micro-batch are the island's and pumps' own. -/
  mb : BitVec 12 := 0
  deriving DecidableEq, Repr

end Sys2Proof
end

