-- ==== Sys2Proof/Types/Checkpoint.lean ====
section
/-! DEFINITION. Types/Checkpoint.lean: captures, pending maps and Attics (chapter 16). -/

namespace Sys2Proof

/-- The stages of a capture (R634): zeroing the commit record, data pages, directory, commit record. -/
inductive CapStage where
  | zero | pages | directory | commit
  deriving DecidableEq, Repr

/-- A room's live state outside its vector and scalar registers, as saved in its save area (Table 13.6): live WS units, Sump, Cistern. -/
structure Saved where
  ws : List (Nat × Byte) := []
  sump : List (Nat × Byte) := []
  cistern : List (Nat × Byte) := []
  tags : Tab TileTag := []
  /-- Poisoned lines among them. -/
  wsPoison : List Nat := []
  sumpPoison : List Nat := []
  cisPoison : List Nat := []
  /-- 64 KiB units of each part: WS with vector registers, Sump, Cistern. -/
  wsUnits : Nat := 0
  sumpUnits : Nat := 0
  cisUnits : Nat := 0
  deriving DecidableEq, Repr

/-- A Sump staging slot in use (R223 to R227): stream slot, layer-block and page, and the positions held. -/
structure Staging where
  key : Nat
  page : Nat
  /-- Committed and provisional positions appended, as offsets in the page. -/
  held : List Nat := []
  flushing : Bool := false
  deriving DecidableEq, Repr

/-- The live state that a POINT cut saves on a channel: the context, the live stores and the staged Sump slots, and the Stairwell (Table 13.6,
R230, R624). -/
structure LiveCut where
  ctx : Ctx
  saved : Saved
  staging : List Staging
  frames : List Frame
  droppedSegs : List (BitVec 12 × BitVec 8)
  cisLive : List Nat
  deriving DecidableEq, Repr

/-- What a cut captures of a room on one channel beside its pages (Table 16.1): registers, slot table entries and bindings, gradient histories
and GFMT bytes, STATE-mode counters, the version map, and each model pointer's WGEN and COPY_DIGEST; TRN_ROOM.WGEN and UPD_ROOM.STEP stand in
their registers. -/
structure CutState where
  cfg : RoomCfg
  rng : RngRoom
  kv : KvRoom
  srv : SrvRoom
  adp : AdpRoom
  trn : TrnRoom
  bcast : TrnBcast
  upd : UpdRoom
  fab : FabRoom
  tier : TierAcct
  ckp : CkpRoom
  sch : SchRoom
  slots : List (Nat × AdpSlot)
  binds : Tab AdpBind
  hist : Tab (List W32)
  gfmt : Tab (BitVec 8)
  gens : Tab W64
  verMap : Tab W32
  models : List (Option (W32 × BitVec 256))
  live : Option LiveCut
  deriving DecidableEq, Repr

/-- A capture in progress (R634, R639): slot B or A, its cut, the pages still to send and those sent, by channel * 2^32 + page. -/
structure Capture where
  slotB : Bool
  point : Bool
  step : Nat
  stage : CapStage := .zero
  toSend : List Nat
  sent : List Nat := []
  /-- Every captured page in directory order, with its fingerprint at the cut (R632). -/
  dir : List (Nat × W64) := []
  /-- Old contents staged by copy-before-write: the page, and its bytes that are not 0 (R641). -/
  staged : List (Nat × List (Nat × Byte)) := []
  /-- The room's state at the cut, by channel number. -/
  cut : List (Nat × CutState) := []
  /-- A drain asked for it: its commit stops the job (R610 step 4). -/
  forDrain : Bool := false
  deriving DecidableEq, Repr

/-- What Ballutos keeps of a room's checkpoints beside CKP_ROOM_n (R626 to R629, R639). -/
structure CkpState where
  capture : Option Capture := none
  /-- Pending maps of slots A and B, by channel * 2^32 + page. -/
  mapA : List Nat := []
  mapB : List Nat := []
  /-- A cut is due at the next boundary or switch point: some POINT. -/
  due : Option Bool := none
  /-- Step count and millisecond of the last commit (R628). -/
  lastStep : Nat := 0
  lastMs : Nat := 0
  /-- SEQ numbers of the commits in slots A and B, and their steps. -/
  stepA : Nat := 0
  stepB : Nat := 0
  /-- The step that shard 0 has named for the next job cut (R626). -/
  jobCut : Option Nat := none
  /-- Shard 0: shards that have reported the running job cut (R627). -/
  reports : List Nat := []
  jobRunning : Bool := false
  /-- Shard 0: a trigger has fired, and no job cut has been named for it yet (R626). -/
  jobAsk : Bool := false
  /-- A drain has asked for the cut that is due (R610 step 4). -/
  drainDue : Bool := false
  /-- The Attic named before the present one, released at the first commit in the new one (R638). -/
  oldAttic : Option (BitVec 18 × Nat) := none
  /-- A mirror copy is under way. -/
  mirroring : Bool := false
  deriving DecidableEq, Repr

/-- An Attic that a channel hosts (R631): its owner and its pages per slot. -/
structure Attic where
  node : BitVec 18
  room : Nat
  pages : Nat
  deriving DecidableEq, Repr

end Sys2Proof
end

