-- ==== Sys2Proof/Types/Program.lean ====
section
/-! DEFINITION. Types/Program.lean: program images, their manifests and metadata, and sealed payloads (R531, R568, R570, R749, Table 14.3). -/

namespace Sys2Proof

/-- What a program image's signer certificate chains to (R568). -/
inductive CertRoot where
  /-- The Kenath program root. -/
  | kenath
  /-- A root key whose SHA3-256 digest is d; it counts when a valid SEC_PROG_ROOT_i holds d. -/
  | operator (d : BitVec 256)
  /-- No readable manifest, or a certificate that chains to nothing. -/
  | nothing
  deriving DecidableEq, Repr

/-- What a program declares in its metadata (R49, R145, R200, R208, R220, R252, R298, R319, R351, R373, R394, R397, R430, R455, R463, R493,
R516, R531, R539, R621, R642, R749). The register fields stand in the register structures. -/
structure ProgMeta where
  kind : BitVec 2 := 0
  /-- Working width compiled for, in columns: 512 or 480 (R49). -/
  width : Nat := 512
  /-- Program window: WS byte base and bundles (R145). -/
  winBase : Nat := 0
  winBundles : Nat := 0
  kv : KvRoom := {}
  srv : SrvRoom := {}
  rngMode : Bool := false
  ngen : BitVec 13 := 0
  adp : AdpRoom := {}
  /-- Output widths of the adapted points, in point order (R320). -/
  widths : List Nat := []
  trn : TrnRoom := {}
  upd : UpdRoom := {}
  bcast : TrnBcast := {}
  wmaps : Tab TierWmap := []
  tbBase : BitVec 48 := 0
  /-- Vocabulary size, logit format (true BF16) and logit row stride of the sampling parameter block (Table 6.10). -/
  vocab : Nat := 0
  lfmt : Bool := false
  lstride : Nat := 0
  /-- Models whose weight windows the program reads, one bit each (R746). -/
  models : BitVec 4 := 0
  /-- Largest live state at any switch point, in 64 KiB units (R531). -/
  liveUnits : Nat := 0
  /-- Room virtual address where the save area is placed. -/
  saveBase : BitVec 48 := 0
  /-- The switch-point table: bundle counter, and the WS units of 64 KiB live there (R539). -/
  switchTable : List (Nat × List Nat) := []
  /-- Scratch ranges dead at every step boundary: first page and pages (Table 16.1). -/
  scratch : List (Nat × Nat) := []
  /-- Pages written to captured pages between a cut and its next update (R642). -/
  cbwPages : Nat := 0
  /-- Largest early volume, in bytes, and where the arrival area lies (R493). -/
  earlyBytes : Nat := 0
  arrBase : BitVec 48 := 0
  /-- Experience stores installed at START_JOB of the learner (R464). -/
  stores : Tab TrnXs := []
  /-- The tensor table's entries as Table 10.1 lays them out, with TSTEP 0 (R396). -/
  tensors : List (BitVec 512) := []
  /-- The shard's elements, from the first to before the last, counted over the job's tensors that are not frozen (R400). -/
  firstElem : Nat := 0
  lastElem : Nat := 0
  /-- A page of a state area is placed at PLACE 2 (R397). -/
  statePlace2 : Bool := false
  /-- Pages and tiles of the serving copy that the job broadcasts (R446). -/
  bcastPages : Nat := 0
  bcastTiles : Nat := 0
  /-- The fixed gradient format of each layer, for H1_MODE (R385). -/
  fixedFmt : List (BitVec 8) := []
  deriving DecidableEq, Repr

/-- One channel's part of a program image (R749, R516). -/
structure ProgChan where
  /-- The instruction stream, byte i of it at i. -/
  stream : List (Nat × Byte) := []
  /-- Initial contents of the channel's room memory, by room virtual address. -/
  contents : List (Nat × Byte) := []
  /-- Collective entries that Ballutos installs at START_JOB (R516). -/
  colls : Tab FabColl := []
  deriving DecidableEq, Repr

/-- A program image as the channel's security engine finds it (R568, R749). -/
structure ProgImage where
  root : CertRoot := .nothing
  sigOk : Bool := false
  digestOk : Bool := false
  digest : BitVec 256 := 0
  signer : BitVec 256 := 0
  info : ProgMeta := {}
  chans : Quad ProgChan := Quad.same {}
  deriving DecidableEq, Repr

/-- The program that a room holds (R568, R574). -/
structure Program where
  digest : BitVec 256
  signer : BitVec 256
  sealedForm : Bool
  info : ProgMeta
  stream : List (Nat × Byte)
  colls : Tab FabColl
  deriving DecidableEq, Repr

/-- A sealed payload as the security engine finds it (Table 14.3, R567): what opening it shows. -/
structure SealInfo where
  /-- VERSION is 0x01, and SEGS, BYTES and TAGS_OFF describe the bytes named. -/
  parses : Bool := false
  rdig : BitVec 256 := 0
  kind : BitVec 4 := 0
  target : Bool := false
  reservedOk : Bool := true
  /-- Every tag checked before the command answers holds. -/
  tagsOk : Bool := true
  cont : Option (BitVec 256) := none
  segs : Nat := 0
  deriving DecidableEq, Repr

end Sys2Proof
end

