-- ==== Sys2Proof/Types/Serving.lean ====
section
/-! DEFINITION. Types/Serving.lean: stream contexts, length-table entries, requests and what a room owes its ring (chapters 5 and 6). -/

namespace Sys2Proof

/-- The states of a stream context (Table 6.5). -/
inductive StreamState where
  | free | pending | prefill | decode | held | starved | ending | ringWait
  deriving DecidableEq, Repr

def StreamState.code : StreamState → BitVec 4
  | .free => 0 | .pending => 1 | .prefill => 2 | .decode => 3 | .held => 4 | .starved => 5 | .ending => 6 | .ringWait => 7

/-- What an adapter binds a stream to (R332, R353): nothing, a slot, or a warm adapter. -/
inductive Bind where
  | none
  | slot (s : Nat)
  | warm (w : Nat)
  deriving DecidableEq, Repr

/-- A stream context (Table 6.5); the state a stream returns to after HELD, STARVED or RING_WAIT, the flag of R240 for its
next record, its cancel, and the records it still owes are the controller's own. -/
structure StreamCtx where
  handle : W32 := 0
  room : Nat := 0
  state : StreamState := .free
  /-- The state under HELD, STARVED and RING_WAIT. -/
  under : StreamState := .pending
  pin : Bool := false
  priority : BitVec 8 := 0
  customer : BitVec 12 := 0
  deliver : BitVec 2 := 0
  /-- KV slot; none reads 0x1_FFFF. -/
  slot : Option Nat := none
  len : Nat := 0
  recomp : Option Nat := none
  wgen : W32 := 0
  generated : Nat := 0
  maxNew : Nat := 0
  temp : W32 := 0
  topP : W32 := 0
  topK : Nat := 0
  seed : W32 := 0
  reqTag : W32 := 0
  lastStep : W32 := 0
  /-- Porch millisecond of the pin deadline, once set. -/
  pinDl : Option Nat := none
  holdDl : Option Nat := none
  area : Nat := 0
  /-- The next record carries KV_RECOMPUTE (R240). -/
  recompNext : Bool := false
  /-- A CANCEL_STREAM waits for the next boundary (R288). -/
  cancel : Bool := false
  /-- No record has been queued yet (BFLAGS.FIRST). -/
  firstDue : Bool := true
  /-- KV page columns and strip pages held, by region page index, in every region alike. -/
  cols : List Nat := []
  strips : List Nat := []
  /-- The binding recorded at admission (R332). -/
  bind : Bind := .none
  /-- Records appended to the trajectory buffer (DELIVER 2), the lowest and highest WGEN among them, and the stop code. -/
  nrec : Nat := 0
  /-- Records queued at the present boundary. -/
  stepRecs : Nat := 0
  wgenFirst : W32 := 0
  wgenLast : W32 := 0
  stop : Nat := 0
  deriving DecidableEq, Repr

/-- An entry of the room's current length table (Table 5.5), with the stream it belongs to and the credits set aside (R269). -/
structure LtEntry where
  ch : Nat
  ctx : Nat
  slot : Nat
  ctxLen : Nat
  qoff : Nat
  qn : Nat
  tree : Bool
  recompute : Bool
  sampled : Nat
  aside : Nat
  treeAddr : Nat
  /-- Draft tokens, parents and depths of a tree entry's nodes, as handed over (R283, R284). -/
  drafts : List Nat := []
  parents : List Nat := []
  depths : List Nat := []
  deriving DecidableEq, Repr

/-- A warm adapter's home (R337, R343): held by a customer, its payload still arriving, unpinned while streams are bound to it. -/
structure WarmAdp where
  held : Bool := false
  loading : Bool := false
  unpinned : Bool := false
  owner : BitVec 12 := 0
  xexp : W64 := 0
  merged : Bool := false
  mergeVa : BitVec 48 := 0
  digest : BitVec 256 := 0
  /-- Pages of its merged copy in the room's address space. -/
  pages : List Nat := []
  deriving DecidableEq, Repr

/-- A room's serving engine on the lead channel (R261 to R265, R291, R292). -/
structure ServeState where
  step : Nat := 0
  /-- The table handed over for the step in progress. -/
  table : List LtEntry := []
  inStep : Bool := false
  /-- The step's sampling token has been posted. -/
  sampled : Bool := false
  /-- Records queued for the ring and not written, oldest first: record bytes and the stream (channel, context). -/
  owed : List (Nat × Nat × List Byte) := []
  /-- Records for fabric nodes collected in the step: node, queue and record (R497). -/
  toFabric : List (BitVec 18 × W32 × List Byte) := []
  ringProd : Nat := 0
  ringCons : Nat := 0
  /-- Ring change asked for while records are owed to the old ring (R300). -/
  ringNext : Option (BitVec 64 × BitVec 64) := none
  /-- Ring as in force (word +0x28 and RING_BASE). -/
  ringNow : BitVec 64 × BitVec 64 := (0, 0)
  /-- A page for a request area or a trajectory buffer could not be allocated (R168, R203). -/
  short : Bool := false
  deriving DecidableEq, Repr

/-- The budget arithmetic beside SRV_BUDGET_c (R266). -/
structure Budget where
  reg : SrvBudget := {}
  lastUs : Nat := 0
  rem : Nat := 0
  deriving DecidableEq, Repr

end Sys2Proof
end

