-- ==== Sys2Proof/Types/Update.lean ====
section
/-! DEFINITION. Types/Update.lean: what Ballutos keeps of a learner's update beside UPD_ROOM_n (R405, R406, R424 to R429). -/

namespace Sys2Proof

/-- A subtree sum of the global norm tree: level above the page partials, index at that level, sum (R405). -/
structure SubSum where
  level : Nat
  idx : Nat
  sum : W32
  deriving DecidableEq, Repr

/-- The norm record (Table 10.4). -/
structure NormRec where
  step : W64
  sumsq : W32
  kclip : W32
  lr : W32
  skip : Bool
  deriving DecidableEq, Repr

/-- What a NORM_SUMS_MESSAGE of a shard brings (R405): at the root, the shard's subtree sums, and the node and room to which the record is to go;
at the shard's room, on any channel of its suite, the record. -/
inductive NormMsg where
  | sums (node : BitVec 18) (home : BitVec 6) (sums : List SubSum)
  | record (r : NormRec)
  deriving DecidableEq, Repr

structure UpdState where
  /-- An update is in progress: from its start signal to the end-of-step signal. -/
  updating : Bool := false
  /-- The start signal waits for the capture of the last STEP cut (R643). -/
  held : Bool := false
  /-- Deferred units whose pages have not all landed, in unit order. -/
  deferred : List Nat := []
  /-- Resident units whose pages are held against eviction: the unit's pages, and those not yet written in this update (R424). -/
  holds : List (List Nat × List Nat) := []
  /-- Arrived units not yet listed, in arrival order. -/
  arrived : List Nat := []
  /-- Units listed after the bitmap so far. -/
  listed : Nat := 0
  /-- A group has been posted and not yet consumed. -/
  group : Bool := false
  /-- Root: shards whose sums have arrived, and the sums. -/
  shards : List Nat := []
  sums : List SubSum := []
  /-- Root: where each other shard lies, its lead channel's node and its room, from the sums that it has sent. -/
  nodes : List (Nat × BitVec 18 × BitVec 6) := []
  record : Option NormRec := none
  /-- Applied steps since the last broadcast (R451). -/
  sinceBcast : Nat := 0
  deriving DecidableEq, Repr

end Sys2Proof
end

