-- ==== Sys2Proof/Types/Weights.lean ====
section
/-! DEFINITION. Types/Weights.lean: serving copies of weight models and experience stores beyond their registers (chapter 11). -/

namespace Sys2Proof

/-- Where a copy's tiles come from (R436, R446). -/
inductive CopySource where
  | image
  | broadcast
  deriving DecidableEq, Repr

/-- A copy of a weight model: its register, and what Ballutos keeps beside it (R432, R438, R447). -/
structure WCopy where
  reg : SrvWcopy := {}
  layers : BitVec 16 := 0
  ppl : BitVec 16 := 0
  source : CopySource := .image
  /-- Tiles landed so far, each with its fingerprint: the copy's fingerprint table. Each channel of the suite has its own, and its own chunks;
  everything else of a copy stands on the lead channel (R752). -/
  fps : Tab W64 := []
  /-- The learner's or the image's fingerprint table. -/
  refFps : Tab W64 := []
  /-- Tiles found to disagree and not yet repaired, each poisoned with its repair pending (R449). -/
  repairing : List Nat := []
  /-- Bytes of one tile of the copy, which places tile i at i times that many bytes; and the chunks of a broadcast that have landed. -/
  tileLen : Nat := 0
  chunks : List Nat := []
  /-- The replicas that have answered since the comparison began, each with its table (R447). -/
  answers : List (BitVec 18 × List W64) := []
  comparing : Bool := false
  /-- Pinned streams on this copy, by channel * 65536 + context (R435). -/
  pins : List Nat := []
  /-- Rooms bound to this copy: pointers and fine-tune jobs (R435, R43). -/
  rooms : List Nat := []
  jobs : List Nat := []
  deriving DecidableEq, Repr

/-- An experience store: its register, the commit held by each slot, and the commits withdrawn (R454 to R460). -/
structure XStore where
  reg : TrnXs := {}
  /-- Commit number held by each slot in use. -/
  slots : Tab (Option Nat) := []
  withdrawn : List Nat := []
  deriving DecidableEq, Repr

/-- A generator's slot request that was refused and is retried every 1 ms (R459). -/
structure SlotWait where
  ch : Nat
  ctx : Nat
  deriving DecidableEq, Repr

end Sys2Proof
end

