-- ==== Sys2Proof/Types/Room.lean ====
section
/-! DEFINITION. Types/Room.lean: one room on one channel. -/

namespace Sys2Proof

/-- Bytes for WS that came while their room was switched out (R537): a tile's tag, when they are one, and the offsets of poisoned lines. -/
structure Arrival where
  addr : Nat
  bytes : List Byte
  tag : Option TileTag := none
  bad : List Nat := []
  /-- Where the poison of those lines arose, if that is known. -/
  arose : Option Arose := none
  deriving DecidableEq, Repr

/-- Everything one channel holds for one room index. The registers that lie on the lead channel only are those of the lead's copy. -/
structure Room where
  cfg : RoomCfg := {}
  sch : SchRoom := {}
  acct : SchAcct := {}
  tier : TierAcct := {}
  wmaps : Tab TierWmap := []
  kv : KvRoom := {}
  srv : SrvRoom := {}
  rng : RngRoom := {}
  adp : AdpRoom := {}
  binds : Tab AdpBind := []
  /-- The bindings that admissions take: those of the last step boundary, but for what UNPIN_ADAPTER has cleared since (R334, R335). -/
  admBinds : Tab AdpBind := []
  trn : TrnRoom := {}
  upd : UpdRoom := {}
  bcast : TrnBcast := {}
  fab : FabRoom := {}
  ckp : CkpRoom := {}
  /-- The index has been created since channel reset (R678). -/
  created : Bool := false
  /-- The function that created the room (R659). -/
  owner : Option Fn := none
  /-- Digest of the room key pair's public key, while the key store holds the room's keys (R555, R556). -/
  key : Option (BitVec 256) := none
  /-- The key of the room's pages on this channel (Table 14.2). -/
  memKey : Option (BitVec 512) := none
  /-- Continuity secret (R570). -/
  cont : Option (BitVec 256) := none
  prog : Option Program := none
  /-- Status that faulted the room (R528, R530). -/
  faultStatus : Status := .ok
  /-- Heat epochs since the account was created, counted to 8 (R202). -/
  epochs : Nat := 0
  pages : Tab Pte := []
  /-- Bytes of the room's pages by room virtual address, in whichever tier they lie. -/
  mem : List (Nat × Byte) := []
  /-- Poisoned 64 B lines of the room's pages (R592). -/
  poison : List Nat := []
  /-- Saved context and live state of a room off the islands. -/
  ctx : Ctx := {}
  saved : Saved := {}
  /-- The room has never run since its job started: it resumes with everything zero (R532). -/
  fresh : Bool := true
  /-- rem of R533, and the Porch microsecond since which the room runs or waits. -/
  vtRem : Nat := 0
  sinceUs : Nat := 0
  /-- Porch microsecond at which the room last resumed (R535). -/
  resumeUs : Nat := 0
  /-- A STOP_JOB takes effect at the next switch point (R528). -/
  stopping : Bool := false
  /-- The room was switched out at a yielding wait for this token and count. -/
  yielded : Option (Nat × Nat) := none
  /-- The microsecond at which that wait began. -/
  yieldUs : Nat := 0
  /-- Arrival copies for a room switched out (R537). -/
  arrivals : List Arrival := []
  /-- STATE-mode generator counters (R316). -/
  gens : Tab W64 := []
  train : TrainState := {}
  serve : ServeState := {}
  update : UpdState := {}
  ckps : CkpState := {}
  /-- Copy named by the room's pointer for each model (R433), and the copy a SWITCH_WEIGHTS names for the next boundary (R444). -/
  ptrs : Tab (Option Nat) := []
  /-- What the pumps translate each weight window through (R433): BASE and PAGES of the copy that the pointer names; (0, 0) without one. -/
  windows : Tab (Nat × Nat) := []
  switchTo : Tab (Option Nat) := []
  /-- WGEN of the base that a fine-tune job bound (R43). -/
  jobWgen : Option W32 := none
  /-- Experience store and learner node of a generator (R675). -/
  store : BitVec 4 := 0
  storeNode : BitVec 18 := 0
  slotWaits : List SlotWait := []
  /-- Warm adapters, by warm index (R337). -/
  warm : Tab WarmAdp := []
  /-- Extra experts claimed, by expert index: the slot, or 4,096 + the warm index, that claims them (R325, R343). -/
  xexps : Tab (Option Nat) := []
  staging : List Staging := []
  /-- Write-through appends outstanding (R231). -/
  appends : Nat := 0
  /-- Steps ended since START_JOB, for the triggers of R628. -/
  steps : Nat := 0
  /-- Register writes that wait for the end of the step (R299, R351, R430), oldest first. -/
  later : List (RegWord × W64) := []
  deriving DecidableEq, Repr

end Sys2Proof
end

