-- ==== Sys2Proof/Types/Channel.lean ====
section
/-! DEFINITION. Types/Channel.lean: one channel: its registers, units, rooms, compute island, tiering engine, router, keys and fault history. -/

namespace Sys2Proof

/-- An adapter slot of a channel (R351, R352): its register and what Ballutos keeps beside it. -/
structure AdpEntry where
  reg : AdpSlot := {}
  /-- A warm adapter is on its way from its home (R337). -/
  fetching : Bool := false
  /-- SHA3-256 of the opened adapter image (R575). -/
  digest : BitVec 256 := 0
  /-- Porch order in which the slot was last used, for the choice of a CACHE slot (R337). -/
  stamp : Nat := 0
  /-- Pages of the slot and of its merged copy in the room's address space. -/
  pages : List Nat := []
  deriving DecidableEq, Repr

/-- An item that the controller has queued for the compute island (R136): what it writes into the room's WS, and the token counter it posts to. -/
structure CtrlItem where
  room : Nat
  tok : Nat
  writes : List (Nat × List Byte) := []
  deriving DecidableEq, Repr

/-- A tiering move under way, with the T1 frame or Cellar page it takes (R195). -/
structure MoveJob where
  page : PageRef
  promote : Bool
  place : Nat
  deriving DecidableEq, Repr

/-- One controller core (R587 to R590). -/
structure Core where
  up : Bool := false
  /-- Watchdog expired, and the self-test has not ended. -/
  testing : Bool := false
  asleep : Bool := false
  /-- Levels on the priority stack, top first (R691). -/
  stack : List Nat := []
  /-- Sources waiting, oldest first. -/
  waiting : List Nat := []
  deriving DecidableEq, Repr

/-- Units of the compute island besides the array that work (R47). -/
structure IslandUnits where
  scalar : Bool := true
  vector : Bool := true
  sampling : Bool := true
  store : Bool := true
  deriving DecidableEq, Repr

structure Channel where
  -- service of the channel's units
  /-- The controller has been released, runs an accepted image, and has completed its own start-up. -/
  released : Bool := false
  imageOk : Bool := false
  started : Bool := false
  /-- The channel is lost (R753, Table 1.8). -/
  lost : Bool := false
  /-- Array columns and rows that have failed, physical indexes (R48). -/
  failedCols : List Nat := []
  failedRows : List Nat := []
  units : IslandUnits := {}
  /-- The array is ungated. -/
  arrayOn : Bool := false
  cmdCore : Core := {}
  hkCore : Core := {}
  /-- The masks and routes of the channel's interrupt fabric (R690, R700). -/
  irq : IrqChan := {}
  /-- Microseconds of the Porch since VAUX rose (R693). -/
  porchUs : Nat := 0
  -- registers of the compute and pump islands
  arrStatus : ArrChkStatus := {}
  arrCount : ArrChkCount := {}
  streamFault : CcStreamFault := {}
  issueCount : CcIssueCount := {}
  waitLimit : CcWaitLimit := {}
  memStacks : Quad Stack := Quad.same {}
  scrub : StkScrub := {}
  regions : Tab TierT2Region := []
  /-- Regions disabled by R498, whose FREE reads 0. -/
  disabled : List Nat := []
  regionPools : Tab Pool := []
  pumps : PmpStatus := {}
  tierCtl : TierCtl := {}
  commonAcct : TierAcct := {}
  commonEpochs : Nat := 0
  -- rooms, islands and memories
  rooms : Tab Room := []
  island : Island := {}
  /-- WS, Sump and Cistern contents that are not 0, and the tags of the residue shadow. -/
  ws : List (Nat × Byte) := []
  sump : List (Nat × Byte) := []
  cistern : List (Nat × Byte) := []
  tags : Tab TileTag := []
  /-- Poisoned lines of WS, of the Sump and of the Cistern (R592). -/
  wsPoison : List Nat := []
  sumpPoison : List Nat := []
  cisPoison : List Nat := []
  /-- The suite's common page table and the bytes of its pages, entry i at byte 65,536 i. -/
  commonPages : Tab Pte := []
  commonMem : List (Nat × Byte) := []
  commonPoison : List Nat := []
  /-- The unit in which poison arose, where it is not the store that holds it (R594). -/
  arose : List (PoisonPlace × Arose) := []
  frames : Pool := {}
  moves : List MoveJob := []
  chosen : List Move := []
  ctrlItems : List CtrlItem := []
  -- serving, adapters, weights
  ctxs : Tab StreamCtx := []
  budgets : Tab Budget := []
  slots : Tab AdpEntry := []
  copies : Tab WCopy := []
  models : Tab SrvWmodel := []
  stores : Tab XStore := []
  -- fabric
  node : FabNode := {}
  ports : Tab FabPort := []
  routes : Tab FabRt := []
  peers : Tab FabEthPeer := []
  colls : Tab FabColl := []
  red : FabRed := {}
  links : Tab LinkState := []
  insts : List CollInst := []
  redChunks : List RedChunk := []
  posted : List Posted := []
  early : List EarlyXfer := []
  /-- Cellar pages (region in bits 31 to 28, page below) whose MEMR has been issued once more (R498). -/
  retried : List Nat := []
  lanes : List MsgLane := []
  qps : List QpRate := []
  nextXid : W32 := 0
  /-- Chunks on their way through this router whose LAST frame has not passed. -/
  paths : List ChunkPath := []
  /-- (source, XID, FIDX) of frames already placed (R476), newest first. -/
  placed : List (BitVec 18 × W32 × BitVec 12) := []
  /-- Bytes of peers' pages held in the regions reserved for them, by byte address (R498). -/
  peerMem : List (Nat × Byte) := []
  attics : List Attic := []
  -- keys, faults
  sec : SecStatus := {}
  bootKey : Option (BitVec 256) := none
  suiteKey : Option (BitVec 256) := none
  /-- Keys of the controller's own T1 and of the suite's common pages (Table 14.2). -/
  ctrlKey : Option (BitVec 512) := none
  memKey : Option (BitVec 512) := none
  debugBoot : Bool := false
  trngFail : Bool := false
  /-- Least SVN fused, as images have raised it (R569). -/
  fuseSvn : BitVec 8 := 0
  flt : FltStatus := {}
  fltHist : FltHist := {}
  hist : History := {}
  drain : Option Drain := none
  /-- Spare rows used by each WS bank, and by each other store (Table 15.5). -/
  bankSpares : Tab Nat := []
  storeSpares : Tab Nat := []
  /-- Pumps retired by judgement, monitors tripped on this channel. -/
  trips : List Monitor := []
  -- power
  /-- Throttle step, and its reason (R736, R737). -/
  step : Nat := 0
  stepCause : BitVec 3 := 0
  temp : Nat := 0
  stackTemp : Nat := 0
  /-- The 105 °C action holds (until 100 °C), and a power step-down is under way. -/
  tjHold : Bool := false
  powerDown : Bool := false
  /-- The island does not issue: VCORE trip, PLL loss, VCORE loss, reset. -/
  issueHold : Bool := false
  deriving DecidableEq, Repr

end Sys2Proof
end

