-- ==== Sys2Proof/Types/Commands.lean ====
section
/-! DEFINITION. Types/Commands.lean: host posts, what host memory holds for them, waiting commands and loads, and what the device sends out (chapter 17). -/

namespace Sys2Proof

/-- A command in progress, named by the result slot it holds: function key, mailbox, slot. Each reset of the function or of its port adds
512 to the function key, since the command then holds no slot any more (R688). -/
structure CmdKey where
  fn : Nat
  mbx : BitVec 4
  slot : BitVec 3
  deriving DecidableEq, Repr

/-- The opened header of a weight image (Table 11.2), its fingerprint table, and whether its reserved bits and version are right. -/
structure WeightHdr where
  ok : Bool := false
  kind : BitVec 2 := 0
  model : BitVec 2 := 0
  wgen : W32 := 0
  pages : W32 := 0
  tiles : W32 := 0
  layers : BitVec 16 := 0
  ppl : BitVec 16 := 0
  /-- Bytes of one tile of the data. -/
  tileLen : Nat := 0
  fps : List W64 := []
  deriving DecidableEq, Repr

/-- The commit record of a slot, as RESTORE reads it (Table 16.3), and the contents of the slot on each channel of the room. -/
structure SlotImage where
  verifies : Bool := false
  /-- The record lies in slot B of an Attic or mirror. -/
  slotB : Bool := false
  point : Bool := false
  seq : Nat := 0
  step : Nat := 0
  span : Nat := 0
  kind : BitVec 2 := 0
  progDigest : BitVec 256 := 0
  /-- The continuity secret under whose key the slot's pages lie, when it is not the room memory key (R571). -/
  cont : Option (BitVec 256) := none
  /-- COPY_DIGEST of each model entry; none where the room had no pointer. -/
  models : List (Option (BitVec 256)) := []
  dirOk : Bool := true
  /-- Every page's fingerprint matches within two fetches. -/
  fpsOk : Bool := true
  /-- Pages, registers, tables and counters of the room at the cut, channel by channel (Table 16.1). -/
  rooms : Quad Room := Quad.same {}
  /-- The room's adapter slot entries at the cut (R336). -/
  slots : Tab AdpEntry := []
  deriving DecidableEq, Repr

/-- What lies outside the device for a command: host memory, images as the security engine finds them, and the answers of other devices. -/
structure HostData where
  /-- A fetch from or a write to host memory fails (R750). -/
  fails : Bool := false
  /-- Bytes of the named Cellar region, by byte offset in the region. -/
  mem : List (Nat × Byte) := []
  prog : ProgImage := {}
  payload : SealInfo := {}
  weights : WeightHdr := {}
  /-- Bytes of the opened adapter image, and of the merged copy that follows it, with the place of the copy in the room's address space
  (R321, R333). -/
  adapterBytes : Nat := 0
  mergedBytes : Nat := 0
  mergeVa : BitVec 48 := 0
  /-- The remote holder reserves the Attic (R631), and is reached. -/
  holderOk : Bool := true
  reached : Bool := true
  slot : SlotImage := {}
  /-- SHRINK_JOB: what the former owners hold at STEP of the parts that this shard takes over, and whether they are reached (R649). -/
  parts : SlotImage := {}
  partsReached : Bool := true
  /-- ML-DSA signing of a report works (R573). -/
  signOk : Bool := true
  deriving DecidableEq, Repr

/-- A post: the function and mailbox, the command area, and what the command will find outside. -/
structure HostPost where
  fn : Fn
  mbx : BitVec 4
  header : BitVec 512
  params : BitVec 15872
  data : HostData := {}
  deriving DecidableEq, Repr

/-- The commands of Table 17.6. -/
inductive HostOp where
  | roomCreate | roomDestroy | suiteSet | loadProgram | loadWeights | switchWeights | pinAdapter | unpinAdapter
  | submitRequests | cancelStream | setBudget | startJob | stopJob | checkpointNow | checkpointPolicy | restore
  | shrinkJob | attest | queryAccounting | fabricJoin | fabricLeave | drainDevice | queryFaults
  deriving DecidableEq, Repr

/-- Opcodes of Table 17.6. -/
def HostOp.code : HostOp → Byte
  | .roomCreate => 0x01 | .roomDestroy => 0x02 | .suiteSet => 0x03 | .loadProgram => 0x10 | .loadWeights => 0x11
  | .switchWeights => 0x12 | .pinAdapter => 0x18 | .unpinAdapter => 0x19 | .submitRequests => 0x20
  | .cancelStream => 0x21 | .setBudget => 0x22 | .startJob => 0x30 | .stopJob => 0x31 | .checkpointNow => 0x40
  | .checkpointPolicy => 0x41 | .restore => 0x42 | .shrinkJob => 0x43 | .attest => 0x50 | .queryAccounting => 0x51
  | .fabricJoin => 0x60 | .fabricLeave => 0x61 | .drainDevice => 0x70 | .queryFaults => 0x71

/-- Opcodes of the HX1 numbering (Table 17.17); none where only the escape reaches the command. -/
def HostOp.codeH1 : HostOp → Option Byte
  | .roomCreate => some 0x01 | .roomDestroy => some 0x02 | .loadProgram => some 0x03 | .loadWeights => some 0x04
  | .submitRequests => some 0x05 | .cancelStream => some 0x06 | .startJob => some 0x07 | .stopJob => some 0x08
  | .checkpointNow => some 0x09 | .restore => some 0x0A | .attest => some 0x0B | .queryAccounting => some 0x0C
  | .queryFaults => some 0x0D | .setBudget => some 0x0E | .switchWeights => some 0x0F
  | _ => none

/-- Whether a VF may post the command (Table 17.6). -/
def HostOp.forVf : HostOp → Bool
  | .suiteSet | .fabricJoin | .fabricLeave | .drainDevice => false
  | _ => true

def HostOp.all : List HostOp :=
  [.roomCreate, .roomDestroy, .suiteSet, .loadProgram, .loadWeights, .switchWeights, .pinAdapter, .unpinAdapter,
   .submitRequests, .cancelStream, .setBudget, .startJob, .stopJob, .checkpointNow, .checkpointPolicy, .restore,
   .shrinkJob, .attest, .queryAccounting, .fabricJoin, .fabricLeave, .drainDevice, .queryFaults]

/-- An accepted command on its way: who posted it, the slot that receives its result, the header's SUITE, and its parameters. -/
structure Accepted where
  fn : Fn
  key : CmdKey
  suite : Ch
  params : BitVec 15872
  data : HostData
  deriving DecidableEq, Repr

/-- What a command that has not completed waits for. -/
inductive WaitKind where
  /-- A STARTED room's stop (R528). -/
  | stop (suite : Ch) (room : Nat)
  /-- A stream's cancel (R288). -/
  | cancel (c : Ch) (ctx : Nat)
  /-- STARTED rooms that have not moved (R444). -/
  | switchWeights (suite : Ch) (model : Nat) (rooms : List Nat)
  /-- Captures to commit: suite, room, and whether the cut is one still to be taken behind a running capture; with the first failing
  status and the rooms that failed (R629, R630). -/
  | checkpoint (rooms : List (Ch × Nat × Bool)) (first : Status) (failed : List Nat) (all : Bool)
  /-- A sealed load (R330, R440). -/
  | load
  /-- Ports that have not trained yet: channel and port (R482). -/
  | join (ports : List (Ch × Nat))
  /-- Rooms whose moment of the report has not come, and the entries of those whose has, by suite and room (R573). -/
  | attest (rooms : List (Ch × Nat)) (taken : List (Nat × List Byte))
  deriving DecidableEq, Repr

/-- A command in progress. -/
structure Waiting where
  cmd : Accepted
  op : HostOp
  kind : WaitKind
  deriving DecidableEq, Repr

/-- What a sealed load fills: the home of an adapter, a slot or 4,096 + a warm index; a copy of a weight model; the masters of a learner job. -/
inductive LoadTarget where
  | adapter (suite : Ch) (room home : Nat)
  | copy (suite : Ch) (k : Nat)
  | masters (suite : Ch) (room : Nat)
  deriving DecidableEq, Repr

/-- A sealed payload in progress (R566): its segments, and the next one to come. -/
structure Load where
  key : CmdKey
  target : LoadTarget
  segs : Nat
  next : Nat := 0
  hdr : WeightHdr := {}
  /-- An adapter's image and merged copy, in bytes, and the KIND of its PIN_ADAPTER. -/
  image : Nat := 0
  merged : Nat := 0
  kind : Nat := 0
  /-- Pages that a load of masters has allocated: channel, room, page. -/
  took : List (Ch × Nat × Nat) := []
  deriving DecidableEq, Repr

/-- What the device sends to the outside. -/
inductive OutMsg where
  /-- An MSI-X message of a function's vector. -/
  | msix (fn : Fn) (vec : Nat)
  /-- A DMA write to host memory at a bus address (event queues) carried out for a function. -/
  | hostWrite (fn : Fn) (addr : Nat) (bytes : List Byte)
  /-- A write into a Cellar region at a byte offset, for a function: reports, rings. -/
  | regionWrite (fn : Fn) (region : Nat) (off : Nat) (bytes : List Byte)
  /-- The answer to a read: result slot header, SMBus block, configuration answer. -/
  | answer (v : Nat)
  /-- Request Retry Status. -/
  | retry
  | smbusNack
  | frame (c : Ch) (l : Link) (f : FabFrame)
  | nak (c : Ch) (l : Link) (seq : BitVec 12)
  | ack (c : Ch) (l : Link) (seq : BitVec 12)
  | tagFrame (c : Ch) (l : Link)
  /-- A controller message to another channel (R496). -/
  | message (c : Ch) (node : BitVec 18) (queue : W32) (bytes : List Byte)
  | credit (c : Ch) (node : BitVec 18) (queue : W32)
  | memr (c : Ch) (region page : Nat)
  | memrAnswer (c : Ch) (node : BitVec 18) (bytes : List Byte)
  /-- The page that an eviction writes into the Cellar, encrypted (R181). -/
  | memw (c : Ch) (region page : Nat) (bytes : List Byte)
  /-- Operations of a RoCEv2 queue pair to a peer of FAB_ETH_PEER (R509): SEND with immediate data, RDMA WRITE and RDMA READ. -/
  | rdmaSend (c : Ch) (peer : Nat) (imm : W32) (bytes : List Byte)
  | rdmaWrite (c : Ch) (peer : Nat) (addr : Nat) (bytes : List Byte)
  | rdmaRead (c : Ch) (peer : Nat) (addr : Nat)
  /-- A write into a slot of a room's Attic at its holder, from a byte offset in the slot (R633, R634). -/
  | atticWrite (c : Ch) (node : BitVec 18) (room : Nat) (slotB : Bool) (off : Nat) (bytes : List Byte)
  | jtag (bypass : Bool)
  | linkSetup (c : Ch) (p : BitVec 2) (stage : Nat)
  deriving DecidableEq, Repr

end Sys2Proof
end

