-- ==== Sys2Proof/Types/Events.lean ====
section
/-! DEFINITION. Types/Events.lean: what the environment says with an event: boot results, samples, check results and findings. -/

namespace Sys2Proof

/-- What a channel's boot finds (R569, R579, R602): the two copies presented, and the fault history store. -/
structure BootRead where
  /-- Signature and SVN of the first and the second copy presented verify. -/
  sig1 : Bool := true
  sig2 : Bool := true
  svn1 : BitVec 8 := 0
  svn2 : BitVec 8 := 0
  /-- Fused values as the part gives them. -/
  minSvn : BitVec 8 := 0
  minPeer : BitVec 8 := 0
  /-- The image digest that runs. -/
  store : Bool := true
  headerA : Bool := true
  headerB : Bool := true
  table : Bool := true
  trngOk : Bool := true
  identOk : Bool := true
  deriving DecidableEq, Repr

/-- An array self-test's result: physical columns and rows that fail (R721 stage 8). -/
structure SelfTest where
  cols : List Nat := []
  rows : List Nat := []
  /-- The rest of the compute island as it starts (R47). -/
  units : IslandUnits := {}
  deriving DecidableEq, Repr

/-- Temperatures in °C: the hottest die sensor and the hottest stack sensor of a channel. -/
structure Temps where
  die : BitVec 8 := 0
  stack : BitVec 8 := 0
  deriving DecidableEq, Repr

/-- An estimate of R737: channels whose limit is threatened, by power or by current, and the energy of the interval in µJ. -/
structure PowerEst where
  power : BitVec 4 := 0
  current : BitVec 4 := 0
  foyerUj : Nat := 0
  nosuiteUj : Nat := 0
  /-- Energy of each suite charged to no room, and of each running room. -/
  idleUj : Quad Nat := Quad.same 0
  roomUj : Quad Nat := Quad.same 0
  deriving DecidableEq, Repr

/-- A configuration access that this model serves: a read of the four bytes at an offset, or a write of Bus Master Enable or of the power state. -/
inductive CfgAccess where
  | read (off : BitVec 12)
  | busMaster (on : Bool)
  | power (d3hot : Bool)
  deriving DecidableEq, Repr

/-- The JTAG instructions that R576 names. -/
inductive JtagInsn where
  | bypass | idcode | sample | extest | debug
  deriving DecidableEq, Repr

/-- Where a REGISTER_WRITE goes: a register word (with its channel and its indexes), the mask bit of an MSI-X vector, or eight bytes of a command area. -/
inductive RegTarget where
  | word (w : RegWord) (f : Fn) (c : Ch) (i j : Nat)
  | msixMask (f : Fn) (v : Nat)
  | cmdArea (f : Fn) (mbx : BitVec 4) (off : BitVec 11)
  deriving DecidableEq, Repr

/-- What brings a version registration (R388, R453): a micro-batch about to read an owner's weights, a reader's message at the owner, or the
owner's answer at the reader; each under a WGEN. -/
inductive VersionEvent where
  | firstRead (node : BitVec 18) (room : BitVec 6)
  | message (reader : W64)
  | answer (node : BitVec 18) (room : BitVec 6)
  deriving DecidableEq, Repr

/-- The stack whose migration ends, and the bytes of the channel whose words read as uncorrectable on the way (R174, R175). -/
structure MigrationEnd where
  stack : Ch
  bad : List W64 := []
  deriving DecidableEq, Repr

/-- The end of a load's fetches (R438): the tiles of a copy that were fetched again, with the bytes that came last; and the tiles of training
masters that still mismatch. -/
structure WeightCheck where
  again : List (Nat × List Byte) := []
  bad : List Nat := []
  deriving DecidableEq, Repr

/-- A detected array fault (R93 to R95): its kind, the physical column when localised, and whether the row is named. -/
structure ArrFault where
  kind : BitVec 2 := 0
  pcol : Option (BitVec 10) := none
  deriving DecidableEq, Repr

/-- A finding of an SRAM patrol scrub or read (Table 15.1, Table 15.5): class 0x01 bank or 0x02 store, unit, row. -/
structure SramFinding where
  bank : Bool
  unit : BitVec 16
  row : W64
  /-- Two bits: uncorrectable. -/
  double : Bool := false
  /-- Still wrong on the read-back (R604). -/
  survives : Bool := false
  /-- Where a store's word lies: its line of the Sump or the Cistern, its bundle of the Loop room, its chunk of the reduction store, or its unit of
512 B of WS for the residue shadow; a bank word's WS line is that of R156. -/
  line : Nat := 0
  deriving DecidableEq, Repr

/-- A finding of the T1 patrol scrub: a stack word, or a fingerprinted tile (R178, R192, R604). -/
inductive T1Finding where
  | word (stack : BitVec 2) (chan : BitVec 7) (byte : W64) (double survives : Bool)
  | tile (copy : BitVec 3) (tile : Nat)
  deriving DecidableEq, Repr

/-- A link set-up message as its receiver finds it (R562). -/
structure SetupMsg where
  certOk : Bool := true
  svn : BitVec 8 := 0
  debug : Bool := false
  /-- The message comes from the end with the lower node ID. -/
  first : Bool := true
  /-- K, as the shared secret and the transcript give it (R562 step 4). -/
  secret : BitVec 256 := 0
  deriving DecidableEq, Repr

/-- The payload of an ERROR frame with the room it reaches (Table 12.14, R494). -/
structure ErrorInfo where
  xid : W32 := 0
  cause : Byte := 0
  dst : BitVec 18 := 0
  op : BitVec 3 := 0
  tag : W32 := 0
  /-- The sending room, or the Cellar region and page of a MEMW or MEMR. -/
  room : BitVec 6 := 0
  region : Nat := 0
  page : Nat := 0
  deriving DecidableEq, Repr

/-- A trajectory offered to its store (R456, R457). -/
structure TrajOffer where
  node : BitVec 18
  room : BitVec 6
  handle : W32
  /-- Header and body, byte by byte; COMMIT and SEQ are the owner's. -/
  bytes : List Byte
  wgenFirst : W32
  deriving DecidableEq, Repr

/-- What a step's update counted on a channel: blocks that fell back, the first of them, and elements clamped (R417, R420, R429). -/
structure StepReport where
  fallbacks : Nat := 0
  tensor : BitVec 16 := 0
  block : BitVec 32 := 0
  clamped : Nat := 0
  deriving DecidableEq, Repr

/-- What a broadcast's announcement gives a target beside MODEL, WGEN and PAGES (R446, R506, R507): its place in the tree and the format. -/
structure BcastTree where
  fmt : BitVec 4 := 0
  prev : BitVec 18 := 0
  children : List (BitVec 18) := []
  deriving DecidableEq, Repr

end Sys2Proof
end

