-- ==== Sys2Proof/Syntax.lean ====
section
/-! DEFINITION. Syntax.lean: the commands and events of the part, one constructor per row of the operation table. -/

namespace Sys2Proof

/-- The operations and events of opcode_table.json, in its order. Suites are numbered as channels are, by Ch (at most four, R519);
a stack of a channel likewise. -/
inductive Instr where
  /-- VAUX_RISE (R721). -/
  | vauxRise (ssc : Bool)
  /-- SYS_RESET_N_RISE (R721). -/
  | sysResetNRise (compat : Bool) (bootSel : BitVec 2) (smbAddr : BitVec 3)
  /-- SYS_RESET_N_FALL (R728). -/
  | sysResetNFall
  /-- VCORE_PG_RISE (R721). -/
  | vcorePgRise
  /-- CHANNEL_CONTROLLER_RELEASE (R721). -/
  | channelControllerRelease (ok : Bool)
  /-- VCORE_PG_TIMEOUT (R723). -/
  | vcorePgTimeout
  /-- BOOT_IMAGE_READ_DONE (R569). -/
  | bootImageReadDone (r : Quad BootRead)
  /-- VSTK_PG_RISE (R721). -/
  | vstkPgRise
  /-- VSTK_PG_TIMEOUT (R723). -/
  | vstkPgTimeout
  /-- STACK_PAIR_POWER (R721). -/
  | stackPairPower
  /-- STACK_TRAINED (R721). -/
  | stackTrained (c : Ch) (stack : Ch) (ok : Bool)
  /-- VOPT_PG_RISE (R721). -/
  | voptPgRise
  /-- VOPT_PG_TIMEOUT (R723). -/
  | voptPgTimeout
  /-- ARRAY_SELF_TEST_DONE (R721). -/
  | arraySelfTestDone (r : Quad SelfTest)
  /-- VCORE_PG_FALL (R730). -/
  | vcorePgFall
  /-- RAIL_PG_FALL (R730). -/
  | railPgFall (opt : Bool)
  /-- THERMTRIP (R735). -/
  | thermtrip
  /-- SENSOR_SAMPLE (R736). -/
  | sensorSample (t : Quad Temps)
  /-- THROTTLE_STEP_TIMER (R736). -/
  | throttleStepTimer (c : Ch)
  /-- POWER_ESTIMATE (R737). -/
  | powerEstimate (e : PowerEst)
  /-- IOUT_CORRECTION (R737). -/
  | ioutCorrection (uj : Nat)
  /-- PMB_ALERT (R716). -/
  | pmbAlert (faults : BitVec 5)
  /-- MONITOR_TRIP (R591). -/
  | monitorTrip (c : Ch) (m : Monitor)
  /-- MONITOR_RECOVERY (R591). -/
  | monitorRecovery (c : Ch) (m : Monitor)
  /-- LASER_LIGHT_LOSS (R468). -/
  | laserLightLoss (i : BitVec 3)
  /-- LASER_LIGHT_RETURN (R469). -/
  | laserLightReturn (i : BitVec 3) (uw : BitVec 20)
  /-- MIN_SVN_RAISE (R569). -/
  | minSvnRaise (c : Ch) (v : BitVec 8)
  /-- HOST_PERST_ASSERT (R688). -/
  | hostPerstAssert (portB : Bool)
  /-- HOST_LINK_RETURN (R688). -/
  | hostLinkReturn (portB : Bool)
  /-- FUNCTION_LEVEL_RESET (R689). -/
  | functionLevelReset (f : Fn)
  /-- CONFIG_REQUEST (R725). -/
  | configRequest (f : Fn) (a : CfgAccess)
  /-- JTAG_INSTRUCTION (R576). -/
  | jtagInstruction (i : JtagInsn)
  /-- SMBUS_BLOCK_READ (R740). -/
  | smbusBlockRead (code : Byte)
  /-- SMBUS_PWR_LIMIT_WRITE (R740). -/
  | smbusPwrLimitWrite (v : W64)
  /-- FY_BOOT_GO (R744). -/
  | fyBootGo (portB : Bool)
  /-- REGISTER_WRITE (R15). -/
  | registerWrite (t : RegTarget) (v : W64)
  /-- RESULT_SLOT_READ (R668). -/
  | resultSlotRead (f : Fn) (mbx : BitVec 4) (slot : BitVec 3) (covers0 : Bool)
  /-- MBX_ACK (R669). -/
  | mbxAck (f : Fn) (mbx : BitVec 4) (v : W64)
  /-- MBX_RESULT_EXPIRED (R670). -/
  | mbxResultExpired (f : Fn) (mbx : BitVec 4) (slot : BitVec 3)
  /-- SEC_DEBUG_REQ (R577). -/
  | secDebugReq (v : W64)
  /-- FY_CELLAR_APPLY (R686). -/
  | fyCellarApply (portB : Bool) (r : BitVec 4)
  /-- CKP_HOST_FREE_ALL (R638). -/
  | ckpHostFreeAll (c : Ch)
  /-- IRQ_MOD_TIMER (R685). -/
  | irqModTimer (f : Fn) (v : Nat)
  /-- ROOM_CREATE (R526). -/
  | roomCreate (p : HostPost)
  /-- ROOM_DESTROY (R529). -/
  | roomDestroy (p : HostPost)
  /-- SUITE_SET (R523). -/
  | suiteSet (p : HostPost)
  /-- LOAD_PROGRAM (R674). -/
  | loadProgram (p : HostPost)
  /-- LOAD_WEIGHTS (R440). -/
  | loadWeights (p : HostPost)
  /-- SWITCH_WEIGHTS (R444). -/
  | switchWeights (p : HostPost)
  /-- PIN_ADAPTER (R344). -/
  | pinAdapter (p : HostPost)
  /-- UNPIN_ADAPTER (R335). -/
  | unpinAdapter (p : HostPost)
  /-- SUBMIT_REQUESTS (R676). -/
  | submitRequests (p : HostPost)
  /-- CANCEL_STREAM (R288). -/
  | cancelStream (p : HostPost)
  /-- SET_BUDGET (R271). -/
  | setBudget (p : HostPost)
  /-- START_JOB (R527). -/
  | startJob (p : HostPost)
  /-- STOP_JOB (R528). -/
  | stopJob (p : HostPost)
  /-- CHECKPOINT_NOW (R630). -/
  | checkpointNow (p : HostPost)
  /-- CHECKPOINT_POLICY (R631). -/
  | checkpointPolicy (p : HostPost)
  /-- ATTIC_RELEASE (R638). -/
  | atticRelease (p : HostPost)
  /-- RESTORE (R645). -/
  | restore (p : HostPost)
  /-- SHRINK_JOB (R649). -/
  | shrinkJob (p : HostPost)
  /-- ATTEST (R572). -/
  | attest (p : HostPost)
  /-- QUERY_ACCOUNTING (R678). -/
  | queryAccounting (p : HostPost)
  /-- FABRIC_JOIN (R482). -/
  | fabricJoin (p : HostPost)
  /-- FABRIC_LEAVE (R485). -/
  | fabricLeave (p : HostPost)
  /-- DRAIN_DEVICE (R609). -/
  | drainDevice (p : HostPost)
  /-- DRAIN_CANCEL (R613). -/
  | drainCancel (p : HostPost)
  /-- QUERY_FAULTS (R616). -/
  | queryFaults (p : HostPost)
  /-- SEALED_PAYLOAD_SEGMENT (R566). -/
  | sealedPayloadSegment (k : CmdKey) (seg : Nat) (bytes : List Byte) (tagOk : Bool)
  /-- ADAPTER_LOAD_DONE (R330). -/
  | adapterLoadDone (k : CmdKey) (home : Nat)
  /-- WEIGHT_LOAD_FETCH_DONE (R438). -/
  | weightLoadFetchDone (k : CmdKey) (r : WeightCheck)
  /-- BUNDLE_ISSUE (R104). -/
  | bundleIssue (c : Ch)
  /-- PUMP_DESCRIPTOR_COMPLETE (R135). -/
  | pumpDescriptorComplete (c : Ch) (q : BitVec 4)
  /-- ARRAY_CHECK_TOKEN (R93). -/
  | arrayCheckToken (c : Ch)
  /-- ARRAY_FAULT (R95). -/
  | arrayFault (c : Ch) (f : ArrFault)
  /-- ARRAY_RETRY_DONE (R98). -/
  | arrayRetryDone (c : Ch) (f : ArrFault)
  /-- SAMPLING_TOKEN (R115). -/
  | samplingToken (c : Ch)
  /-- CONTROLLER_QUEUE_ITEM (R136). -/
  | controllerQueueItem (c : Ch)
  /-- WAIT_LIMIT_EXPIRY (R152). -/
  | waitLimitExpiry (c : Ch)
  /-- SUMP_PAGE_FLUSH (R227). -/
  | sumpPageFlush (c : Ch) (room : BitVec 6) (key : Nat)
  /-- ROOM_SWITCH (R539). -/
  | roomSwitch (s : Ch)
  /-- HEAT_EPOCH (R196). -/
  | heatEpoch (c : Ch)
  /-- PAGE_PROMOTION_DONE (R195). -/
  | pagePromotionDone (c : Ch) (p : PageRef) (back : List (Nat × Byte))
  /-- PAGE_EVICTION_DONE (R195). -/
  | pageEvictionDone (c : Ch) (p : PageRef)
  /-- MEMR_RESPONSE (R498). -/
  | memrResponse (c : Ch) (region page : Nat) (intact : Bool)
  /-- MEMR_TIMEOUT (R498). -/
  | memrTimeout (c : Ch) (region page : Nat)
  /-- MEMW_RECEIVE (R498). -/
  | memwReceive (c : Ch) (node : BitVec 18) (addr : W64) (bytes : List Byte)
  /-- MEMR_RECEIVE (R498). -/
  | memrReceive (c : Ch) (node : BitVec 18) (addr : W64) (n : Nat)
  /-- STEP_BOUNDARY (R261). -/
  | stepBoundary (s : Ch) (room : BitVec 6)
  /-- HOLD_DL_EXPIRY (R270). -/
  | holdDlExpiry (c : Ch) (ctx : BitVec 16)
  /-- PIN_DL_EXPIRY (R296). -/
  | pinDlExpiry (c : Ch) (ctx : BitVec 16)
  /-- BUDGET_RETEST_TIMER (R748). -/
  | budgetRetestTimer (s : Ch)
  /-- RING_SPACE_FREE (R292). -/
  | ringSpaceFree (s : Ch) (room : BitVec 6) (cons : W64)
  /-- WARM_ADAPTER_FETCH_DONE (R337). -/
  | warmAdapterFetchDone (s : Ch) (slot : BitVec 12) (back : List (Ch × Nat × Byte))
  /-- FABRIC_REQUEST_MESSAGE (R497). -/
  | fabricRequestMessage (c : Ch) (node : BitVec 18) (reply : W32) (suite : Ch) (params : BitVec 15872) (mem : List (Nat × Byte))
  /-- BROADCAST_ANNOUNCE (R446). -/
  | broadcastAnnounce (c : Ch) (node : BitVec 18) (model : BitVec 2) (wgen pages tiles : W32) (k : Byte) (t : BcastTree)
  /-- BROADCAST_CHUNK_ARRIVAL (R506). -/
  | broadcastChunkArrival (c : Ch) (k : Byte) (tag : W32) (chunk : Nat) (poison : Bool) (bytes : List Byte)
  /-- FINGERPRINT_TABLE_ARRIVAL (R447). -/
  | fingerprintTableArrival (s : Ch) (k : BitVec 3) (fps : List W64)
  /-- REPLICA_DIGEST_MESSAGE (R447). -/
  | replicaDigestMessage (s : Ch) (k : BitVec 3) (node : BitVec 18) (digest : BitVec 256) (fps : List W64) (src : Bool)
  /-- REPLICA_TIMEOUT (R448). -/
  | replicaTimeout (s : Ch) (k : BitVec 3) (src : Bool)
  /-- TILE_REPAIR_LAND (R449). -/
  | tileRepairLand (s : Ch) (k : BitVec 3) (tile : Nat) (bytes : List Byte)
  /-- UPDATE_START_SIGNAL (R424). -/
  | updateStartSignal (c : Ch) (room : BitVec 6)
  /-- DEFERRED_UNIT_ARRIVAL (R426). -/
  | deferredUnitArrival (c : Ch) (room : BitVec 6) (unit : Nat)
  /-- CONSUMED_GROUP_SIGNAL (R426). -/
  | consumedGroupSignal (c : Ch) (room : BitVec 6)
  /-- END_OF_STEP_SIGNAL (R382). -/
  | endOfStepSignal (c : Ch) (room : BitVec 6) (r : StepReport)
  /-- MICROBATCH_RETIRE (R357). -/
  | microbatchRetire (c : Ch) (room : BitVec 6)
  /-- NORM_SUMS_MESSAGE (R405). -/
  | normSumsMessage (c : Ch) (room : BitVec 6) (shard : BitVec 16) (m : NormMsg)
  /-- VERSION_REGISTRATION (R388). -/
  | versionRegistration (c : Ch) (room : BitVec 6) (e : VersionEvent) (wgen : W32)
  /-- VERSION_RELEASE (R393). -/
  | versionRelease (c : Ch) (room : BitVec 6) (reader : W64) (wgen : W32)
  /-- LEASE_LAPSE (R388). -/
  | leaseLapse (c : Ch) (room : BitVec 6) (reader : W64) (wgen : W32)
  /-- TRAJECTORY_SLOT_REQUEST (R457). -/
  | trajectorySlotRequest (c : Ch) (j : BitVec 4) (t : TrajOffer)
  /-- SLOT_REQUEST_RETRY (R459). -/
  | slotRequestRetry (c : Ch) (room : BitVec 6) (ctx : BitVec 16)
  /-- FRAME_RECEIVE (R471). -/
  | frameReceive (c : Ch) (l : Link) (hdr : BitVec 128) (payload : List Byte) (crc : W32)
  /-- NAK_RECEIVE (R473). -/
  | nakReceive (c : Ch) (l : Link) (seq : BitVec 12)
  /-- TAG_FRAME_RECEIVE (R477). -/
  | tagFrameReceive (c : Ch) (p : BitVec 2) (ok : Bool)
  /-- FRAME_ACK_RECEIVE (R474). -/
  | frameAckReceive (c : Ch) (l : Link) (seq : BitVec 12)
  /-- ACK_TIMEOUT (R476). -/
  | ackTimeout (c : Ch) (l : Link)
  /-- HELLO_TIMER (R484). -/
  | helloTimer (c : Ch) (p : BitVec 2)
  /-- HELLO_RECEIVE (R484). -/
  | helloReceive (c : Ch) (p : BitVec 2) (node : BitVec 18) (port : BitVec 2)
  /-- LANE_FAULT (R470). -/
  | laneFault (c : Ch) (p : BitVec 2) (lane : BitVec 4)
  /-- PORT_RETRAIN_DONE (R470). -/
  | portRetrainDone (c : Ch) (p : BitVec 2)
  /-- PORT_TRAINED (R482). -/
  | portTrained (c : Ch) (p : BitVec 2) (ok : Bool)
  /-- LINK_SETUP_MESSAGE (R562). -/
  | linkSetupMessage (c : Ch) (p : BitVec 2) (m : SetupMsg)
  /-- LINK_SETUP_RETRY_TIMER (R563). -/
  | linkSetupRetryTimer (c : Ch) (p : BitVec 2)
  /-- LINK_REKEY (R564). -/
  | linkRekey (c : Ch) (p : BitVec 2)
  /-- ERROR_FRAME_RECEIVE (R494). -/
  | errorFrameReceive (c : Ch) (e : ErrorInfo)
  /-- MSG_CREDIT_RETURN (R496). -/
  | msgCreditReturn (c : Ch) (node : BitVec 18) (queue : W32)
  /-- DATA_CHUNK_ARRIVAL (R493). -/
  | dataChunkArrival (c : Ch) (node : BitVec 18) (sroom droom : BitVec 6) (tag : W32) (chunk : Nat) (last poison : Bool) (bytes : List Byte)
  /-- REDUCE_CHUNK_ARRIVAL (R502). -/
  | reduceChunkArrival (c : Ch) (k : Byte) (tag : W32) (chunk : Nat) (final poison : Bool) (bytes : List Byte)
  /-- FALLBACK_COMBINE_DONE (R503). -/
  | fallbackCombineDone (c : Ch) (k : Byte) (tag : W32) (chunk : Nat)
  /-- ETH_CNP_RECEIVE (R510). -/
  | ethCnpReceive (c : Ch) (peer : BitVec 10)
  /-- ETH_RATE_RECOVERY (R510). -/
  | ethRateRecovery (c : Ch) (peer : BitVec 10)
  /-- CHECKPOINT_TIMER (R628). -/
  | checkpointTimer (s : Ch) (room : BitVec 6)
  /-- JOB_CUT_MESSAGE (R626). -/
  | jobCutMessage (s : Ch) (room : BitVec 6) (step : Nat)
  /-- SHARD_COMMIT_REPORT (R627). -/
  | shardCommitReport (s : Ch) (room : BitVec 6) (shard : BitVec 16)
  /-- CAPTURE_STAGE_ACK (R634). -/
  | captureStageAck (s : Ch) (room : BitVec 6)
  /-- CAPTURE_ACK_TIMEOUT (R637). -/
  | captureAckTimeout (s : Ch) (room : BitVec 6)
  /-- MIRROR_COPY_DONE (R636). -/
  | mirrorCopyDone (s : Ch) (room : BitVec 6) (ok : Bool)
  /-- SRAM_PATROL_SCRUB (R584). -/
  | sramPatrolScrub (c : Ch) (f : Option SramFinding)
  /-- T1_PATROL_SCRUB (R178). -/
  | t1PatrolScrub (c : Ch) (f : Option T1Finding)
  /-- MIGRATION_DONE (R174). -/
  | migrationDone (c : Ch) (m : MigrationEnd)
  /-- WATCHDOG_EXPIRY (R588). -/
  | watchdogExpiry (c : Ch) (hk : Bool)
  /-- CORE_SELF_TEST_DONE (R589). -/
  | coreSelfTestDone (c : Ch) (ok : Bool)
  /-- FAULT_HISTORY_FLUSH (R598). -/
  | faultHistoryFlush (c : Ch) (ok : Bool)
  /-- FLASH_WRITE_RETRY (R603). -/
  | flashWriteRetry (c : Ch) (ok : Bool)
  /-- LIFE_CLOCK_WRITEBACK (R599). -/
  | lifeClockWriteback (c : Ch)
  /-- BOUND_MISS_RECORD (R601). -/
  | boundMissRecord (c : Ch)
  /-- DRAIN_LIMIT_EXPIRY (R610). -/
  | drainLimitExpiry (c : Ch)
  /-- CHANNEL_LOSS (R753). -/
  | channelLoss (c : Ch)
  /-- STACK_LOSS (R173). -/
  | stackLoss (c : Ch) (stack : Ch)
  /-- TRNG_HEALTH_FAIL (R554). -/
  | trngHealthFail (c : Ch)
  /-- TRNG_RETEST (R554). -/
  | trngRetest (c : Ch) (ok : Bool)
  /-- IRQ_SOURCE_SIGNAL (R691). -/
  | irqSourceSignal (c : Ch) (level : BitVec 3)
  /-- HANDLER_RETURN (R691). -/
  | handlerReturn (c : Ch) (hk : Bool)
  /-- MILLISECOND_TICK (R693). -/
  | millisecondTick (c : Ch)
  /-- VAUX_REMOVE (R731). -/
  | vauxRemove
  /-- MODULE_MANAGEMENT_BLOCK_LOSS (R28). -/
  | moduleManagementBlockLoss
  /-- PUMP_CONTROL_MISMATCH (R584). -/
  | pumpControlMismatch (c : Ch) (pump : BitVec 4)
  /-- HOST_COMPLETION_TIMEOUT (R750). -/
  | hostCompletionTimeout (k : CmdKey)
  /-- WRITE_THROUGH_APPEND_LAND (R231). -/
  | writeThroughAppendLand (c : Ch) (room : BitVec 6)
  deriving DecidableEq, Repr

end Sys2Proof
end

