-- ==== Sys2Proof/WellFormed.lean ====
section
/-! DEFINITION. WellFormed.lean: which commands the interfaces of the block can carry. -/

namespace Sys2Proof

/-- A target exists: a register at its indexes, a vector of Table 17.1, eight aligned bytes of a command area (Table 17.3). -/
def RegTarget.wf : RegTarget → Bool
  | .word w _ _ i j => Machine.regExists w i j
  | .msixMask _ v => v < 288
  | .cmdArea _ _ off => off.toNat % 8 == 0

/-- A frame's payload is LEN × 64 B, with LEN from 0 to 8 (R471). -/
def frameWf (hdr : BitVec 128) (payload : List Byte) : Bool :=
  (hdr.extractLsb' 9 4).toNat ≤ 8 && payload.length == 64 * (hdr.extractLsb' 9 4).toNat

/-- A command is well formed when its operands name what exists; a chunk holds at most 1 MiB (R479); every other command carries any
value of its operands. -/
def Instr.wf : Instr → Bool
  | .registerWrite t _ => t.wf
  | .irqModTimer _ v => v < 288
  | .frameReceive _ _ hdr payload _ => frameWf hdr payload
  | .dataChunkArrival _ _ _ _ _ _ _ _ bytes => bytes.length ≤ 1048576
  | .reduceChunkArrival _ _ _ _ _ _ bytes => bytes.length ≤ 1048576
  | .broadcastChunkArrival _ _ _ _ _ bytes => bytes.length ≤ 1048576
  | _ => true

end Sys2Proof
end

