-- ==== Sys2Proof/Machine/Tab.lean ====
section
/-! DEFINITION. Machine/Tab.lean: reading and writing the sparse tables and the byte memories, in their one canonical form. -/

namespace Sys2Proof.Machine

/-- The value at a key; d where the table lists none. -/
def tget {α : Type} (d : α) (t : Tab α) (k : Nat) : α :=
  match t.find? (fun p => p.1 == k) with
  | some p => p.2
  | none => d

/-- Sets the value at a key; a default value is not listed. -/
def tset {α : Type} [DecidableEq α] (d : α) (t : Tab α) (k : Nat) (v : α) : Tab α :=
  t.filter (fun p => p.1 < k) ++ (if v = d then [] else [(k, v)]) ++ t.filter (fun p => k < p.1)

/-- Changes the value at a key. -/
def tmod {α : Type} [DecidableEq α] (d : α) (t : Tab α) (k : Nat) (f : α → α) : Tab α :=
  tset d t k (f (tget d t k))

/-- The keys listed. -/
def tkeys {α : Type} (t : Tab α) : List Nat := t.map (·.1)

/-- A table is canonical when its keys rise strictly and none holds the default. -/
def twf {α : Type} [DecidableEq α] (d : α) (t : Tab α) : Bool :=
  decide (t.Pairwise (fun a b => a.1 < b.1)) && t.all (fun p => decide (p.2 ≠ d))

/-- A byte memory: the bytes that are not 0, by rising address; an unlisted address reads 0 (R168, R532). -/
abbrev Memory := List Host.Cell

/-- The canonical form of a memory. -/
abbrev Memory.wf (m : Memory) : Prop :=
  m.Pairwise (fun a b => a.1 < b.1) ∧ ∀ c ∈ m, c.2 ≠ 0

/-- One byte of a memory. -/
def readByte (m : Memory) (a : Nat) : Byte :=
  match m.find? (fun p => p.1 == a) with
  | some p => p.2
  | none => 0

/-- n bytes from address a, lowest first. -/
def readBytes (m : Memory) (a n : Nat) : List Byte :=
  (List.range n).map fun i => readByte m (a + i)

/-- The bytes of a list that are not 0, listed from address a. -/
def cellsFrom (a : Nat) : List Byte → Memory
  | [] => []
  | b :: bs => if b = 0 then cellsFrom (a + 1) bs else (a, b) :: cellsFrom (a + 1) bs

/-- Writes a run of bytes from address a; bytes outside the run are kept. -/
def writeBytes (m : Memory) (a : Nat) (bs : List Byte) : Memory :=
  m.filter (fun c => c.1 < a) ++ cellsFrom a bs ++ m.filter (fun c => a + bs.length ≤ c.1)

/-- Clears n bytes from address a. -/
def clearBytes (m : Memory) (a n : Nat) : Memory :=
  m.filter (fun c => c.1 < a) ++ m.filter (fun c => a + n ≤ c.1)

/-- The little-endian number of a byte list (R18). -/
def leNat : List Byte → Nat
  | [] => 0
  | b :: bs => b.toNat + 256 * leNat bs

/-- n bytes of a number, lowest first (R18). -/
def leBytes : Nat → Nat → List Byte
  | 0, _ => []
  | n + 1, v => BitVec.ofNat 8 v :: leBytes n (v / 256)

def readLe (m : Memory) (a n : Nat) : Nat := leNat (readBytes m a n)
def writeLe (m : Memory) (a n v : Nat) : Memory := writeBytes m a (leBytes n v)

/-- A saturating increase of a w-bit counter. -/
def satAdd {w : Nat} (x : BitVec w) (n : Nat) : BitVec w :=
  BitVec.ofNat w (min (x.toNat + n) (2 ^ w - 1))

/-- Adds one, saturating. -/
def satInc {w : Nat} (x : BitVec w) : BitVec w := satAdd x 1

/-- Ceiling division. -/
def cdiv (a b : Nat) : Nat := if b = 0 then 0 else (a + b - 1) / b

/-- Bits hi..lo of a number, as a number. -/
def bitsOf (v lo w : Nat) : Nat := v / 2 ^ lo % 2 ^ w

end Sys2Proof.Machine
end

