-- ==== Sys2Proof/Machine/Flags.lean ====
section
/-! DEFINITION. Machine/Flags.lean: the predicates Q0 to Q7 and the token counters TK0 to TK63 (R106, R132). -/

namespace Sys2Proof.Machine

/-- Predicate i; Q0 reads as true (R106). -/
def readQ (c : Ctx) (i : Nat) : Bool := i % 8 = 0 || c.q.getLsbD (i % 8)

/-- Sets predicate i; writes to Q0 are discarded (R106). -/
def writeQ (c : Ctx) (i : Nat) (v : Bool) : Ctx :=
  if i % 8 = 0 then c
  else { c with q := if v then c.q ||| (1#8 <<< (i % 8)) else c.q &&& ~~~(1#8 <<< (i % 8)) }

/-- Token counter t. -/
def readTk (c : Ctx) (t : Nat) : BitVec 8 := tget 0 c.tk (t % 64)

def writeTk (c : Ctx) (t : Nat) (v : BitVec 8) : Ctx := { c with tk := tset 0 c.tk (t % 64) v }

/-- A completion increments its token counter; beyond 255 the next bundle is illegal (R132). -/
def incTk (c : Ctx) (t : Nat) : Ctx :=
  if readTk c t = 255 then { c with tkOver := true } else writeTk c t (readTk c t + 1)

end Sys2Proof.Machine
end

