-- ==== Sys2Proof/Machine/Operands.lean ====
section
/-! DEFINITION. Machine/Operands.lean: the operand forms of a bundle: scalar registers, vector lanes, WS addresses, and the slots' bit fields (Tables 3.1 to 3.8, 3.12). -/

namespace Sys2Proof.Machine

/-- Scalar register r; X0 reads as 0 (R106). -/
def readX (c : Ctx) (r : Nat) : W64 := if r % 64 = 0 then 0 else tget 0 c.x (r % 64)

/-- Writes scalar register r; writes to X0 are discarded (R106). -/
def writeX (c : Ctx) (r : Nat) (v : W64) : Ctx :=
  if r % 64 = 0 then c else { c with x := tset 0 c.x (r % 64) v }

/-- The 256 lanes of a group of a vector register; an unlisted row is all zero. -/
def readRow (c : Ctx) (reg grp : Nat) : List W32 :=
  match tget [] c.lanes (64 * (reg % 64) + grp % 64) with
  | [] => List.replicate 256 0
  | r => r

/-- Writes the 256 lanes of a group; an all-zero row is not listed. -/
def writeRow (c : Ctx) (reg grp : Nat) (row : List W32) : Ctx :=
  let r := if row.all (· == 0) then [] else row
  { c with lanes := tset [] c.lanes (64 * (reg % 64) + grp % 64) r }

/-- The slots of a bundle (Table 3.1). -/
def bHdr (b : BitVec 1024) : BitVec 32 := b.extractLsb' 0 32
def bArr (b : BitVec 1024) : BitVec 128 := b.extractLsb' 32 128
def bVec (b : BitVec 1024) (i : Nat) : BitVec 96 := b.extractLsb' (160 + 96 * i) 96
def bSca (b : BitVec 1024) (i : Nat) : BitVec 64 := b.extractLsb' (544 + 64 * i) 64
def bPmp (b : BitVec 1024) (i : Nat) : BitVec 48 := b.extractLsb' (800 + 48 * i) 48
def bCtl (b : BitVec 1024) : BitVec 32 := b.extractLsb' 992 32

/-- A field of a slot as a number. -/
def fld {w : Nat} (s : BitVec w) (lo n : Nat) : Nat := (s.extractLsb' lo n).toNat

/-- The fields of a scalar slot (Table 3.3). -/
def scOp (s : BitVec 64) : Nat := fld s 0 8
def scSD (s : BitVec 64) : Nat := fld s 8 6
def scSA (s : BitVec 64) : Nat := fld s 14 6
def scSB (s : BitVec 64) : Nat := fld s 20 6
/-- IMM32 sign-extended to 64 bits (Table 3.3). -/
def scImm (s : BitVec 64) : W64 := (s.extractLsb' 26 32).signExtend 64
/-- IMM32 zero-extended, for the operations that do not add it (Table 3.3 sign-extends it only where added). DEDUCED, log 12. -/
def scImmZ (s : BitVec 64) : W64 := (s.extractLsb' 26 32).setWidth 64
def scRsv (s : BitVec 64) : Nat := fld s 58 6

/-- The WS byte address of a scalar load or store: SA + IMM32, modulo 2^64 (R109). -/
def scAddr (c : Ctx) (s : BitVec 64) : Nat := (readX c (scSA s) + scImm s).toNat

/-- The fields of a vector slot (Table 3.5). -/
def vcOp (s : BitVec 96) : Nat := fld s 0 8
def vcType (s : BitVec 96) : Nat := fld s 8 2
def vcVD (s : BitVec 96) : Nat := fld s 10 6
def vcVA (s : BitVec 96) : Nat := fld s 16 6
def vcVB (s : BitVec 96) : Nat := fld s 22 6
def vcVC (s : BitVec 96) : Nat := fld s 28 6
def vcG0 (s : BitVec 96) : Nat := fld s 34 6
def vcGN (s : BitVec 96) : Nat := fld s 40 6
def vcXS (s : BitVec 96) : Nat := fld s 46 6
def vcImm (s : BitVec 96) : Nat := fld s 52 22
def vcQP (s : BitVec 96) : Nat := fld s 74 3
def vcSFN (s : BitVec 96) : Nat := fld s 80 8
def vcRsv (s : BitVec 96) : Nat := fld s 77 3 + fld s 88 8

/-- The lane groups of a vector slot (R110). -/
def vcGroups (s : BitVec 96) : List Nat := (List.range (vcGN s + 1)).map (vcG0 s + ·)

/-- The WS byte address of a vector access of a slot for lane 0 of its group number k, k from 0 (R111). -/
def vcAddr (c : Ctx) (s : BitVec 96) (k : Nat) : Nat := (readX c (vcXS s)).toNat + 64 * vcImm s + 1024 * k

/-- The fields of the array slot (Table 3.7). -/
def arOp (s : BitVec 128) : Nat := fld s 0 8
def arAfmt (s : BitVec 128) : BitVec 4 := s.extractLsb' 8 4
def arBfmt (s : BitVec 128) : BitVec 4 := s.extractLsb' 12 4
def arOfmt (s : BitVec 128) : BitVec 4 := s.extractLsb' 16 4
def arRnd (s : BitVec 128) : Nat := fld s 20 2
def arSat (s : BitVec 128) : Bool := s.getLsbD 22
def arWB (s : BitVec 128) : Bool := s.getLsbD 23
def arPre (s : BitVec 128) : Bool := s.getLsbD 24
def arInit (s : BitVec 128) : Bool := s.getLsbD 25
def arOaxis (s : BitVec 128) : Bool := s.getLsbD 26
def arNW (s : BitVec 128) : Nat := fld s 27 5
def arM (s : BitVec 128) : Nat := fld s 32 10 + 1
def arKP (s : BitVec 128) : Nat := fld s 42 8
def arNG (s : BitVec 128) : Nat := fld s 50 6 + 1
def arCtok (s : BitVec 128) : Nat := fld s 56 6
def arTsr (s : BitVec 128) : Nat := fld s 62 6
def arA (s : BitVec 128) : Nat := fld s 68 19
def arB (s : BitVec 128) : Nat := fld s 87 19
def arC (s : BitVec 128) : Nat := fld s 106 19
def arRsv (s : BitVec 128) : Nat := fld s 125 3

/-- The fields of a pump slot (Table 3.8). -/
def pmOp (s : BitVec 48) : Nat := fld s 0 8
def pmPQ (s : BitVec 48) : Nat := fld s 8 4
def pmXS (s : BitVec 48) : Nat := fld s 12 6
def pmImm (s : BitVec 48) : Nat := fld s 18 22
def pmTok (s : BitVec 48) : Nat := fld s 40 6
def pmRsv (s : BitVec 48) : Nat := fld s 46 2

/-- The WS byte address of the descriptor of a PISSUE (R127). -/
def pmAddr (c : Ctx) (s : BitVec 48) : Nat := (readX c (pmXS s)).toNat + 64 * pmImm s

/-- The fields of the control slot (Table 3.12). -/
def ctOp (s : BitVec 32) : Nat := fld s 0 8
def ctQP (s : BitVec 32) : Nat := fld s 8 3
def ctQN (s : BitVec 32) : Bool := s.getLsbD 11
def ctArg (s : BitVec 32) : BitVec 20 := s.extractLsb' 12 20

/-- Whether the control slot's predicate condition holds (R140). -/
def ctActs (c : Ctx) (s : BitVec 32) : Bool := readQ c (ctQP s) != ctQN s

end Sys2Proof.Machine
end

