-- ==== Sys2Proof/Config.lean ====
section
/-! DEFINITION. Config.lean: what an implementation fixes and what the spec leaves open, as constants without a body. -/

namespace Sys2Proof.Config

/-- The NaN word a vector-unit operation gives (R72 names IEEE 754, which leaves sign and payload open): operation number and operands. -/
opaque vuNan : Nat → W32 → W32 → W32 → W32
/-- The result of an INT32 lane operation whose exact result does not fit (the spec states none): operation number and operands. -/
opaque int32Over : Nat → W32 → W32 → W32 → W32
/-- A special-function result that the spec does not bound: sin and cos beyond 2^15, INT32 lanes (R112): function, type code, input. -/
opaque vsfu : Nat → Nat → W32 → W32
/-- Which of the two FP32 neighbours of an inexact exp, log, reciprocal or reciprocal square root is given (R112: within 1 ULP). -/
opaque vsfuUp : Nat → W32 → Bool
/-- Which of the FP32 numbers within 2 ULP of a sine or cosine is given (R112). -/
opaque vsfuOff : Nat → W32 → Nat
/-- Bits of a destination lane that a conversion or quantisation does not state (VCVT to BF16, VQMX): operation number, old lane, sources. -/
opaque laneRest : Nat → W32 → W32 → W32

/-- The n-th 64-bit word drawn from a channel's true random source (R317, R553). -/
opaque freeWord : Nat → W64
/-- Kenath's assigned PCI vendor identifier (R1), which the spec does not give. -/
opaque vendorId : BitVec 16
/-- The digest of the public key of the n-th key pair made (R555): keys come from the DRBG, so nothing fixes it. -/
opaque freeKey : Nat → BitVec 256
/-- The token counter to which the controller posts an item of a kind (0 length table, 1 start of an update, 2 other room control): the spec names none. -/
opaque ctrlTok : Nat → BitVec 6
/-- Pages of the region that a channel's Ballutos reserves for peers (R498); nothing says how many. -/
opaque peerPages : Nat → Nat
/-- The XTS key made as the n-th on a channel for a use (0 controller, 1 suite, 2 room; R555): keys come from the DRBG, so nothing fixes it. -/
opaque xtsKey : Nat → Nat → Nat → BitVec 512
/-- A byte of a line under AES-256-XTS with a key and a tweak, as IEEE 1619 computes it (R557); keys being free, so are these. -/
opaque xtsByte : BitVec 512 → BitVec 128 → List Byte → Nat → Byte
/-- Bytes of a report that this model does not compute: signatures, certificates and public keys (R574), by place and position. -/
opaque reportByte : Nat → Nat → Byte
/-- Pages of a checkpoint slot that hold controller-held state and register fields, which R632 does not count, for n room pages. -/
opaque ctrlPages : Nat → Nat
/-- Their bytes, by the checkpoint's number, the page and the place, which the spec does not lay out. -/
opaque ctrlByte : Nat → Nat → Nat → Byte
/-- The tweak of a line of a slot's directory or commit record (R633 gives them R557's, which are of pages in a room): page of the slot, line. -/
opaque slotTweak : Nat → Nat → BitVec 128
/-- The key of a commit record's TAG without a continuity secret, which the security engine derives from the room memory key (R635). -/
opaque tagKey : BitVec 512 → BitVec 256
/-- A byte of the AES-256-GCM tag over bytes with no plaintext, for a key and a number in the IV (R635). -/
opaque gcmTag : BitVec 256 → Nat → List Byte → Nat → Byte
/-- Where a tile of a serving copy lies in the copy, by whether it is the forward one, the tiles down and across, and the tile (R421; the spec
does not order the tiles of a copy). -/
opaque copyTile : Bool → Nat → Nat → Nat → Nat → Nat

/-- Where an array operation's output lies in the program's logical output tensor (R82), which the program alone knows: by the program's digest,
the channel, the bundle counter of the operation and its number among the room's operations there. -/
opaque outRow : BitVec 256 → Nat → Nat → Nat → Nat
opaque outCol : BitVec 256 → Nat → Nat → Nat → Nat
/-- The width of the logical tensor in elements, and whether the operation computes it transposed (R84). -/
opaque outWidth : BitVec 256 → Nat → Nat → Nat → Nat
opaque outFlip : BitVec 256 → Nat → Nat → Nat → Bool

end Sys2Proof.Config
end

