-- ==== Sys2Proof/Machine/Float.lean ====
section
/-! DEFINITION. Machine/Float.lean: exact binary arithmetic and its one rounding, for FP32, BF16 and EXT42 (R60 to R62, R72, R76, R81). -/

namespace Sys2Proof.Machine

/-- A number as the arithmetic sees it: NaN, a signed infinity, or a sign, a magnitude and a power of two
(the value is plus or minus mant times 2 to the exp; the sign of a zero is kept). -/
inductive Num where
  | nan
  | inf (neg : Bool)
  | fin (neg : Bool) (mant : Nat) (exp : Int)
  deriving DecidableEq, Repr

/-- The bits of a natural number, 0 for 0. -/
def bitLen (n : Nat) : Nat := if n = 0 then 0 else n.log2 + 1

/-- The rounding rules of Table 2.5; stochastic rounding carries r and its r-bit uniform integer u (R81). -/
inductive Rounding where
  | rne
  | rtz
  | sr (r u : Nat)
  deriving DecidableEq, Repr

/-- Rounds the magnitude mant times 2^exp to a multiple of 2^lsb and answers the multiple (Table 2.5, R81). -/
def roundMag (rule : Rounding) (mant : Nat) (exp lsb : Int) : Nat :=
  if lsb ≤ exp then mant <<< (exp - lsb).toNat
  else
    let d := (lsb - exp).toNat
    let q := mant >>> d
    let rem := mant % 2 ^ d
    match rule with
    | .rne => if 2 * rem > 2 ^ d ∨ (2 * rem = 2 ^ d ∧ q % 2 = 1) then q + 1 else q
    | .rtz => q
    | .sr r u =>
      let f := if r ≤ d then rem >>> (d - r) else rem <<< (r - d)
      if f + u ≥ 2 ^ r then q + 1 else q

/-- A binary format: significand bits p, exponent of the smallest subnormal, largest finite value as mant and exp. -/
structure FloatFmt where
  p : Nat
  lsbMin : Int
  maxMant : Nat
  maxExp : Int
  expBits : Nat
  deriving DecidableEq, Repr

/-- IEEE 754 binary32 (R60). -/
def fmtFp32 : FloatFmt := ⟨24, -149, 2 ^ 24 - 1, 104, 8⟩
/-- The 16-bit truncation of binary32 (R60). -/
def fmtBf16 : FloatFmt := ⟨8, -133, 2 ^ 8 - 1, 120, 8⟩
/-- EXT42 (R61): 31 significant bits, least exponent -540, largest finite value just under 2^512. -/
def fmtExt42 : FloatFmt := ⟨31, -540, 2 ^ 31 - 1, 481, 10⟩

/-- Whether mant times 2^exp exceeds maxMant times 2^maxExp. -/
def magGt (m1 : Nat) (e1 : Int) (m2 : Nat) (e2 : Int) : Bool :=
  let e := min e1 e2
  m1 <<< (e1 - e).toNat > m2 <<< (e2 - e).toNat

/-- The rounded magnitude of a finite number in a format, as a multiple q of 2^lsb; none beyond the range. -/
def roundFmt (f : FloatFmt) (rule : Rounding) (mant : Nat) (exp : Int) : Option (Nat × Int) :=
  let lsb := max (exp + bitLen mant - f.p) f.lsbMin
  let q := roundMag rule mant exp lsb
  if magGt q lsb f.maxMant f.maxExp then none else some (q, lsb)

/-- The biased exponent and the stored fraction (without leading bit) of a rounded magnitude. -/
def splitFmt (f : FloatFmt) (q : Nat) (lsb : Int) : Nat × Nat :=
  let qn := if q = 2 ^ f.p then 2 ^ (f.p - 1) else q
  let ln := if q = 2 ^ f.p then lsb + 1 else lsb
  if qn < 2 ^ (f.p - 1) then (0, qn)
  else ((ln - f.lsbMin + 1).toNat, qn - 2 ^ (f.p - 1))

/-- An IEEE-style word of w bits as a number (R60). -/
def ieeeToNum (f : FloatFmt) (w : Nat) (x : BitVec w) : Num :=
  let neg := x.getLsbD (w - 1)
  let frac := (x.extractLsb' 0 (f.p - 1)).toNat
  let e := (x.extractLsb' (f.p - 1) f.expBits).toNat
  if e = 2 ^ f.expBits - 1 then (if frac = 0 then .inf neg else .nan)
  else if e = 0 then .fin neg frac f.lsbMin
  else .fin neg (2 ^ (f.p - 1) + frac) (f.lsbMin + e - 1)

/-- A rounded magnitude as an IEEE-style word. -/
def ieeeOfMag (f : FloatFmt) (w : Nat) (neg : Bool) (q : Nat) (lsb : Int) : BitVec w :=
  let (e, frac) := splitFmt f q lsb
  BitVec.ofNat w ((if neg then 2 ^ (w - 1) else 0) + e * 2 ^ (f.p - 1) + frac)

def ieeeInf (f : FloatFmt) (w : Nat) (neg : Bool) : BitVec w :=
  BitVec.ofNat w ((if neg then 2 ^ (w - 1) else 0) + (2 ^ f.expBits - 1) * 2 ^ (f.p - 1))

def fp32ToNum (x : W32) : Num := ieeeToNum fmtFp32 32 x
def bf16ToNum (x : BitVec 16) : Num := ieeeToNum fmtBf16 16 x

/-- The canonical NaN words of Table 2.6. -/
def fp32Nan : W32 := 0x7FC00000
def bf16Nan : BitVec 16 := 0x7FC0

/-- A vector-unit result in FP32, rounded to nearest even (R72); a NaN is quiet and takes its other bits from nanBits. -/
def numToFp32 (nanBits : W32) : Num → W32
  | .nan => nanBits ||| fp32Nan
  | .inf n => ieeeInf fmtFp32 32 n
  | .fin n m e =>
    match roundFmt fmtFp32 .rne m e with
    | none => ieeeInf fmtFp32 32 n
    | some (q, l) => ieeeOfMag fmtFp32 32 n q l

/-- A vector-unit result in BF16, rounded to nearest even (R72). -/
def numToBf16 (nanBits : BitVec 16) : Num → BitVec 16
  | .nan => nanBits ||| bf16Nan
  | .inf n => ieeeInf fmtBf16 16 n
  | .fin n m e =>
    match roundFmt fmtBf16 .rne m e with
    | none => ieeeInf fmtBf16 16 n
    | some (q, l) => ieeeOfMag fmtBf16 16 n q l

/-- The signed integer of a finite number at exponent e, for e at most its own. -/
def signedAt (neg : Bool) (m : Nat) (exp e : Int) : Int :=
  let v : Int := (m <<< (exp - e).toNat : Nat)
  if neg then -v else v

/-- The exact sum of two numbers with IEEE 754's specials; an exact zero sum of unlike signs is +0 (R72, R74). -/
def Num.add : Num → Num → Num
  | .nan, _ => .nan
  | _, .nan => .nan
  | .inf a, .inf b => if a = b then .inf a else .nan
  | .inf a, .fin _ _ _ => .inf a
  | .fin _ _ _, .inf b => .inf b
  | .fin n1 m1 e1, .fin n2 m2 e2 =>
    let e := min e1 e2
    let s := signedAt n1 m1 e1 e + signedAt n2 m2 e2 e
    if s = 0 then .fin (n1 && n2) 0 e
    else .fin (decide (s < 0)) s.natAbs e

def Num.neg : Num → Num
  | .nan => .nan
  | .inf a => .inf (!a)
  | .fin n m e => .fin (!n) m e

def Num.abs : Num → Num
  | .nan => .nan
  | .inf _ => .inf false
  | .fin _ m e => .fin false m e

/-- The exact product with IEEE 754's specials (R72, R74). -/
def Num.mul : Num → Num → Num
  | .nan, _ => .nan
  | _, .nan => .nan
  | .inf a, .inf b => .inf (a != b)
  | .inf a, .fin n m _ => if m = 0 then .nan else .inf (a != n)
  | .fin n m _, .inf b => if m = 0 then .nan else .inf (n != b)
  | .fin n1 m1 e1, .fin n2 m2 e2 => .fin (n1 != n2) (m1 * m2) (e1 + e2)

/-- Whether the first number is less than the second; false when either is NaN; the zeros are equal. -/
def Num.lt : Num → Num → Bool
  | .nan, _ => false
  | _, .nan => false
  | .inf a, .inf b => a && !b
  | .inf a, .fin _ _ _ => a
  | .fin _ _ _, .inf b => !b
  | .fin n1 m1 e1, .fin n2 m2 e2 =>
    let e := min e1 e2
    decide (signedAt n1 m1 e1 e < signedAt n2 m2 e2 e)

def Num.isNan : Num → Bool
  | .nan => true
  | _ => false

/-- Equality as a compare sees it: never of a NaN, and the zeros are equal. -/
def Num.eq (a b : Num) : Bool := !a.isNan && !b.isNan && !a.lt b && !b.lt a

def Num.isZero : Num → Bool
  | .fin _ m _ => m == 0
  | _ => false

/-- IEEE 754-2019 maximum: NaN if either is, and +0 above -0. -/
def Num.maximum (a b : Num) : Num :=
  if a.isNan || b.isNan then .nan
  else if a.lt b then b
  else if b.lt a then a
  else match a with
    | .fin true _ _ => b
    | _ => a

/-- IEEE 754-2019 minimum: NaN if either is, and -0 below +0. -/
def Num.minimum (a b : Num) : Num :=
  if a.isNan || b.isNan then .nan
  else if a.lt b then a
  else if b.lt a then b
  else match a with
    | .fin true _ _ => a
    | _ => b

/-- An EXT42 word as a number (Table 2.2). A word with E from 1 to 1,022 and bit 30 of G clear has no row there: it is read by the formula of
the normal row. DESIGN CHOICE, log 112. -/
def ext42ToNum (x : BitVec 42) : Num :=
  let neg := x.getLsbD 41
  let e := (x.extractLsb' 31 10).toNat
  let g := (x.extractLsb' 0 31).toNat
  if e = 1023 then (if g = 0 then .inf neg else .nan)
  else if e = 0 then .fin neg g (-540)
  else .fin neg g (e - 541)

/-- The canonical NaN of EXT42 (Table 2.2). -/
def ext42Nan : BitVec 42 := (1023#10 ++ 0x40000000#31).setWidth 42

/-- A number rounded to nearest even into EXT42 (R67, R68); a zero is +0 (R75). -/
def numToExt42 : Num → BitVec 42
  | .nan => ext42Nan
  | .inf n => ((BitVec.ofBool n) ++ (1023#10 ++ 0#31)).setWidth 42
  | .fin n m e =>
    if m = 0 then 0 else
    match roundFmt fmtExt42 .rne m e with
    | none => ((BitVec.ofBool n) ++ (1023#10 ++ 0#31)).setWidth 42
    | some (q, l) =>
      let (be, frac) := splitFmt fmtExt42 q l
      let g := if be = 0 then frac else frac + 2 ^ 30
      ((BitVec.ofBool n) ++ (BitVec.ofNat 10 be ++ BitVec.ofNat 31 g)).setWidth 42

/-- Adds two EXT42 values, rounding to nearest even (R68, R74, R75). -/
def addExt42 (a b : BitVec 42) : BitVec 42 := numToExt42 ((ext42ToNum a).add (ext42ToNum b))

/-- FP32 vector-unit arithmetic (R72): one exact operation, one rounding; the NaN payload is the operands'. -/
def fp32Add (a b : W32) : W32 := numToFp32 (Config.vuNan 1 a b 0) ((fp32ToNum a).add (fp32ToNum b))
def fp32Sub (a b : W32) : W32 := numToFp32 (Config.vuNan 2 a b 0) ((fp32ToNum a).add (fp32ToNum b).neg)
def fp32Mul (a b : W32) : W32 := numToFp32 (Config.vuNan 3 a b 0) ((fp32ToNum a).mul (fp32ToNum b))
def fp32Fma (a b c : W32) : W32 :=
  numToFp32 (Config.vuNan 4 a b c) (((fp32ToNum a).mul (fp32ToNum b)).add (fp32ToNum c))
def fp32Max (a b : W32) : W32 := numToFp32 (Config.vuNan 5 a b 0) ((fp32ToNum a).maximum (fp32ToNum b))
def fp32Min (a b : W32) : W32 := numToFp32 (Config.vuNan 6 a b 0) ((fp32ToNum a).minimum (fp32ToNum b))
def fp32Lt (a b : W32) : Bool := (fp32ToNum a).lt (fp32ToNum b)
def fp32Eq (a b : W32) : Bool := (fp32ToNum a).eq (fp32ToNum b)

def bf16NanOf (op : Nat) (a b c : BitVec 16) : BitVec 16 :=
  (Config.vuNan op (a.setWidth 32 <<< 16) (b.setWidth 32 <<< 16) (c.setWidth 32 <<< 16)).extractLsb' 16 16

def bf16Add (a b : BitVec 16) : BitVec 16 := numToBf16 (bf16NanOf 1 a b 0) ((bf16ToNum a).add (bf16ToNum b))
def bf16Sub (a b : BitVec 16) : BitVec 16 := numToBf16 (bf16NanOf 2 a b 0) ((bf16ToNum a).add (bf16ToNum b).neg)
def bf16Mul (a b : BitVec 16) : BitVec 16 := numToBf16 (bf16NanOf 3 a b 0) ((bf16ToNum a).mul (bf16ToNum b))
def bf16Fma (a b c : BitVec 16) : BitVec 16 :=
  numToBf16 (bf16NanOf 4 a b c) (((bf16ToNum a).mul (bf16ToNum b)).add (bf16ToNum c))
def bf16Max (a b : BitVec 16) : BitVec 16 := numToBf16 (bf16NanOf 5 a b 0) ((bf16ToNum a).maximum (bf16ToNum b))
def bf16Min (a b : BitVec 16) : BitVec 16 := numToBf16 (bf16NanOf 6 a b 0) ((bf16ToNum a).minimum (bf16ToNum b))

/-- The correctly rounded quotient a / b of two finite non-zero magnitudes, to the lower or the upper FP32 neighbour. -/
def divMag (up : Bool) (neg : Bool) (m1 : Nat) (e1 : Int) (m2 : Nat) (e2 : Int) : Num :=
  let k := 64 + bitLen m2
  let q := (m1 <<< k) / m2
  let inexact := (m1 <<< k) % m2 ≠ 0
  let e := e1 - e2 - k
  -- one more bit marks a non-zero remainder, so that the neighbours are taken about the exact quotient
  let mant := 2 * q + (if inexact then 1 else 0)
  let lsb := max (e - 1 + bitLen mant - 24) (-149)
  if lsb ≤ e - 1 then .fin neg mant (e - 1)
  else
    let d := (lsb - (e - 1)).toNat
    let fl := mant >>> d
    if mant % 2 ^ d = 0 then .fin neg fl lsb
    else .fin neg (if up then fl + 1 else fl) lsb

end Sys2Proof.Machine
end

