-- ==== Sys2Proof/Types/Formats.lean ====
section
/-! DEFINITION. Types/Formats.lean: the format codes of elements and tiles (Table 2.1, R60, R62). -/

namespace Sys2Proof

/-- The MX element formats (Table 2.1). -/
inductive MxFmt where
  | e4m3 | e5m2 | e2m3 | e3m2 | e2m1 | int8
  deriving DecidableEq, Repr

/-- A format that an operation can name: an MX format, BF16, FP32 or EXT42. -/
inductive Fmt where
  | mx (f : MxFmt)
  | bf16
  | fp32
  | ext42
  deriving DecidableEq, Repr

/-- The format of a 4-bit code; none for a reserved code (Table 2.1, R60, R62). -/
def Fmt.ofCode (c : BitVec 4) : Option Fmt :=
  match c.toNat with
  | 0 => some (.mx .e4m3)
  | 1 => some (.mx .e5m2)
  | 2 => some (.mx .e2m3)
  | 3 => some (.mx .e3m2)
  | 4 => some (.mx .e2m1)
  | 5 => some (.mx .int8)
  | 8 => some .bf16
  | 9 => some .fp32
  | 10 => some .ext42
  | _ => none

def MxFmt.code : MxFmt → BitVec 4
  | .e4m3 => 0 | .e5m2 => 1 | .e2m3 => 2 | .e3m2 => 3 | .e2m1 => 4 | .int8 => 5

def Fmt.code : Fmt → BitVec 4
  | .mx f => f.code
  | .bf16 => 8 | .fp32 => 9 | .ext42 => 10

end Sys2Proof
end

