-- ==== Sys2Proof/Machine/Mx.lean ====
section
/-! DEFINITION. Machine/Mx.lean: MX elements and scales, the exact block integer, its one conversion into EXT42, and output rounding (chapter 2). -/

namespace Sys2Proof.Machine

/-- Element width in bits (Table 2.1). -/
def mxBits : MxFmt → Nat
  | .e4m3 | .e5m2 | .int8 => 8
  | .e2m3 | .e3m2 => 6
  | .e2m1 => 4

/-- Exponent field bits, mantissa bits and bias; MXINT8 has none (Table 2.1). -/
def mxLayout : MxFmt → Nat × Nat × Nat
  | .e4m3 => (4, 3, 7) | .e5m2 => (5, 2, 15) | .e2m3 => (2, 3, 1) | .e3m2 => (3, 2, 3) | .e2m1 => (2, 1, 1)
  | .int8 => (0, 0, 0)

/-- Exponent of the integer LSB (Table 2.1). -/
def mxLsb : MxFmt → Int
  | .e4m3 => -9 | .e5m2 => -16 | .e2m3 => -3 | .e3m2 => -4 | .e2m1 => -1 | .int8 => -6

/-- emax (Table 2.1). -/
def mxEmax : MxFmt → Int
  | .e4m3 => 8 | .e5m2 => 15 | .e2m3 => 2 | .e3m2 => 4 | .e2m1 => 2 | .int8 => 0

/-- MACs per cell per cycle of an MX format (R64). -/
def mxRate : MxFmt → Nat
  | .e4m3 | .e5m2 | .int8 => 1
  | .e2m3 | .e3m2 => 2
  | .e2m1 => 4

/-- The largest finite magnitude in integer LSBs (Table 2.1); MXINT8 outputs stop at 127 (R57). -/
def mxMaxInt : MxFmt → Nat
  | .e4m3 => 448 * 2 ^ 9
  | .e5m2 => 57344 * 2 ^ 16
  | .e2m3 => 60
  | .e3m2 => 28 * 2 ^ 4
  | .e2m1 => 12
  | .int8 => 127

/-- An element as a block sees it: its exact signed integer in LSBs, a signed infinity, or NaN (R56, R66, R73). -/
inductive Elem where
  | int (i : Int)
  | inf (neg : Bool)
  | nan
  deriving DecidableEq, Repr

/-- The element of a code (Table 2.1). -/
def mxElem (f : MxFmt) (c : Nat) : Elem :=
  match f with
  | .int8 => .int ((BitVec.ofNat 8 c).toInt)
  | _ =>
    let (eb, mb, _) := mxLayout f
    let neg := c / 2 ^ (eb + mb) % 2 = 1
    let e := c / 2 ^ mb % 2 ^ eb
    let m := c % 2 ^ mb
    let mag : Nat := if e = 0 then m else (2 ^ mb + m) * 2 ^ (e - 1)
    let fin : Elem := .int (if neg then -(mag : Int) else (mag : Int))
    match f with
    | .e4m3 => if e = 15 ∧ m = 7 then .nan else fin
    | .e5m2 => if e = 31 then (if m = 0 then .inf (decide neg) else .nan) else fin
    | _ => fin

/-- What one block of products has gathered: the exact sum and the specials of Table 2.4. -/
structure BlockSum where
  sum : Int := 0
  nan : Bool := false
  pinf : Bool := false
  ninf : Bool := false
  deriving DecidableEq, Repr

/-- One product entered into its block (R66, Table 2.4 orders 2 to 5). -/
def BlockSum.mac (s : BlockSum) (a b : Elem) : BlockSum :=
  match a, b with
  | .nan, _ => { s with nan := true }
  | _, .nan => { s with nan := true }
  | .inf n1, .inf n2 => if n1 = n2 then { s with pinf := true } else { s with ninf := true }
  | .inf n, .int i => if i = 0 then { s with nan := true } else if n = decide (i < 0) then { s with pinf := true } else { s with ninf := true }
  | .int i, .inf n => if i = 0 then { s with nan := true } else if n = decide (i < 0) then { s with pinf := true } else { s with ninf := true }
  | .int i, .int j => { s with sum := s.sum + i * j }

/-- The block converted into EXT42 under the first rule of Table 2.4 that applies (R67, R73). -/
def blockToExt42 (fa fb : MxFmt) (ca cb : Byte) (s : BlockSum) : BitVec 42 :=
  if ca = 0xFF ∨ cb = 0xFF then ext42Nan
  else if s.nan then ext42Nan
  else if s.pinf ∧ s.ninf then ext42Nan
  else if s.pinf then numToExt42 (.inf false)
  else if s.ninf then numToExt42 (.inf true)
  else numToExt42 (.fin (decide (s.sum < 0)) s.sum.natAbs (mxLsb fa + mxLsb fb + (ca.toNat - 127) + (cb.toNat - 127)))

/-- The exact product of two BF16 elements in EXT42 (R70, R74). -/
def bf16Product (a b : BitVec 16) : BitVec 42 := numToExt42 ((bf16ToNum a).mul (bf16ToNum b))

/-- floor of log2 of a finite non-zero magnitude. -/
def magLog2 (m : Nat) (e : Int) : Int := e + bitLen m - 1

/-- The block scale exponent X of R77 from the block's values; none when no value is finite and non-zero. -/
def mxScaleExp (f : MxFmt) (vs : List Num) : Option Int :=
  let logs := vs.filterMap fun v => match v with
    | .fin _ m e => if m = 0 then none else some (magLog2 m e)
    | _ => none
  match logs with
  | [] => none
  | l :: ls => some (max (-127) (min 127 (ls.foldl max l - mxEmax f)))

/-- The code of a finite magnitude of q integer LSBs, q at most the largest finite (R56). -/
def mxCodeOfInt (f : MxFmt) (neg : Bool) (q : Nat) : Nat :=
  match f with
  | .int8 => ((if neg then BitVec.ofInt 8 (-(q : Int)) else BitVec.ofNat 8 q)).toNat
  | _ =>
    let (eb, mb, _) := mxLayout f
    let sgn := if neg then 2 ^ (eb + mb) else 0
    if q < 2 ^ mb then sgn + q
    else
      let e := bitLen q - mb
      sgn + e * 2 ^ mb + (q / 2 ^ (e - 1) - 2 ^ mb)

/-- Rounds v times 2^(-X) onto the element grid and saturates (R78): the code. -/
def mxQuantElem (f : MxFmt) (rule : Rounding) (x : Int) (neg : Bool) (m : Nat) (e : Int) : Nat :=
  if m = 0 then 0 else
  let es := e - x
  let mb := match f with | .int8 => 8 | _ => (mxLayout f).2.1 + 1
  let lsb := match f with
    | .int8 => mxLsb f
    | _ => max (es + bitLen m - mb) (mxLsb f)
  let q := roundMag rule m es lsb
  -- in units of the integer LSB
  let qi := q <<< (lsb - mxLsb f).toNat
  let qc := min qi (mxMaxInt f)
  mxCodeOfInt f (neg && qc != 0) qc

/-- The element code of one output value of an MX block of scale exponent X (Tables 2.5 and 2.6). -/
def mxOutElem (f : MxFmt) (rule : Rounding) (sat : Bool) (x : Int) : Num → Nat
  | .fin n m e => mxQuantElem f rule x n m e
  | .nan => match f with
    | .e4m3 | .e5m2 => 0x7F
    | _ => 0
  | .inf n =>
    match f, sat with
    | .e4m3, false => 0x7F
    | .e5m2, false => if n then 0xFC else 0x7C
    | _, true => mxCodeOfInt f n (mxMaxInt f)
    | _, false => 0

/-- Whether a value turns an MXFP6, MXFP4 or MXINT8 block into NaN (R80, Table 2.6). -/
def mxPoisonsBlock (f : MxFmt) (sat : Bool) : Num → Bool
  | .nan => match f with | .e4m3 | .e5m2 => false | _ => true
  | .inf _ => match f with | .e4m3 | .e5m2 => false | _ => !sat
  | .fin _ _ _ => false

/-- One block of up to 32 values with each value's rounding: the scale code and the element codes (R77 to R80). -/
def mxQuantBlock (f : MxFmt) (sat : Bool) (vs : List (Rounding × Num)) : Byte × List Nat :=
  if vs.any (fun v => mxPoisonsBlock f sat v.2) then (0xFF, vs.map fun _ => 0)
  else
    match mxScaleExp f (vs.map (·.2)) with
    | none => (0x7F, vs.map fun v => mxOutElem f v.1 sat 0 v.2)
    | some x => (BitVec.ofInt 8 (x + 127), vs.map fun v => mxOutElem f v.1 sat x v.2)

/-- An FP32 output of the array (Table 2.6, R75). -/
def outFp32 (rule : Rounding) (sat : Bool) : Num → W32
  | .nan => fp32Nan
  | .inf n => ieeeInf fmtFp32 32 n
  | .fin n m e =>
    if m = 0 then 0 else
    match roundFmt fmtFp32 rule m e with
    | none =>
      if sat || rule = .rtz then (if n then 0xFF7FFFFF else 0x7F7FFFFF) else ieeeInf fmtFp32 32 n
    | some (q, l) => ieeeOfMag fmtFp32 32 (n && q != 0) q l

/-- A BF16 output of the array (Table 2.6, R75). -/
def outBf16 (rule : Rounding) (sat : Bool) : Num → BitVec 16
  | .nan => bf16Nan
  | .inf n => ieeeInf fmtBf16 16 n
  | .fin n m e =>
    if m = 0 then 0 else
    match roundFmt fmtBf16 rule m e with
    | none =>
      if sat || rule = .rtz then (if n then 0xFF7F else 0x7F7F) else ieeeInf fmtBf16 16 n
    | some (q, l) => ieeeOfMag fmtBf16 16 (n && q != 0) q l

end Sys2Proof.Machine
end

