-- ==== Sys2Proof/Machine/Tiles.lean ====
section
/-! DEFINITION. Machine/Tiles.lean: tile layouts, transposition, padding, fingerprints and residues (R59, R88 to R91, R163 to R165, R186 to R189). -/

namespace Sys2Proof.Machine

/-- Element width in bits of a format, in its container (Table 4.2, R62). -/
def fmtBits : Fmt → Nat
  | .mx f => mxBits f
  | .bf16 => 16
  | .fp32 => 32
  | .ext42 => 64

/-- Bytes of the element area (Table 4.2). -/
def elemArea (f : Fmt) : Nat := 128 * 128 * fmtBits f / 8

/-- Bytes of the scale area (Table 4.2). -/
def scaleArea : Fmt → Nat
  | .mx _ => 512
  | _ => 0

def tileBytes (f : Fmt) : Nat := elemArea f + scaleArea f

/-- Tile size in 512 B units (Table 4.2). -/
def tileUnits (f : Fmt) : Nat := tileBytes f / 512

/-- Elements per 16-bit weight word, for the formats that have an X-order (R164). -/
def xWidth : Fmt → Option Nat
  | .mx .e4m3 | .mx .e5m2 | .mx .int8 | .bf16 => some 1
  | .mx .e2m3 | .mx .e3m2 => some 2
  | .mx .e2m1 => some 4
  | .fp32 | .ext42 => none

/-- The code of position e of line l in the element area v, in L-order (R164). -/
def codeL (f : Fmt) (v l e : Nat) : Nat := bitsOf v (fmtBits f * (128 * l + e)) (fmtBits f)

/-- The code of position e of line l in X-order with w elements a word (R164). -/
def codeX (f : Fmt) (w v l e : Nat) : Nat :=
  bitsOf v (fmtBits f * ((128 * (e / w) + l) * w + e % w)) (fmtBits f)

/-- The code of a position in either order. -/
def codeAt (f : Fmt) (xorder : Bool) (v l e : Nat) : Nat :=
  if xorder then codeX f ((xWidth f).getD 1) v l e else codeL f v l e

/-- Packs codes of b bits from bit 0 up (R59). -/
def packCodes (b : Nat) : List Nat → Nat
  | [] => 0
  | c :: cs => c % 2 ^ b + 2 ^ b * packCodes b cs

/-- The codes of an element area in L-order: line by line, positions rising. -/
def codesInL (g : Nat → Nat → Nat) : List Nat :=
  ((List.range 128).map fun l => (List.range 128).map fun e => g l e).flatten

/-- The codes of an element area in X-order: row by row, lines rising, w positions each. -/
def codesInX (w : Nat) (g : Nat → Nat → Nat) : List Nat :=
  ((List.range (128 / w)).map fun q =>
    ((List.range 128).map fun l => (List.range w).map fun i => g l (w * q + i)).flatten).flatten

/-- The element area holding the codes g in an order. -/
def packTile (f : Fmt) (xorder : Bool) (g : Nat → Nat → Nat) : List Byte :=
  let cs := if xorder then codesInX ((xWidth f).getD 1) g else codesInL g
  leBytes (elemArea f) (packCodes (fmtBits f) cs)

/-- A tile in the other order; its scales stay (R83, R164). -/
def transposeTile (f : Fmt) (fromX : Bool) (t : List Byte) : List Byte :=
  let v := leNat (t.take (elemArea f))
  packTile f (!fromX) (codeAt f fromX v) ++ t.drop (elemArea f)

/-- A tile in L-order, whatever order it is in. -/
def toL (f : Fmt) (xorder : Bool) (t : List Byte) : List Byte :=
  if xorder then transposeTile f true t else t

/-- KLAST padding (R187): zero elements from position k on, scale 0x7F for blocks wholly beyond. -/
def padTile (f : Fmt) (xorder : Bool) (k : Nat) (t : List Byte) : List Byte :=
  if k = 0 then t else
  let v := leNat (t.take (elemArea f))
  let el := packTile f xorder (fun l e => if k ≤ e then 0 else codeAt f xorder v l e)
  let sc := t.drop (elemArea f)
  el ++ ((List.range sc.length).map fun i =>
    if k ≤ 32 * (i % 4) then 0x7F else sc.getD i 0)

/-- One byte into the CRC-64 of polynomial 0x42F0_E1EB_A9EA_3693, most significant bit first (R189). -/
def crcByte (crc : W64) (b : Byte) : W64 :=
  (List.range 8).foldl (fun c _ => if c.getLsbD 63 then (c <<< 1) ^^^ 0x42F0E1EBA9EA3693 else c <<< 1)
    (crc ^^^ (b.setWidth 64 <<< 56))

/-- CRC-64 with initial value 0 and no final inversion (R189). -/
def crc64 (bs : List Byte) : W64 := bs.foldl crcByte 0

/-- A tile's fingerprint: over its bytes in L-order (R186, R189). -/
def fingerprint (f : Fmt) (xorder : Bool) (t : List Byte) : W64 := crc64 (toL f xorder t)

/-- The modulus of the residues (R88). -/
def residueMod : Nat := 65521

/-- The integer of an element for the residues: Table 2.1's, or a BF16 element's signed significand (R66, R91).
FP32 and EXT42 elements are not array operands and count 0. -/
def elemInt (f : Fmt) (c : Nat) : Int :=
  match f with
  | .mx m => match mxElem m c with
    | .int i => i
    | _ => 0
  | .bf16 =>
    let frac := c % 128
    let mag : Int := if c / 128 % 256 = 0 then frac else 128 + frac
    if c / 32768 % 2 = 1 then -mag else mag
  | _ => 0

/-- The residue of each of the 128 positions: the sum over the tile's 128 lines (R89, R159). -/
def tileResidues (f : Fmt) (xorder : Bool) (t : List Byte) : List (BitVec 16) :=
  let v := leNat (t.take (elemArea f))
  (List.range 128).map fun e =>
    let s := (List.range 128).foldl (fun (a : Int) l => a + elemInt f (codeAt f xorder v l e)) 0
    BitVec.ofNat 16 ((s % (residueMod : Int)).toNat)

/-- The tag of a tile's bytes in an order (R159, R160). -/
def tagOf (f : Fmt) (xorder : Bool) (t : List Byte) : TileTag := ⟨f.code, xorder, tileResidues f xorder t⟩

/-- The tags whose tiles meet a run of bytes of WS. -/
def tagMeets (a n : Nat) (p : Nat × TileTag) : Bool :=
  let start := 512 * p.1
  let len := match Fmt.ofCode p.2.fmt with
    | some f => tileBytes f
    | none => 0
  start < a + n && a < start + len

/-- Clears the tags of the units a raw write covers (R160). -/
def clearTags (tags : Tab TileTag) (a n : Nat) : Tab TileTag := tags.filter fun p => !tagMeets a n p

/-- Tags a tile written at WS byte address a. -/
def setTag (tags : Tab TileTag) (a : Nat) (f : Fmt) (xorder : Bool) (t : List Byte) : Tab TileTag :=
  let cleared := clearTags tags a t.length
  cleared.filter (fun p => p.1 < a / 512) ++ [(a / 512, tagOf f xorder t)] ++ cleared.filter (fun p => a / 512 < p.1)

end Sys2Proof.Machine
end

