-- ==== Sys2Proof/Machine/Desc.lean ====
section
/-! DEFINITION. Machine/Desc.lean: the fields of a pump descriptor (Table 4.8) and the ranges it names. -/

namespace Sys2Proof.Machine

def pdKind (d : BitVec 512) : Nat := fld d 0 8
def pdXp (d : BitVec 512) : Bool := d.getLsbD 8
def pdFpw (d : BitVec 512) : Bool := d.getLsbD 9
def pdFpc (d : BitVec 512) : Bool := d.getLsbD 10
def pdFmtCode (d : BitVec 512) : BitVec 4 := d.extractLsb' 16 4
def pdRaw (d : BitVec 512) : Bool := pdFmtCode d == 0xF
def pdKlast (d : BitVec 512) : Nat := fld d 20 8
def pdCount (d : BitVec 512) : Nat := fld d 32 32
def pdSrc (d : BitVec 512) : W64 := d.extractLsb' 64 64
def pdDst (d : BitVec 512) : W64 := d.extractLsb' 128 64
def pdSstride (d : BitVec 512) : Nat := fld d 192 32
def pdDstride (d : BitVec 512) : Nat := fld d 224 32
def pdFpaddr (d : BitVec 512) : W64 := d.extractLsb' 256 64
/-- Reserved bits of every kind (Table 4.8). -/
def pdRsv (d : BitVec 512) : Bool := fld d 11 5 != 0 || fld d 28 4 != 0 || fld d 320 64 != 0

/-- The descriptor's tile format; none for raw bytes and for reserved codes. -/
def pdFmt (d : BitVec 512) : Option Fmt := if pdRaw d then none else Fmt.ofCode (pdFmtCode d)

/-- Bytes of one element of the transfer: the tile size, or the whole count for raw bytes. -/
def pdTile (d : BitVec 512) : Nat := match pdFmt d with | some f => tileBytes f | none => pdCount d
/-- Elements of the transfer: tiles, or one raw run. -/
def pdTiles (d : BitVec 512) : Nat := if pdRaw d then (if pdCount d = 0 then 0 else 1) else pdCount d

/-- The byte count of a descriptor, as its bound uses it (R185). -/
def pdBytes (d : BitVec 512) : Nat :=
  if pdKind d = 9 || pdKind d = 10 then 0 else pdTiles d * pdTile d

/-- A stride; 0 means the tile size (Table 4.8). -/
def strideOf (v tile : Nat) : Nat := if v = 0 then tile else v

/-- The start of each tile from a base with a stride. -/
def runStarts (base stride n : Nat) : List Nat := (List.range n).map fun i => base + stride * i

def srcRuns (d : BitVec 512) : List (Nat × Nat) :=
  (runStarts (pdSrc d).toNat (strideOf (pdSstride d) (pdTile d)) (pdTiles d)).map fun a => (a, pdTile d)
def dstRuns (d : BitVec 512) : List (Nat × Nat) :=
  (runStarts (pdDst d).toNat (strideOf (pdDstride d) (pdTile d)) (pdTiles d)).map fun a => (a, pdTile d)
/-- The fingerprint array, when the descriptor names one (R190, R191); FPSCAN always does. -/
def fpRuns (d : BitVec 512) : List (Nat × Nat) :=
  if pdFpw d || pdFpc d || pdKind d = 0x0B then [((pdFpaddr d).toNat, 8 * pdTiles d)] else []

/-- Ranges of room memory that the descriptor reads, and that it writes (Table 4.9). -/
def memReads (d : BitVec 512) : List (Nat × Nat) :=
  (if pdKind d = 2 || pdKind d = 4 || pdKind d = 0x0B then srcRuns d else []) ++ (if pdFpc d || pdKind d = 0x0B then fpRuns d else [])
def memWrites (d : BitVec 512) : List (Nat × Nat) :=
  (if pdKind d = 3 || pdKind d = 4 || pdKind d = 7 then dstRuns d else []) ++ (if pdFpw d then fpRuns d else [])
/-- Ranges of WS that the descriptor reads, and that it writes. -/
def wsReads (d : BitVec 512) : List (Nat × Nat) := if pdKind d = 1 || pdKind d = 3 || pdKind d = 5 then srcRuns d else []
def wsWrites (d : BitVec 512) : List (Nat × Nat) :=
  if pdKind d = 1 || pdKind d = 2 || pdKind d = 6 || pdKind d = 8 then dstRuns d else []

/-- The page size (R12, Table 0.8). -/
def pageBytes : Nat := 65536

/-- The pages that a range meets. -/
def pagesOf (r : Nat × Nat) : List Nat :=
  if r.2 = 0 then [] else
    (List.range ((r.1 + r.2 - 1) / pageBytes - r.1 / pageBytes + 1)).map (r.1 / pageBytes + ·)

/-- Two ranges share a byte. -/
def meets (r q : Nat × Nat) : Bool := r.1 < q.1 + q.2 && q.1 < r.1 + r.2 && r.2 != 0 && q.2 != 0

/-- Bytes of a range that lie in a page. -/
def bytesInPage (r : Nat × Nat) (p : Nat) : Nat :=
  min (r.1 + r.2) ((p + 1) * pageBytes) - max r.1 (p * pageBytes)

end Sys2Proof.Machine
end

