-- ==== Sys2Proof/Types/Board.lean ====
section
/-! DEFINITION. Types/Board.lean: pins, rails, straps and the start-up sequencer of the always-on housekeeping (chapter 18). -/

namespace Sys2Proof

structure Board where
  /-- VAUX is in range. -/
  vaux : Bool := false
  /-- SYS_RESET_N is high. -/
  resetHigh : Bool := false
  /-- PWR_STATUS and PWR_LIMIT: the sequencer's stage, rails, throttle steps and limits (R741). -/
  pwr : PwrStatus := {}
  boot : FyBoot := {}
  energy : PwrEnergy := {}
  lasers : Tab PwrLaser := []
  /-- OPERATION is on for the VCORE loops 0 to 4 (R716). -/
  loops : BitVec 5 := 0
  /-- The foyer core and the host port logic run (stage 4). -/
  foyerOn : Bool := false
  /-- The foyer firmware runs (end of stage 5). -/
  firmware : Bool := false
  /-- Channel controllers released so far, in order (stage 5). -/
  released : Nat := 0
  /-- The boot image read has been asked for with BOOT_SEL 2 (R744): through port B. -/
  goPort : Option Bool := none
  /-- Stack pairs powered, and stacks that have ended training (stage 7). -/
  pairs : Nat := 0
  trained : Nat := 0
  readyOut : Bool := false
  /-- THERMTRIP_N has fallen; it stays low until VAUX is removed (R735). -/
  thermtrip : Bool := false
  /-- A VCORE_PG time-out, a boot without an image or a VCORE loss holds ALERT_N low (R723, R724, R730). -/
  faultStop : Bool := false
  pmbAlert : Bool := false
  /-- Internal down-spread is applied (R733). -/
  spread : Bool := false
  /-- The Porch's latched VCORE falls and thermal trips, with their microsecond, not yet written to the fault history (R694, R735). -/
  latches : List Nat := []
  /-- Porch millisecond of the last SYS_RESET_N rise (FY_BOOT.BOOT_MS). -/
  riseMs : Nat := 0
  deriving DecidableEq, Repr

end Sys2Proof
end

