-- ==== Sys2Proof/Machine/State.lean ====
section
/-! DEFINITION. Machine/State.lean: the machine's state, its reset, and the reasons a step can stop. -/

namespace Sys2Proof.Machine

/-- Why a step stops with a fault. -/
inductive Fault where
  /-- Raised by REGISTER_WRITE for a register, function, mailbox or vector number beyond the array that the spec gives: no such register exists. Safe: the machine stops where the hardware has nothing to write. -/
  | noSuchRegister
  deriving DecidableEq, Repr

/-- Why a step is refused. -/
inductive Refusal where
  /-- Raised by the dispatcher alone, for a command that has no meaning yet. Safe: nothing can be proved of such a command. -/
  | notModelled (mnemonic : String)
  deriving DecidableEq, Repr

/-- The foyer's management registers and mailboxes (chapters 1, 14 to 17). -/
structure Foyer where
  dev : FyDevStatus := {}
  width : FyArrWidth := {}
  cellar : Tab FyCellar := []
  vfSuite : Tab FyVfSuite := []
  secDebug : SecDebug := {}
  roots : Tab SecProgRoot := []
  ckpHost : Quad CkpHost := Quad.same {}
  replace : FltReplace := {}
  fns : Tab FnState := []
  /-- Posts accepted before start-up ended, oldest first (R726). -/
  held : List (HostOp × Accepted) := []
  waits : List Waiting := []
  loads : List Load := []
  /-- Drains started since the last SYS_RESET_N (Table 15.7). -/
  drains : Nat := 0
  /-- Host ports A and B are in service (R47, R688); FY_DEV_STATUS shows it once the channel controllers are up (R54). -/
  linkA : Bool := false
  linkB : Bool := false
  /-- The module management block is lost (R28). -/
  mgmtLost : Bool := false
  /-- IDE is set up on ports A and B (R561). -/
  ideA : Bool := false
  ideB : Bool := false
  /-- The debug per-boot certificates carry DEBUG (R577). -/
  debugOpen : Bool := false
  deriving DecidableEq, Repr

/-- Everything beyond the always-on housekeeping: foyer, channels, suites, and what has been sent out. -/
structure Device where
  fy : Foyer := {}
  chans : Quad Channel
  suites : Quad SchSuite := Quad.same {}
  /-- Messages sent, newest first (the model's own). -/
  out : List OutMsg := []
  /-- How many free values have been drawn (the model's own). -/
  free : Nat := 0
  deriving DecidableEq, Repr

structure State where
  /-- Commands that wait, first in, first out. -/
  pending : List Instr
  board : Board
  dev : Device
  deriving DecidableEq, Repr

/-- A channel after channel reset, with nothing in its rooms, memories and fault history. -/
def Channel.reset (c : Ch) : Channel := { node := { channel := BitVec.ofNat 2 c.num } }

def Device.reset : Device := { chans := ⟨Channel.reset .c0, Channel.reset .c1, Channel.reset .c2, Channel.reset .c3⟩ }

/-- Before VAUX rises: every rail off, every register at its reset value, no room, nothing in any memory. -/
def State.reset : State := { pending := [], board := {}, dev := Device.reset }

end Sys2Proof.Machine
end

