-- ==== Sys2Proof/Machine/Ops.lean ====
section
/-! DEFINITION. Machine/Ops.lean: the named operations over channels, rooms and suites, time, fault records, service status, event queues,
MSI-X vectors and result slots, which every meaning shares. -/

namespace Sys2Proof.Machine

/-! ## Lifting: a meaning acts on the device, or on the device and the board -/

/-- The outcome of a command that goes on. -/
abbrev Out := Host.Outcome State Fault Refusal

/-- A command whose effect lies in the device alone. -/
def onDev (f : Device → Device) (s : State) : Out := .next { s with dev := f s.dev }

/-- A command whose effect lies in the device, read beside the board. -/
def onDevB (f : Board → Device → Device) (s : State) : Out := .next { s with dev := f s.board s.dev }

/-- A command whose effect lies in the board and the device. -/
def onBoth (f : Board → Device → Board × Device) (s : State) : Out :=
  .next { s with board := (f s.board s.dev).1, dev := (f s.board s.dev).2 }

/-! ## Channels, rooms, suites -/

def chanOf (d : Device) (c : Ch) : Channel := d.chans.get c
def setChan (d : Device) (c : Ch) (x : Channel) : Device := { d with chans := d.chans.set c x }
def modChan (d : Device) (c : Ch) (f : Channel → Channel) : Device := setChan d c (f (chanOf d c))
def modChans (d : Device) (cs : List Ch) (f : Ch → Channel → Channel) : Device :=
  cs.foldl (fun d c => modChan d c (f c)) d

def roomOf (x : Channel) (n : Nat) : Room := tget {} x.rooms n
def setRoom (x : Channel) (n : Nat) (r : Room) : Channel := { x with rooms := tset {} x.rooms n r }
def modRoomC (x : Channel) (n : Nat) (f : Room → Room) : Channel := setRoom x n (f (roomOf x n))
def modRoom (d : Device) (c : Ch) (n : Nat) (f : Room → Room) : Device := modChan d c (fun x => modRoomC x n f)

/-- Channels whose bit is set in a mask. -/
def chansOf (mask : BitVec 4) : List Ch := Ch.all.filter fun c => mask.getLsbD c.num

def suiteOf (d : Device) (s : Ch) : SchSuite := d.suites.get s
def modSuite (d : Device) (s : Ch) (f : SchSuite → SchSuite) : Device := { d with suites := d.suites.set s (f (suiteOf d s)) }
/-- A suite exists while its MASK is not 0 (R521). -/
def suiteExists (d : Device) (s : Ch) : Bool := (suiteOf d s).mask != 0
def suiteChans (d : Device) (s : Ch) : List Ch := chansOf (suiteOf d s).mask
def leadOf (d : Device) (s : Ch) : Ch := Ch.ofNum (suiteOf d s).lead.toNat
/-- The suite of a channel (R519). -/
def suiteOfChan (d : Device) (c : Ch) : Option Ch := Ch.all.find? fun s => (suiteOf d s).mask.getLsbD c.num
/-- A room's lead copy. -/
def leadRoom (d : Device) (s : Ch) (n : Nat) : Room := roomOf (chanOf d (leadOf d s)) n
/-- Changes a room on every channel of its suite. -/
def modSuiteRoom (d : Device) (s : Ch) (n : Nat) (f : Room → Room) : Device :=
  modChans d (suiteChans d s) fun _ x => modRoomC x n f
def modLeadRoom (d : Device) (s : Ch) (n : Nat) (f : Room → Room) : Device := modRoom d (leadOf d s) n f
def modLead (d : Device) (s : Ch) (f : Channel → Channel) : Device := modChan d (leadOf d s) f

/-- The room states of Table 13.3. -/
def rsFree : BitVec 3 := 0
def rsCreated : BitVec 3 := 1
def rsLoaded : BitVec 3 := 2
def rsStarted : BitVec 3 := 3
def rsStopped : BitVec 3 := 4
def rsFaulted : BitVec 3 := 5

def roomState (r : Room) : BitVec 3 := r.cfg.state
def isStarted (r : Room) : Bool := r.cfg.state == rsStarted
/-- Serving and generator rooms keep streams (R524). -/
def servesStreams (r : Room) : Bool := r.cfg.kind == 0 || r.cfg.kind == 1
/-- Learner and fine-tune rooms train. -/
def trains (r : Room) : Bool := r.cfg.kind == 2 || r.cfg.kind == 3

def roomIndexes : List Nat := List.range 64

/-- Whether any room of a suite is not FREE. -/
def suiteHasRoom (d : Device) (s : Ch) : Bool := roomIndexes.any fun n => roomState (leadRoom d s n) != rsFree
/-- Whether any room of the device is not FREE. -/
def anyRoom (d : Device) : Bool := Ch.all.any fun s => suiteExists d s && suiteHasRoom d s

/-! ## Time -/

/-- Microseconds and milliseconds of a channel's Porch (R693). -/
def nowUs (x : Channel) : Nat := x.porchUs
def nowMs (x : Channel) : Nat := x.porchUs / 1000
/-- The foyer's time is C0's Porch counter. -/
def devUs (d : Device) : Nat := nowUs d.chans.c0
def devMs (d : Device) : Nat := nowMs d.chans.c0

/-! ## Free values -/

/-- Draws the next free value. -/
def drawFree (d : Device) : Nat × Device := (d.free, { d with free := d.free + 1 })

/-! ## Messages to the outside -/

def send (d : Device) (m : OutMsg) : Device := { d with out := m :: d.out }

/-! ## Nodes and causal order (R480, R511) -/

/-- A channel's node ID. -/
def nodeOf (x : Channel) : BitVec 18 := x.node.device ++ x.node.channel

/-- The causal counter rises by 1 at a send or a recorded event (R511). -/
def causalUp (x : Channel) : Channel := { x with node := { x.node with count := x.node.count + 1 } }

/-- The causal counter at the acceptance of a FIRST frame (R511). -/
def causalRecv (x : Channel) (stamp : W64) : Channel :=
  { x with node := { x.node with count := (if x.node.count < stamp then stamp else x.node.count) + 1 } }

/-! ## Fault records (R600) -/

/-- The life clock (R599). -/
def lifeMs (x : Channel) : Nat := x.hist.lifeBase + (nowMs x - x.hist.lifeAtMs)

/-- Records an event in the mirrored buffer with its causal stamp, node and life clock (R598, R600); KIND 1 raises UNCORR and KIND 9 PERMANENT. -/
def record (x : Channel) (r : FaultRec) : Channel :=
  let y := causalUp x
  let e : FaultRec := { r with causal := y.node.count, node := nodeOf y, lifeMs := BitVec.ofNat 64 (lifeMs y) }
  { y with
    hist := { y.hist with
      buffer := e :: y.hist.buffer,
      uncorr := if r.kind = 1 then satInc y.hist.uncorr else y.hist.uncorr,
      permanent := if r.kind = 9 then satInc y.hist.permanent else y.hist.permanent },
    flt := { y.flt with
      uncorr := if r.kind = 1 then satInc y.flt.uncorr else y.flt.uncorr,
      permanent := if r.kind = 9 then satInc y.flt.permanent else y.flt.permanent } }

/-! ## Service of a channel and of the device (R47 to R54) -/

/-- The array's working width in units of 32 columns (R48, R53). -/
def arrayWidth (x : Channel) : Nat :=
  if 32 < x.failedRows.length then 0
  else if x.failedCols.length ≤ 32 then 16
  else if x.failedCols.length ≤ 64 then 15
  else 0

/-- ARR_CHK_STATUS shows how many columns and rows are out of service (Table 2.9); a number that its field does not hold shows modulo the field.
DESIGN CHOICE, log 114. -/
def showFailed (x : Channel) : Channel :=
  { x with arrStatus := { x.arrStatus with failedCols := BitVec.ofNat 7 x.failedCols.length, failedRows := BitVec.ofNat 6 x.failedRows.length } }

def workingStacks (x : Channel) : List Ch := Ch.all.filter fun s => (x.memStacks.get s).reg.up

/-- The working store has a spare row for every row of a bank that is judged permanent (Table 15.5). -/
def storeWorks (x : Channel) : Bool := x.bankSpares.all fun b => b.2 ≤ 16

/-- The compute island works (R47): its units as they started, its working store, and its array. -/
def islandWorks (x : Channel) : Bool :=
  x.units.scalar && x.units.vector && x.units.sampling && x.units.store && storeWorks x && arrayWidth x != 0

/-- A channel is in service (R47). -/
def inService (x : Channel) : Bool :=
  x.started && x.imageOk && !x.lost && (x.cmdCore.up || x.hkCore.up) && islandWorks x && 4 ≤ x.pumps.count.toNat && !(workingStacks x).isEmpty

/-- An Orzer port out of service or without light (R50). -/
def portOut (p : FabPort) : Bool := p.state == 4 || p.state == 5

/-- The on-package links in their order (Table 15.5): UNIT of the link between two channels. -/
def packUnit (a b : Ch) : Nat :=
  match min a.num b.num, max a.num b.num with
  | 0, m => m - 1
  | 1, m => m + 1
  | _, _ => 5

/-- The on-package link with this unit number has been judged permanent, and is out of service (Table 15.5, R608). -/
def packOut (x : Channel) (u : Nat) : Bool := x.hist.perm.any fun r => r.cls == 0x42 && r.unit.toNat == u

/-- A unit of the channel is out of service (R50): of Table 1.1, a pump, a stack, a port, or an array column beyond the spares. -/
def chanDegraded (x : Channel) : Bool :=
  x.pumps.count.toNat < 16 || (workingStacks x).length < 4 || arrayWidth x < 16 ||
  (List.range 4).any (fun p => portOut (tget {} x.ports p)) || (List.range 6).any (packOut x) ||
  !(x.cmdCore.up && x.hkCore.up) || !x.sec.trngOk || !x.fltHist.present

def bitsFrom {w : Nat} (l : List Nat) : BitVec w := l.foldl (fun b i => b ||| (1 <<< i)) 0

/-- Start-up has brought up the channel controllers: some channel runs an accepted image (R54, R721 stage 5). -/
def controllersUp (d : Device) : Bool := Ch.all.any fun c => (chanOf d c).imageOk

/-- FY_DEV_STATUS as the units stand (R50, R52, R54): at reset until the controllers are up, and a channel's fields until its own start-up ends. -/
def devStatus (d : Device) : FyDevStatus :=
  let ups := Ch.all.filter fun c => (chanOf d c).started || (chanOf d c).lost
  let srv := ups.filter fun c => inService (chanOf d c)
  { d.fy.dev with
    chService := bitsFrom (srv.map Ch.num),
    chDegraded := bitsFrom ((srv.filter fun c => chanDegraded (chanOf d c)).map Ch.num),
    hostaUp := d.fy.linkA && controllersUp d, hostbUp := d.fy.linkB && controllersUp d,
    stkOk := bitsFrom (ups.flatMap fun c => (workingStacks (chanOf d c)).map fun s => 4 * c.num + s.num),
    degraded := !ups.isEmpty &&
      (!d.fy.linkA || !d.fy.linkB || d.fy.mgmtLost || srv.length < 4 || srv.any fun c => chanDegraded (chanOf d c)),
    draining := Ch.all.any fun c => (chanOf d c).flt.draining }

/-- FY_ARR_WIDTH: the working width of each array, 0 for an array out of service (R53, R54). -/
def devWidth (d : Device) : FyArrWidth :=
  let w := fun c => if (chanOf d c).started && !(chanOf d c).lost then BitVec.ofNat 8 (arrayWidth (chanOf d c)) else 0
  ⟨w .c0, w .c1, w .c2, w .c3⟩

/-! ## MSI-X vectors (R685) -/

/-- What the foyer holds for a function; PORT and FN of FN_INFO name it (Table 17.15). -/
def fnOf (d : Device) (f : Fn) : FnState :=
  let x := tget {} d.fy.fns f.key
  { x with words := { x.words with port := f.portB, func := f.num } }
def setFn (d : Device) (f : Fn) (x : FnState) : Device := { d with fy := { d.fy with fns := tset {} d.fy.fns f.key x } }
def modFn (d : Device) (f : Fn) (g : FnState → FnState) : Device := setFn d f (g (fnOf d f))

/-- The function with a key. -/
def fnOfKey (k : Nat) : Fn := { portB := 256 ≤ k, num := BitVec.ofNat 8 k }

/-- A function issues DMA and messages only in D0 with Bus Master Enable (R689). -/
def mayDma (x : FnState) : Bool := x.busMaster && !x.d3hot

/-- Port A or B is up (R52). -/
def portUp (d : Device) (b : Bool) : Bool := if b then d.fy.linkB else d.fy.linkA

def vecOf (x : FnState) (v : Nat) : Vec := tget {} x.vectors v

/-- Sends vector v's message, or sets its pending bit while it is masked or the function issues no messages. -/
def fireVec (d : Device) (f : Fn) (v : Nat) : Device :=
  let x := fnOf d f
  let k := vecOf x v
  if k.masked || !mayDma x then
    setFn d f { x with vectors := tset {} x.vectors v { k with pend := true, units := 0 } }
  else
    let k' : Vec := { k with pend := false, units := 0, mod := { k.mod with sent := satInc k.mod.sent } }
    send (setFn d f { x with vectors := tset {} x.vectors v k' }) (.msix f v)

/-- The count of units at which a vector's message is sent: 0 is taken as 1, and TIME_US 0 sends at the first. -/
def vecLimit (k : Vec) : Nat := if k.mod.timeUs = 0 then 1 else max 1 k.mod.count.toNat

/-- Adds n unannounced units to vector v of function f. -/
def vecUnits (d : Device) (f : Fn) (v n : Nat) : Device :=
  let x := fnOf d f
  let k := vecOf x v
  let k' := { k with units := k.units + n, firstUs := if k.units = 0 then devUs d else k.firstUs }
  let d' := setFn d f { x with vectors := tset {} x.vectors v k' }
  if vecLimit k' ≤ k'.units then fireVec d' f v else d'

/-! ## Event queues (R683, R684) -/

/-- The queue size: LOG2 below 6 is taken as 6 and above 16 as 16 (Table 17.15). -/
def evqSize (w : FnWords) : Nat := 2 ^ (min 16 (max 6 w.evqLog2.toNat))

/-- The 16 bytes of an event record (Table 17.19). -/
def eventBytes (e : EventRecord) : List Byte :=
  leBytes 8 (e.code.toNat + 2 ^ 8 * e.suite.toNat + 2 ^ 10 * e.room.toNat + 2 ^ 16 * e.mbx.toNat + 2 ^ 20 * e.slot.toNat
    + 2 ^ 32 * e.seq.toNat) ++ leBytes 8 e.detail.toNat

/-- Writes one record: PROD advances after it, and vector 0 counts it. -/
def writeEvent (d : Device) (f : Fn) (e : EventRecord) : Device :=
  let x := fnOf d f
  let a := x.words.evqBase.toNat + 16 * (x.words.evqProd.toNat % evqSize x.words)
  let d1 := send d (.hostWrite f a (eventBytes e))
  vecUnits (setFn d1 f { x with words := { x.words with evqProd := x.words.evqProd + 1 } }) f 0 1

/-- There is space in an enabled queue whose function may write. -/
def evqSpace (x : FnState) : Bool := (x.words.evqProd - x.words.evqCons).toNat < evqSize x.words && mayDma x

/-- A function receives an event only while EN is 1; one that finds the queue full is dropped and counted. -/
def postEvent (d : Device) (f : Fn) (e : EventRecord) : Device :=
  let x := fnOf d f
  if !x.words.evqEn then d
  else if evqSpace x then writeEvent d f e
  else
    let m := tget {} x.mailboxes 0
    setFn d f { x with
      dropped := x.dropped + 1,
      mailboxes := tset {} x.mailboxes 0 { m with words := { m.words with evqLost := satInc m.words.evqLost } } }

/-- Once space returns, a record of code 0x07 carries the number dropped. -/
def lostRecord (d : Device) (f : Fn) : Device :=
  let x := fnOf d f
  if x.words.evqEn && x.dropped != 0 && evqSpace x then
    writeEvent (setFn d f { x with dropped := 0 }) f { code := 0x07, detail := BitVec.ofNat 64 x.dropped }
  else d

/-- Every function that the foyer holds state for. -/
def knownFns (d : Device) : List Fn := (tkeys d.fy.fns).map fnOfKey

/-- An event that goes to every function. -/
def postAll (d : Device) (e : EventRecord) : Device := (knownFns d).foldl (fun d f => postEvent d f e) d

/-- The two PFs and a room's owner, each once. -/
def roomListeners (owner : Option Fn) : List Fn :=
  let pfs : List Fn := [⟨false, 0⟩, ⟨true, 0⟩]
  match owner with
  | some f => if f.isPF then pfs else f :: pfs
  | none => pfs

/-- An event of a room: codes 0x03 and 0x08. -/
def postRoomEvent (d : Device) (s : Ch) (n : Nat) (code : Byte) (st : Status) : Device :=
  (roomListeners (leadRoom d s n).owner).foldl
    (fun d f => postEvent d f { code := code, suite := BitVec.ofNat 2 s.num, room := BitVec.ofNat 6 n, detail := st.code.setWidth 64 }) d

/-- The 32 bits of FY_DEV_STATUS. -/
def devStatusBits (v : FyDevStatus) : W64 :=
  v.chService.setWidth 64 ||| (v.chDegraded.setWidth 64 <<< 4) ||| (v.stkOk.setWidth 64 <<< 8) |||
  ((BitVec.ofBool v.hostaUp).setWidth 64 <<< 24) ||| ((BitVec.ofBool v.hostbUp).setWidth 64 <<< 25) |||
  ((BitVec.ofBool v.degraded).setWidth 64 <<< 26) ||| ((BitVec.ofBool v.draining).setWidth 64 <<< 27) |||
  ((BitVec.ofBool v.compatH1).setWidth 64 <<< 28)

/-- Ballutos keeps FY_DEV_STATUS and FY_ARR_WIDTH current; a change posts an event of code 0x04 (Table 17.19). -/
def refresh (d : Device) : Device :=
  let v := devStatus d
  let d' := { d with fy := { d.fy with dev := v, width := devWidth d } }
  if v = d.fy.dev then d' else postAll d' { code := 0x04, detail := devStatusBits v }

/-! ## Result slots (R665 to R670) -/

/-- Result slots of a mailbox: 8, or 4 under COMPAT_H1 (R680). -/
def slotCount (d : Device) : Nat := if d.fy.dev.compatH1 then 4 else 8
/-- Result words of a slot: 44, or 60 under COMPAT_H1 (R665, R680). -/
def slotWords (d : Device) : Nat := if d.fy.dev.compatH1 then 60 else 44

def mbxOf (d : Device) (f : Fn) (m : BitVec 4) : Mailbox := tget {} (fnOf d f).mailboxes m.toNat
def modMbx (d : Device) (f : Fn) (m : BitVec 4) (g : Mailbox → Mailbox) : Device :=
  modFn d f fun x => { x with mailboxes := tmod {} x.mailboxes m.toNat g }

def slotOf (d : Device) (f : Fn) (m : BitVec 4) (s : BitVec 3) : ResultSlot := tget {} (mbxOf d f m).slots s.toNat

/-- The STATE bits of MBX_SLOTS follow the slots (Table 17.14). -/
def slotStates (t : Tab ResultSlot) : BitVec 16 :=
  t.foldl (fun (b : BitVec 16) p => b ||| BitVec.shiftLeft (p.2.state.code.setWidth 16) (2 * p.1)) 0

def setSlot (d : Device) (f : Fn) (m : BitVec 4) (s : BitVec 3) (r : ResultSlot) : Device :=
  modMbx d f m fun b =>
    let t := tset {} b.slots s.toNat r
    { b with slots := t, words := { b.words with slotState := slotStates t } }

/-- The status a result carries: DEGRADED in place of OK while the device is degraded (R50). -/
def resultStatus (d : Device) (st : Status) : Status := if st = .ok && d.fy.dev.degraded then .degraded else st

/-- A command's result enters its PENDING slot whole, and the slot's vector counts a result (R667, Table 17.18); a command of a function that
has been reset since posts none (R688). -/
def postResult (d : Device) (k : CmdKey) (st : Status) (ws : List W32) : Device :=
  let f := fnOfKey k.fn
  let r := slotOf d f k.mbx k.slot
  if k.fn < 512 && r.state = .pending then
    let d' := setSlot d f k.mbx k.slot
      { r with state := .ready, status := resultStatus d st, reread := 0, words := ws.take (slotWords d), readyMs := devMs d }
    vecUnits d' f (1 + k.mbx.toNat) 1
  else d

/-- What a command answers: a result at once, or later when what it waits for has come. -/
inductive Reply where
  | done (st : Status) (ws : List W32)
  | wait (k : WaitKind)
  deriving Repr

/-- Removes the waiting commands that p picks, and completes each with its status and words. -/
def completeWaits (d : Device) (p : Waiting → Option (Status × List W32)) : Device :=
  let go := d.fy.waits.filterMap fun w => (p w).map fun r => (w, r)
  let d1 := { d with fy := { d.fy with waits := d.fy.waits.filter fun w => (p w).isNone } }
  go.foldl (fun d e => postResult d e.1.cmd.key e.2.1 e.2.2) d1

/-- The parameters as bits lo .. lo + n − 1. -/
def par (p : BitVec 15872) (lo n : Nat) : Nat := (p.extractLsb' lo n).toNat
def parB (p : BitVec 15872) (i : Nat) : Bool := p.getLsbD i

/-- Every parameter bit outside the listed fields (lo, width) is 0 (R672). -/
def reservedClear (p : BitVec 15872) (fields : List (Nat × Nat)) : Bool :=
  let m : BitVec 15872 := fields.foldl (fun m f => m ||| (((1 <<< f.2) - 1) <<< f.1)) 0
  p &&& ~~~m == 0

end Sys2Proof.Machine
end

