-- ==== Sys2Proof/Machine/Pages.lean ====
section
/-! DEFINITION. Machine/Pages.lean: page tables, accounts, frames, room memory, poison lines and copy-before-write (chapter 4, R592, R641). -/

namespace Sys2Proof.Machine

/-! ## Accounts (R202 to R206): 0 to 63 the rooms, 64 the common account -/

def commonAcctIx : Nat := 64
def acctOf (x : Channel) (a : Nat) : TierAcct := if a < 64 then (roomOf x a).tier else x.commonAcct
def modAcct (x : Channel) (a : Nat) (f : TierAcct → TierAcct) : Channel :=
  if a < 64 then modRoomC x a fun r => { r with tier := f r.tier } else { x with commonAcct := f x.commonAcct }
/-- Heat epochs that the account has passed, counted to 8. -/
def epochsOf (x : Channel) (a : Nat) : Nat := if a < 64 then (roomOf x a).epochs else x.commonEpochs
/-- The account that a page table entry charges (Table 4.3). -/
def ownerOf (p : Pte) : Nat := if p.owner = 0xFF then commonAcctIx else p.owner.toNat % 64
def ownerCode (a : Nat) : BitVec 8 := if a < 64 then BitVec.ofNat 8 a else 0xFF

/-! ## Page table entries -/

def pteAt (x : Channel) : PageRef → Pte
  | .room n p => tget {} (roomOf x n).pages p
  | .common i => tget {} x.commonPages i
def setPte (x : Channel) (r : PageRef) (p : Pte) : Channel :=
  match r with
  | .room n k => modRoomC x n fun m => { m with pages := tset {} m.pages k p }
  | .common i => { x with commonPages := tset {} x.commonPages i p }
def modPte (x : Channel) (r : PageRef) (f : Pte → Pte) : Channel := setPte x r (f (pteAt x r))

/-- First page of the weight windows, and pages of each of the four (R433). -/
def windowPage0 : Nat := 0xF0000000
def windowPages : Nat := 2 ^ 24
/-- The model whose weight window holds a page, with the page's index in the window. -/
def windowOf (page : Nat) : Option (Nat × Nat) :=
  if windowPage0 ≤ page && page < windowPage0 + 4 * windowPages then
    some ((page - windowPage0) / windowPages, (page - windowPage0) % windowPages)
  else none

/-- The page that a room's page number names: its own, the common page its entry refers to (Table 4.3), or in a weight window
common entry BASE + i of the pointer's copy (R433). -/
def resolve (x : Channel) (n page : Nat) : PageRef :=
  match windowOf page with
  | some (m, i) => .common ((tget (0, 0) (roomOf x n).windows m).1 + i)
  | none =>
    let p := tget {} (roomOf x n).pages page
    if p.valid && p.shared then .common p.frame.toNat else .room n page

def pageNum : PageRef → Nat
  | .room _ p => p
  | .common i => i

/-- Entries in use of the page-table pool (R204). -/
def tableEntries (x : Channel) : Nat := x.commonPages.length + (x.rooms.map fun r => r.2.pages.length).sum
def tablePool : Nat := 16777216

/-! ## Frames and Cellar pages -/

def poolUsed (p : Pool) : Nat := p.next - p.freed.length
def poolTake (p : Pool) : Nat × Pool :=
  match p.freed with
  | f :: fs => (f, { p with freed := fs })
  | [] => (p.next, { p with next := p.next + 1 })
def poolGive (p : Pool) (f : Nat) : Pool := { p with freed := f :: p.freed }

/-- T1 frames of the channel (R172). -/
def t1Frames (x : Channel) : Nat := (workingStacks x).length * 976562
/-- The frame and the line in it that lie in data channel chan of stack st at channel byte b; none where the stack does not work (R172): with
the stack k-th of n working ones, line j of group G has j = n * (128 * ((b mod 512) div 64) + chan) + k. -/
def lineAt (x : Channel) (st : Ch) (chan b : Nat) : Option (Nat × Nat) :=
  ((workingStacks x).idxOf? st).map fun k =>
    let n := (workingStacks x).length
    let j := n * (128 * (b % 512 / 64) + chan) + k
    (n * (b / 512) + j / 1024, j % 1024)
/-- Attic pages hosted (R204, R631). -/
def hostedPages (x : Channel) : Nat := (x.attics.map fun a => 2 * a.pages).sum
/-- Copy-before-write staging pages reserved for the rooms that hold a program (R642). -/
def stagingPages (x : Channel) : Nat := (x.rooms.map fun r => match r.2.prog with | some p => p.info.cbwPages | none => 0).sum
/-- The controller reserve (R204). -/
def controllerReserve (x : Channel) : Nat := 11392 + hostedPages x + stagingPages x
def freeFrames (x : Channel) : Nat := t1Frames x - controllerReserve x - poolUsed x.frames

def regionOf (x : Channel) (r : Nat) : TierT2Region := tget {} x.regions r
/-- Pages of a region that are not allocated: FREE (Table 4.7), 0 for a region disabled under R498. -/
def regionFree (x : Channel) (r : Nat) : Nat :=
  if x.disabled.contains r then 0 else (regionOf x r).pages.toNat - poolUsed (tget {} x.regionPools r)
/-- FREE is kept current. -/
def showFree (x : Channel) (r : Nat) : Channel :=
  { x with regions := tmod {} x.regions r fun g => { g with free := BitVec.ofNat 32 (regionFree x r) } }
/-- The region that takes an evicted page: the lowest fabric or peer region with a free page (R180). DESIGN CHOICE, log 20. -/
def cellarRegion (x : Channel) : Option Nat :=
  (List.range 16).find? fun r =>
    ((regionOf x r).kind == 1 || (regionOf x r).kind == 2) && regionFree x r != 0

/-- Takes a free Cellar page: region in bits 31 to 28, page below (Table 4.3). -/
def takeCellar (x : Channel) : Option (BitVec 32 × Channel) :=
  (cellarRegion x).map fun r =>
    let t := poolTake (tget {} x.regionPools r)
    (BitVec.ofNat 32 (r * 2 ^ 28 + t.1), showFree { x with regionPools := tset {} x.regionPools r t.2 } r)

def giveCellar (x : Channel) (f : BitVec 32) : Channel :=
  let r := f.toNat / 2 ^ 28
  showFree { x with regionPools := tmod {} x.regionPools r fun p => poolGive p (f.toNat % 2 ^ 28) } r

def grabFrame (x : Channel) : Option (BitVec 32 × Channel) :=
  if freeFrames x = 0 then none
  else let t := poolTake x.frames; some (BitVec.ofNat 32 t.1, { x with frames := t.2 })
def giveFrame (x : Channel) (f : BitVec 32) : Channel := { x with frames := poolGive x.frames f.toNat }

/-- Pages of an account on their way into T1, and into T2. -/
def movesOf (x : Channel) (a : Nat) (promote : Bool) : Nat :=
  (x.moves.filter fun m => m.promote == promote && ownerOf (pteAt x m.page) == a).length

/-- The page that a T1 frame holds, when it holds one. -/
def pageInFrame (x : Channel) (f : Nat) : Option PageRef :=
  let holds := fun (p : Pte) => p.valid && !p.t2 && !p.shared && p.frame.toNat == f
  match x.commonPages.find? fun e => holds e.2 with
  | some e => some (.common e.1)
  | none => x.rooms.findSome? fun r => (r.2.pages.find? fun e => holds e.2).map fun e => .room r.1 e.1

/-! ## Outstanding descriptors -/

/-- An outstanding descriptor covers the page (R197). -/
def covered (x : Channel) (r : PageRef) : Bool :=
  x.island.pumps.any fun q => q.2.any fun e =>
    (memReads e.desc ++ memWrites e.desc).any fun run => (pagesOf run).any fun p => resolve x e.room p == r

/-! ## Eviction and promotion (R195 to R199) -/

/-- Every page of an account with its reference. -/
def acctPages (x : Channel) (a : Nat) : List (PageRef × Pte) :=
  if a < 64 then ((roomOf x a).pages.filter fun e => !e.2.shared).map fun e => (.room a e.1, e.2)
  else x.commonPages.map fun e => (.common e.1, e.2)

def allAccts : List Nat := List.range 65

/-- A state page of a resident unit that the update has not written yet (R424). -/
def heldPage (x : Channel) : PageRef → Bool
  | .room n p => (roomOf x n).update.holds.any fun h => h.1.contains p
  | .common _ => false

/-- A page that may be taken as a victim, apart from the rule of the first 8 epochs (R197). -/
def victimOk (x : Channel) (e : PageRef × Pte) : Bool :=
  e.2.valid && !e.2.t2 && e.2.place == 0 && !e.2.moving && !covered x e.1 && !heldPage x e.1

/-- The account of a page is past its first 8 epochs (R197, R202). -/
def settled (x : Channel) (p : Pte) : Bool := 8 ≤ epochsOf x (ownerOf p)

/-- The coldest page of a list; among equals the lowest page number. DEDUCED, log 21. -/
def coldest (l : List (PageRef × Pte)) : Option (PageRef × Pte) :=
  l.foldl (fun b e =>
    match b with
    | none => some e
    | some c => if e.2.heat < c.2.heat || (e.2.heat == c.2.heat && pageNum e.1 < pageNum c.1) then some e else some c) none

/-- T2 room for one more page of an account (R202). -/
def t2Room (x : Channel) (a : Nat) : Bool := (acctOf x a).t2use.toNat + movesOf x a false < (acctOf x a).t2max.toNat

/-- Starts an eviction: takes the Cellar page and sets MOVING. -/
def startEvict (x : Channel) (r : PageRef) : Option Channel :=
  if t2Room x (ownerOf (pteAt x r)) then
    (takeCellar x).map fun t =>
      let y := modPte t.2 r fun p => { p with moving := true }
      { y with moves := y.moves ++ [⟨r, false, t.1.toNat⟩] }
  else none

/-- The bytes of a page. -/
def pageContents (x : Channel) : PageRef → List Byte
  | .room n p => readBytes (roomOf x n).mem (p * pageBytes) pageBytes
  | .common i => readBytes x.commonMem (i * pageBytes) pageBytes

/-- The page's fingerprint, over its bytes as they stand (R189, R195). -/
def pageFp (x : Channel) (r : PageRef) : W64 := crc64 (pageContents x r)

/-- A page's own traffic of one move, charged to the room (Table 13.9). -/
def chargeMove (x : Channel) (a : Nat) : Channel :=
  if a < 64 then modRoomC x a fun r =>
    { r with acct := { r.acct with t1Bytes := r.acct.t1Bytes + 65536, t2Bytes := r.acct.t2Bytes + 65536 } }
  else x

/-- An eviction ends: the page lies in T2 with its fingerprint, and its frame is free (R195). -/
def endEvict (x : Channel) (r : PageRef) (place : Nat) : Channel :=
  let p := pteAt x r
  let a := ownerOf p
  let y := setPte (giveFrame x p.frame) r { p with t2 := true, moving := false, frame := BitVec.ofNat 32 place, t2fp := pageFp x r }
  let z := modAcct y a fun t => { t with t1use := t.t1use - 1, t2use := t.t2use + 1, moves := satInc t.moves }
  { chargeMove z a with moves := z.moves.filter fun m => m.page != r }

/-- Evicts a page at once, for the reclaim of R203. -/
def evictNow (x : Channel) (r : PageRef) : Option Channel :=
  if t2Room x (ownerOf (pteAt x r)) then (takeCellar x).map fun t => endEvict t.2 r t.1.toNat else none

/-- A write to a page under eviction cancels it, and the Cellar page is freed (Table 4.11). -/
def cancelEvict (x : Channel) (r : PageRef) : Channel :=
  match x.moves.find? fun m => m.page == r && !m.promote with
  | none => x
  | some m =>
    let y := giveCellar (modPte x r fun p => { p with moving := false }) (BitVec.ofNat 32 m.place)
    { y with moves := y.moves.filter fun k => k.page != r }

/-- The page waits for a frame that an eviction under way gives up. -/
def awaited (x : Channel) (r : PageRef) : Bool := x.chosen.any fun m => m.page == r

/-- A promotion of the page is in progress. -/
def promoting (x : Channel) (r : PageRef) : Bool := x.moves.any fun m => m.page == r && m.promote

/-- Starts a promotion when a frame is free within T1MAX. -/
def startPromote (x : Channel) (r : PageRef) : Option Channel :=
  let a := ownerOf (pteAt x r)
  if (acctOf x a).t1use.toNat + movesOf x a true < (acctOf x a).t1max.toNat then
    (grabFrame x).map fun t =>
      let y := modPte t.2 r fun p => { p with moving := true }
      { y with moves := y.moves ++ [⟨r, true, t.1.toNat⟩] }
  else none

/-! ## Allocation (R202, R203) -/

/-- How far an account lies above its T1MIN. -/
def aboveMin (x : Channel) (a : Nat) : Nat := (acctOf x a).t1use.toNat - (acctOf x a).t1min.toNat

/-- Reclaims a frame: the coldest tiered page of the account furthest above its T1MIN is evicted (R203). -/
def reclaim (x : Channel) : Option Channel :=
  let owners := allAccts.filter fun a => aboveMin x a != 0 && (acctPages x a).any (victimOk x)
  let pick := owners.foldl (fun b a => match b with
    | none => some a
    | some c => if aboveMin x c < aboveMin x a then some a else some c) none
  pick.bind fun a => (coldest ((acctPages x a).filter (victimOk x))).bind fun e => evictNow x e.1

/-- A frame for an account's new page in T1, in quota order; a frame is reclaimed only below T1MIN. Promotions under way hold their frames within
T1MAX; while pinned pages alone exceed T1MAX, nothing new is placed in T1 (R202, R203, R205). DEDUCED, log 122. -/
def frameFor (x : Channel) (a : Nat) : Option (BitVec 32 × Channel) :=
  let t := acctOf x a
  if t.t1max < t.pinned then none
  else if t.t1use < t.t1min then
    match grabFrame x with
    | some r => some r
    | none => (reclaim x).bind grabFrame
  else if t.t1use.toNat + movesOf x a true < t.t1max.toNat then grabFrame x
  else none

/-- Places a new page of an account: 0 tiered, 1 pinned to T1, 2 pinned to T2 (R202, R203, R204). None: QUOTA_EXCEEDED. -/
def allocPage (x : Channel) (a : Nat) (place : BitVec 2) : Option (Pte × Channel) :=
  if tablePool ≤ tableEntries x then none else
  let inT1 : Option (Pte × Channel) := (frameFor x a).map fun t =>
    ({ valid := true, place := place, frame := t.1, owner := ownerCode a },
     modAcct t.2 a fun k => { k with t1use := k.t1use + 1, pinned := if place = 1 then k.pinned + 1 else k.pinned })
  let inT2 : Option (Pte × Channel) :=
    if t2Room x a then (takeCellar x).map fun t =>
      ({ valid := true, t2 := true, place := place, frame := t.1, owner := ownerCode a, t2fp := crc64 (List.replicate pageBytes 0) },
       modAcct t.2 a fun k => { k with t2use := k.t2use + 1 })
    else none
  if place = 1 then inT1
  else if place = 2 then inT2
  else match inT1 with
    | some r => some r
    | none => inT2

/-- Allocates a page of a room unless it is allocated. -/
def allocRoomPage (place : BitVec 2) (n : Nat) (x : Channel) (page : Nat) : Option Channel :=
  if (tget {} (roomOf x n).pages page).valid then some x
  else (allocPage x n place).map fun t => setPte t.2 (.room n page) t.1
/-- Allocates every page of a list, or none. -/
def allocRoomPages (x : Channel) (n : Nat) (place : BitVec 2) (pages : List Nat) : Option Channel :=
  pages.foldlM (allocRoomPage place n) x

def allocCommonPage (x : Channel) (i : Nat) : Option Channel :=
  if (tget {} x.commonPages i).valid then some x
  else (allocPage x commonAcctIx 0).map fun t => setPte t.2 (.common i) t.1
def allocCommonPages (x : Channel) (l : List Nat) : Option Channel := l.foldlM allocCommonPage x

/-- Frees a page: its frame or Cellar page, its charge, its bytes and its poison. -/
def freePage (x : Channel) (r : PageRef) : Channel :=
  let p := pteAt x r
  if !p.valid then x else
  if p.shared then setPte x r {} else
  let c := cancelEvict x r
  let a := ownerOf p
  let y := if p.t2 then giveCellar c p.frame else giveFrame c p.frame
  let y := (y.moves.filter fun m => m.page == r && m.promote).foldl (fun y m => giveFrame y (BitVec.ofNat 32 m.place)) y
  let y := { y with moves := y.moves.filter (fun m => m.page != r), chosen := y.chosen.filter fun m => m.page != r }
  let z := modAcct (setPte y r {}) a fun t =>
    if p.t2 then { t with t2use := t.t2use - 1 }
    else { t with t1use := t.t1use - 1, pinned := if p.place = 1 then t.pinned - 1 else t.pinned }
  match r with
  | .room n k => modRoomC z n fun m =>
      { m with mem := clearBytes m.mem (k * pageBytes) pageBytes, poison := m.poison.filter fun l => l / 1024 != k }
  | .common i => { z with
      commonMem := clearBytes z.commonMem (i * pageBytes) pageBytes, commonPoison := z.commonPoison.filter fun l => l / 1024 != i }

def freeRoomPages (x : Channel) (n : Nat) (pages : List Nat) : Channel := pages.foldl (fun y p => freePage y (.room n p)) x
def freeCommonPages (x : Channel) (l : List Nat) : Channel := l.foldl (fun y i => freePage y (.common i)) x

/-! ## Bytes of room memory -/

/-- One byte at a room virtual address; an unallocated page reads 0 (R168). -/
def roomByte (x : Channel) (n a : Nat) : Byte :=
  match resolve x n (a / pageBytes) with
  | .room _ _ => readByte (roomOf x n).mem a
  | .common i => readByte x.commonMem (i * pageBytes + a % pageBytes)
def readRoom (x : Channel) (n a len : Nat) : List Byte := (List.range len).map fun i => roomByte x n (a + i)
def readRoomLe (x : Channel) (n a len : Nat) : Nat := leNat (readRoom x n a len)

/-- The part of a byte list at address a that lies in a page. -/
def partIn (a : Nat) (bs : List Byte) (p : Nat) : Nat × List Byte :=
  let lo := max a (p * pageBytes)
  (lo, (bs.drop (lo - a)).take ((p + 1) * pageBytes - lo))

/-- A page in T2 that is written takes its new fingerprint (R167, R195). -/
def refreshFp (x : Channel) (r : PageRef) : Channel :=
  let e := pteAt x r
  if e.valid && e.t2 then setPte x r { e with t2fp := pageFp x r } else x

/-- Writes bytes in one page, wherever it lies, and sets DIRTY. -/
def writePage (x : Channel) (n p a : Nat) (bs : List Byte) : Channel :=
  let r := resolve x n p
  let y := modPte (cancelEvict x r) r fun e => if e.valid then { e with dirty := true } else e
  refreshFp (match r with
    | .room _ _ => modRoomC y n fun m => { m with mem := writeBytes m.mem a bs }
    | .common i => { y with commonMem := writeBytes y.commonMem (i * pageBytes + a % pageBytes) bs }) r

/-- Writes bytes in the common pages, entry i at byte 65,536 i, page by page. -/
def writeCommon (x : Channel) (a : Nat) (bs : List Byte) : Channel :=
  (pagesOf (a, bs.length)).foldl (fun y p =>
    let t := partIn a bs p
    let z := modPte (cancelEvict y (.common p)) (.common p) fun e => if e.valid then { e with dirty := true } else e
    refreshFp { z with commonMem := writeBytes z.commonMem t.1 t.2 } (.common p)) x

/-- Writes bytes at a room virtual address, page by page. -/
def writeRoom (x : Channel) (n a : Nat) (bs : List Byte) : Channel :=
  (pagesOf (a, bs.length)).foldl (fun y p => let t := partIn a bs p; writePage y n p t.1 t.2) x

/-! ## Poison of room memory (R592) -/

/-- A line of room memory, in the list where it lies: line of the room's own, or of a common page. -/
def linePoisoned (x : Channel) (n line : Nat) : Bool :=
  match resolve x n (line / 1024) with
  | .room _ _ => (roomOf x n).poison.contains line
  | .common i => x.commonPoison.contains (i * 1024 + line % 1024)

/-- The lines of 64 B that a range meets. -/
def linesOf (r : Nat × Nat) : List Nat :=
  if r.2 = 0 then [] else (List.range ((r.1 + r.2 - 1) / 64 - r.1 / 64 + 1)).map (r.1 / 64 + ·)

def roomPoisoned (x : Channel) (n : Nat) (r : Nat × Nat) : Bool := (linesOf r).any (linePoisoned x n)

def addAll (l new : List Nat) : List Nat := l ++ new.filter fun k => !l.contains k
def dropAll (l old : List Nat) : List Nat := l.filter fun k => !old.contains k

/-- Records where the poison of a place arose; nothing is kept of poison charged to the store that holds it (R594). -/
def setArose (p : PoisonPlace) (o : Option Arose) (x : Channel) : Channel :=
  { x with arose := (x.arose.filter fun e => e.1 != p) ++ (match o with | some a => [(p, a)] | none => []) }

/-- The unit in which a poisoned place's poison arose, or else what holds it: a WS bank, the Sump, the Cistern. A page or line of room
memory has no such unit of its own. DEDUCED, log 36. -/
def aroseAt (x : Channel) (p : PoisonPlace) : Option Arose :=
  match x.arose.find? fun e => e.1 == p with
  | some e => some e.2
  | none => match p with
    | .ws _ l => some { cls := 0x01, unit := BitVec.ofNat 16 (l % 1024), addr := BitVec.ofNat 64 (l / 1024) }
    | .sump _ l => some { cls := 0x02, unit := 0, addr := BitVec.ofNat 64 l }
    | .cistern _ l => some { cls := 0x02, unit := 1, addr := BitVec.ofNat 64 l }
    | _ => none

/-- Where the poison of a line of room memory arose: the line's own, or its page's. -/
def lineArose (x : Channel) (n line : Nat) : Option Arose :=
  match resolve x n (line / 1024) with
  | .room m k => (aroseAt x (.mem n line)).orElse fun _ => aroseAt x (.page (.room m k))
  | .common i => (aroseAt x (.common (i * 1024 + line % 1024))).orElse fun _ => aroseAt x (.page (.common i))

/-- The lines of a page that hold poison: its number among the room's lines, or among the common pages'. -/
def pageLines (k : Nat) : List Nat := (List.range 1024).map (k * 1024 + ·)

/-- POISON of an entry follows the page's lines: it is set while one of them is poison (R167, R592). -/
def showPoison (x : Channel) (r : PageRef) : Channel :=
  let any := match r with
    | .room n k => (roomOf x n).poison.any fun l => l / 1024 == k
    | .common i => x.commonPoison.any fun l => l / 1024 == i
  modPte x r fun p => { p with poison := p.valid && any }

/-- Marks lines of a page, named by their numbers in it, as poison that arose in a unit. -/
def poisonLines (x : Channel) (r : PageRef) (ls : List Nat) (o : Option Arose) : Channel :=
  match r with
  | .room n k =>
    let gs := ls.map (k * 1024 + ·)
    gs.foldl (fun y l => setArose (.mem n l) o y) (showPoison (modRoomC x n fun m => { m with poison := addAll m.poison gs }) r)
  | .common i =>
    let gs := ls.map (i * 1024 + ·)
    gs.foldl (fun y l => setArose (.common l) o y) (showPoison { x with commonPoison := addAll x.commonPoison gs } r)

/-- Clears the poison of lines of a page. -/
def cleanLines (x : Channel) (r : PageRef) (ls : List Nat) : Channel :=
  match r with
  | .room n k =>
    let gs := ls.map (k * 1024 + ·)
    gs.foldl (fun y l => setArose (.mem n l) none y) (showPoison (modRoomC x n fun m => { m with poison := dropAll m.poison gs }) r)
  | .common i =>
    let gs := ls.map (i * 1024 + ·)
    gs.foldl (fun y l => setArose (.common l) none y) (showPoison { x with commonPoison := dropAll x.commonPoison gs } r)

/-- Marks a range of room memory as poison that arose in a unit. -/
def poisonRoom (n : Nat) (r : Nat × Nat) (o : Option Arose) (x : Channel) : Channel :=
  (linesOf r).foldl (fun y l => poisonLines y (resolve y n (l / 1024)) [l % 1024] o) x

/-- Clears the poison of a range of room memory. -/
def cleanRoom (n : Nat) (r : Nat × Nat) (x : Channel) : Channel :=
  (linesOf r).foldl (fun y l => cleanLines y (resolve y n (l / 1024)) [l % 1024]) x

/-- Poisons a whole page: every line of it, and POISON in its entry (R592). -/
def poisonPage (o : Option Arose) (x : Channel) (r : PageRef) : Channel :=
  let y := match r with
    | .room n k => modRoomC x n fun m => { m with poison := addAll m.poison (pageLines k) }
    | .common i => { x with commonPoison := addAll x.commonPoison (pageLines i) }
  setArose (.page r) o (modPte y r fun p => { p with poison := true })

/-! ## Writes that a capture sees (R641) -/

def capKey (c : Ch) (page : Nat) : Nat := c.num * 2 ^ 32 + page

/-- The capture of a room has not read the page yet and holds no staged copy of it. -/
def needsStage (r : Room) (key : Nat) : Bool :=
  match r.ckps.capture with
  | some k => k.toSend.contains key && !(k.staged.any fun p => p.1 == key)
  | none => false

/-- The bytes of a page that are not 0, by their offsets. -/
def pageCells (m : Memory) (page : Nat) : List (Nat × Byte) :=
  (m.filter fun c => c.1 / pageBytes == page).map fun c => (c.1 % pageBytes, c.2)

/-- The staging area of a room is full: the write holds (R642). -/
def stageFull (r : Room) : Bool :=
  match r.ckps.capture with
  | some k => r.ckp.cbwPages.toNat ≤ k.staged.length
  | none => false

/-- Before a write to a page of the capture set, its old contents are staged (R641). -/
def stageBefore (d : Device) (c : Ch) (n page : Nat) : Device :=
  match suiteOfChan d c with
  | none => d
  | some s =>
    if needsStage (leadRoom d s n) (capKey c page) then
      let old := pageCells (roomOf (chanOf d c) n).mem page
      modLeadRoom d s n fun r => { r with
        ckps := { r.ckps with capture := r.ckps.capture.map fun k => { k with staged := k.staged ++ [(capKey c page, old)] } },
        ckp := { r.ckp with cbwCopies := satInc r.ckp.cbwCopies } }
    else d

/-- A write to room memory by any agent: staged where a capture asks for it, then carried out. -/
def writeMem (d : Device) (c : Ch) (n a : Nat) (bs : List Byte) : Device :=
  let d1 := (pagesOf (a, bs.length)).foldl (fun d p => stageBefore d c n p) d
  modChan d1 c fun x => writeRoom x n a bs

/-- A write to room memory that allocates the pages it meets; none when an account cannot take them (R168). -/
def writeAlloc (d : Device) (c : Ch) (n a : Nat) (bs : List Byte) (place : BitVec 2) : Option Device :=
  (allocRoomPages (chanOf d c) n place (pagesOf (a, bs.length))).map fun x => writeMem (setChan d c x) c n a bs

/-! ## Working store -/

/-- A pump or controller write to WS: bytes, residue tags and poison. -/
def writeWs (x : Channel) (a : Nat) (bs : List Byte) : Channel :=
  { x with ws := writeBytes x.ws a bs, tags := clearTags x.tags a bs.length, wsPoison := dropAll x.wsPoison (linesOf (a, bs.length)) }

/-- Poison of lines of WS, of room n, that arose in a unit. -/
def poisonWs (n : Nat) (ls : List Nat) (o : Option Arose) (x : Channel) : Channel :=
  ls.foldl (fun y l => setArose (.ws n l) o y) { x with wsPoison := addAll x.wsPoison ls }

/-- The WS of a room on a channel: on the island, or what it saved and what has come since (R537). -/
def roomWs (x : Channel) (n : Nat) : Memory :=
  if x.island.room = some n then x.ws
  else (roomOf x n).arrivals.foldl (fun m a => writeBytes m a.addr a.bytes) (roomOf x n).saved.ws

/-- A controller write to a room's WS, wherever the room is. -/
def putRoomWs (x : Channel) (n a : Nat) (bs : List Byte) : Channel :=
  if x.island.room = some n then writeWs x a bs
  else modRoomC x n fun r => { r with arrivals := r.arrivals ++ [{ addr := a, bytes := bs }] }

/-- Bytes of a room's WS allocation: the top 4 MiB are the controller's (R157, Table 4.14). -/
def wsLimit (x : Channel) (n : Nat) : Nat := min 0xBC0 (roomOf x n).tier.wsSize.toNat * pageBytes

/-- R204: a new account's T1MIN fits beside the other accounts' and the controller reserve. -/
def accountFits (x : Channel) (a t1min : Nat) : Bool :=
  t1min + ((allAccts.filter (· != a)).map fun b => (acctOf x b).t1min.toNat).sum ≤ t1Frames x - controllerReserve x

end Sys2Proof.Machine
end

