-- ==== Sys2Proof/Machine/Copies.lean ====
section
/-! DEFINITION. Machine/Copies.lean: copies of weight models, their referrers, and the pointers and window maps of rooms (R432 to R450). -/

namespace Sys2Proof.Machine

/-- The copy states of Table 11.1. -/
def csFree : BitVec 3 := 0
def csArmed : BitVec 3 := 1
def csLoading : BitVec 3 := 2
def csVerifying : BitVec 3 := 3
def csReady : BitVec 3 := 4
def csCurrent : BitVec 3 := 5
def csRetiring : BitVec 3 := 6

def copyIxs : List Nat := List.range 8
def copyOf (x : Channel) (k : Nat) : WCopy := tget {} x.copies k
def modCopy (x : Channel) (k : Nat) (f : WCopy → WCopy) : Channel := { x with copies := tmod {} x.copies k f }
def modelOf (x : Channel) (m : Nat) : SrvWmodel := tget {} x.models m
def modModel (x : Channel) (m : Nat) (f : SrvWmodel → SrvWmodel) : Channel := { x with models := tmod {} x.models m f }
def copyState (x : Channel) (k : Nat) : BitVec 3 := (copyOf x k).reg.state
def copyModel (x : Channel) (k : Nat) : Nat := (copyOf x k).reg.model.toNat

/-- Referrers of a copy (R435). -/
def refCount (w : WCopy) : Nat := w.pins.length + w.rooms.length + w.jobs.length
def showRefs (w : WCopy) : WCopy := { w with reg := { w.reg with refs := BitVec.ofNat 32 (refCount w) } }
/-- Changes a copy's referrers and keeps REFS current. -/
def modRefs (x : Channel) (k : Nat) (f : WCopy → WCopy) : Channel := modCopy x k fun w => showRefs (f w)

/-- Where tile t of a copy lies in the common pages: every tile of a copy has one length. DESIGN CHOICE, log 49. -/
def tileRun (w : WCopy) (t : Nat) : Nat × Nat := (w.reg.base.toNat * pageBytes + t * w.tileLen, w.tileLen)

/-- The fingerprints of a copy's tiles as a channel's common pages hold them. -/
def scanTiles (w : WCopy) (x : Channel) : Tab W64 :=
  (List.range w.reg.tiles.toNat).foldl (fun t i => tset 0 t i (crc64 (readBytes x.commonMem (tileRun w i).1 w.tileLen))) []

/-- Each channel of the suite rereads the copy, and keeps its own fingerprint table of it (R447, R752). -/
def rereadCopy (d : Device) (s : Ch) (k : Nat) : Device :=
  let w := copyOf (chanOf d (leadOf d s)) k
  modChans d (suiteChans d s) fun _ x => modCopy x k fun v => { v with fps := scanTiles w x }

/-- Pages of a copy in the common page table. -/
def copyPages (w : WCopy) : List Nat := (List.range w.reg.pages.toNat).map (w.reg.base.toNat + ·)

/-- Frees a copy: its pages on every channel of the suite, and its entry; its counter of repairs stays (R435, R465). -/
def freeCopy (d : Device) (s : Ch) (k : Nat) : Device :=
  let w := copyOf (chanOf d (leadOf d s)) k
  let d1 := modChans d (suiteChans d s) fun _ x =>
    modCopy (freeCommonPages x (copyPages w)) k fun v => { v with fps := [], refFps := [], chunks := [] }
  modLead d1 s fun x =>
    modModel (modCopy x k fun w => { reg := { deferred := w.reg.deferred, repairs := w.reg.repairs } }) w.reg.model.toNat fun m =>
      { m with cur := if m.cur.toNat = k then 0xF else m.cur, arm := if m.arm.toNat = k then 0xF else m.arm }

/-- At a step boundary, every RETIRING copy without a referrer becomes FREE (R435). -/
def freeRetired (d : Device) (s : Ch) : Device :=
  copyIxs.foldl (fun d k =>
    let w := copyOf (chanOf d (leadOf d s)) k
    if w.reg.state = csRetiring && refCount w = 0 then freeCopy d s k else d) d

/-- A copy that has lost its last room pointer is RETIRING (R443). -/
def retire (x : Channel) (k : Nat) : Channel :=
  modCopy x k fun w =>
    if w.reg.state = csCurrent && w.rooms.isEmpty then { w with reg := { w.reg with state := csRetiring } } else w

/-- The copy that a room's pointer for a model names. -/
def ptrOf (r : Room) (m : Nat) : Option Nat := tget none r.ptrs m

/-- The highest READY or CURRENT copy of a model, not SUSPECT, above a WGEN; an absent pointer lies below every WGEN (R441, R746). -/
def newestCopy (x : Channel) (m : Nat) (above : Option W32) : Option Nat :=
  copyIxs.foldl (fun b k =>
    let w := copyOf x k
    let ok := (w.reg.state == csReady || w.reg.state == csCurrent) && !w.reg.suspect && w.reg.model.toNat == m &&
      (match above with | none => true | some g => decide (g < w.reg.wgen))
    match b with
    | none => if ok then some k else none
    | some j => if ok && (copyOf x j).reg.wgen < w.reg.wgen then some k else some j) none

def wgenOf (x : Channel) (k : Nat) : W32 := (copyOf x k).reg.wgen

/-- Models that a room's program uses (R746). -/
def usesModel (r : Room) (m : Nat) : Bool := match r.prog with | some p => p.info.models.getLsbD m | none => false
def modelsUsed (r : Room) : List Nat := (List.range 4).filter (usesModel r)

/-- The model of the weight window in which a window map lies. -/
def mapModel (w : TierWmap) : Option Nat := (windowOf w.base.toNat).map (·.1)

/-- Window maps that lie in a model's window follow the copy; without a pointer PPL reads 0 (R438, R746). -/
def followMaps (m : Nat) (w : Option WCopy) (t : Tab TierWmap) : Tab TierWmap :=
  t.map fun e =>
    if mapModel e.2 = some m then
      match w with
      | some c => (e.1, { e.2 with ppl := c.ppl, layers := c.layers })
      | none => (e.1, { e.2 with ppl := 0 })
    else e

/-- What a room's window for a model shows on every channel. -/
def showWindow (d : Device) (s : Ch) (n m : Nat) (k : Option Nat) : Device :=
  let w := k.map (copyOf (chanOf d (leadOf d s)))
  let at_ := match w with | some c => (c.reg.base.toNat, c.reg.pages.toNat) | none => (0, 0)
  modSuiteRoom d s n fun r =>
    { r with ptrs := tset none r.ptrs m k, windows := tset (0, 0) r.windows m at_, wmaps := followMaps m w r.wmaps }

/-- A room's pointer takes a copy: the copy becomes CURRENT, and the one it leaves is RETIRING when no pointer names it (R441, R443). -/
def bindPtr (d : Device) (s : Ch) (n m k : Nat) : Device :=
  let old := ptrOf (leadRoom d s n) m
  let d1 := modLead d s fun x =>
    let y := match old with
      | some j => retire (modRefs x j fun w => { w with rooms := w.rooms.erase n }) j
      | none => x
    let z := modRefs y k fun w => { w with rooms := w.rooms ++ [n], reg := { w.reg with state := csCurrent } }
    modModel z m fun q => { q with cur := BitVec.ofNat 4 k }
  showWindow d1 s n m (some k)

/-- A pointer move counts in SWITCHES (Table 11.9) and raises the causal counter (R511). -/
def movePtr (d : Device) (s : Ch) (n m k : Nat) : Device :=
  modLead (bindPtr d s n m k) s fun x => modModel (causalUp x) m fun q => { q with switches := satInc q.switches }

/-- A room gives up its pointer for a model. -/
def dropPtr (d : Device) (s : Ch) (n m : Nat) : Device :=
  match ptrOf (leadRoom d s n) m with
  | none => d
  | some k => showWindow (modLead d s fun x => retire (modRefs x k fun w => { w with rooms := w.rooms.erase n }) k) s n m none

def dropPtrs (d : Device) (s : Ch) (n : Nat) : Device := [0, 1, 2, 3].foldl (fun d m => dropPtr d s n m) d

/-- The copy that LOAD_PROGRAM binds: under AUTO the one that R441 would choose, else CUR's (R746). -/
def bindChoice (x : Channel) (m : Nat) : Option Nat :=
  let q := modelOf x m
  if q.auto then newestCopy x m none
  else if q.cur.toNat < 8 && copyModel x q.cur.toNat = m && (copyState x q.cur.toNat = csCurrent || copyState x q.cur.toNat = csReady)
  then some q.cur.toNat else none

/-! ## Places and arming (R432, R446, R752) -/

/-- A range of common entries meets no copy in use. -/
def placeFree (x : Channel) (base pages : Nat) : Bool :=
  copyIxs.all fun k =>
    let w := (copyOf x k).reg
    w.state == csFree || base + pages ≤ w.base.toNat || w.base.toNat + w.pages.toNat ≤ base
/-- The lowest place for a copy's pages: at 0, or behind a copy in use. DESIGN CHOICE, log 25. -/
def placeFor (x : Channel) (pages : Nat) : Nat :=
  let ends := 0 :: (copyIxs.filter fun k => copyState x k != csFree).map fun k => (copyOf x k).reg.base.toNat + (copyOf x k).reg.pages.toNat
  ((ends.mergeSort (· ≤ ·)).find? fun b => placeFree x b pages).getD 0
/-- The lowest FREE copy entry. -/
def freeCopyIx (x : Channel) : Option Nat := copyIxs.find? fun k => copyState x k == csFree

/-- Takes a FREE entry and its pages on every channel of the suite; none when either lacks (R438, R752). -/
def claimCopy (d : Device) (s : Ch) (m pages : Nat) (st : BitVec 3) : Option (Nat × Device) :=
  let x := chanOf d (leadOf d s)
  match freeCopyIx x with
  | none => none
  | some k =>
    let base := placeFor x pages
    let ix := (List.range pages).map (base + ·)
    let got := (suiteChans d s).foldlM (fun d c => (allocCommonPages (chanOf d c) ix).map fun x => setChan d c x) d
    got.map fun d => (k, modLead d s fun x => modCopy x k fun w =>
      { reg := { w.reg with state := st, model := BitVec.ofNat 2 m, suspect := false, base := BitVec.ofNat 32 base, pages := BitVec.ofNat 32 pages,
                            wgen := 0, tiles := 0, refs := 0 } })

/-- While SOURCE is 1, one copy of the model is kept ARMED, with the pages of the copy made current last (R446). DEDUCED, log 26. -/
def armModel (d : Device) (s : Ch) (m : Nat) : Device :=
  let x := chanOf d (leadOf d s)
  let q := modelOf x m
  if q.source && q.arm = 0xF && q.cur.toNat < 8 then
    match claimCopy d s m (copyOf x q.cur.toNat).reg.pages.toNat csArmed with
    | some (k, d1) => modLead d1 s fun x => modModel x m fun q => { q with arm := BitVec.ofNat 4 k }
    | none => d
  else d
def armModels (d : Device) (s : Ch) : Device := [0, 1, 2, 3].foldl (fun d m => armModel d s m) d

/-! ## Pinned streams and jobs (R435, R43) -/

def pinKey (c i : Nat) : Nat := c * 65536 + i
def addPin (x : Channel) (k key : Nat) : Channel := modRefs x k fun w => { w with pins := w.pins ++ [key] }
/-- A pinned stream ends. -/
def dropPin (x : Channel) (key : Nat) : Channel :=
  copyIxs.foldl (fun x k => if (copyOf x k).pins.contains key then modRefs x k fun w => { w with pins := w.pins.erase key } else x) x
def addJob (x : Channel) (k n : Nat) : Channel := modRefs x k fun w => { w with jobs := w.jobs ++ [n] }
/-- A fine-tune job ends. -/
def dropJob (x : Channel) (n : Nat) : Channel :=
  copyIxs.foldl (fun x k => if (copyOf x k).jobs.contains n then modRefs x k fun w => { w with jobs := w.jobs.erase n } else x) x

end Sys2Proof.Machine
end

