-- ==== Sys2Proof/Machine/Sha3.lean ====
section
/-! DEFINITION. Machine/Sha3.lean: SHA3-256, the digest that chapters 11, 14 and 16 name (FIPS 202). -/

namespace Sys2Proof.Machine

/-! ## Keccak-f[1600]: a state of 25 lanes, lane (x, y) at 5 y + x -/

/-- The rotation of each lane. -/
def keccakRot : List Nat := [0, 1, 62, 28, 27, 36, 44, 6, 55, 20, 3, 10, 43, 25, 39, 41, 45, 15, 21, 8, 18, 2, 61, 56, 14]

/-- The lane that ends in each place: (x, y) comes from ((x + 3 y) mod 5, x). -/
def keccakFrom : List Nat := [0, 6, 12, 18, 24, 3, 9, 10, 16, 22, 1, 7, 13, 19, 20, 4, 5, 11, 17, 23, 2, 8, 14, 15, 21]

/-- The constant of each of the 24 rounds. -/
def keccakRound : List W64 :=
  [0x0000000000000001, 0x0000000000008082, 0x800000000000808A, 0x8000000080008000, 0x000000000000808B, 0x0000000080000001,
   0x8000000080008081, 0x8000000000008009, 0x000000000000008A, 0x0000000000000088, 0x0000000080008009, 0x000000008000000A,
   0x000000008000808B, 0x800000000000008B, 0x8000000000008089, 0x8000000000008003, 0x8000000000008002, 0x8000000000000080,
   0x000000000000800A, 0x800000008000000A, 0x8000000080008081, 0x8000000000008080, 0x0000000080000001, 0x8000000080008008]

def lane (a : List W64) (i : Nat) : W64 := a.getD i 0

/-- Theta: each lane takes the parities of two columns. -/
def keccakTheta (a : List W64) : List W64 :=
  let c := [0, 1, 2, 3, 4].map fun x => lane a x ^^^ lane a (x + 5) ^^^ lane a (x + 10) ^^^ lane a (x + 15) ^^^ lane a (x + 20)
  let d := [0, 1, 2, 3, 4].map fun x => lane c ((x + 4) % 5) ^^^ (lane c ((x + 1) % 5)).rotateLeft 1
  (List.range 25).map fun i => lane a i ^^^ lane d (i % 5)

/-- Rho and pi: lanes are rotated and take their new places. -/
def keccakMove (a : List W64) : List W64 := keccakFrom.map fun j => (lane a j).rotateLeft (keccakRot.getD j 0)

/-- Chi and iota. -/
def keccakMix (k : W64) (a : List W64) : List W64 :=
  (List.range 25).map fun i =>
    let y := i / 5 * 5
    let v := lane a i ^^^ (~~~(lane a (y + (i + 1) % 5)) &&& lane a (y + (i + 2) % 5))
    if i = 0 then v ^^^ k else v

def keccak (a : List W64) : List W64 := keccakRound.foldl (fun a k => keccakMix k (keccakMove (keccakTheta a))) a

/-! ## The sponge: a rate of 136 bytes, and the suffix 01 -/

/-- The blocks of a message: 0x06 follows it, zeros, and 0x80 ends the last block. -/
def sha3Pad (m : List Byte) : List Byte :=
  let n := 136 - m.length % 136
  m ++ if n = 1 then [0x86] else 0x06 :: (List.replicate (n - 2) 0 ++ [0x80])

def sha3Absorb (m : List Byte) (a : List W64) (b : Nat) : List W64 :=
  keccak ((List.range 25).map fun i =>
    if i < 17 then lane a i ^^^ BitVec.ofNat 64 (leNat ((m.drop (136 * b + 8 * i)).take 8)) else lane a i)

/-- SHA3-256; its first byte is bits [7:0]. -/
@[irreducible] def sha3 (m : List Byte) : BitVec 256 :=
  let p := sha3Pad m
  let a := (List.range (p.length / 136)).foldl (sha3Absorb p) (List.replicate 25 0)
  lane a 3 ++ lane a 2 ++ lane a 1 ++ lane a 0

end Sys2Proof.Machine
end

