-- ==== Sys2Proof/Machine/Links.lean ====
section
/-! DEFINITION. Machine/Links.lean: routing, frames, retry, TAG authentication, HELLO, link sessions and RoCEv2 rates (R466 to R491, R494 to R496, R510, R562 to R564). -/

namespace Sys2Proof.Machine

/-! ## CRC-32 (R472) -/

/-- One byte of the CRC-32 of IEEE 802.3, reflected form of polynomial 0x04C1_1DB7. -/
def crc32Byte (crc : W32) (b : Byte) : W32 :=
  (List.range 8).foldl (fun (c : W32) _ => if c.getLsbD 0 then (c >>> 1) ^^^ 0xEDB88320 else c >>> 1) (crc ^^^ b.setWidth 32)

/-- Initial value 0xFFFF_FFFF and final inversion. -/
def crc32 (bs : List Byte) : W32 := ~~~(bs.foldl crc32Byte 0xFFFFFFFF)

/-! ## Frame layout (Tables 12.1, 12.2) -/

def frameTypeOf (c : BitVec 4) : Option FrameType :=
  match c.toNat with
  | 1 => some .request | 2 => some .response | 3 => some .tag | 4 => some .hello | 5 => some .error
  | _ => none

def chunkOpOf (c : BitVec 3) : Option ChunkOp :=
  match c.toNat with
  | 0 => some .data | 1 => some .red | 2 => some .bcast | 3 => some .msg | 4 => some .memw | 5 => some .memr
  | _ => none

/-- The chunk descriptor in the first 32 bytes of a FIRST frame's payload (R479). -/
def descOf (v : BitVec 256) : Option ChunkDesc :=
  (chunkOpOf (v.extractLsb' 96 3)).map fun op =>
    { tag := v.extractLsb' 0 32, chunk := v.extractLsb' 32 32, bytes := v.extractLsb' 64 32, op := op, final := v.getLsbD 99,
      coll := v.extractLsb' 100 8, stamp := v.extractLsb' 128 64, addr := v.extractLsb' 192 64 }

/-- A frame from its header and payload. -/
def frameOf (h : BitVec 128) (payload : List Byte) : Option FabFrame :=
  match frameTypeOf (h.extractLsb' 0 4) with
  | none => none
  | some t =>
    let first := h.getLsbD 6
    let carries := first && (t == .request || t == .response)
    some { type := t, vl := h.extractLsb' 4 2, first := first, last := h.getLsbD 7, poison := h.getLsbD 8,
           dst := h.extractLsb' 16 18, src := h.extractLsb' 34 18, droom := h.extractLsb' 52 6, sroom := h.extractLsb' 58 6,
           seq := h.extractLsb' 64 12, fidx := h.extractLsb' 76 12, xid := h.extractLsb' 96 32,
           desc := if carries then descOf (BitVec.ofNat 256 (leNat (payload.take 32))) else none,
           payload := if carries then payload.drop 32 else payload }

/-! ## Links -/

def linkKey : Link → Nat
  | .port p => p.toNat
  | .pack c => 4 + c.num

def linkOf (x : Channel) (l : Link) : LinkState := tget {} x.links (linkKey l)
def modLink (x : Channel) (l : Link) (f : LinkState → LinkState) : Channel :=
  { x with links := tmod {} x.links (linkKey l) f }

def portOf (x : Channel) (p : BitVec 2) : FabPort := tget {} x.ports p.toNat
def modPort (x : Channel) (p : BitVec 2) (f : FabPort → FabPort) : Channel :=
  { x with ports := tmod {} x.ports p.toNat f }
def modLinkPort (x : Channel) (l : Link) (f : FabPort → FabPort) : Channel :=
  match l with
  | .port p => modPort x p f
  | .pack _ => x

/-- The on-package link between two channels works while both run and neither end has judged it permanent (R478, R481, Table 15.5). -/
def packUp (d : Device) (a b : Ch) : Bool :=
  a != b && (chanOf d a).released && !(chanOf d a).lost && (chanOf d b).released && !(chanOf d b).lost &&
  !packOut (chanOf d a) (packUnit a b) && !packOut (chanOf d b) (packUnit a b)

/-- A link without its session: the keys are erased (R555). -/
def closeSession (k : LinkState) : LinkState :=
  { k with session := false, keyTx := 0, keyRx := 0, nextTx := none, nextRx := none, setup := 0, unverified := [], sinceTag := 0, tagTx := 0,
           tagRx := 0, tagFails := 0 }

/-- The session of a set-up that both ends have passed: the key from the lower node to the higher, and the other (R562 step 4). A rekey takes
effect in each direction at a TAG boundary (R564). -/
def openSession (lower : Bool) (secret : BitVec 256) (k : LinkState) : LinkState :=
  let up := sha3 (leBytes 32 secret.toNat ++ [0])
  let down := sha3 (leBytes 32 secret.toNat ++ [1])
  let tx := if lower then up else down
  let rx := if lower then down else up
  let k0 := { k with setup := 0, tagFails := 0 }
  let k1 := if k.session && k.sinceTag != 0 then { k0 with nextTx := some tx }
    else { k0 with keyTx := tx, nextTx := none, tagTx := 0, sinceTag := 0 }
  let k2 := if k.session && !k.unverified.isEmpty then { k1 with nextRx := some rx } else { k1 with keyRx := rx, nextRx := none, tagRx := 0 }
  { k2 with session := true }

/-- A TAG has been sent: its counter rises, or a rekey takes effect. -/
def tagSent (k : LinkState) : LinkState :=
  match k.nextTx with
  | some v => { k with keyTx := v, nextTx := none, tagTx := 0 }
  | none => { k with tagTx := k.tagTx + 1 }

/-- A TAG has verified. -/
def tagPassed (k : LinkState) : LinkState :=
  match k.nextRx with
  | some v => { k with keyRx := v, nextRx := none, tagRx := 0 }
  | none => { k with tagRx := k.tagRx + 1 }

/-- Link session keys held: one per direction of each session (Table 14.2, Table 14.9). -/
def countKeys (x : Channel) : Channel :=
  { x with sec := { x.sec with linkKeys := BitVec.ofNat 8 (2 * (x.links.filter fun p => p.2.session).length) } }

/-! ## Routing (R486, R487) -/

/-- The top PLEN bits of MATCH equal those of DST. -/
def routeMatches (r : FabRt) (dst : BitVec 18) : Bool :=
  r.valid && ((r.matchVal ^^^ dst) >>> (18 - min 18 r.plen.toNat)) == 0

/-- The valid entry with the largest PLEN, then the lowest index. -/
def bestRoute (x : Channel) (dst : BitVec 18) : Option FabRt :=
  (x.routes.filter fun p => routeMatches p.2 dst).foldl
    (fun b p => match b with
      | none => some p.2
      | some q => if q.plen.toNat < p.2.plen.toNat then some p.2 else some q) none

/-- The choice at index (TAG + CHUNK) mod the number of candidates. -/
def pickAt {α : Type} (l : List α) (n : Nat) : Option α := l[n % l.length]?

/-- A working Orzer port: up, and not of the Ethernet personality. -/
def orzerUp (x : Channel) (p : Nat) : Bool := (portOf x (BitVec.ofNat 2 p)).state == 2 && !(portOf x (BitVec.ofNat 2 p)).pers

/-- The link a chunk takes from channel c, and whether it moves to the higher VL; none where there is no route. A link to avoid is not taken. A
channel of this device whose own link is down or avoided is reached through another channel (Table 15.1). -/
def routeLink (d : Device) (c : Ch) (dst : BitVec 18) (n : Nat) (avoid : Option Link) : Option (Link × Bool) :=
  let x := chanOf d c
  let ok := fun l => avoid != some l
  if dst.extractLsb' 2 16 = x.node.device then
    let o := Ch.ofNum (dst.extractLsb' 0 2).toNat
    if packUp d c o && ok (.pack o) then some (.pack o, false)
    else (pickAt (Ch.all.filter fun k => k != o && packUp d c k && packUp d k o && ok (.pack k)) n).map fun k => (.pack k, false)
  else
    match bestRoute x dst with
    | none => none
    | some r =>
      let ps := (List.range 4).filterMap fun p =>
        if r.ports.getLsbD p && orzerUp x p && ok (.port (BitVec.ofNat 2 p)) then some (Link.port (BitVec.ofNat 2 p)) else none
      match pickAt ps n with
      | some l => some (l, r.vlinc)
      | none =>
        let cs := Ch.all.filter fun o => (r.alt.getLsbD o.num || (r.alt = 0 && inService (chanOf d o))) && packUp d c o && ok (.pack o)
        (pickAt cs n).map fun o => (.pack o, r.vlinc)

/-! ## Ethernet peers (R509, R515) -/

/-- The valid peer entry that names a node; of several the lowest. -/
def ethPeer (x : Channel) (node : BitVec 18) : Option (Nat × FabEthPeer) := x.peers.find? fun p => p.2.valid && p.2.node == node

/-- The peer entry through which an operation of the channel itself reaches a node: its port has the Ethernet personality and is up. -/
def ethWay (x : Channel) (node : BitVec 18) : Option Nat :=
  match ethPeer x node with
  | some (j, p) => if (portOf x p.port).pers && (portOf x p.port).state == 2 then some j else none
  | none => none

/-- The frames of a chunk for this node would leave by a port of the Ethernet personality, which carries no frames: the node is an Ethernet peer,
or the route has such a port that is up (R509). -/
def ethernetOnly (x : Channel) (node : BitVec 18) : Bool :=
  (ethPeer x node).isSome ||
  match bestRoute x node with
  | some r => (List.range 4).any fun p =>
      r.ports.getLsbD p && (portOf x (BitVec.ofNat 2 p)).pers && (portOf x (BitVec.ofNat 2 p)).state == 2
  | none => false

/-- VLINC moves a frame to the higher VL of its class (R488). -/
def vlAfter (vl : BitVec 2) (inc : Bool) : BitVec 2 := if inc then vl ||| 1 else vl

/-! ## Sending -/

/-- The next of n turns, after the one served last, that some frame waits for. -/
def nextTurn (n last : Nat) (waits : Nat → Bool) : Option Nat := ((List.range n).map fun i => (last + 1 + i) % n).find? waits

/-- The frame that an output serves next: the VLs take turns, and within a VL the inputs do (R490). -/
def nextOut (k : LinkState) : Option OutFrame :=
  (nextTurn 4 k.lastVl fun v => k.waiting.any fun w => w.frame.vl.toNat == v).bind fun v =>
    (nextTurn 9 (tget 8 k.lastIn v) fun i => k.waiting.any fun w => w.frame.vl.toNat == v && w.input == i).bind fun i =>
      k.waiting.find? fun w => w.frame.vl.toNat == v && w.input == i

/-- An optical port that trains anew sends nothing, and no link sends while its replay buffer of 1,024 frames is full (R470, R473). -/
def maySend (x : Channel) (l : Link) : Bool :=
  decide ((linkOf x l).held.length < 1024) && match l with | .port p => (portOf x p).state != 3 | .pack _ => true

/-- Puts a frame on its link: it takes the link's next SEQ and is kept until it is acknowledged (R473, R474); on an optical link a TAG frame
follows every 128 frames (R477). -/
def emit (d : Device) (c : Ch) (l : Link) (w : OutFrame) : Device :=
  let k := linkOf (chanOf d c) l
  let f' := { w.frame with seq := k.nextSeq }
  let optical := match l with
    | .port _ => true
    | .pack _ => false
  let tagNow := optical && k.sinceTag + 1 == 128
  let v := w.frame.vl.toNat
  let k' : LinkState := { k with
    nextSeq := k.nextSeq + 1, held := k.held ++ [{ frame := f', up := w.up }], waiting := k.waiting.erase w,
    lastVl := v, lastIn := tset 8 k.lastIn v w.input,
    sinceTag := if tagNow || !optical then 0 else k.sinceTag + 1 }
  let d1 := modChan d c fun x =>
    modLinkPort (modLink x l fun _ => if tagNow then tagSent k' else k') l fun q => { q with txBytes := q.txBytes + BitVec.ofNat 64 w.frame.payload.length }
  let d2 := send d1 (.frame c l f')
  if tagNow then send d2 (.tagFrame c l) else d2

/-- An output serves up to n of its waiting frames, as far as its link may send. -/
def serveOut (c : Ch) (l : Link) : Nat → Device → Device
  | 0, d => d
  | n + 1, d =>
    match nextOut (linkOf (chanOf d c) l) with
    | some w => if maySend (chanOf d c) l then serveOut c l n (emit d c l w) else d
    | none => d

def serveAll (d : Device) (c : Ch) (l : Link) : Device := serveOut c l (linkOf (chanOf d c) l).waiting.length d

/-- The input by which a frame came to the router: its upstream link, or the channel itself. -/
def inputOf (up : Option (Link × BitVec 12)) : Nat :=
  match up with
  | some (l, _) => linkKey l
  | none => 8

/-- A frame joins the queue of its output, which is then served (R490). -/
def sendOn (d : Device) (c : Ch) (l : Link) (f : FabFrame) (up : Option (Link × BitVec 12)) : Device :=
  serveAll (modChan d c fun x => modLink x l fun k =>
    { k with waiting := k.waiting ++ [{ frame := f, up := up, input := inputOf up }] }) c l

/-- An ERROR frame to the source of a refused frame (R494, R495, Table 12.14). -/
def errorFrame (me : BitVec 18) (f : FabFrame) (cause : Nat) : FabFrame :=
  let tag := match f.desc with | some k => k.tag | none => 0
  let op := match f.desc with | some k => k.op.code | none => 0
  { type := .error, vl := 2, first := true, last := true, dst := f.src, src := me, droom := f.sroom, sroom := f.droom,
    payload := leBytes 4 f.xid.toNat ++
      leBytes 12 (cause % 256 + 2 ^ 16 * f.dst.toNat + 2 ^ 34 * f.droom.toNat + 2 ^ 40 * op.toNat + 2 ^ 64 * tag.toNat) ++
      List.replicate 48 0 }

/-- Answers a frame with an ERROR frame; an ERROR frame itself is discarded and counted (R495). One for this very channel crosses no link. -/
def refuseFrame (d : Device) (c : Ch) (f : FabFrame) (cause : Nat) : Device :=
  let lose := fun d => modChan d c fun x => { x with red := { x.red with errors := satInc x.red.errors } }
  if f.type = .error then lose d
  else
    let e := errorFrame (nodeOf (chanOf d c)) f cause
    if e.dst = nodeOf (chanOf d c) then send d (.frame c (.pack c) e) else
    match routeLink d c e.dst 0 none with
    | some (l, inc) => sendOn d c l { e with vl := vlAfter e.vl inc } none
    | none => lose d

/-- The number by which a chunk chooses among its candidates (R487). -/
def chunkNum (f : FabFrame) : Nat := match f.desc with | some k => k.tag.toNat + k.chunk.toNat | none => f.xid.toNat

/-- The port of a frame: its chunk's choice, made once at the FIRST frame, or a choice of its own where none was made here (R487). -/
def frameWay (d : Device) (c : Ch) (f : FabFrame) (avoid : Option Link) : Option (Link × Bool) :=
  match (chanOf d c).paths.find? fun p => p.src == f.src && p.xid == f.xid && !f.first && avoid != some p.link with
  | some p => some (p.link, p.vlinc)
  | none => routeLink d c f.dst (chunkNum f) avoid

/-- The choice of a chunk is kept until its LAST frame has passed. -/
def notePath (f : FabFrame) (w : Link × Bool) (x : Channel) : Channel :=
  let rest := x.paths.filter fun p => !(p.src == f.src && p.xid == f.xid)
  { x with paths := if f.last then rest else rest ++ [{ src := f.src, xid := f.xid, link := w.1, vlinc := w.2 }] }

/-- Forwards a frame towards its DST (R487, R488). Without a way over Orzer links it is refused: with cause 5 where only an Ethernet port leads
there, else with cause 1 (R494, R509). -/
def forward (d : Device) (c : Ch) (f : FabFrame) (up : Option (Link × BitVec 12)) (avoid : Option Link) : Device :=
  match frameWay d c f avoid with
  | some w => sendOn (modChan d c (notePath f w)) c w.1 { f with vl := vlAfter f.vl w.2 } up
  | none => refuseFrame d c f (if ethernetOnly (chanOf d c) f.dst then 5 else 1)

/-- One frame of a link whose next hop is silent goes over another port of its route; without one it stays, in the list that back puts it. -/
def detour (c : Ch) (l : Link) (back : LinkState → LinkState) (f : FabFrame) (up : Option (Link × BitVec 12)) (d : Device) : Device :=
  match routeLink d c f.dst (chunkNum f) (some l) with
  | some (l', _) => sendOn d c l' f up
  | none => modChan d c fun x => modLink x l back

/-- Frames of a link that its next hop has not acknowledged are re-sent over another port of the same route, and counted in RESENDS (R476); those
that wait for the link go with them. -/
def resend (d : Device) (c : Ch) (l : Link) : Device :=
  let k := linkOf (chanOf d c) l
  let d1 := modChan d c fun x =>
    { modLink x l (fun k => { k with held := [], waiting := [] }) with red := { x.red with resends := satAdd x.red.resends k.held.length } }
  let d2 := k.held.foldl (fun d h => detour c l (fun k => { k with held := k.held ++ [h] }) h.frame h.up d) d1
  k.waiting.foldl (fun d w => detour c l (fun k => { k with waiting := k.waiting ++ [w] }) w.frame w.up d) d2

/-- A port leaves service: its session keys are erased and its frames go another way (R51, R476, R555). -/
def portLeaves (d : Device) (c : Ch) (p : BitVec 2) (st : BitVec 3) : Device :=
  let d1 := modChan d c fun x =>
    countKeys (modLink (modPort x p fun q => { q with state := st }) (.port p) closeSession)
  refresh (resend d1 c (.port p))

/-- Starts a retrain of a port (R470, R473). -/
def retrain (x : Channel) (p : BitVec 2) : Channel :=
  modPort x p fun q => { q with state := 3, retrains := satInc q.retrains }

/-! ## Receiving -/

/-- An acknowledgement to the upstream hop (R474). -/
def ackUp (d : Device) (c : Ch) (up : Option (Link × BitVec 12)) : Device :=
  match up with
  | some (l, q) => send d (.ack c l q)
  | none => d

/-- An entry that an announcement has installed: its chunks are no room's (R446, R499). -/
def roomless (e : FabColl) : Bool := e.common || e.bytes = 0

/-- Why a frame for this channel cannot be delivered (R494): the destination room is not started, an address outside the region kept for peers, an unknown queue. -/
def refuseCause (x : Channel) (f : FabFrame) : Option Nat :=
  match f.type, f.desc with
  | .request, some k =>
    match k.op with
    | .data | .red => if isStarted (roomOf x f.droom.toNat) then none else some 2
    | .bcast => if isStarted (roomOf x f.droom.toNat) || roomless (tget {} x.colls k.coll.toNat) then none else some 2
    | .msg => if k.tag.toNat < 2 then none else some 4
    | .memw | .memr => if k.addr.toNat + k.bytes.toNat ≤ Config.peerPages x.node.channel.toNat * 65536 then none else some 3
  | _, _ => none

/-- A frame received intact and, on an optical link, authenticated: delivered here once per (SRC, XID, FIDX) (R476), or forwarded. -/
def takeFrame (d : Device) (c : Ch) (l : Link) (f : FabFrame) : Device :=
  let x := chanOf d c
  let d1 := modChan d c fun x => modLinkPort x l fun q => { q with rxBytes := q.rxBytes + BitVec.ofNat 64 f.payload.length }
  if f.dst = nodeOf x then
    if x.placed.contains (f.src, f.xid, f.fidx) then send d1 (.ack c l f.seq)
    else
      match refuseCause x f with
      | some cause => refuseFrame (send d1 (.ack c l f.seq)) c f cause
      | none =>
        let d2 := modChan d1 c fun x =>
          let y := { x with placed := (f.src, f.xid, f.fidx) :: x.placed }
          match f.desc with
          | some k => if f.first then causalRecv y k.stamp else y
          | none => y
        send d2 (.ack c l f.seq)
  else forward d1 c f (some (l, f.seq)) none

/-- The link accepts frames: an optical port up with a session, or an on-package link (R477, R478, R560). -/
def linkCarries (d : Device) (c : Ch) (l : Link) : Bool :=
  match l with
  | .port p => (portOf (chanOf d c) p).state == 2 && !(portOf (chanOf d c) p).pers && (linkOf (chanOf d c) l).session
  | .pack o => packUp d c o

/-- FRAME_RECEIVE (R471 to R478): a CRC failure is counted and answered with a negative acknowledgement that names the SEQ; a frame in order is kept for its TAG on an optical link, and taken at once on an on-package link; any other frame is discarded. -/
def frameReceive (c : Ch) (l : Link) (hdr : BitVec 128) (payload : List Byte) (crc : W32) (d : Device) : Device :=
  if !linkCarries d c l then d
  else
    let k := linkOf (chanOf d c) l
    if crc32 (leBytes 16 hdr.toNat ++ payload) ≠ crc then
      send (modChan d c fun x => modLinkPort x l fun q => { q with crcErr := satInc q.crcErr }) (.nak c l k.expectSeq)
    else
      match frameOf hdr payload with
      | none => d
      | some f =>
        if f.seq ≠ k.expectSeq then d
        else
          let d1 := modChan d c fun x => modLink x l fun k => { k with expectSeq := k.expectSeq + 1 }
          match l with
          | .port _ => modChan d1 c fun x => modLink x l fun k => { k with unverified := k.unverified ++ [f] }
          | .pack _ => takeFrame d1 c l f

def execFrameReceive (c : Ch) (l : Link) (hdr : BitVec 128) (payload : List Byte) (crc : W32) (s : State) : Out :=
  onDev (frameReceive c l hdr payload crc) s

/-- NAK_RECEIVE (R473): every frame from the named SEQ onward is replayed in order; a frame replayed 16 times in succession starts a retrain. -/
def nakReceive (c : Ch) (l : Link) (seq : BitVec 12) (d : Device) : Device :=
  let k := linkOf (chanOf d c) l
  let before := k.held.takeWhile fun h => h.frame.seq != seq
  let again := (k.held.dropWhile fun h => h.frame.seq != seq).map fun h => { h with replays := h.replays + 1 }
  let d1 := modChan d c fun x =>
    let y := modLinkPort (modLink x l fun k => { k with held := before ++ again }) l fun q =>
      { q with replays := if again.isEmpty then q.replays else satInc q.replays }
    if again.any (fun h => h.replays = 16) then
      match l with
      | .port p => retrain y p
      | .pack _ => y
    else y
  again.foldl (fun d h => send d (.frame c l h.frame)) d1

def execNakReceive (c : Ch) (l : Link) (seq : BitVec 12) (s : State) : Out := onDev (nakReceive c l seq) s

/-- FRAME_ACK_RECEIVE (R474): the frame is released, a frame in transit is acknowledged upstream, and the replay buffer has a place again. -/
def frameAckReceive (c : Ch) (l : Link) (seq : BitVec 12) (d : Device) : Device :=
  let k := linkOf (chanOf d c) l
  let gone := k.held.filter fun h => h.frame.seq == seq
  let d1 := modChan d c fun x => modLink x l fun k => { k with held := k.held.filter fun h => h.frame.seq != seq }
  serveAll (gone.foldl (fun d h => ackUp d c h.up) d1) c l

/-! ## HELLO and link sessions -/

/-- HELLO_TIMER (R484): a trained Orzer link names its node and port. -/
def helloTimer (c : Ch) (p : BitVec 2) (d : Device) : Device :=
  let x := chanOf d c
  let q := portOf x p
  if q.state = 2 ∧ !q.pers then
    send d (.frame c (.port p) { type := .hello, vl := 2, first := true, last := true, dst := q.peer, src := nodeOf x, payload := leBytes 64 (p.toNat) })
  else d

def execHelloTimer (c : Ch) (p : BitVec 2) (s : State) : Out := onDev (helloTimer c p) s

/-- The end with the lower node ID starts a set-up (R562 step 1). -/
def startSetup (d : Device) (c : Ch) (p : BitVec 2) : Device :=
  let x := chanOf d c
  if nodeOf x < (portOf x p).peer && x.sec.trngOk then
    send (modChan d c fun x => modLink x (.port p) fun k => { k with setup := 1 }) (.linkSetup c p 1)
  else d

/-- HELLO_RECEIVE (R484, R562, R563): another node updates PEER and counts in PEER_CHANGES; a link without a session starts its set-up. -/
def helloReceive (c : Ch) (p : BitVec 2) (node : BitVec 18) (port : BitVec 2) (d : Device) : Device :=
  let q := portOf (chanOf d c) p
  if (q.state = 2 ∨ q.state = 4) ∧ !q.pers then
    let d1 := modChan d c fun x => modPort x p fun q =>
      if q.peer = node then { q with peerPort := port }
      else { q with peer := node, peerPort := port, peerChanges := satInc q.peerChanges }
    if (linkOf (chanOf d1 c) (.port p)).session then d1 else startSetup d1 c p
  else d

def execHelloReceive (c : Ch) (p : BitVec 2) (node : BitVec 18) (port : BitVec 2) (s : State) : Out :=
  onDev (helloReceive c p node port) s

/-- LINK_SETUP_RETRY_TIMER (R563): a port whose set-up failed tries again. -/
def linkSetupRetry (c : Ch) (p : BitVec 2) (d : Device) : Device :=
  let x := chanOf d c
  if (portOf x p).state = 4 ∧ !(linkOf x (.port p)).session then startSetup d c p else d

def execLinkSetupRetryTimer (c : Ch) (p : BitVec 2) (s : State) : Out := onDev (linkSetupRetry c p) s

/-- LINK_REKEY (R564): a new set-up is started while traffic goes on under the old keys. -/
def linkRekey (c : Ch) (p : BitVec 2) (d : Device) : Device :=
  if (linkOf (chanOf d c) (.port p)).session then startSetup d c p else d

def execLinkRekey (c : Ch) (p : BitVec 2) (s : State) : Out := onDev (linkRekey c p) s

/-! ## Retraining -/

/-- PORT_RETRAIN_DONE (R470): the port is up, its frames in flight are replayed, and those that waited follow. -/
def portRetrainDone (c : Ch) (p : BitVec 2) (d : Device) : Device :=
  if (portOf (chanOf d c) p).state = 3 then
    let d1 := modChan d c fun x => modPort x p fun q => { q with state := 2 }
    serveAll ((linkOf (chanOf d c) (.port p)).held.foldl (fun d h => send d (.frame c (.port p) h.frame)) (refresh d1)) c (.port p)
  else d

def execPortRetrainDone (c : Ch) (p : BitVec 2) (s : State) : Out := onDev (portRetrainDone c p) s

/-! ## RoCEv2 rates (R510) -/

/-- The full rate of a queue pair: 8 eighths of the port rate. -/
def qpFull : Nat := 8 * 65536

def qpRate (x : Channel) (peer : Nat) : Nat :=
  match x.qps.find? (fun q => q.peer == peer) with
  | some q => q.rate
  | none => qpFull

/-- A queue pair at full rate is not listed. -/
def setQp (x : Channel) (peer r : Nat) : Channel :=
  let rest := x.qps.filter fun q => q.peer != peer
  { x with qps := if r = qpFull then rest else rest ++ [⟨peer, r⟩] }

/-- ETH_CNP_RECEIVE: the queue pair halves its injection rate. -/
def execEthCnpReceive (c : Ch) (peer : BitVec 10) (s : State) : Out :=
  onDev (fun d => modChan d c fun x => setQp x peer.toNat (qpRate x peer.toNat / 2)) s

/-- ETH_RATE_RECOVERY: it recovers by one eighth of the port rate. -/
def execEthRateRecovery (c : Ch) (peer : BitVec 10) (s : State) : Out :=
  onDev (fun d => modChan d c fun x => setQp x peer.toNat (min qpFull (qpRate x peer.toNat + 65536))) s

/-! ## Controller messages (R496) -/

/-- The lane of messages to one receiver and queue. -/
def laneOf (x : Channel) (node : BitVec 18) (q : W32) : MsgLane :=
  match x.lanes.find? (fun l => l.node == node && l.queue == q) with
  | some l => l
  | none => { node := node, queue := q }

def setLane (x : Channel) (l : MsgLane) : Channel :=
  { x with lanes := x.lanes.filter (fun k => !(k.node == l.node && k.queue == l.queue)) ++ [l] }

/-- A message leaves the channel: over an Ethernet port it is a SEND whose immediate data holds the queue (R509). -/
def putMsg (d : Device) (c : Ch) (m : Msg) : Device :=
  match ethWay (chanOf d c) m.node with
  | some j => send d (.rdmaSend c j m.queue m.bytes)
  | none => send d (.message c m.node m.queue m.bytes)

/-- Sends a message, or keeps it while four are in flight to its receiver and queue. -/
def sendMsg (d : Device) (c : Ch) (m : Msg) : Device :=
  let l := laneOf (chanOf d c) m.node m.queue
  if l.inFlight < 4 then
    putMsg (modChan d c fun x => causalUp (setLane x { l with inFlight := l.inFlight + 1 })) c m
  else modChan d c fun x => setLane x { l with waiting := l.waiting ++ [m] }

/-- MSG_CREDIT_RETURN (R496): a credit comes back, and the first waiting message goes. -/
def msgCreditReturn (c : Ch) (node : BitVec 18) (queue : W32) (d : Device) : Device :=
  let l := laneOf (chanOf d c) node queue
  let n := l.inFlight - 1
  match l.waiting with
  | [] => modChan d c fun x => setLane x { l with inFlight := n }
  | m :: ms => sendMsg (modChan d c fun x => setLane x { l with inFlight := n, waiting := ms }) c m

/-- A control message of a sender has been consumed: its credit of queue 1 goes back (R496). -/
def consumed (c : Ch) (node : BitVec 18) (d : Device) : Device :=
  if !(chanOf d c).started || node = nodeOf (chanOf d c) then d else send d (.credit c node 1)

def execMsgCreditReturn (c : Ch) (node : BitVec 18) (queue : W32) (s : State) : Out :=
  onDev (msgCreditReturn c node queue) s

end Sys2Proof.Machine
end

