-- ==== Sys2Proof/Machine/RegBits.lean ====
section
/-! DEFINITION. Machine/RegBits.lean: reading and writing each register word by its bits (R14 to R16), from the register tables. -/

namespace Sys2Proof.Machine

/-- The words of FY_DEV_STATUS as read (R52); a reserved bit reads 0 (R16). -/
def getFyDevStatus (r : FyDevStatus) : Nat → BitVec 64
  | 0 => ((r.chService.setWidth 64)) ||| ((r.chDegraded.setWidth 64) <<< 4) ||| ((r.stkOk.setWidth 64) <<< 8) ||| (((BitVec.ofBool r.hostaUp).setWidth 64) <<< 24) ||| (((BitVec.ofBool r.hostbUp).setWidth 64) <<< 25) ||| (((BitVec.ofBool r.degraded).setWidth 64) <<< 26) ||| (((BitVec.ofBool r.draining).setWidth 64) <<< 27) ||| (((BitVec.ofBool r.compatH1).setWidth 64) <<< 28)
  | _ => 0

/-- FY_DEV_STATUS with word w's fields taken from v, whatever their access; the write rule is writeWord's. -/
def putFyDevStatus (r : FyDevStatus) (w : Nat) (v : BitVec 64) : FyDevStatus :=
  match w with
  | 0 => { r with chService := v.extractLsb' 0 4, chDegraded := v.extractLsb' 4 4, stkOk := v.extractLsb' 8 16, hostaUp := v.getLsbD 24, hostbUp := v.getLsbD 25, degraded := v.getLsbD 26, draining := v.getLsbD 27, compatH1 := v.getLsbD 28 }
  | _ => r

/-- The words of FY_ARR_WIDTH as read (R53); a reserved bit reads 0 (R16). -/
def getFyArrWidth (r : FyArrWidth) : Nat → BitVec 64
  | 0 => ((r.c0Width.setWidth 64)) ||| ((r.c1Width.setWidth 64) <<< 8) ||| ((r.c2Width.setWidth 64) <<< 16) ||| ((r.c3Width.setWidth 64) <<< 24)
  | _ => 0

/-- FY_ARR_WIDTH with word w's fields taken from v, whatever their access; the write rule is writeWord's. -/
def putFyArrWidth (r : FyArrWidth) (w : Nat) (v : BitVec 64) : FyArrWidth :=
  match w with
  | 0 => { r with c0Width := v.extractLsb' 0 8, c1Width := v.extractLsb' 8 8, c2Width := v.extractLsb' 16 8, c3Width := v.extractLsb' 24 8 }
  | _ => r

/-- The words of ARR_CHK_STATUS as read (R100); a reserved bit reads 0 (R16). -/
def getArrChkStatus (r : ArrChkStatus) : Nat → BitVec 64
  | 0 => ((r.lastKind.setWidth 64)) ||| ((r.lastPcol.setWidth 64) <<< 2) ||| (((BitVec.ofBool r.lastRetryOk).setWidth 64) <<< 12) ||| (((BitVec.ofBool r.steered).setWidth 64) <<< 13) ||| ((r.failedCols.setWidth 64) <<< 14) ||| ((r.failedRows.setWidth 64) <<< 21)
  | _ => 0

/-- ARR_CHK_STATUS with word w's fields taken from v, whatever their access; the write rule is writeWord's. -/
def putArrChkStatus (r : ArrChkStatus) (w : Nat) (v : BitVec 64) : ArrChkStatus :=
  match w with
  | 0 => { r with lastKind := v.extractLsb' 0 2, lastPcol := v.extractLsb' 2 10, lastRetryOk := v.getLsbD 12, steered := v.getLsbD 13, failedCols := v.extractLsb' 14 7, failedRows := v.extractLsb' 21 6 }
  | _ => r

/-- The words of ARR_CHK_COUNT as read (R101); a reserved bit reads 0 (R16). -/
def getArrChkCount (r : ArrChkCount) : Nat → BitVec 64
  | 0 => ((r.resMismatch.setWidth 64)) ||| ((r.addMismatch.setWidth 64) <<< 16) ||| ((r.retryOk.setWidth 64) <<< 32) ||| ((r.retryFail.setWidth 64) <<< 48)
  | _ => 0

/-- ARR_CHK_COUNT with word w's fields taken from v, whatever their access; the write rule is writeWord's. -/
def putArrChkCount (r : ArrChkCount) (w : Nat) (v : BitVec 64) : ArrChkCount :=
  match w with
  | 0 => { r with resMismatch := v.extractLsb' 0 16, addMismatch := v.extractLsb' 16 16, retryOk := v.extractLsb' 32 16, retryFail := v.extractLsb' 48 16 }
  | _ => r

/-- The words of CC_STREAM_FAULT as read (R153); a reserved bit reads 0 (R16). -/
def getCcStreamFault (r : CcStreamFault) : Nat → BitVec 64
  | 0 => ((r.kind.setWidth 64)) ||| ((r.slot.setWidth 64) <<< 8) ||| ((r.room.setWidth 64) <<< 12) ||| ((r.pc.setWidth 64) <<< 24) ||| (((BitVec.ofBool r.valid).setWidth 64) <<< 63)
  | _ => 0

/-- CC_STREAM_FAULT with word w's fields taken from v, whatever their access; the write rule is writeWord's. -/
def putCcStreamFault (r : CcStreamFault) (w : Nat) (v : BitVec 64) : CcStreamFault :=
  match w with
  | 0 => { r with kind := v.extractLsb' 0 8, slot := v.extractLsb' 8 4, room := v.extractLsb' 12 6, pc := v.extractLsb' 24 24, valid := v.getLsbD 63 }
  | _ => r

/-- The words of CC_ISSUE_COUNT as read (R154); a reserved bit reads 0 (R16). -/
def getCcIssueCount (r : CcIssueCount) : Nat → BitVec 64
  | 0 => ((r.boundMiss.setWidth 64)) ||| ((r.tierMiss.setWidth 64) <<< 32)
  | _ => 0

/-- CC_ISSUE_COUNT with word w's fields taken from v, whatever their access; the write rule is writeWord's. -/
def putCcIssueCount (r : CcIssueCount) (w : Nat) (v : BitVec 64) : CcIssueCount :=
  match w with
  | 0 => { r with boundMiss := v.extractLsb' 0 32, tierMiss := v.extractLsb' 32 32 }
  | _ => r

/-- The words of CC_WAIT_LIMIT as read (R155); a reserved bit reads 0 (R16). -/
def getCcWaitLimit (r : CcWaitLimit) : Nat → BitVec 64
  | 0 => ((r.limitUs.setWidth 64))
  | _ => 0

/-- CC_WAIT_LIMIT with word w's fields taken from v, whatever their access; the write rule is writeWord's. -/
def putCcWaitLimit (r : CcWaitLimit) (w : Nat) (v : BitVec 64) : CcWaitLimit :=
  match w with
  | 0 => { r with limitUs := v.extractLsb' 0 32 }
  | _ => r

/-- The words of STK_STATE_s as read (R177); a reserved bit reads 0 (R16). -/
def getStkState (r : StkState) : Nat → BitVec 64
  | 0 => (((BitVec.ofBool r.up).setWidth 64)) ||| ((r.sparesUsed.setWidth 64) <<< 1) ||| (((BitVec.ofBool r.migrating).setWidth 64) <<< 5) ||| ((r.migCh.setWidth 64) <<< 6) ||| ((r.ceCount.setWidth 64) <<< 32)
  | 1 => ((r.spares))
  | _ => 0

/-- STK_STATE_s with word w's fields taken from v, whatever their access; the write rule is writeWord's. -/
def putStkState (r : StkState) (w : Nat) (v : BitVec 64) : StkState :=
  match w with
  | 0 => { r with up := v.getLsbD 0, sparesUsed := v.extractLsb' 1 4, migrating := v.getLsbD 5, migCh := v.extractLsb' 6 7, ceCount := v.extractLsb' 32 32 }
  | 1 => { r with spares := v.extractLsb' 0 64 }
  | _ => r

/-- The words of STK_SCRUB as read (R178); a reserved bit reads 0 (R16). -/
def getStkScrub (r : StkScrub) : Nat → BitVec 64
  | 0 => ((r.periodH.setWidth 64)) ||| ((r.passes.setWidth 64) <<< 8)
  | _ => 0

/-- STK_SCRUB with word w's fields taken from v, whatever their access; the write rule is writeWord's. -/
def putStkScrub (r : StkScrub) (w : Nat) (v : BitVec 64) : StkScrub :=
  match w with
  | 0 => { r with periodH := v.extractLsb' 0 8, passes := v.extractLsb' 8 32 }
  | _ => r

/-- The words of TIER_T2_REGION_r as read (R183); a reserved bit reads 0 (R16). -/
def getTierT2Region (r : TierT2Region) : Nat → BitVec 64
  | 0 => ((r.node.setWidth 64)) ||| ((r.kind.setWidth 64) <<< 18)
  | 1 => ((r.base))
  | 2 => ((r.pages.setWidth 64)) ||| ((r.free.setWidth 64) <<< 32)
  | _ => 0

/-- TIER_T2_REGION_r with word w's fields taken from v, whatever their access; the write rule is writeWord's. -/
def putTierT2Region (r : TierT2Region) (w : Nat) (v : BitVec 64) : TierT2Region :=
  match w with
  | 0 => { r with node := v.extractLsb' 0 18, kind := v.extractLsb' 18 4 }
  | 1 => { r with base := v.extractLsb' 0 64 }
  | 2 => { r with pages := v.extractLsb' 0 32, free := v.extractLsb' 32 32 }
  | _ => r

/-- The words of PMP_STATUS as read (R193); a reserved bit reads 0 (R16). -/
def getPmpStatus (r : PmpStatus) : Nat → BitVec 64
  | 0 => ((r.working.setWidth 64)) ||| ((r.count.setWidth 64) <<< 16)
  | _ => 0

/-- PMP_STATUS with word w's fields taken from v, whatever their access; the write rule is writeWord's. -/
def putPmpStatus (r : PmpStatus) (w : Nat) (v : BitVec 64) : PmpStatus :=
  match w with
  | 0 => { r with working := v.extractLsb' 0 16, count := v.extractLsb' 16 5 }
  | _ => r

/-- The words of TIER_ACCT_n as read (R206); a reserved bit reads 0 (R16). -/
def getTierAcct (r : TierAcct) : Nat → BitVec 64
  | 0 => ((r.t1min.setWidth 64)) ||| ((r.t1max.setWidth 64) <<< 32)
  | 1 => ((r.t2max.setWidth 64)) ||| ((r.wsSize.setWidth 64) <<< 32)
  | 2 => ((r.t1use.setWidth 64)) ||| ((r.t2use.setWidth 64) <<< 32)
  | 3 => ((r.pinned.setWidth 64)) ||| ((r.moves.setWidth 64) <<< 32)
  | _ => 0

/-- TIER_ACCT_n with word w's fields taken from v, whatever their access; the write rule is writeWord's. -/
def putTierAcct (r : TierAcct) (w : Nat) (v : BitVec 64) : TierAcct :=
  match w with
  | 0 => { r with t1min := v.extractLsb' 0 32, t1max := v.extractLsb' 32 32 }
  | 1 => { r with t2max := v.extractLsb' 0 32, wsSize := v.extractLsb' 32 12 }
  | 2 => { r with t1use := v.extractLsb' 0 32, t2use := v.extractLsb' 32 32 }
  | 3 => { r with pinned := v.extractLsb' 0 32, moves := v.extractLsb' 32 32 }
  | _ => r

/-- The words of TIER_CTL as read (R207); a reserved bit reads 0 (R16). -/
def getTierCtl (r : TierCtl) : Nat → BitVec 64
  | 0 => ((r.promoteMin.setWidth 64)) ||| ((r.hyst.setWidth 64) <<< 8) ||| ((r.moveBudget.setWidth 64) <<< 16)
  | 1 => ((r.epochs))
  | _ => 0

/-- TIER_CTL with word w's fields taken from v, whatever their access; the write rule is writeWord's. -/
def putTierCtl (r : TierCtl) (w : Nat) (v : BitVec 64) : TierCtl :=
  match w with
  | 0 => { r with promoteMin := v.extractLsb' 0 8, hyst := v.extractLsb' 8 8, moveBudget := v.extractLsb' 16 16 }
  | 1 => { r with epochs := v.extractLsb' 0 64 }
  | _ => r

/-- The words of TIER_WMAP_n_m as read (R208); a reserved bit reads 0 (R16). -/
def getTierWmap (r : TierWmap) : Nat → BitVec 64
  | 0 => ((r.base.setWidth 64)) ||| ((r.ppl.setWidth 64) <<< 32) ||| ((r.layers.setWidth 64) <<< 48)
  | _ => 0

/-- TIER_WMAP_n_m with word w's fields taken from v, whatever their access; the write rule is writeWord's. -/
def putTierWmap (r : TierWmap) (w : Nat) (v : BitVec 64) : TierWmap :=
  match w with
  | 0 => { r with base := v.extractLsb' 0 32, ppl := v.extractLsb' 32 16, layers := v.extractLsb' 48 16 }
  | _ => r

/-- The words of KV_ROOM_n as read (R252); a reserved bit reads 0 (R16). -/
def getKvRoom (r : KvRoom) : Nat → BitVec 64
  | 0 => ((r.cls.setWidth 64)) ||| ((r.hg.setWidth 64) <<< 2) ||| ((r.db.setWidth 64) <<< 8) ||| ((r.g.setWidth 64) <<< 12) ||| ((r.layers.setWidth 64) <<< 19) ||| ((r.ablk.setWidth 64) <<< 29) ||| ((r.slots.setWidth 64) <<< 32)
  | 1 => ((r.maxlen.setWidth 64)) ||| ((r.sumpSize.setWidth 64) <<< 14)
  | 2 => ((r.kvBase.setWidth 64))
  | 3 => ((r.kvsBase.setWidth 64))
  | 4 => ((r.ltAddr.setWidth 64)) ||| ((r.vscAddr.setWidth 64) <<< 32)
  | 5 => ((r.pages.setWidth 64)) ||| ((r.slotsUsed.setWidth 64) <<< 32)
  | 6 => ((r.drops.setWidth 64)) ||| ((r.starved.setWidth 64) <<< 32)
  | 7 => ((r.saturated.setWidth 64)) ||| ((r.relinks.setWidth 64) <<< 32)
  | _ => 0

/-- KV_ROOM_n with word w's fields taken from v, whatever their access; the write rule is writeWord's. -/
def putKvRoom (r : KvRoom) (w : Nat) (v : BitVec 64) : KvRoom :=
  match w with
  | 0 => { r with cls := v.extractLsb' 0 2, hg := v.extractLsb' 2 6, db := v.extractLsb' 8 4, g := v.extractLsb' 12 7, layers := v.extractLsb' 19 10, ablk := v.extractLsb' 29 2, slots := v.extractLsb' 32 17 }
  | 1 => { r with maxlen := v.extractLsb' 0 14, sumpSize := v.extractLsb' 14 8 }
  | 2 => { r with kvBase := v.extractLsb' 0 48 }
  | 3 => { r with kvsBase := v.extractLsb' 0 48 }
  | 4 => { r with ltAddr := v.extractLsb' 0 28, vscAddr := v.extractLsb' 32 28 }
  | 5 => { r with pages := v.extractLsb' 0 32, slotsUsed := v.extractLsb' 32 32 }
  | 6 => { r with drops := v.extractLsb' 0 32, starved := v.extractLsb' 32 32 }
  | 7 => { r with saturated := v.extractLsb' 0 32, relinks := v.extractLsb' 32 32 }
  | _ => r

/-- The words of SRV_BUDGET_c as read (R272); a reserved bit reads 0 (R16). -/
def getSrvBudget (r : SrvBudget) : Nat → BitVec 64
  | 0 => ((r.rate.setWidth 64)) ||| ((r.inW.setWidth 64) <<< 32) ||| ((r.outW.setWidth 64) <<< 48)
  | 1 => ((r.burst.setWidth 64))
  | 2 => ((r.level.setWidth 64))
  | 3 => ((r.refused.setWidth 64)) ||| ((r.holds.setWidth 64) <<< 32)
  | _ => 0

/-- SRV_BUDGET_c with word w's fields taken from v, whatever their access; the write rule is writeWord's. -/
def putSrvBudget (r : SrvBudget) (w : Nat) (v : BitVec 64) : SrvBudget :=
  match w with
  | 0 => { r with rate := v.extractLsb' 0 32, inW := v.extractLsb' 32 16, outW := v.extractLsb' 48 16 }
  | 1 => { r with burst := v.extractLsb' 0 48 }
  | 2 => { r with level := v.extractLsb' 0 48 }
  | 3 => { r with refused := v.extractLsb' 0 32, holds := v.extractLsb' 32 32 }
  | _ => r

/-- The words of SRV_ROOM_n as read (R298); a reserved bit reads 0 (R16). -/
def getSrvRoom (r : SrvRoom) : Nat → BitVec 64
  | 0 => ((r.smpAddr.setWidth 64)) ||| ((r.recAddr.setWidth 64) <<< 32)
  | 1 => ((r.rowTarget.setWidth 64)) ||| ((r.chunk.setWidth 64) <<< 16) ||| ((r.pinHoldMs.setWidth 64) <<< 32) ||| ((r.budgetHoldMs.setWidth 64) <<< 48)
  | 2 => ((r.eos0.setWidth 64)) ||| ((r.eos1.setWidth 64) <<< 32)
  | 3 => ((r.eos2.setWidth 64)) ||| ((r.eos3.setWidth 64) <<< 32)
  | 4 => ((r.histBase.setWidth 64))
  | 5 => ((r.ringRegion.setWidth 64)) ||| (((BitVec.ofBool r.ringEn).setWidth 64) <<< 4) ||| ((r.ringLog2.setWidth 64) <<< 5) ||| ((r.pendMax.setWidth 64) <<< 32)
  | 6 => ((r.ringBase))
  | 7 => ((r.pending.setWidth 64)) ||| ((r.active.setWidth 64) <<< 32)
  | _ => 0

/-- SRV_ROOM_n with word w's fields taken from v, whatever their access; the write rule is writeWord's. -/
def putSrvRoom (r : SrvRoom) (w : Nat) (v : BitVec 64) : SrvRoom :=
  match w with
  | 0 => { r with smpAddr := v.extractLsb' 0 28, recAddr := v.extractLsb' 32 28 }
  | 1 => { r with rowTarget := v.extractLsb' 0 16, chunk := v.extractLsb' 16 14, pinHoldMs := v.extractLsb' 32 16, budgetHoldMs := v.extractLsb' 48 16 }
  | 2 => { r with eos0 := v.extractLsb' 0 32, eos1 := v.extractLsb' 32 32 }
  | 3 => { r with eos2 := v.extractLsb' 0 32, eos3 := v.extractLsb' 32 32 }
  | 4 => { r with histBase := v.extractLsb' 0 48 }
  | 5 => { r with ringRegion := v.extractLsb' 0 4, ringEn := v.getLsbD 4, ringLog2 := v.extractLsb' 5 5, pendMax := v.extractLsb' 32 16 }
  | 6 => { r with ringBase := v.extractLsb' 0 64 }
  | 7 => { r with pending := v.extractLsb' 0 32, active := v.extractLsb' 32 32 }
  | _ => r

/-- The words of RNG_ROOM_n as read (R319); a reserved bit reads 0 (R16). -/
def getRngRoom (r : RngRoom) : Nat → BitVec 64
  | 0 => ((r.seed))
  | 1 => ((r.salt))
  | 2 => (((BitVec.ofBool r.mode).setWidth 64)) ||| (((BitVec.ofBool r.seedSrc).setWidth 64) <<< 1) ||| ((r.ngen.setWidth 64) <<< 2)
  | 3 => ((r.draws))
  | _ => 0

/-- RNG_ROOM_n with word w's fields taken from v, whatever their access; the write rule is writeWord's. -/
def putRngRoom (r : RngRoom) (w : Nat) (v : BitVec 64) : RngRoom :=
  match w with
  | 0 => { r with seed := v.extractLsb' 0 64 }
  | 1 => { r with salt := v.extractLsb' 0 64 }
  | 2 => { r with mode := v.getLsbD 0, seedSrc := v.getLsbD 1, ngen := v.extractLsb' 2 13 }
  | 3 => { r with draws := v.extractLsb' 0 64 }
  | _ => r

/-- The words of ADP_ROOM_n as read (R351); a reserved bit reads 0 (R16). -/
def getAdpRoom (r : AdpRoom) : Nat → BitVec 64
  | 0 => ((r.points.setWidth 64)) ||| ((r.xexpN.setWidth 64) <<< 11) ||| ((r.stepMax.setWidth 64) <<< 18) ||| ((r.mergedMax.setWidth 64) <<< 29) ||| (((BitVec.ofBool r.forceRow).setWidth 64) <<< 33)
  | 1 => ((r.pointSig))
  | 2 => ((r.stepAddr.setWidth 64))
  | 3 => ((r.warmBase.setWidth 64))
  | 4 => ((r.warmMax.setWidth 64)) ||| ((r.cacheMax.setWidth 64) <<< 16)
  | 5 => ((r.xexpBase.setWidth 64)) ||| ((r.xexpMib.setWidth 64) <<< 48)
  | 6 => ((r.rowSteps.setWidth 64)) ||| ((r.sortedSteps.setWidth 64) <<< 32)
  | 7 => ((r.deferred.setWidth 64)) ||| ((r.warmLoads.setWidth 64) <<< 32)
  | _ => 0

/-- ADP_ROOM_n with word w's fields taken from v, whatever their access; the write rule is writeWord's. -/
def putAdpRoom (r : AdpRoom) (w : Nat) (v : BitVec 64) : AdpRoom :=
  match w with
  | 0 => { r with points := v.extractLsb' 0 11, xexpN := v.extractLsb' 11 7, stepMax := v.extractLsb' 18 11, mergedMax := v.extractLsb' 29 4, forceRow := v.getLsbD 33 }
  | 1 => { r with pointSig := v.extractLsb' 0 64 }
  | 2 => { r with stepAddr := v.extractLsb' 0 28 }
  | 3 => { r with warmBase := v.extractLsb' 0 48 }
  | 4 => { r with warmMax := v.extractLsb' 0 16, cacheMax := v.extractLsb' 16 16 }
  | 5 => { r with xexpBase := v.extractLsb' 0 48, xexpMib := v.extractLsb' 48 16 }
  | 6 => { r with rowSteps := v.extractLsb' 0 32, sortedSteps := v.extractLsb' 32 32 }
  | 7 => { r with deferred := v.extractLsb' 0 32, warmLoads := v.extractLsb' 32 32 }
  | _ => r

/-- The words of ADP_SLOT_s as read (R352); a reserved bit reads 0 (R16). -/
def getAdpSlot (r : AdpSlot) : Nat → BitVec 64
  | 0 => ((r.state.setWidth 64)) ||| ((r.room.setWidth 64) <<< 3) ||| ((r.owner.setWidth 64) <<< 9) ||| (((BitVec.ofBool r.merged).setWidth 64) <<< 21) ||| ((r.refs.setWidth 64) <<< 32)
  | 1 => ((r.va.setWidth 64)) ||| ((r.warm.setWidth 64) <<< 48)
  | 2 => ((r.xexp))
  | 3 => ((r.mergeVa.setWidth 64))
  | _ => 0

/-- ADP_SLOT_s with word w's fields taken from v, whatever their access; the write rule is writeWord's. -/
def putAdpSlot (r : AdpSlot) (w : Nat) (v : BitVec 64) : AdpSlot :=
  match w with
  | 0 => { r with state := v.extractLsb' 0 3, room := v.extractLsb' 3 6, owner := v.extractLsb' 9 12, merged := v.getLsbD 21, refs := v.extractLsb' 32 32 }
  | 1 => { r with va := v.extractLsb' 0 48, warm := v.extractLsb' 48 16 }
  | 2 => { r with xexp := v.extractLsb' 0 64 }
  | 3 => { r with mergeVa := v.extractLsb' 0 48 }
  | _ => r

/-- The words of ADP_BIND_n_c as read (R353); a reserved bit reads 0 (R16). -/
def getAdpBind (r : AdpBind) : Nat → BitVec 64
  | 0 => ((r.kind.setWidth 64)) ||| ((r.slot.setWidth 64) <<< 2) ||| ((r.warm.setWidth 64) <<< 14)
  | _ => 0

/-- ADP_BIND_n_c with word w's fields taken from v, whatever their access; the write rule is writeWord's. -/
def putAdpBind (r : AdpBind) (w : Nat) (v : BitVec 64) : AdpBind :=
  match w with
  | 0 => { r with kind := v.extractLsb' 0 2, slot := v.extractLsb' 2 12, warm := v.extractLsb' 14 16 }
  | _ => r

/-- The words of TRN_ROOM_n as read (R394); a reserved bit reads 0 (R16). -/
def getTrnRoom (r : TrnRoom) : Nat → BitVec 64
  | 0 => ((r.stwBase.setWidth 64))
  | 1 => ((r.stwPages.setWidth 64)) ||| ((r.stwSeg.setWidth 64) <<< 32)
  | 2 => ((r.stwKeep.setWidth 64))
  | 3 => ((r.stwTop.setWidth 64)) ||| ((r.topMb.setWidth 64) <<< 40)
  | 4 => ((r.cisSize.setWidth 64)) ||| ((r.cisLive.setWidth 64) <<< 32)
  | 5 => ((r.spillBase.setWidth 64))
  | 6 => ((r.amaxAddr.setWidth 64)) ||| ((r.gfmtAddr.setWidth 64) <<< 32)
  | 7 => ((r.tpl.setWidth 64)) ||| ((r.glayers.setWidth 64) <<< 4) ||| (((BitVec.ofBool r.segments).setWidth 64) <<< 14)
  | 8 => ((r.vwBase.setWidth 64))
  | 9 => ((r.vwPages.setWidth 64)) ||| ((r.shdPages.setWidth 64) <<< 32)
  | 10 => ((r.shdBase.setWidth 64))
  | 11 => ((r.wgen.setWidth 64)) ||| ((r.leaseMs.setWidth 64) <<< 32)
  | 12 => ((r.droppedSegs.setWidth 64)) ||| ((r.shadows.setWidth 64) <<< 32)
  | 13 => ((r.shadowStalls.setWidth 64)) ||| ((r.fmtChanges.setWidth 64) <<< 32)
  | 14 => ((r.mbRetired.setWidth 64)) ||| ((r.steps.setWidth 64) <<< 32)
  | _ => 0

/-- TRN_ROOM_n with word w's fields taken from v, whatever their access; the write rule is writeWord's. -/
def putTrnRoom (r : TrnRoom) (w : Nat) (v : BitVec 64) : TrnRoom :=
  match w with
  | 0 => { r with stwBase := v.extractLsb' 0 48 }
  | 1 => { r with stwPages := v.extractLsb' 0 32, stwSeg := v.extractLsb' 32 32 }
  | 2 => { r with stwKeep := v.extractLsb' 0 32 }
  | 3 => { r with stwTop := v.extractLsb' 0 40, topMb := v.extractLsb' 40 12 }
  | 4 => { r with cisSize := v.extractLsb' 0 10, cisLive := v.extractLsb' 32 10 }
  | 5 => { r with spillBase := v.extractLsb' 0 48 }
  | 6 => { r with amaxAddr := v.extractLsb' 0 28, gfmtAddr := v.extractLsb' 32 28 }
  | 7 => { r with tpl := v.extractLsb' 0 4, glayers := v.extractLsb' 4 10, segments := v.getLsbD 14 }
  | 8 => { r with vwBase := v.extractLsb' 0 48 }
  | 9 => { r with vwPages := v.extractLsb' 0 32, shdPages := v.extractLsb' 32 32 }
  | 10 => { r with shdBase := v.extractLsb' 0 48 }
  | 11 => { r with wgen := v.extractLsb' 0 32, leaseMs := v.extractLsb' 32 16 }
  | 12 => { r with droppedSegs := v.extractLsb' 0 32, shadows := v.extractLsb' 32 32 }
  | 13 => { r with shadowStalls := v.extractLsb' 0 32, fmtChanges := v.extractLsb' 32 32 }
  | 14 => { r with mbRetired := v.extractLsb' 0 32, steps := v.extractLsb' 32 32 }
  | _ => r

/-- The words of UPD_ROOM_n as read (R430); a reserved bit reads 0 (R16). -/
def getUpdRoom (r : UpdRoom) : Nat → BitVec 64
  | 0 => ((r.lr.setWidth 64)) ||| ((r.clip.setWidth 64) <<< 32)
  | 1 => ((r.b1.setWidth 64)) ||| ((r.b2.setWidth 64) <<< 32)
  | 2 => ((r.eps.setWidth 64)) ||| ((r.epsRel.setWidth 64) <<< 32)
  | 3 => ((r.pivotRel.setWidth 64)) ||| ((r.statBeta.setWidth 64) <<< 32)
  | 4 => ((r.nsA.setWidth 64)) ||| ((r.nsB.setWidth 64) <<< 32)
  | 5 => ((r.nsC.setWidth 64)) ||| ((r.nsIters.setWidth 64) <<< 32) ||| ((r.nrIters.setWidth 64) <<< 40) ||| ((r.preEvery.setWidth 64) <<< 48)
  | 6 => ((r.emaDecay.setWidth 64)) ||| ((r.emaWarm.setWidth 64) <<< 32)
  | 7 => ((r.ttBase.setWidth 64)) ||| ((r.ntensors.setWidth 64) <<< 48)
  | 8 => ((r.shard.setWidth 64)) ||| ((r.nshards1.setWidth 64) <<< 16) ||| ((r.rootNode.setWidth 64) <<< 32)
  | 9 => ((r.recAddr.setWidth 64)) ||| ((r.schedLen.setWidth 64) <<< 32)
  | 10 => ((r.schedBase.setWidth 64))
  | 11 => ((r.step.setWidth 64)) ||| ((r.skipped.setWidth 64) <<< 32)
  | 12 => ((r.fallbacks.setWidth 64)) ||| ((r.deferred.setWidth 64) <<< 32)
  | 13 => ((r.clamped.setWidth 64)) ||| ((r.lastSumsq.setWidth 64) <<< 32)
  | 14 => ((r.lastStatus.setWidth 64)) ||| ((r.lastFbTensor.setWidth 64) <<< 16) ||| ((r.lastFbBlock.setWidth 64) <<< 32)
  | _ => 0

/-- UPD_ROOM_n with word w's fields taken from v, whatever their access; the write rule is writeWord's. -/
def putUpdRoom (r : UpdRoom) (w : Nat) (v : BitVec 64) : UpdRoom :=
  match w with
  | 0 => { r with lr := v.extractLsb' 0 32, clip := v.extractLsb' 32 32 }
  | 1 => { r with b1 := v.extractLsb' 0 32, b2 := v.extractLsb' 32 32 }
  | 2 => { r with eps := v.extractLsb' 0 32, epsRel := v.extractLsb' 32 32 }
  | 3 => { r with pivotRel := v.extractLsb' 0 32, statBeta := v.extractLsb' 32 32 }
  | 4 => { r with nsA := v.extractLsb' 0 32, nsB := v.extractLsb' 32 32 }
  | 5 => { r with nsC := v.extractLsb' 0 32, nsIters := v.extractLsb' 32 8, nrIters := v.extractLsb' 40 8, preEvery := v.extractLsb' 48 16 }
  | 6 => { r with emaDecay := v.extractLsb' 0 32, emaWarm := v.extractLsb' 32 16 }
  | 7 => { r with ttBase := v.extractLsb' 0 48, ntensors := v.extractLsb' 48 16 }
  | 8 => { r with shard := v.extractLsb' 0 16, nshards1 := v.extractLsb' 16 16, rootNode := v.extractLsb' 32 18 }
  | 9 => { r with recAddr := v.extractLsb' 0 28, schedLen := v.extractLsb' 32 32 }
  | 10 => { r with schedBase := v.extractLsb' 0 48 }
  | 11 => { r with step := v.extractLsb' 0 32, skipped := v.extractLsb' 32 32 }
  | 12 => { r with fallbacks := v.extractLsb' 0 32, deferred := v.extractLsb' 32 32 }
  | 13 => { r with clamped := v.extractLsb' 0 32, lastSumsq := v.extractLsb' 32 32 }
  | 14 => { r with lastStatus := v.extractLsb' 0 16, lastFbTensor := v.extractLsb' 16 16, lastFbBlock := v.extractLsb' 32 32 }
  | _ => r

/-- The words of SRV_WCOPY_k as read (R461); a reserved bit reads 0 (R16). -/
def getSrvWcopy (r : SrvWcopy) : Nat → BitVec 64
  | 0 => ((r.state.setWidth 64)) ||| ((r.model.setWidth 64) <<< 3) ||| (((BitVec.ofBool r.suspect).setWidth 64) <<< 5) ||| (((BitVec.ofBool r.deferred).setWidth 64) <<< 6) ||| ((r.wgen.setWidth 64) <<< 32)
  | 1 => ((r.base.setWidth 64)) ||| ((r.pages.setWidth 64) <<< 32)
  | 2 => ((r.tiles.setWidth 64)) ||| ((r.refs.setWidth 64) <<< 32)
  | 3 => ((r.repairs.setWidth 64))
  | _ => 0

/-- SRV_WCOPY_k with word w's fields taken from v, whatever their access; the write rule is writeWord's. -/
def putSrvWcopy (r : SrvWcopy) (w : Nat) (v : BitVec 64) : SrvWcopy :=
  match w with
  | 0 => { r with state := v.extractLsb' 0 3, model := v.extractLsb' 3 2, suspect := v.getLsbD 5, deferred := v.getLsbD 6, wgen := v.extractLsb' 32 32 }
  | 1 => { r with base := v.extractLsb' 0 32, pages := v.extractLsb' 32 32 }
  | 2 => { r with tiles := v.extractLsb' 0 32, refs := v.extractLsb' 32 32 }
  | 3 => { r with repairs := v.extractLsb' 0 32 }
  | _ => r

/-- The words of SRV_WMODEL_m as read (R462); a reserved bit reads 0 (R16). -/
def getSrvWmodel (r : SrvWmodel) : Nat → BitVec 64
  | 0 => (((BitVec.ofBool r.auto).setWidth 64)) ||| (((BitVec.ofBool r.source).setWidth 64) <<< 1) ||| ((r.cur.setWidth 64) <<< 2) ||| ((r.arm.setWidth 64) <<< 6) ||| ((r.replN.setWidth 64) <<< 10) ||| ((r.switches.setWidth 64) <<< 32)
  | 1 => ((r.srcNode.setWidth 64)) ||| ((r.defers.setWidth 64) <<< 32)
  | 2 => ((r.repl0.setWidth 64)) ||| ((r.repl1.setWidth 64) <<< 32)
  | 3 => ((r.repl2.setWidth 64)) ||| ((r.repl3.setWidth 64) <<< 32)
  | 4 => ((r.repl4.setWidth 64)) ||| ((r.repl5.setWidth 64) <<< 32)
  | 5 => ((r.repl6.setWidth 64))
  | _ => 0

/-- SRV_WMODEL_m with word w's fields taken from v, whatever their access; the write rule is writeWord's. -/
def putSrvWmodel (r : SrvWmodel) (w : Nat) (v : BitVec 64) : SrvWmodel :=
  match w with
  | 0 => { r with auto := v.getLsbD 0, source := v.getLsbD 1, cur := v.extractLsb' 2 4, arm := v.extractLsb' 6 4, replN := v.extractLsb' 10 3, switches := v.extractLsb' 32 32 }
  | 1 => { r with srcNode := v.extractLsb' 0 18, defers := v.extractLsb' 32 32 }
  | 2 => { r with repl0 := v.extractLsb' 0 18, repl1 := v.extractLsb' 32 18 }
  | 3 => { r with repl2 := v.extractLsb' 0 18, repl3 := v.extractLsb' 32 18 }
  | 4 => { r with repl4 := v.extractLsb' 0 18, repl5 := v.extractLsb' 32 18 }
  | 5 => { r with repl6 := v.extractLsb' 0 18 }
  | _ => r

/-- The words of TRN_BCAST_n as read (R463); a reserved bit reads 0 (R16). -/
def getTrnBcast (r : TrnBcast) : Nat → BitVec 64
  | 0 => (((BitVec.ofBool r.en).setWidth 64)) ||| (((BitVec.ofBool r.src).setWidth 64) <<< 1) ||| ((r.model.setWidth 64) <<< 2) ||| ((r.every.setWidth 64) <<< 16) ||| ((r.ntarget.setWidth 64) <<< 32)
  | 1 => ((r.sent.setWidth 64)) ||| ((r.lastWgen.setWidth 64) <<< 32)
  | 2 => ((r.tgtVa.setWidth 64))
  | _ => 0

/-- TRN_BCAST_n with word w's fields taken from v, whatever their access; the write rule is writeWord's. -/
def putTrnBcast (r : TrnBcast) (w : Nat) (v : BitVec 64) : TrnBcast :=
  match w with
  | 0 => { r with en := v.getLsbD 0, src := v.getLsbD 1, model := v.extractLsb' 2 2, every := v.extractLsb' 16 16, ntarget := v.extractLsb' 32 4 }
  | 1 => { r with sent := v.extractLsb' 0 32, lastWgen := v.extractLsb' 32 32 }
  | 2 => { r with tgtVa := v.extractLsb' 0 48 }
  | _ => r

/-- The words of TRN_XS_j as read (R464); a reserved bit reads 0 (R16). -/
def getTrnXs (r : TrnXs) : Nat → BitVec 64
  | 0 => ((r.room.setWidth 64)) ||| (((BitVec.ofBool r.en).setWidth 64) <<< 6) ||| (((BitVec.ofBool r.fullPolicy).setWidth 64) <<< 7) ||| ((r.maxLag.setWidth 64) <<< 32)
  | 1 => ((r.xsBase.setWidth 64))
  | 2 => ((r.slotPages.setWidth 64)) ||| ((r.nslots.setWidth 64) <<< 16)
  | 3 => ((r.produced))
  | 4 => ((r.consumed))
  | 5 => ((r.stale.setWidth 64)) ||| ((r.replaced.setWidth 64) <<< 32)
  | 6 => ((r.waits.setWidth 64))
  | 7 => ((r.claimed))
  | _ => 0

/-- TRN_XS_j with word w's fields taken from v, whatever their access; the write rule is writeWord's. -/
def putTrnXs (r : TrnXs) (w : Nat) (v : BitVec 64) : TrnXs :=
  match w with
  | 0 => { r with room := v.extractLsb' 0 6, en := v.getLsbD 6, fullPolicy := v.getLsbD 7, maxLag := v.extractLsb' 32 32 }
  | 1 => { r with xsBase := v.extractLsb' 0 48 }
  | 2 => { r with slotPages := v.extractLsb' 0 16, nslots := v.extractLsb' 16 14 }
  | 3 => { r with produced := v.extractLsb' 0 64 }
  | 4 => { r with consumed := v.extractLsb' 0 64 }
  | 5 => { r with stale := v.extractLsb' 0 32, replaced := v.extractLsb' 32 32 }
  | 6 => { r with waits := v.extractLsb' 0 32 }
  | 7 => { r with claimed := v.extractLsb' 0 64 }
  | _ => r

/-- The words of FAB_NODE as read (R512); a reserved bit reads 0 (R16). -/
def getFabNode (r : FabNode) : Nat → BitVec 64
  | 0 => ((r.device.setWidth 64)) ||| ((r.channel.setWidth 64) <<< 16) ||| (((BitVec.ofBool r.joined).setWidth 64) <<< 18)
  | 1 => ((r.count))
  | _ => 0

/-- FAB_NODE with word w's fields taken from v, whatever their access; the write rule is writeWord's. -/
def putFabNode (r : FabNode) (w : Nat) (v : BitVec 64) : FabNode :=
  match w with
  | 0 => { r with device := v.extractLsb' 0 16, channel := v.extractLsb' 16 2, joined := v.getLsbD 18 }
  | 1 => { r with count := v.extractLsb' 0 64 }
  | _ => r

/-- The words of FAB_PORT_p as read (R513); a reserved bit reads 0 (R16). -/
def getFabPort (r : FabPort) : Nat → BitVec 64
  | 0 => (((BitVec.ofBool r.pers).setWidth 64)) ||| ((r.state.setWidth 64) <<< 1) ||| (((BitVec.ofBool r.spareUsed).setWidth 64) <<< 4) ||| ((r.spareFor.setWidth 64) <<< 5) ||| ((r.peer.setWidth 64) <<< 32) ||| ((r.peerPort.setWidth 64) <<< 50) ||| ((r.peerChanges.setWidth 64) <<< 52)
  | 1 => ((r.crcErr.setWidth 64)) ||| ((r.replays.setWidth 64) <<< 32)
  | 2 => ((r.retrains.setWidth 64)) ||| ((r.tagFail.setWidth 64) <<< 32)
  | 3 => ((r.fecCorr))
  | 4 => ((r.txBytes))
  | 5 => ((r.rxBytes))
  | 6 => ((r.ethMac.setWidth 64))
  | 7 => ((r.ethIpv4.setWidth 64))
  | _ => 0

/-- FAB_PORT_p with word w's fields taken from v, whatever their access; the write rule is writeWord's. -/
def putFabPort (r : FabPort) (w : Nat) (v : BitVec 64) : FabPort :=
  match w with
  | 0 => { r with pers := v.getLsbD 0, state := v.extractLsb' 1 3, spareUsed := v.getLsbD 4, spareFor := v.extractLsb' 5 4, peer := v.extractLsb' 32 18, peerPort := v.extractLsb' 50 2, peerChanges := v.extractLsb' 52 12 }
  | 1 => { r with crcErr := v.extractLsb' 0 32, replays := v.extractLsb' 32 32 }
  | 2 => { r with retrains := v.extractLsb' 0 32, tagFail := v.extractLsb' 32 32 }
  | 3 => { r with fecCorr := v.extractLsb' 0 64 }
  | 4 => { r with txBytes := v.extractLsb' 0 64 }
  | 5 => { r with rxBytes := v.extractLsb' 0 64 }
  | 6 => { r with ethMac := v.extractLsb' 0 48 }
  | 7 => { r with ethIpv4 := v.extractLsb' 0 32 }
  | _ => r

/-- The words of FAB_RT_i as read (R514); a reserved bit reads 0 (R16). -/
def getFabRt (r : FabRt) : Nat → BitVec 64
  | 0 => ((r.matchVal.setWidth 64)) ||| ((r.plen.setWidth 64) <<< 18) ||| (((BitVec.ofBool r.valid).setWidth 64) <<< 23) ||| ((r.ports.setWidth 64) <<< 24) ||| ((r.alt.setWidth 64) <<< 28) ||| (((BitVec.ofBool r.vlinc).setWidth 64) <<< 32)
  | _ => 0

/-- FAB_RT_i with word w's fields taken from v, whatever their access; the write rule is writeWord's. -/
def putFabRt (r : FabRt) (w : Nat) (v : BitVec 64) : FabRt :=
  match w with
  | 0 => { r with matchVal := v.extractLsb' 0 18, plen := v.extractLsb' 18 5, valid := v.getLsbD 23, ports := v.extractLsb' 24 4, alt := v.extractLsb' 28 4, vlinc := v.getLsbD 32 }
  | _ => r

/-- The words of FAB_ETH_PEER_j as read (R515); a reserved bit reads 0 (R16). -/
def getFabEthPeer (r : FabEthPeer) : Nat → BitVec 64
  | 0 => ((r.node.setWidth 64)) ||| ((r.port.setWidth 64) <<< 18) ||| (((BitVec.ofBool r.valid).setWidth 64) <<< 20) ||| ((r.dqpn.setWidth 64) <<< 21)
  | 1 => ((r.ipv4.setWidth 64))
  | 2 => ((r.mac.setWidth 64))
  | _ => 0

/-- FAB_ETH_PEER_j with word w's fields taken from v, whatever their access; the write rule is writeWord's. -/
def putFabEthPeer (r : FabEthPeer) (w : Nat) (v : BitVec 64) : FabEthPeer :=
  match w with
  | 0 => { r with node := v.extractLsb' 0 18, port := v.extractLsb' 18 2, valid := v.getLsbD 20, dqpn := v.extractLsb' 21 24 }
  | 1 => { r with ipv4 := v.extractLsb' 0 32 }
  | 2 => { r with mac := v.extractLsb' 0 48 }
  | _ => r

/-- The words of FAB_COLL_k as read (R516); a reserved bit reads 0 (R16). -/
def getFabColl (r : FabColl) : Nat → BitVec 64
  | 0 => ((r.kind.setWidth 64)) ||| ((r.fmt.setWidth 64) <<< 2) ||| ((r.room.setWidth 64) <<< 6) ||| (((BitVec.ofBool r.contrib).setWidth 64) <<< 12) ||| (((BitVec.ofBool r.deliver).setWidth 64) <<< 13) ||| (((BitVec.ofBool r.fpw).setWidth 64) <<< 14) ||| (((BitVec.ofBool r.hasPrev).setWidth 64) <<< 15) ||| (((BitVec.ofBool r.hasNext).setWidth 64) <<< 16) ||| ((r.nchild.setWidth 64) <<< 17) ||| (((BitVec.ofBool r.common).setWidth 64) <<< 20) ||| ((r.bytes.setWidth 64) <<< 32)
  | 1 => ((r.localVa.setWidth 64))
  | 2 => ((r.destVa.setWidth 64))
  | 3 => ((r.fpaddr.setWidth 64))
  | 4 => ((r.prev.setWidth 64)) ||| ((r.next.setWidth 64) <<< 18) ||| ((r.root.setWidth 64) <<< 36)
  | 5 => ((r.child0.setWidth 64)) ||| ((r.child1.setWidth 64) <<< 18) ||| ((r.child2.setWidth 64) <<< 36)
  | 6 => ((r.child3.setWidth 64))
  | 7 => ((r.uses.setWidth 64)) ||| ((r.fallbacks.setWidth 64) <<< 32)
  | _ => 0

/-- FAB_COLL_k with word w's fields taken from v, whatever their access; the write rule is writeWord's. -/
def putFabColl (r : FabColl) (w : Nat) (v : BitVec 64) : FabColl :=
  match w with
  | 0 => { r with kind := v.extractLsb' 0 2, fmt := v.extractLsb' 2 4, room := v.extractLsb' 6 6, contrib := v.getLsbD 12, deliver := v.getLsbD 13, fpw := v.getLsbD 14, hasPrev := v.getLsbD 15, hasNext := v.getLsbD 16, nchild := v.extractLsb' 17 3, common := v.getLsbD 20, bytes := v.extractLsb' 32 32 }
  | 1 => { r with localVa := v.extractLsb' 0 48 }
  | 2 => { r with destVa := v.extractLsb' 0 48 }
  | 3 => { r with fpaddr := v.extractLsb' 0 48 }
  | 4 => { r with prev := v.extractLsb' 0 18, next := v.extractLsb' 18 18, root := v.extractLsb' 36 18 }
  | 5 => { r with child0 := v.extractLsb' 0 18, child1 := v.extractLsb' 18 18, child2 := v.extractLsb' 36 18 }
  | 6 => { r with child3 := v.extractLsb' 0 18 }
  | 7 => { r with uses := v.extractLsb' 0 32, fallbacks := v.extractLsb' 32 32 }
  | _ => r

/-- The words of FAB_RED as read (R517); a reserved bit reads 0 (R16). -/
def getFabRed (r : FabRed) : Nat → BitVec 64
  | 0 => ((r.free.setWidth 64))
  | 1 => ((r.grants.setWidth 64)) ||| ((r.fallbacks.setWidth 64) <<< 32)
  | 2 => ((r.fbPages.setWidth 64)) ||| ((r.fbUsed.setWidth 64) <<< 32)
  | 3 => ((r.errors.setWidth 64)) ||| ((r.resends.setWidth 64) <<< 32)
  | _ => 0

/-- FAB_RED with word w's fields taken from v, whatever their access; the write rule is writeWord's. -/
def putFabRed (r : FabRed) (w : Nat) (v : BitVec 64) : FabRed :=
  match w with
  | 0 => { r with free := v.extractLsb' 0 9 }
  | 1 => { r with grants := v.extractLsb' 0 32, fallbacks := v.extractLsb' 32 32 }
  | 2 => { r with fbPages := v.extractLsb' 0 32, fbUsed := v.extractLsb' 32 32 }
  | 3 => { r with errors := v.extractLsb' 0 32, resends := v.extractLsb' 32 32 }
  | _ => r

/-- The words of FAB_ROOM_n as read (R518); a reserved bit reads 0 (R16). -/
def getFabRoom (r : FabRoom) : Nat → BitVec 64
  | 0 => ((r.arrBase.setWidth 64))
  | 1 => ((r.arrPages.setWidth 64)) ||| ((r.arrUsed.setWidth 64) <<< 32)
  | 2 => ((r.xferOut.setWidth 64)) ||| ((r.xferIn.setWidth 64) <<< 32)
  | 3 => ((r.early.setWidth 64)) ||| ((r.redFb.setWidth 64) <<< 32)
  | _ => 0

/-- FAB_ROOM_n with word w's fields taken from v, whatever their access; the write rule is writeWord's. -/
def putFabRoom (r : FabRoom) (w : Nat) (v : BitVec 64) : FabRoom :=
  match w with
  | 0 => { r with arrBase := v.extractLsb' 0 48 }
  | 1 => { r with arrPages := v.extractLsb' 0 32, arrUsed := v.extractLsb' 32 32 }
  | 2 => { r with xferOut := v.extractLsb' 0 32, xferIn := v.extractLsb' 32 32 }
  | 3 => { r with early := v.extractLsb' 0 32, redFb := v.extractLsb' 32 32 }
  | _ => r

/-- The words of ROOM_CFG_n as read (R546); a reserved bit reads 0 (R16). -/
def getRoomCfg (r : RoomCfg) : Nat → BitVec 64
  | 0 => ((r.state.setWidth 64)) ||| ((r.kind.setWidth 64) <<< 3) ||| (((BitVec.ofBool r.h1Mode).setWidth 64) <<< 5) ||| ((r.suite.setWidth 64) <<< 6) ||| ((r.span.setWidth 64) <<< 8)
  | 1 => ((r.saveBase.setWidth 64))
  | 2 => ((r.savePages.setWidth 64))
  | 3 => ((r.tbBase.setWidth 64))
  | _ => 0

/-- ROOM_CFG_n with word w's fields taken from v, whatever their access; the write rule is writeWord's. -/
def putRoomCfg (r : RoomCfg) (w : Nat) (v : BitVec 64) : RoomCfg :=
  match w with
  | 0 => { r with state := v.extractLsb' 0 3, kind := v.extractLsb' 3 2, h1Mode := v.getLsbD 5, suite := v.extractLsb' 6 2, span := v.extractLsb' 8 4 }
  | 1 => { r with saveBase := v.extractLsb' 0 48 }
  | 2 => { r with savePages := v.extractLsb' 0 32 }
  | 3 => { r with tbBase := v.extractLsb' 0 48 }
  | _ => r

/-- The words of SCH_SUITE_s as read (R547); a reserved bit reads 0 (R16). -/
def getSchSuite (r : SchSuite) : Nat → BitVec 64
  | 0 => ((r.mask.setWidth 64)) ||| ((r.lead.setWidth 64) <<< 4) ||| ((r.running.setWidth 64) <<< 6) ||| (((BitVec.ofBool r.idle).setWidth 64) <<< 12) ||| ((r.sliceUs.setWidth 64) <<< 32)
  | 1 => ((r.switches))
  | 2 => ((r.idleUj))
  | _ => 0

/-- SCH_SUITE_s with word w's fields taken from v, whatever their access; the write rule is writeWord's. -/
def putSchSuite (r : SchSuite) (w : Nat) (v : BitVec 64) : SchSuite :=
  match w with
  | 0 => { r with mask := v.extractLsb' 0 4, lead := v.extractLsb' 4 2, running := v.extractLsb' 6 6, idle := v.getLsbD 12, sliceUs := v.extractLsb' 32 16 }
  | 1 => { r with switches := v.extractLsb' 0 64 }
  | 2 => { r with idleUj := v.extractLsb' 0 64 }
  | _ => r

/-- The words of SCH_ROOM_n as read (R548); a reserved bit reads 0 (R16). -/
def getSchRoom (r : SchRoom) : Nat → BitVec 64
  | 0 => ((r.shares.setWidth 64)) ||| ((r.sstate.setWidth 64) <<< 16)
  | 1 => ((r.vt))
  | 2 => ((r.lastSwitchNs.setWidth 64)) ||| ((r.maxSwitchNs.setWidth 64) <<< 32)
  | 3 => ((r.liveUnits.setWidth 64))
  | _ => 0

/-- SCH_ROOM_n with word w's fields taken from v, whatever their access; the write rule is writeWord's. -/
def putSchRoom (r : SchRoom) (w : Nat) (v : BitVec 64) : SchRoom :=
  match w with
  | 0 => { r with shares := v.extractLsb' 0 16, sstate := v.extractLsb' 16 2 }
  | 1 => { r with vt := v.extractLsb' 0 64 }
  | 2 => { r with lastSwitchNs := v.extractLsb' 0 32, maxSwitchNs := v.extractLsb' 32 32 }
  | 3 => { r with liveUnits := v.extractLsb' 0 32 }
  | _ => r

/-- The words of SCH_ACCT_n as read (R549); a reserved bit reads 0 (R16). -/
def getSchAcct (r : SchAcct) : Nat → BitVec 64
  | 0 => ((r.arrayCyc))
  | 1 => ((r.vuCyc))
  | 2 => ((r.t0Bytes))
  | 3 => ((r.t1Bytes))
  | 4 => ((r.t2Bytes))
  | 5 => ((r.fabTxBytes))
  | 6 => ((r.fabRxBytes))
  | 7 => ((r.energyUj))
  | 8 => ((r.runNs))
  | 9 => ((r.switchNs))
  | 10 => ((r.waitNs))
  | 11 => ((r.preempts))
  | 12 => ((r.switches))
  | 13 => ((r.tokIn))
  | 14 => ((r.tokOut))
  | _ => 0

/-- SCH_ACCT_n with word w's fields taken from v, whatever their access; the write rule is writeWord's. -/
def putSchAcct (r : SchAcct) (w : Nat) (v : BitVec 64) : SchAcct :=
  match w with
  | 0 => { r with arrayCyc := v.extractLsb' 0 64 }
  | 1 => { r with vuCyc := v.extractLsb' 0 64 }
  | 2 => { r with t0Bytes := v.extractLsb' 0 64 }
  | 3 => { r with t1Bytes := v.extractLsb' 0 64 }
  | 4 => { r with t2Bytes := v.extractLsb' 0 64 }
  | 5 => { r with fabTxBytes := v.extractLsb' 0 64 }
  | 6 => { r with fabRxBytes := v.extractLsb' 0 64 }
  | 7 => { r with energyUj := v.extractLsb' 0 64 }
  | 8 => { r with runNs := v.extractLsb' 0 64 }
  | 9 => { r with switchNs := v.extractLsb' 0 64 }
  | 10 => { r with waitNs := v.extractLsb' 0 64 }
  | 11 => { r with preempts := v.extractLsb' 0 64 }
  | 12 => { r with switches := v.extractLsb' 0 64 }
  | 13 => { r with tokIn := v.extractLsb' 0 64 }
  | 14 => { r with tokOut := v.extractLsb' 0 64 }
  | _ => r

/-- The words of SEC_STATUS as read (R579); a reserved bit reads 0 (R16). -/
def getSecStatus (r : SecStatus) : Nat → BitVec 64
  | 0 => (((BitVec.ofBool r.trngOk).setWidth 64)) ||| (((BitVec.ofBool r.drbgReady).setWidth 64) <<< 1) ||| (((BitVec.ofBool r.debug).setWidth 64) <<< 2) ||| (((BitVec.ofBool r.identOk).setWidth 64) <<< 3) ||| ((r.svn.setWidth 64) <<< 8) ||| ((r.minSvn.setWidth 64) <<< 16) ||| ((r.minPeer.setWidth 64) <<< 24) ||| ((r.healthFail.setWidth 64) <<< 32) ||| ((r.roomKeys.setWidth 64) <<< 48) ||| ((r.linkKeys.setWidth 64) <<< 56)
  | _ => 0

/-- SEC_STATUS with word w's fields taken from v, whatever their access; the write rule is writeWord's. -/
def putSecStatus (r : SecStatus) (w : Nat) (v : BitVec 64) : SecStatus :=
  match w with
  | 0 => { r with trngOk := v.getLsbD 0, drbgReady := v.getLsbD 1, debug := v.getLsbD 2, identOk := v.getLsbD 3, svn := v.extractLsb' 8 8, minSvn := v.extractLsb' 16 8, minPeer := v.extractLsb' 24 8, healthFail := v.extractLsb' 32 16, roomKeys := v.extractLsb' 48 8, linkKeys := v.extractLsb' 56 8 }
  | _ => r

/-- The words of SEC_DEBUG as read (R580); a reserved bit reads 0 (R16). -/
def getSecDebug (r : SecDebug) : Nat → BitVec 64
  | 0 => (((BitVec.ofBool r.opened).setWidth 64) <<< 1) ||| (((BitVec.ofBool r.pending).setWidth 64) <<< 2) ||| ((r.reason.setWidth 64) <<< 3) ||| ((r.refused.setWidth 64) <<< 16)
  | _ => 0

/-- SEC_DEBUG with word w's fields taken from v, whatever their access; the write rule is writeWord's. -/
def putSecDebug (r : SecDebug) (w : Nat) (v : BitVec 64) : SecDebug :=
  match w with
  | 0 => { r with req := v.getLsbD 0, opened := v.getLsbD 1, pending := v.getLsbD 2, reason := v.extractLsb' 3 3, refused := v.extractLsb' 16 16 }
  | _ => r

/-- The words of SEC_PROG_ROOT_i as read (R581); a reserved bit reads 0 (R16). -/
def getSecProgRoot (r : SecProgRoot) : Nat → BitVec 64
  | 0 => ((r.digest0))
  | 1 => ((r.digest1))
  | 2 => ((r.digest2))
  | 3 => ((r.digest3))
  | 4 => (((BitVec.ofBool r.valid).setWidth 64))
  | _ => 0

/-- SEC_PROG_ROOT_i with word w's fields taken from v, whatever their access; the write rule is writeWord's. -/
def putSecProgRoot (r : SecProgRoot) (w : Nat) (v : BitVec 64) : SecProgRoot :=
  match w with
  | 0 => { r with digest0 := v.extractLsb' 0 64 }
  | 1 => { r with digest1 := v.extractLsb' 0 64 }
  | 2 => { r with digest2 := v.extractLsb' 0 64 }
  | 3 => { r with digest3 := v.extractLsb' 0 64 }
  | 4 => { r with valid := v.getLsbD 0 }
  | _ => r

/-- The words of FLT_STATUS as read (R618); a reserved bit reads 0 (R16). -/
def getFltStatus (r : FltStatus) : Nat → BitVec 64
  | 0 => (((BitVec.ofBool r.draining).setWidth 64)) ||| (((BitVec.ofBool r.drainDone).setWidth 64) <<< 1) ||| (((BitVec.ofBool r.cause).setWidth 64) <<< 2) ||| (((BitVec.ofBool r.oneCore).setWidth 64) <<< 3) ||| (((BitVec.ofBool r.cmdCore).setWidth 64) <<< 4) ||| ((r.permanent.setWidth 64) <<< 16) ||| ((r.uncorr.setWidth 64) <<< 32)
  | 1 => ((r.drainedRooms))
  | _ => 0

/-- FLT_STATUS with word w's fields taken from v, whatever their access; the write rule is writeWord's. -/
def putFltStatus (r : FltStatus) (w : Nat) (v : BitVec 64) : FltStatus :=
  match w with
  | 0 => { r with draining := v.getLsbD 0, drainDone := v.getLsbD 1, cause := v.getLsbD 2, oneCore := v.getLsbD 3, cmdCore := v.getLsbD 4, permanent := v.extractLsb' 16 16, uncorr := v.extractLsb' 32 32 }
  | 1 => { r with drainedRooms := v.extractLsb' 0 64 }
  | _ => r

/-- The words of FLT_HIST as read (R619); a reserved bit reads 0 (R16). -/
def getFltHist (r : FltHist) : Nat → BitVec 64
  | 0 => (((BitVec.ofBool r.present).setWidth 64)) ||| (((BitVec.ofBool r.blank).setWidth 64) <<< 1) ||| (((BitVec.ofBool r.rebuilt).setWidth 64) <<< 2) ||| (((BitVec.ofBool r.writeFail).setWidth 64) <<< 3) ||| ((r.records.setWidth 64) <<< 32)
  | 1 => ((r.lifeMs))
  | _ => 0

/-- FLT_HIST with word w's fields taken from v, whatever their access; the write rule is writeWord's. -/
def putFltHist (r : FltHist) (w : Nat) (v : BitVec 64) : FltHist :=
  match w with
  | 0 => { r with present := v.getLsbD 0, blank := v.getLsbD 1, rebuilt := v.getLsbD 2, writeFail := v.getLsbD 3, records := v.extractLsb' 32 32 }
  | 1 => { r with lifeMs := v.extractLsb' 0 64 }
  | _ => r

/-- The words of FLT_REPLACE as read (R620); a reserved bit reads 0 (R16). -/
def getFltReplace (r : FltReplace) : Nat → BitVec 64
  | 0 => (((BitVec.ofBool r.isSet).setWidth 64)) ||| ((r.ch.setWidth 64) <<< 1) ||| ((r.cls.setWidth 64) <<< 5) ||| ((r.unit.setWidth 64) <<< 16)
  | 1 => (((BitVec.ofBool r.drainAny).setWidth 64)) ||| ((r.drainLimitS.setWidth 64) <<< 16)
  | _ => 0

/-- FLT_REPLACE with word w's fields taken from v, whatever their access; the write rule is writeWord's. -/
def putFltReplace (r : FltReplace) (w : Nat) (v : BitVec 64) : FltReplace :=
  match w with
  | 0 => { r with isSet := v.getLsbD 0, ch := v.extractLsb' 1 4, cls := v.extractLsb' 5 8, unit := v.extractLsb' 16 16 }
  | 1 => { r with drainAny := v.getLsbD 0, drainLimitS := v.extractLsb' 16 16 }
  | _ => r

/-- The words of CKP_ROOM_n as read (R651); a reserved bit reads 0 (R16). -/
def getCkpRoom (r : CkpRoom) : Nat → BitVec 64
  | 0 => (((BitVec.ofBool r.en).setWidth 64)) ||| (((BitVec.ofBool r.cut).setWidth 64) <<< 1) ||| (((BitVec.ofBool r.mirror).setWidth 64) <<< 2) ||| ((r.mirrorRegion.setWidth 64) <<< 8) ||| ((r.everySteps.setWidth 64) <<< 16) ||| ((r.everyMs.setWidth 64) <<< 32)
  | 1 => ((r.atticNode.setWidth 64)) ||| ((r.atticPages.setWidth 64) <<< 32)
  | 2 => ((r.mirrorOffset))
  | 3 => ((r.cbwPages.setWidth 64)) ||| ((r.scratchPages.setWidth 64) <<< 32)
  | 4 => ((r.seq))
  | 5 => ((r.step))
  | 6 => (((BitVec.ofBool r.slot).setWidth 64)) ||| (((BitVec.ofBool r.busy).setWidth 64) <<< 1) ||| (((BitVec.ofBool r.pending).setWidth 64) <<< 2) ||| (((BitVec.ofBool r.aValid).setWidth 64) <<< 3) ||| (((BitVec.ofBool r.bValid).setWidth 64) <<< 4) ||| ((r.lastStatus.setWidth 64) <<< 16) ||| ((r.cbwCopies.setWidth 64) <<< 32)
  | 7 => ((r.failed.setWidth 64)) ||| ((r.merged.setWidth 64) <<< 32)
  | _ => 0

/-- CKP_ROOM_n with word w's fields taken from v, whatever their access; the write rule is writeWord's. -/
def putCkpRoom (r : CkpRoom) (w : Nat) (v : BitVec 64) : CkpRoom :=
  match w with
  | 0 => { r with en := v.getLsbD 0, cut := v.getLsbD 1, mirror := v.getLsbD 2, mirrorRegion := v.extractLsb' 8 4, everySteps := v.extractLsb' 16 16, everyMs := v.extractLsb' 32 32 }
  | 1 => { r with atticNode := v.extractLsb' 0 18, atticPages := v.extractLsb' 32 32 }
  | 2 => { r with mirrorOffset := v.extractLsb' 0 64 }
  | 3 => { r with cbwPages := v.extractLsb' 0 32, scratchPages := v.extractLsb' 32 32 }
  | 4 => { r with seq := v.extractLsb' 0 64 }
  | 5 => { r with step := v.extractLsb' 0 64 }
  | 6 => { r with slot := v.getLsbD 0, busy := v.getLsbD 1, pending := v.getLsbD 2, aValid := v.getLsbD 3, bValid := v.getLsbD 4, lastStatus := v.extractLsb' 16 16, cbwCopies := v.extractLsb' 32 32 }
  | 7 => { r with failed := v.extractLsb' 0 32, merged := v.extractLsb' 32 32 }
  | _ => r

/-- The words of CKP_HOST_c as read (R652); a reserved bit reads 0 (R16). -/
def getCkpHost (r : CkpHost) : Nat → BitVec 64
  | 0 => ((r.maxPages.setWidth 64)) ||| ((r.used.setWidth 64) <<< 32)
  | 1 => ((r.hosted.setWidth 64))
  | _ => 0

/-- CKP_HOST_c with word w's fields taken from v, whatever their access; the write rule is writeWord's. -/
def putCkpHost (r : CkpHost) (w : Nat) (v : BitVec 64) : CkpHost :=
  match w with
  | 0 => { r with maxPages := v.extractLsb' 0 32, used := v.extractLsb' 32 32 }
  | 1 => { r with hosted := v.extractLsb' 0 8, freeAll := v.getLsbD 8 }
  | _ => r

/-- The words of MBX_WORDS as read (R695); a reserved bit reads 0 (R16). -/
def getMbxWords (r : MbxWords) : Nat → BitVec 64
  | 0 => 0
  | 1 => ((r.postStatus.setWidth 64)) ||| ((r.postSeq.setWidth 64) <<< 32)
  | 2 => 0
  | 3 => ((r.slotState.setWidth 64)) ||| (((BitVec.ofBool r.cmdBusy).setWidth 64) <<< 16)
  | 4 => ((r.holdMs.setWidth 64))
  | 5 => ((r.overrun.setWidth 64)) ||| ((r.ackMismatch.setWidth 64) <<< 16) ||| ((r.expired.setWidth 64) <<< 32) ||| ((r.evqLost.setWidth 64) <<< 48)
  | _ => 0

/-- MBX_WORDS with word w's fields taken from v, whatever their access; the write rule is writeWord's. -/
def putMbxWords (r : MbxWords) (w : Nat) (v : BitVec 64) : MbxWords :=
  match w with
  | 0 => { r with go := v.getLsbD 0 }
  | 1 => { r with postStatus := v.extractLsb' 0 16, postSeq := v.extractLsb' 32 32 }
  | 2 => { r with ackSlot := v.extractLsb' 0 3, ackSeq := v.extractLsb' 32 32 }
  | 3 => { r with slotState := v.extractLsb' 0 16, cmdBusy := v.getLsbD 16 }
  | 4 => { r with holdMs := v.extractLsb' 0 16 }
  | 5 => { r with overrun := v.extractLsb' 0 16, ackMismatch := v.extractLsb' 16 16, expired := v.extractLsb' 32 16, evqLost := v.extractLsb' 48 16 }
  | _ => r

/-- The words of FN_WORDS as read (R696); a reserved bit reads 0 (R16). -/
def getFnWords (r : FnWords) : Nat → BitVec 64
  | 0 => ((r.evqBase))
  | 1 => (((BitVec.ofBool r.evqEn).setWidth 64)) ||| ((r.evqLog2.setWidth 64) <<< 1)
  | 2 => ((r.evqProd))
  | 3 => ((r.evqCons))
  | 4 => (((BitVec.ofBool r.port).setWidth 64)) ||| ((r.func.setWidth 64) <<< 1)
  | _ => 0

/-- FN_WORDS with word w's fields taken from v, whatever their access; the write rule is writeWord's. -/
def putFnWords (r : FnWords) (w : Nat) (v : BitVec 64) : FnWords :=
  match w with
  | 0 => { r with evqBase := v.extractLsb' 0 64 }
  | 1 => { r with evqEn := v.getLsbD 0, evqLog2 := v.extractLsb' 1 5 }
  | 2 => { r with evqProd := v.extractLsb' 0 64 }
  | 3 => { r with evqCons := v.extractLsb' 0 64 }
  | 4 => { r with port := v.getLsbD 0, func := v.extractLsb' 1 8 }
  | _ => r

/-- The words of IRQ_MOD_v as read (R697); a reserved bit reads 0 (R16). -/
def getIrqMod (r : IrqMod) : Nat → BitVec 64
  | 0 => ((r.count.setWidth 64)) ||| ((r.timeUs.setWidth 64) <<< 16) ||| ((r.sent.setWidth 64) <<< 32)
  | _ => 0

/-- IRQ_MOD_v with word w's fields taken from v, whatever their access; the write rule is writeWord's. -/
def putIrqMod (r : IrqMod) (w : Nat) (v : BitVec 64) : IrqMod :=
  match w with
  | 0 => { r with count := v.extractLsb' 0 16, timeUs := v.extractLsb' 16 16, sent := v.extractLsb' 32 32 }
  | _ => r

/-- The words of FY_CELLAR_r as read (R698); a reserved bit reads 0 (R16). -/
def getFyCellar (r : FyCellar) : Nat → BitVec 64
  | 0 => ((r.node.setWidth 64)) ||| ((r.kind.setWidth 64) <<< 18) ||| ((r.ch.setWidth 64) <<< 22)
  | 1 => ((r.base))
  | 2 => ((r.pages.setWidth 64))
  | 3 => (((BitVec.ofBool r.refused).setWidth 64) <<< 1)
  | _ => 0

/-- FY_CELLAR_r with word w's fields taken from v, whatever their access; the write rule is writeWord's. -/
def putFyCellar (r : FyCellar) (w : Nat) (v : BitVec 64) : FyCellar :=
  match w with
  | 0 => { r with node := v.extractLsb' 0 18, kind := v.extractLsb' 18 4, ch := v.extractLsb' 22 4 }
  | 1 => { r with base := v.extractLsb' 0 64 }
  | 2 => { r with pages := v.extractLsb' 0 32 }
  | 3 => { r with apply := v.getLsbD 0, refused := v.getLsbD 1 }
  | _ => r

/-- The words of FY_VF_SUITE_p_v as read (R699); a reserved bit reads 0 (R16). -/
def getFyVfSuite (r : FyVfSuite) : Nat → BitVec 64
  | 0 => ((r.suites.setWidth 64))
  | _ => 0

/-- FY_VF_SUITE_p_v with word w's fields taken from v, whatever their access; the write rule is writeWord's. -/
def putFyVfSuite (r : FyVfSuite) (w : Nat) (v : BitVec 64) : FyVfSuite :=
  match w with
  | 0 => { r with suites := v.extractLsb' 0 4 }
  | _ => r

/-- The words of IRQ_CHAN as read (R700); a reserved bit reads 0 (R16). -/
def getIrqChan (r : IrqChan) : Nat → BitVec 64
  | 0 => ((r.maskCmd.setWidth 64)) ||| ((r.maskHk.setWidth 64) <<< 8) ||| ((r.route.setWidth 64) <<< 16) ||| ((r.depthCmd.setWidth 64) <<< 24) ||| ((r.depthHk.setWidth 64) <<< 28) ||| ((r.wakes.setWidth 64) <<< 32)
  | _ => 0

/-- IRQ_CHAN with word w's fields taken from v, whatever their access; the write rule is writeWord's. -/
def putIrqChan (r : IrqChan) (w : Nat) (v : BitVec 64) : IrqChan :=
  match w with
  | 0 => { r with maskCmd := v.extractLsb' 0 8, maskHk := v.extractLsb' 8 8, route := v.extractLsb' 16 8, depthCmd := v.extractLsb' 24 4, depthHk := v.extractLsb' 28 4, wakes := v.extractLsb' 32 32 }
  | _ => r

/-- The words of PWR_STATUS as read (R741); a reserved bit reads 0 (R16). -/
def getPwrStatus (r : PwrStatus) : Nat → BitVec 64
  | 0 => ((r.seq.setWidth 64)) ||| ((r.pg.setWidth 64) <<< 4) ||| (((BitVec.ofBool r.vstkOn).setWidth 64) <<< 7) ||| (((BitVec.ofBool r.voptOn).setWidth 64) <<< 8) ||| (((BitVec.ofBool r.refSsc).setWidth 64) <<< 9) ||| (((BitVec.ofBool r.bflBusy).setWidth 64) <<< 10) ||| ((r.step.setWidth 64) <<< 12) ||| ((r.tmax.setWidth 64) <<< 32) ||| ((r.tstack.setWidth 64) <<< 40) ||| ((r.limiter.setWidth 64) <<< 48)
  | 1 => ((r.limitW.setWidth 64)) ||| ((r.minStep.setWidth 64) <<< 16)
  | _ => 0

/-- PWR_STATUS with word w's fields taken from v, whatever their access; the write rule is writeWord's. -/
def putPwrStatus (r : PwrStatus) (w : Nat) (v : BitVec 64) : PwrStatus :=
  match w with
  | 0 => { r with seq := v.extractLsb' 0 4, pg := v.extractLsb' 4 3, vstkOn := v.getLsbD 7, voptOn := v.getLsbD 8, refSsc := v.getLsbD 9, bflBusy := v.getLsbD 10, step := v.extractLsb' 12 20, tmax := v.extractLsb' 32 8, tstack := v.extractLsb' 40 8, limiter := v.extractLsb' 48 3 }
  | 1 => { r with limitW := v.extractLsb' 0 16, minStep := v.extractLsb' 16 5 }
  | _ => r

/-- The words of PWR_ENERGY as read (R742); a reserved bit reads 0 (R16). -/
def getPwrEnergy (r : PwrEnergy) : Nat → BitVec 64
  | 0 => ((r.totalUj))
  | 1 => ((r.vcoreMeasUj))
  | 2 => ((r.foyerUj))
  | 3 => ((r.nosuiteUj))
  | _ => 0

/-- PWR_ENERGY with word w's fields taken from v, whatever their access; the write rule is writeWord's. -/
def putPwrEnergy (r : PwrEnergy) (w : Nat) (v : BitVec 64) : PwrEnergy :=
  match w with
  | 0 => { r with totalUj := v.extractLsb' 0 64 }
  | 1 => { r with vcoreMeasUj := v.extractLsb' 0 64 }
  | 2 => { r with foyerUj := v.extractLsb' 0 64 }
  | 3 => { r with nosuiteUj := v.extractLsb' 0 64 }
  | _ => r

/-- The words of PWR_LASER_i as read (R743); a reserved bit reads 0 (R16). -/
def getPwrLaser (r : PwrLaser) : Nat → BitVec 64
  | 0 => ((r.powerUw.setWidth 64)) ||| (((BitVec.ofBool r.inWindow).setWidth 64) <<< 20) ||| ((r.losses.setWidth 64) <<< 32)
  | _ => 0

/-- PWR_LASER_i with word w's fields taken from v, whatever their access; the write rule is writeWord's. -/
def putPwrLaser (r : PwrLaser) (w : Nat) (v : BitVec 64) : PwrLaser :=
  match w with
  | 0 => { r with powerUw := v.extractLsb' 0 20, inWindow := v.getLsbD 20, losses := v.extractLsb' 32 32 }
  | _ => r

/-- The words of FY_BOOT as read (R744); a reserved bit reads 0 (R16). -/
def getFyBoot (r : FyBoot) : Nat → BitVec 64
  | 0 => (((BitVec.ofBool r.copy).setWidth 64)) ||| (((BitVec.ofBool r.hostLoaded).setWidth 64) <<< 1) ||| ((r.bootSel.setWidth 64) <<< 2) ||| ((r.smbAddr.setWidth 64) <<< 4) ||| (((BitVec.ofBool r.aFail).setWidth 64) <<< 7) ||| (((BitVec.ofBool r.bFail).setWidth 64) <<< 8) ||| ((r.bootMs.setWidth 64) <<< 16) ||| ((r.boots.setWidth 64) <<< 32)
  | 1 => ((r.hostAddr))
  | 2 => 0
  | _ => 0

/-- FY_BOOT with word w's fields taken from v, whatever their access; the write rule is writeWord's. -/
def putFyBoot (r : FyBoot) (w : Nat) (v : BitVec 64) : FyBoot :=
  match w with
  | 0 => { r with copy := v.getLsbD 0, hostLoaded := v.getLsbD 1, bootSel := v.extractLsb' 2 2, smbAddr := v.extractLsb' 4 3, aFail := v.getLsbD 7, bFail := v.getLsbD 8, bootMs := v.extractLsb' 16 16, boots := v.extractLsb' 32 32 }
  | 1 => { r with hostAddr := v.extractLsb' 0 64 }
  | 2 => { r with go := v.getLsbD 0 }
  | _ => r

/-- The bits of a word that have a given access code (Table 0.10). -/
structure WordMask where
  rw : BitVec 64
  rwl : BitVec 64
  w1c : BitVec 64
  wo : BitVec 64
  deriving DecidableEq, Repr

/-- The access codes of each word's bits (the register tables; R15). Bits of an address that its table states to be 0, or that its alignment
makes 0, cannot be written. DESIGN CHOICE, log 123. -/
def wordMask : RegWord → WordMask
  | .fyDevStatus0 => ⟨0x0, 0x0, 0x0, 0x0⟩
  | .fyArrWidth0 => ⟨0x0, 0x0, 0x0, 0x0⟩
  | .arrChkStatus0 => ⟨0x0, 0x0, 0x0, 0x0⟩
  | .arrChkCount0 => ⟨0x0, 0x0, 0x0, 0x0⟩
  | .ccStreamFault0 => ⟨0x0, 0x0, 0x8000000000000000, 0x0⟩
  | .ccIssueCount0 => ⟨0x0, 0x0, 0x0, 0x0⟩
  | .ccWaitLimit0 => ⟨0xffffffff, 0x0, 0x0, 0x0⟩
  | .stkState0 => ⟨0x0, 0x0, 0x0, 0x0⟩
  | .stkState1 => ⟨0x0, 0x0, 0x0, 0x0⟩
  | .stkScrub0 => ⟨0xff, 0x0, 0x0, 0x0⟩
  | .tierT2Region0 => ⟨0x3fffff, 0x0, 0x0, 0x0⟩
  | .tierT2Region1 => ⟨0xffffffffffff0000, 0x0, 0x0, 0x0⟩
  | .tierT2Region2 => ⟨0xffffffff, 0x0, 0x0, 0x0⟩
  | .pmpStatus0 => ⟨0x0, 0x0, 0x0, 0x0⟩
  | .tierAcct0 => ⟨0xffffffff00000000, 0xffffffff, 0x0, 0x0⟩
  | .tierAcct1 => ⟨0xffffffff, 0xfff00000000, 0x0, 0x0⟩
  | .tierAcct2 => ⟨0x0, 0x0, 0x0, 0x0⟩
  | .tierAcct3 => ⟨0x0, 0x0, 0x0, 0x0⟩
  | .tierCtl0 => ⟨0xffffffff, 0x0, 0x0, 0x0⟩
  | .tierCtl1 => ⟨0x0, 0x0, 0x0, 0x0⟩
  | .tierWmap0 => ⟨0x0, 0xffffffffffffffff, 0x0, 0x0⟩
  | .kvRoom0 => ⟨0x0, 0x1ffff7fffffff, 0x0, 0x0⟩
  | .kvRoom1 => ⟨0x0, 0x3fffff, 0x0, 0x0⟩
  | .kvRoom2 => ⟨0x0, 0xffffffff0000, 0x0, 0x0⟩
  | .kvRoom3 => ⟨0x0, 0xffffffff0000, 0x0, 0x0⟩
  | .kvRoom4 => ⟨0x0, 0xfffffff0ffffe00, 0x0, 0x0⟩
  | .kvRoom5 => ⟨0x0, 0x0, 0x0, 0x0⟩
  | .kvRoom6 => ⟨0x0, 0x0, 0x0, 0x0⟩
  | .kvRoom7 => ⟨0x0, 0x0, 0x0, 0x0⟩
  | .srvBudget0 => ⟨0xffffffffffffffff, 0x0, 0x0, 0x0⟩
  | .srvBudget1 => ⟨0xffffffffffff, 0x0, 0x0, 0x0⟩
  | .srvBudget2 => ⟨0x0, 0x0, 0x0, 0x0⟩
  | .srvBudget3 => ⟨0x0, 0x0, 0x0, 0x0⟩
  | .srvRoom0 => ⟨0x0, 0xfffffff0fffffc0, 0x0, 0x0⟩
  | .srvRoom1 => ⟨0xffffffff3fffffff, 0x0, 0x0, 0x0⟩
  | .srvRoom2 => ⟨0x0, 0xffffffffffffffff, 0x0, 0x0⟩
  | .srvRoom3 => ⟨0x0, 0xffffffffffffffff, 0x0, 0x0⟩
  | .srvRoom4 => ⟨0x0, 0xffffffff0000, 0x0, 0x0⟩
  | .srvRoom5 => ⟨0xffff000003ff, 0x0, 0x0, 0x0⟩
  | .srvRoom6 => ⟨0xfffffffffffff000, 0x0, 0x0, 0x0⟩
  | .srvRoom7 => ⟨0x0, 0x0, 0x0, 0x0⟩
  | .rngRoom0 => ⟨0x0, 0xffffffffffffffff, 0x0, 0x0⟩
  | .rngRoom1 => ⟨0x0, 0xffffffffffffffff, 0x0, 0x0⟩
  | .rngRoom2 => ⟨0x0, 0x7ffd, 0x0, 0x0⟩
  | .rngRoom3 => ⟨0x0, 0x0, 0x0, 0x0⟩
  | .adpRoom0 => ⟨0x3fffc0000, 0x3ffff, 0x0, 0x0⟩
  | .adpRoom1 => ⟨0x0, 0xffffffffffffffff, 0x0, 0x0⟩
  | .adpRoom2 => ⟨0x0, 0xfffffc0, 0x0, 0x0⟩
  | .adpRoom3 => ⟨0x0, 0xffffffff0000, 0x0, 0x0⟩
  | .adpRoom4 => ⟨0xffff0000, 0xffff, 0x0, 0x0⟩
  | .adpRoom5 => ⟨0x0, 0xffffffffffffffff, 0x0, 0x0⟩
  | .adpRoom6 => ⟨0x0, 0x0, 0x0, 0x0⟩
  | .adpRoom7 => ⟨0x0, 0x0, 0x0, 0x0⟩
  | .adpSlot0 => ⟨0x0, 0x0, 0x0, 0x0⟩
  | .adpSlot1 => ⟨0x0, 0x0, 0x0, 0x0⟩
  | .adpSlot2 => ⟨0x0, 0x0, 0x0, 0x0⟩
  | .adpSlot3 => ⟨0x0, 0x0, 0x0, 0x0⟩
  | .adpBind0 => ⟨0x0, 0x0, 0x0, 0x0⟩
  | .trnRoom0 => ⟨0x0, 0xffffffff0000, 0x0, 0x0⟩
  | .trnRoom1 => ⟨0x0, 0xffffffffffffffff, 0x0, 0x0⟩
  | .trnRoom2 => ⟨0x0, 0xffffffff, 0x0, 0x0⟩
  | .trnRoom3 => ⟨0x0, 0x0, 0x0, 0x0⟩
  | .trnRoom4 => ⟨0x0, 0x3ff, 0x0, 0x0⟩
  | .trnRoom5 => ⟨0x0, 0xffffffff0000, 0x0, 0x0⟩
  | .trnRoom6 => ⟨0x0, 0xfffffc00fffffc0, 0x0, 0x0⟩
  | .trnRoom7 => ⟨0x0, 0x7fff, 0x0, 0x0⟩
  | .trnRoom8 => ⟨0x0, 0xffffffffffff, 0x0, 0x0⟩
  | .trnRoom9 => ⟨0x0, 0xffffffffffffffff, 0x0, 0x0⟩
  | .trnRoom10 => ⟨0x0, 0xffffffffffff, 0x0, 0x0⟩
  | .trnRoom11 => ⟨0xffff00000000, 0x0, 0x0, 0x0⟩
  | .trnRoom12 => ⟨0x0, 0x0, 0x0, 0x0⟩
  | .trnRoom13 => ⟨0x0, 0x0, 0x0, 0x0⟩
  | .trnRoom14 => ⟨0x0, 0x0, 0x0, 0x0⟩
  | .updRoom0 => ⟨0xffffffffffffffff, 0x0, 0x0, 0x0⟩
  | .updRoom1 => ⟨0x0, 0xffffffffffffffff, 0x0, 0x0⟩
  | .updRoom2 => ⟨0x0, 0xffffffffffffffff, 0x0, 0x0⟩
  | .updRoom3 => ⟨0x0, 0xffffffffffffffff, 0x0, 0x0⟩
  | .updRoom4 => ⟨0x0, 0xffffffffffffffff, 0x0, 0x0⟩
  | .updRoom5 => ⟨0x0, 0xffffffffffffffff, 0x0, 0x0⟩
  | .updRoom6 => ⟨0x0, 0xffffffffffff, 0x0, 0x0⟩
  | .updRoom7 => ⟨0x0, 0xffffffffffffffff, 0x0, 0x0⟩
  | .updRoom8 => ⟨0x0, 0x3ffffffffffff, 0x0, 0x0⟩
  | .updRoom9 => ⟨0x0, 0xffffffff0fffffc0, 0x0, 0x0⟩
  | .updRoom10 => ⟨0x0, 0xffffffffffff, 0x0, 0x0⟩
  | .updRoom11 => ⟨0x0, 0x0, 0x0, 0x0⟩
  | .updRoom12 => ⟨0x0, 0x0, 0x0, 0x0⟩
  | .updRoom13 => ⟨0x0, 0x0, 0x0, 0x0⟩
  | .updRoom14 => ⟨0x0, 0x0, 0x0, 0x0⟩
  | .srvWcopy0 => ⟨0x0, 0x0, 0x0, 0x0⟩
  | .srvWcopy1 => ⟨0x0, 0x0, 0x0, 0x0⟩
  | .srvWcopy2 => ⟨0x0, 0x0, 0x0, 0x0⟩
  | .srvWcopy3 => ⟨0x0, 0x0, 0x0, 0x0⟩
  | .srvWmodel0 => ⟨0x3, 0x0, 0x0, 0x0⟩
  | .srvWmodel1 => ⟨0x3ffff, 0x0, 0x0, 0x0⟩
  | .srvWmodel2 => ⟨0x0, 0x0, 0x0, 0x0⟩
  | .srvWmodel3 => ⟨0x0, 0x0, 0x0, 0x0⟩
  | .srvWmodel4 => ⟨0x0, 0x0, 0x0, 0x0⟩
  | .srvWmodel5 => ⟨0x0, 0x0, 0x0, 0x0⟩
  | .trnBcast0 => ⟨0xffff0002, 0xf0000000d, 0x0, 0x0⟩
  | .trnBcast1 => ⟨0x0, 0x0, 0x0, 0x0⟩
  | .trnBcast2 => ⟨0x0, 0xffffffffffff, 0x0, 0x0⟩
  | .trnXs0 => ⟨0xffffffff00000080, 0x7f, 0x0, 0x0⟩
  | .trnXs1 => ⟨0x0, 0xffffffff0000, 0x0, 0x0⟩
  | .trnXs2 => ⟨0x0, 0x3fffffff, 0x0, 0x0⟩
  | .trnXs3 => ⟨0x0, 0x0, 0x0, 0x0⟩
  | .trnXs4 => ⟨0x0, 0x0, 0x0, 0x0⟩
  | .trnXs5 => ⟨0x0, 0x0, 0x0, 0x0⟩
  | .trnXs6 => ⟨0x0, 0x0, 0x0, 0x0⟩
  | .trnXs7 => ⟨0x0, 0x0, 0x0, 0x0⟩
  | .fabNode0 => ⟨0x0, 0x0, 0x0, 0x0⟩
  | .fabNode1 => ⟨0x0, 0x0, 0x0, 0x0⟩
  | .fabPort0 => ⟨0x0, 0x0, 0x0, 0x0⟩
  | .fabPort1 => ⟨0x0, 0x0, 0x0, 0x0⟩
  | .fabPort2 => ⟨0x0, 0x0, 0x0, 0x0⟩
  | .fabPort3 => ⟨0x0, 0x0, 0x0, 0x0⟩
  | .fabPort4 => ⟨0x0, 0x0, 0x0, 0x0⟩
  | .fabPort5 => ⟨0x0, 0x0, 0x0, 0x0⟩
  | .fabPort6 => ⟨0x0, 0x0, 0x0, 0x0⟩
  | .fabPort7 => ⟨0x0, 0x0, 0x0, 0x0⟩
  | .fabRt0 => ⟨0x1ffffffff, 0x0, 0x0, 0x0⟩
  | .fabEthPeer0 => ⟨0x1fffffffffff, 0x0, 0x0, 0x0⟩
  | .fabEthPeer1 => ⟨0xffffffff, 0x0, 0x0, 0x0⟩
  | .fabEthPeer2 => ⟨0xffffffffffff, 0x0, 0x0, 0x0⟩
  | .fabColl0 => ⟨0x0, 0xffffffff001fffff, 0x0, 0x0⟩
  | .fabColl1 => ⟨0x0, 0xffffffffffff, 0x0, 0x0⟩
  | .fabColl2 => ⟨0x0, 0xffffffffffff, 0x0, 0x0⟩
  | .fabColl3 => ⟨0x0, 0xffffffffffff, 0x0, 0x0⟩
  | .fabColl4 => ⟨0x0, 0x3fffffffffffff, 0x0, 0x0⟩
  | .fabColl5 => ⟨0x0, 0x3fffffffffffff, 0x0, 0x0⟩
  | .fabColl6 => ⟨0x0, 0x3ffff, 0x0, 0x0⟩
  | .fabColl7 => ⟨0x0, 0x0, 0x0, 0x0⟩
  | .fabRed0 => ⟨0x0, 0x0, 0x0, 0x0⟩
  | .fabRed1 => ⟨0x0, 0x0, 0x0, 0x0⟩
  | .fabRed2 => ⟨0x0, 0x0, 0x0, 0x0⟩
  | .fabRed3 => ⟨0x0, 0x0, 0x0, 0x0⟩
  | .fabRoom0 => ⟨0x0, 0xffffffff0000, 0x0, 0x0⟩
  | .fabRoom1 => ⟨0x0, 0xffffffff, 0x0, 0x0⟩
  | .fabRoom2 => ⟨0x0, 0x0, 0x0, 0x0⟩
  | .fabRoom3 => ⟨0x0, 0x0, 0x0, 0x0⟩
  | .roomCfg0 => ⟨0x0, 0x38, 0x0, 0x0⟩
  | .roomCfg1 => ⟨0x0, 0x0, 0x0, 0x0⟩
  | .roomCfg2 => ⟨0x0, 0x0, 0x0, 0x0⟩
  | .roomCfg3 => ⟨0x0, 0xffffffff0000, 0x0, 0x0⟩
  | .schSuite0 => ⟨0x0, 0x0, 0x0, 0x0⟩
  | .schSuite1 => ⟨0x0, 0x0, 0x0, 0x0⟩
  | .schSuite2 => ⟨0x0, 0x0, 0x0, 0x0⟩
  | .schRoom0 => ⟨0xffff, 0x0, 0x0, 0x0⟩
  | .schRoom1 => ⟨0x0, 0x0, 0x0, 0x0⟩
  | .schRoom2 => ⟨0x0, 0x0, 0x0, 0x0⟩
  | .schRoom3 => ⟨0x0, 0x0, 0x0, 0x0⟩
  | .schAcct0 => ⟨0x0, 0x0, 0x0, 0x0⟩
  | .schAcct1 => ⟨0x0, 0x0, 0x0, 0x0⟩
  | .schAcct2 => ⟨0x0, 0x0, 0x0, 0x0⟩
  | .schAcct3 => ⟨0x0, 0x0, 0x0, 0x0⟩
  | .schAcct4 => ⟨0x0, 0x0, 0x0, 0x0⟩
  | .schAcct5 => ⟨0x0, 0x0, 0x0, 0x0⟩
  | .schAcct6 => ⟨0x0, 0x0, 0x0, 0x0⟩
  | .schAcct7 => ⟨0x0, 0x0, 0x0, 0x0⟩
  | .schAcct8 => ⟨0x0, 0x0, 0x0, 0x0⟩
  | .schAcct9 => ⟨0x0, 0x0, 0x0, 0x0⟩
  | .schAcct10 => ⟨0x0, 0x0, 0x0, 0x0⟩
  | .schAcct11 => ⟨0x0, 0x0, 0x0, 0x0⟩
  | .schAcct12 => ⟨0x0, 0x0, 0x0, 0x0⟩
  | .schAcct13 => ⟨0x0, 0x0, 0x0, 0x0⟩
  | .schAcct14 => ⟨0x0, 0x0, 0x0, 0x0⟩
  | .secStatus0 => ⟨0x0, 0x0, 0x0, 0x0⟩
  | .secDebug0 => ⟨0x0, 0x0, 0x0, 0x1⟩
  | .secProgRoot0 => ⟨0xffffffffffffffff, 0x0, 0x0, 0x0⟩
  | .secProgRoot1 => ⟨0xffffffffffffffff, 0x0, 0x0, 0x0⟩
  | .secProgRoot2 => ⟨0xffffffffffffffff, 0x0, 0x0, 0x0⟩
  | .secProgRoot3 => ⟨0xffffffffffffffff, 0x0, 0x0, 0x0⟩
  | .secProgRoot4 => ⟨0x1, 0x0, 0x0, 0x0⟩
  | .fltStatus0 => ⟨0x0, 0x0, 0x0, 0x0⟩
  | .fltStatus1 => ⟨0x0, 0x0, 0x0, 0x0⟩
  | .fltHist0 => ⟨0x0, 0x0, 0x0, 0x0⟩
  | .fltHist1 => ⟨0x0, 0x0, 0x0, 0x0⟩
  | .fltReplace0 => ⟨0x0, 0x0, 0x0, 0x0⟩
  | .fltReplace1 => ⟨0xffff0001, 0x0, 0x0, 0x0⟩
  | .ckpRoom0 => ⟨0xffffffffffff0f07, 0x0, 0x0, 0x0⟩
  | .ckpRoom1 => ⟨0xffffffff0003ffff, 0x0, 0x0, 0x0⟩
  | .ckpRoom2 => ⟨0xffffffffffff0000, 0x0, 0x0, 0x0⟩
  | .ckpRoom3 => ⟨0x0, 0x0, 0x0, 0x0⟩
  | .ckpRoom4 => ⟨0x0, 0x0, 0x0, 0x0⟩
  | .ckpRoom5 => ⟨0x0, 0x0, 0x0, 0x0⟩
  | .ckpRoom6 => ⟨0x0, 0x0, 0x0, 0x0⟩
  | .ckpRoom7 => ⟨0x0, 0x0, 0x0, 0x0⟩
  | .ckpHost0 => ⟨0xffffffff, 0x0, 0x0, 0x0⟩
  | .ckpHost1 => ⟨0x0, 0x0, 0x0, 0x100⟩
  | .mbxWords0 => ⟨0x0, 0x0, 0x0, 0x1⟩
  | .mbxWords1 => ⟨0x0, 0x0, 0x0, 0x0⟩
  | .mbxWords2 => ⟨0x0, 0x0, 0x0, 0xffffffff00000007⟩
  | .mbxWords3 => ⟨0x0, 0x0, 0x0, 0x0⟩
  | .mbxWords4 => ⟨0xffff, 0x0, 0x0, 0x0⟩
  | .mbxWords5 => ⟨0x0, 0x0, 0x0, 0x0⟩
  | .fnWords0 => ⟨0xfffffffffffff000, 0x0, 0x0, 0x0⟩
  | .fnWords1 => ⟨0x3f, 0x0, 0x0, 0x0⟩
  | .fnWords2 => ⟨0x0, 0x0, 0x0, 0x0⟩
  | .fnWords3 => ⟨0xffffffffffffffff, 0x0, 0x0, 0x0⟩
  | .fnWords4 => ⟨0x0, 0x0, 0x0, 0x0⟩
  | .irqMod0 => ⟨0xffffffff, 0x0, 0x0, 0x0⟩
  | .fyCellar0 => ⟨0x3ffffff, 0x0, 0x0, 0x0⟩
  | .fyCellar1 => ⟨0xffffffffffffffff, 0x0, 0x0, 0x0⟩
  | .fyCellar2 => ⟨0xffffffff, 0x0, 0x0, 0x0⟩
  | .fyCellar3 => ⟨0x0, 0x0, 0x0, 0x1⟩
  | .fyVfSuite0 => ⟨0xf, 0x0, 0x0, 0x0⟩
  | .irqChan0 => ⟨0xffffff, 0x0, 0x0, 0x0⟩
  | .pwrStatus0 => ⟨0x0, 0x0, 0x0, 0x0⟩
  | .pwrStatus1 => ⟨0x1fffff, 0x0, 0x0, 0x0⟩
  | .pwrEnergy0 => ⟨0x0, 0x0, 0x0, 0x0⟩
  | .pwrEnergy1 => ⟨0x0, 0x0, 0x0, 0x0⟩
  | .pwrEnergy2 => ⟨0x0, 0x0, 0x0, 0x0⟩
  | .pwrEnergy3 => ⟨0x0, 0x0, 0x0, 0x0⟩
  | .pwrLaser0 => ⟨0x0, 0x0, 0x0, 0x0⟩
  | .fyBoot0 => ⟨0x0, 0x0, 0x0, 0x0⟩
  | .fyBoot1 => ⟨0xfffffffffffff000, 0x0, 0x0, 0x0⟩
  | .fyBoot2 => ⟨0x0, 0x0, 0x0, 0x1⟩

/-- Table 0.10: what a write of v to a word that reads old leaves in it; a locked RW-L field (its room STARTED) keeps its value (R15), an RO or reserved bit is never written (R16). -/
def writtenWord (m : WordMask) (locked : Bool) (old v : BitVec 64) : BitVec 64 :=
  let wr := if locked then m.rw else m.rw ||| m.rwl
  let set := (old &&& ~~~wr) ||| (v &&& wr)
  set &&& ~~~(v &&& m.w1c)

end Sys2Proof.Machine
end

