-- ==== Sys2Proof/Machine/Elementary.lean ====
section
/-! DEFINITION. Machine/Elementary.lean: exp, log, sin, cos and the normal quantile in fixed point, far finer than FP32, for the results that R112 and R309 tie to exact values. -/

namespace Sys2Proof.Machine

/-- Fraction bits of the fixed-point numbers: enough that no rounding of theirs reaches an FP32 result. -/
def fixBits : Nat := 512
def fixOne : Int := 2 ^ fixBits

def fixMul (a b : Int) : Int := a * b / fixOne
def fixDiv (a b : Int) : Int := a * fixOne / b

/-- A finite number in fixed point; bits below 2^-512 are dropped. -/
def toFix (neg : Bool) (m : Nat) (e : Int) : Int :=
  let s := e + fixBits
  let v : Int := if 0 ≤ s then (m <<< s.toNat : Nat) else (m >>> (-s).toNat : Nat)
  if neg then -v else v

/-- The sum of a series whose next term is the last one times r(i), for i from a start on. -/
def fixSeries (r : Nat → Int → Int) : Nat → Nat → Int → Int
  | 0, _, _ => 0
  | n + 1, i, t => t + fixSeries r n (i + 1) (r i t)

/-- atanh z, for a z of at most 1/3. -/
def fixAtanh (z : Int) : Int :=
  let q := fixMul z z
  (List.range 170).foldl (fun (s : Int × Int) (i : Nat) => (s.1 + s.2 / (2 * i + 1), fixMul s.2 q)) (0, z) |>.1
/-- atan (1 / k). -/
def fixAtanInv (k : Int) : Int :=
  (List.range 120).foldl (fun (s : Int × Int) (i : Nat) =>
    (s.1 + (if i % 2 = 0 then s.2 else -s.2) / (2 * i + 1), s.2 / (k * k))) (0, fixOne / k) |>.1

def fixLn2 : Int := 2 * fixAtanh (fixOne / 3)
def fixPi : Int := 4 * (4 * fixAtanInv 5 - fixAtanInv 239)

/-- exp r, for an r from 0 to ln 2. -/
def fixExpSmall (r : Int) : Int := fixSeries (fun i t => fixMul t r / (i + 1)) 110 0 fixOne
/-- exp x as a mantissa and a power of two. -/
def fixExp (x : Int) : Int × Int :=
  let k := x / fixLn2
  (fixExpSmall (x - k * fixLn2), k - fixBits)

/-- log of m times 2^e, for a positive m. -/
def fixLog (m : Nat) (e : Int) : Int :=
  let k := (bitLen m : Int) - 1
  let y := toFix false m (-k)
  (e + k) * fixLn2 + 2 * fixAtanh (fixDiv (y - fixOne) (y + fixOne))

/-- sin and cos by their series, after whole turns are taken off. -/
def fixTurn (x : Int) : Int := x % (2 * fixPi)
def fixSin (x : Int) : Int :=
  let r := fixTurn x
  fixSeries (fun i t => -(fixMul (fixMul t r) r) / ((2 * i + 2) * (2 * i + 3))) 80 0 r
def fixCos (x : Int) : Int :=
  let r := fixTurn x
  fixSeries (fun i t => -(fixMul (fixMul t r) r) / ((2 * i + 1) * (2 * i + 2))) 80 0 fixOne

/-- The FP32 number d units of the last place from the truncation of v times 2^e, an irrational value's approximation; none beyond FP32's range.
d is one of the neighbours that a bound in ULP allows. -/
def nearIrr (d : Int) (v e : Int) : Num :=
  let neg := decide (v < 0)
  let m := v.natAbs
  let lsb := max (e + bitLen m - 24) (-149)
  let q : Nat := if lsb ≤ e then m <<< (e - lsb).toNat else m >>> (lsb - e).toNat
  .fin neg ((q : Int) + d).toNat lsb

/-! ## The normal quantile (R309) -/

/-- The standard normal distribution function above 0: Φ(x) − 1/2 = φ(x) (x + x³/3 + x⁵/15 + …), times √(2π) for both sides. -/
def fixPhiTimesRoot (x : Int) : Int :=
  let s := fixSeries (fun i t => fixMul (fixMul t x) x / (2 * i + 3)) 200 0 x
  let e := fixExp (-(fixMul x x / 2))
  fixMul s (if 0 ≤ e.2 + fixBits then e.1 <<< (e.2 + fixBits).toNat else e.1 >>> (-(e.2 + fixBits)).toNat)

/-- √(2π). -/
def fixRoot2Pi : Int :=
  let n := (2 * fixPi * fixOne).toNat
  ((List.range 516).reverse.foldl (fun r b => if (r + 2 ^ b) * (r + 2 ^ b) ≤ n then r + 2 ^ b else r) (0 : Nat) : Nat)

/-- Whether the quantile of (i + 0.5) / 4096, i at least 2,048, lies above x: Φ(x) < (2 i + 1) / 8192. -/
def quantileAbove (i : Nat) (x : Int) : Bool :=
  decide (fixPhiTimesRoot x * 8192 < (2 * (i : Int) + 1 - 4096) * fixRoot2Pi)

/-- Entry i of the fused table T of NORM8: the quantile rounded to nearest FP32. The upper half is found bit by bit, in units of half an FP32
unit at the exponent that holds it; the lower half mirrors it. -/
def quantileBits (i : Nat) (e : Int) : Nat :=
  (List.range 25).reverse.foldl (fun (r : Nat) b => if quantileAbove i (toFix false (r + 2 ^ b) (e - 24)) then r + 2 ^ b else r) 0
def quantileHalf (i : Nat) : Num :=
  -- the exponent of the quantile, from 2^-12 for the entry next to the middle up to 2^1
  let e : Int := (List.range 14).foldl (fun (e : Int) (k : Nat) => if quantileAbove i (toFix false 1 ((k : Int) - 12)) then (k : Int) - 12 else e) (-12)
  .fin false (quantileBits i e) (e - 24)
def normTable (i : Nat) : W32 :=
  let up := if i < 2048 then 4095 - i else i
  match quantileHalf up with
  | .fin _ m e => numToFp32 0 (.fin (decide (i < 2048)) (2 * m + 1) (e - 1))
  | v => numToFp32 0 v

end Sys2Proof.Machine
end

