-- ==== Sys2Proof/Machine/Vector.lean ====
section
/-! DEFINITION. Machine/Vector.lean: the vector slots' lane arithmetic (R72, R111 to R114, Table 3.6). -/

namespace Sys2Proof.Machine

/-- The element type of a vector slot (Table 3.5); 3 is reserved. -/
inductive VType where
  | fp32 | bf16 | int32
  deriving DecidableEq, Repr

def vcVType (s : BitVec 96) : Option VType :=
  match vcType s with
  | 0 => some .fp32 | 1 => some .bf16 | 2 => some .int32 | _ => none

/-- The two BF16 values of a lane: low and high half (R106). -/
def lo16 (x : W32) : BitVec 16 := x.extractLsb' 0 16
def hi16 (x : W32) : BitVec 16 := x.extractLsb' 16 16
def pack16 (h l : BitVec 16) : W32 := h ++ l

/-- An INT32 result: the exact integer where it fits, otherwise the open value of the spec. -/
def int32Of (op : Nat) (a b c : W32) (v : Int) : W32 :=
  if -2147483648 ≤ v ∧ v ≤ 2147483647 then BitVec.ofInt 32 v else Config.int32Over op a b c

/-- Applies a BF16 operation to both halves. -/
def bf16Both (f : BitVec 16 → BitVec 16 → BitVec 16 → BitVec 16) (a b c : W32) : W32 :=
  pack16 (f (hi16 a) (hi16 b) (hi16 c)) (f (lo16 a) (lo16 b) (lo16 c))

/-- VADD. -/
def laneAdd (t : VType) (a b : W32) : W32 :=
  match t with
  | .fp32 => fp32Add a b
  | .bf16 => bf16Both (fun x y _ => bf16Add x y) a b 0
  | .int32 => int32Of 1 a b 0 (a.toInt + b.toInt)

/-- VSUB. -/
def laneSub (t : VType) (a b : W32) : W32 :=
  match t with
  | .fp32 => fp32Sub a b
  | .bf16 => bf16Both (fun x y _ => bf16Sub x y) a b 0
  | .int32 => int32Of 2 a b 0 (a.toInt - b.toInt)

/-- VMUL. -/
def laneMul (t : VType) (a b : W32) : W32 :=
  match t with
  | .fp32 => fp32Mul a b
  | .bf16 => bf16Both (fun x y _ => bf16Mul x y) a b 0
  | .int32 => int32Of 3 a b 0 (a.toInt * b.toInt)

/-- VFMA: one rounding. -/
def laneFma (t : VType) (a b c : W32) : W32 :=
  match t with
  | .fp32 => fp32Fma a b c
  | .bf16 => bf16Both bf16Fma a b c
  | .int32 => int32Of 4 a b c (a.toInt * b.toInt + c.toInt)

/-- VMAX. -/
def laneMax (t : VType) (a b : W32) : W32 :=
  match t with
  | .fp32 => fp32Max a b
  | .bf16 => bf16Both (fun x y _ => bf16Max x y) a b 0
  | .int32 => if a.slt b then b else a

/-- VMIN. -/
def laneMin (t : VType) (a b : W32) : W32 :=
  match t with
  | .fp32 => fp32Min a b
  | .bf16 => bf16Both (fun x y _ => bf16Min x y) a b 0
  | .int32 => if a.slt b then a else b

/-- VABS: the sign bit cleared; for INT32 the integer magnitude. -/
def laneAbs (t : VType) (a : W32) : W32 :=
  match t with
  | .fp32 => a &&& 0x7FFFFFFF
  | .bf16 => a &&& 0x7FFF7FFF
  | .int32 => int32Of 7 a 0 0 a.toInt.natAbs

/-- Whether a lane value differs from 0, as VSEL tests it; a zero of either sign is 0. -/
def laneNonzero (t : VType) (c : W32) : Bool :=
  match t with
  | .fp32 => !(fp32ToNum c).isZero
  | .bf16 => !(bf16ToNum (lo16 c)).isZero
  | .int32 => c != 0

/-- VSEL: VA where VC is not 0, else VB; each half of a BF16 lane on its own. -/
def laneSel (t : VType) (a b c : W32) : W32 :=
  match t with
  | .bf16 => bf16Both (fun x y z => if (bf16ToNum z).isZero then y else x) a b c
  | _ => if laneNonzero t c then a else b

/-- A compare of VCMP: SFN[1:0] 0 equal, 1 less, 2 less or equal. -/
def numCmp (f : Nat) (a b : Num) : Bool :=
  match f with
  | 0 => a.eq b
  | 1 => a.lt b
  | _ => a.lt b || a.eq b

/-- VCMP: 1 or 0 in the slot's type. -/
def laneCmp (t : VType) (f : Nat) (a b : W32) : W32 :=
  match t with
  | .fp32 => if numCmp f (fp32ToNum a) (fp32ToNum b) then 0x3F800000 else 0
  | .bf16 => bf16Both (fun x y _ => if numCmp f (bf16ToNum x) (bf16ToNum y) then 0x3F80 else 0) a b 0
  | .int32 =>
    let r := match f with
      | 0 => a == b
      | 1 => a.slt b
      | _ => a.slt b || a == b
    if r then 1 else 0

/-- FP32 to INT32 with RNE and saturation; a NaN has no stated result. -/
def fp32ToInt32 (a : W32) : W32 :=
  match fp32ToNum a with
  | .nan => Config.int32Over 10 a 0 0
  | .inf n => if n then 0x80000000 else 0x7FFFFFFF
  | .fin n m e =>
    let q : Nat := roundMag .rne m e 0
    let v : Int := if n then -(q : Int) else (q : Int)
    BitVec.ofInt 32 (max (-2147483648) (min 2147483647 v))

/-- INT32 to FP32 (rounded to nearest even). -/
def int32ToFp32 (a : W32) : W32 :=
  if a = 0 then 0 else numToFp32 0 (.fin (decide (a.toInt < 0)) a.toInt.natAbs 0)

/-- VCVT by SFN (Table 3.6): BF16 is read from and written to the low half of the lane, and the upper half of an FP32-to-BF16 result is not
stated. DESIGN CHOICE, log 110. -/
def laneCvt (f : Nat) (old a : W32) : W32 :=
  match f with
  | 0 => pack16 (hi16 (Config.laneRest 0x0A old a)) (numToBf16 (hi16 a) (fp32ToNum a))
  | 1 => numToFp32 (lo16 a ++ 0#16) (bf16ToNum (lo16 a))
  | 2 => int32ToFp32 a
  | _ => fp32ToInt32 a

/-- The largest natural number whose square is at most n, by bits from b down. -/
def isqrtGo (n : Nat) : Nat → Nat → Nat
  | 0, r => r
  | b + 1, r =>
    let r' := r + 2 ^ b
    isqrtGo n b (if r' * r' ≤ n then r' else r)

def isqrt (n : Nat) : Nat := isqrtGo n (bitLen n / 2 + 1) 0

/-- The reciprocal square root of a positive magnitude to the lower or upper FP32 neighbour (R112). -/
def rsqrtMag (up : Bool) (m : Nat) (e : Int) : Num :=
  -- make the exponent even, then 1 / sqrt(m 2^e) = sqrt(2^(2k) / m) 2^(-k - e/2)
  let m2 := if e % 2 = 0 then m else 2 * m
  let e2 := if e % 2 = 0 then e else e - 1
  let k := 64 + bitLen m2
  let t := 2 ^ (2 * k) / m2
  let r := isqrt t
  let exact := r * r = t ∧ 2 ^ (2 * k) % m2 = 0
  let mant := 2 * r + (if exact then 0 else 1)
  let ex : Int := -(k : Int) - e2 / 2 - 1
  let lsb := max (ex + bitLen mant - 24) (-149)
  if lsb ≤ ex then .fin false mant ex
  else
    let d := (lsb - ex).toNat
    let fl := mant >>> d
    if mant % 2 ^ d = 0 then .fin false fl lsb else .fin false (if up then fl + 1 else fl) lsb

/-- exp of a finite number other than 0, to the FP32 neighbour below or above the exact value (R112). -/
def expMag (up : Bool) (neg : Bool) (m : Nat) (e : Int) : Num :=
  let d : Int := if up then 1 else 0
  if 9 < e + bitLen m then (if neg then nearIrr d 1 (-600) else .inf false)
  else let t := fixExp (toFix neg m e); nearIrr d t.1 t.2

/-- log of a positive number other than 1, to one of its two FP32 neighbours (R112). -/
def logMag (up : Bool) (m : Nat) (e : Int) : Num := nearIrr (if up then 1 else 0) (fixLog m e) (-fixBits)

/-- sin (4) or cos (5) of a finite number other than 0: within 2 ULP up to 2^15, which four FP32 numbers are, and open beyond (R112). -/
def trigMag (f : Nat) (a : W32) (neg : Bool) (m : Nat) (e : Int) : W32 :=
  if magGt m e 1 15 then Config.vsfu f 0 a
  else
    let x := toFix neg m e
    numToFp32 0 (nearIrr ((Config.vsfuOff f a % 4 : Nat) - 1 : Int) (if f = 4 then fixSin x else fixCos x) (-fixBits))

/-- VSFU on FP32: IEEE 754's special results (R113), and elsewhere one of the FP32 numbers that R112's bound allows. -/
def sfuFp32 (f : Nat) (a : W32) : W32 :=
  match f, fp32ToNum a with
  | _, .nan => Config.vuNan (0x20 + f) a 0 0 ||| fp32Nan
  | 0, .inf n => if n then 0 else 0x7F800000
  | 0, .fin _ 0 _ => 0x3F800000
  | 0, .fin n m e => numToFp32 0 (expMag (Config.vsfuUp 0 a) n m e)
  | 1, .inf n => if n then Config.vuNan 0x21 a 0 0 ||| fp32Nan else 0x7F800000
  | 1, .fin n m e => if m = 0 then 0xFF800000 else if n then Config.vuNan 0x21 a 0 0 ||| fp32Nan
      else if a = 0x3F800000 then 0 else numToFp32 0 (logMag (Config.vsfuUp 1 a) m e)
  | 2, .inf n => if n then Config.vuNan 0x22 a 0 0 ||| fp32Nan else 0
  | 2, .fin n m e => if m = 0 then ieeeInf fmtFp32 32 n else if n then Config.vuNan 0x22 a 0 0 ||| fp32Nan
      else numToFp32 0 (rsqrtMag (Config.vsfuUp 2 a) m e)
  | 3, .inf n => if n then 0x80000000 else 0
  | 3, .fin n m e => if m = 0 then ieeeInf fmtFp32 32 n else numToFp32 0 (divMag (Config.vsfuUp 3 a) n 1 0 m e)
  | 4, .inf _ => Config.vuNan 0x24 a 0 0 ||| fp32Nan
  | 4, .fin _ 0 _ => a
  | 5, .inf _ => Config.vuNan 0x25 a 0 0 ||| fp32Nan
  | 5, .fin _ 0 _ => 0x3F800000
  | g, .fin n m e => trigMag g a n m e
  | g, _ => Config.vsfu g 0 a

/-- VSFU on a BF16 value: the function's FP32 result, rounded to BF16 (R72, R113). DEDUCED, log 109. -/
def sfuBf16 (f : Nat) (h : BitVec 16) : BitVec 16 :=
  let r := sfuFp32 f (h ++ 0#16)
  numToBf16 (hi16 r) (fp32ToNum r)

/-- VSFU on a lane of a type; an INT32 input has no stated result. -/
def laneSfu (t : VType) (f : Nat) (a : W32) : W32 :=
  match t with
  | .fp32 => sfuFp32 f a
  | .bf16 => bf16Both (fun x _ _ => sfuBf16 f x) a 0 0
  | .int32 => Config.vsfu f 2 a

/-- One level of the pairwise tree: lane 2i with lane 2i + 1 (R114). -/
def pairUp (f : W32 → W32 → W32) : List W32 → List W32
  | a :: b :: r => f a b :: pairUp f r
  | r => r

/-- The pairwise tree over a group's lanes, in eight levels (R114). -/
def treeRed (f : W32 → W32 → W32) (l : List W32) : W32 :=
  ((pairUp f (pairUp f (pairUp f (pairUp f (pairUp f (pairUp f (pairUp f (pairUp f l)))))))).head?).getD 0

/-- The combination of VRED and VREDX: sum, maximum, minimum (SFN 0, 1, 2). Of BF16 lanes the low halves and the high halves are reduced
apart. DESIGN CHOICE, log 111. -/
def redOp (t : VType) (f : Nat) : W32 → W32 → W32 :=
  match f with
  | 0 => laneAdd t
  | 1 => laneMax t
  | _ => laneMin t

/-- VREDX: the groups' tree results combined in ascending group order. -/
def redAll (f : W32 → W32 → W32) (rows : List (List W32)) : W32 :=
  match rows.map (treeRed f) with
  | [] => 0
  | r :: rs => rs.foldl f r

/-- Lane groups of n lanes of a list. -/
def chunks {α : Type} (n : Nat) : Nat → List α → List (List α)
  | 0, _ => []
  | k + 1, l => l.take n :: chunks n k (l.drop n)

/-- VQMX on one row of 256 lanes: 8 blocks of 32 (R77, R78); bits [23:8] of a lane are not stated. -/
def rowQmx (f : MxFmt) (mode : Nat) (sat : Bool) (old va vb : List W32) : List W32 :=
  let rule (u : W32) : Rounding := match mode with
    | 0 => .rne
    | 1 => .rtz
    | _ => .sr 8 (u.toNat % 256)
  let trip := (va.zip vb).zip old
  ((chunks 32 8 trip).map fun blk =>
    let (sc, cs) := mxQuantBlock f sat (blk.map fun p => (rule p.1.2, fp32ToNum p.1.1))
    (blk.zip cs).map fun (p, c) =>
      let rest := Config.laneRest 0x0B p.2 p.1.1
      sc ++ rest.extractLsb' 8 16 ++ BitVec.ofNat 8 c).flatten

/-- Applies a lane function to three rows. -/
def zip3 (f : W32 → W32 → W32 → W32) (a b c : List W32) : List W32 :=
  ((a.zip b).zip c).map fun p => f p.1.1 p.1.2 p.2

/-- The row a lane-by-lane opcode gives from the rows of VA, VB, VC and the old VD; none for the other opcodes. -/
def rowOp (t : VType) (op sfn : Nat) (old a b c : List W32) : Option (List W32) :=
  match op with
  | 0x01 => some (zip3 (fun x y _ => laneAdd t x y) a b c)
  | 0x02 => some (zip3 (fun x y _ => laneSub t x y) a b c)
  | 0x03 => some (zip3 (fun x y _ => laneMul t x y) a b c)
  | 0x04 => some (zip3 (laneFma t) a b c)
  | 0x05 => some (zip3 (fun x y _ => laneMax t x y) a b c)
  | 0x06 => some (zip3 (fun x y _ => laneMin t x y) a b c)
  | 0x07 => some (a.map (laneAbs t))
  | 0x08 => some (zip3 (laneSel t) a b c)
  | 0x09 => some (zip3 (fun x y _ => laneCmp t (sfn % 4) x y) a b c)
  | 0x0A => some ((a.zip old).map fun p => laneCvt sfn p.2 p.1)
  | 0x0B => match Fmt.ofCode (BitVec.ofNat 4 (sfn % 16)) with
    | some (.mx f) => some (rowQmx f (sfn / 16 % 4) (sfn / 64 % 2 = 1) old a b)
    | _ => none
  | 0x0C => some (a.map (laneSfu t sfn))
  | _ => none

/-- The latency of each vector opcode (Table 3.6). -/
def vcLatency (op : Nat) : Nat :=
  match op with
  | 0x0B => 8 | 0x0C => 12 | 0x0D => 12 | 0x0E => 24 | 0x10 => 8 | 0x11 => 8 | 0x12 => 16 | 0x14 => 12
  | 0x18 => 6 | 0x19 => 6 | _ => 4

/-- The vector opcodes of Table 3.6. -/
def vcOpKnown (op : Nat) : Bool :=
  op ≤ 0x0E || op = 0x10 || op = 0x11 || op = 0x12 || op = 0x14 || op = 0x18 || op = 0x19 || op = 0x1C

end Sys2Proof.Machine
end

