-- ==== Sys2Proof/Machine/Rng.lean ====
section
/-! DEFINITION. Machine/Rng.lean: the counter-based generator and the VRNG kinds (chapter 7). -/

namespace Sys2Proof.Machine

/-- One Philox round on the counter words (R301). -/
def philoxRound (c : W32 × W32 × W32 × W32) (k0 k1 : W32) : W32 × W32 × W32 × W32 :=
  let (c0, c1, c2, c3) := c
  let p0 : W64 := (0xD2511F53 : W64) * c0.setWidth 64
  let p1 : W64 := (0xCD9E8D57 : W64) * c2.setWidth 64
  (p1.extractLsb' 32 32 ^^^ c1 ^^^ k0, p1.extractLsb' 0 32, p0.extractLsb' 32 32 ^^^ c3 ^^^ k1, p0.extractLsb' 0 32)

/-- n rounds; the key grows before every round but the first (R301). -/
def philoxGo : Nat → W32 × W32 × W32 × W32 → W32 → W32 → W32 × W32 × W32 × W32
  | 0, c, _, _ => c
  | n + 1, c, k0, k1 => philoxGo n (philoxRound c k0 k1) (k0 + 0x9E3779B9) (k1 + 0xBB67AE85)

/-- Philox4x32-10: W0 in the low word (R301). -/
def philox (c : BitVec 128) (k : W64) : BitVec 128 :=
  let (w0, w1, w2, w3) := philoxGo 10
    (c.extractLsb' 0 32, c.extractLsb' 32 32, c.extractLsb' 64 32, c.extractLsb' 96 32)
    (k.extractLsb' 0 32) (k.extractLsb' 32 32)
  w3 ++ w2 ++ w1 ++ w0

/-- The room key (R302). -/
def rngKey (seed salt : W64) : W64 := seed ^^^ salt

/-- The counter of a draw (Table 7.1, R303). -/
def drawCounter (index : W64) (purpose : Byte) (byteKind : Bool) (gen : BitVec 16) : BitVec 128 :=
  let idx := if byteKind then index &&& ~~~0xF else index &&& ~~~0x3
  0#24 ++ gen ++ 0#15 ++ BitVec.ofBool byteKind ++ purpose ++ idx

/-- The 32-bit word an index takes (R304). -/
def drawWord (key index : W64) (purpose : Byte) (gen : BitVec 16) : W32 :=
  (philox (drawCounter index purpose false gen) key).extractLsb' (32 * (index.toNat % 4)) 32

/-- The byte an index takes (R304). -/
def drawByte (key index : W64) (purpose : Byte) (gen : BitVec 16) : Byte :=
  (philox (drawCounter index purpose true gen) key).extractLsb' (8 * (index.toNat % 16)) 8

/-- The BERN byte of the HX1 sequence (R310). -/
def drawByteH1 (seed index : W64) (purpose : Byte) : Byte :=
  (philox (purpose ++ 0#56 ++ (index &&& ~~~0xF)) seed).extractLsb' (8 * (15 - index.toNat % 16)) 8

/-- The uniform integer of the array's stochastic rounding: r bits of an index (R81, R82). -/
def srDraw (key : W64) (r : Nat) (index : W64) : Nat :=
  if r = 8 then (drawByte key index 0x10 0).toNat else (drawWord key index 0x10 0).toNat

/-- n times 2^-24 in FP32, for n at most 2^24. -/
def fp32Of24 (n : Nat) : W32 := if n = 0 then 0 else numToFp32 0 (.fin false n (-24))

/-- NORM32 from the pair's words (R308). -/
def norm32 (wa wb : W32) (odd : Bool) : W32 :=
  let u1 := fp32Of24 ((wa >>> 8).toNat + 1)
  let u2 := fp32Of24 (wb >>> 8).toNat
  let t := fp32Mul 0xC0000000 (sfuFp32 1 u1)
  let r := if fp32Eq t 0 then 0 else fp32Mul t (sfuFp32 2 t)
  let a := fp32Mul u2 0x40C90FDB
  fp32Mul r (if odd then sfuFp32 4 a else sfuFp32 5 a)

/-- NORM8 from a word (R309). -/
def norm8 (w : W32) : W32 :=
  let i := (w >>> 20).toNat
  let n := (w.extractLsb' 8 12).toNat
  let f : W32 := if n = 0 then 0 else numToFp32 0 (.fin false n (-12))
  if i = 4095 then normTable 4095
  else fp32Fma f (fp32Sub (normTable (i + 1)) (normTable i)) (normTable i)

/-- The TYPE a VRNG kind requires (Table 7.3); none for a kind of 6 or above. -/
def vrngType (kind : Nat) : Option Nat :=
  match kind with
  | 0 | 1 | 5 => some 2
  | 2 | 3 | 4 => some 0
  | _ => none

/-- Whether a kind draws bytes (Table 7.3). -/
def vrngByte (kind : Nat) : Bool := kind = 1 || kind = 5

/-- The kind of a VRNG slot (R306). -/
def vrngKind (s : BitVec 96) : Nat := vcImm s % 16

/-- Whether a VRNG slot is legal: purpose, IMM22, kind and TYPE, and in STATE mode the generator (R306, R307, R312). -/
def vrngLegal (s : BitVec 96) (state : Bool) (ngen gen : Nat) : Bool :=
  (vcSFN s < 0x10 || 0x40 ≤ vcSFN s) && vcImm s / 16 = 0 && vrngType (vrngKind s) == some (vcType s) &&
  (!state || gen < ngen)

/-- One lane of a VRNG slot (R304, R306 to R310). -/
def vrngLane (seed salt : W64) (h1 : Bool) (kind : Nat) (purpose : Byte) (gen : BitVec 16) (index : W64) (p : Byte) : W32 :=
  let key := rngKey seed salt
  match kind with
  | 0 => drawWord key index purpose gen
  | 1 => (drawByte key index purpose gen).setWidth 32
  | 2 => fp32Of24 (drawWord key index purpose gen >>> 8).toNat
  | 3 =>
    let d := philox (drawCounter index purpose false gen) key
    let base := 64 * (index.toNat % 4 / 2)
    norm32 (d.extractLsb' base 32) (d.extractLsb' (base + 32) 32) (index.toNat % 2 = 1)
  | 4 => norm8 (drawWord key index purpose gen)
  | _ =>
    let b := if h1 then drawByteH1 seed index purpose else drawByte key index purpose gen
    if b < p then 1 else 0

/-- The indexes of a VRNG slot's lanes, group k of the slot counted from 0 (R306, R312). -/
def vrngIndex (state : Bool) (ctr : W64) (k i : Nat) (va vb : W32) : W64 :=
  if state then ctr + BitVec.ofNat 64 (256 * k + i) else vb ++ va

end Sys2Proof.Machine
end

