-- ==== Sys2Proof/Machine/Sampling.lean ====
section
/-! DEFINITION. Machine/Sampling.lean: the sampling unit's token choice and records (R115, R273 to R281, R289). -/

namespace Sys2Proof.Machine

/-- FP32 minus infinity, plus infinity and NaN as the sampling unit uses them. -/
def negInf : W32 := 0xFF800000
def posInf : W32 := 0x7F800000

/-- The header of a parameter block (Table 6.10). -/
structure SmpHeader where
  v : Nat
  bf16 : Bool
  h1tie : Bool
  rsv : Bool
  lstride : Nat
  out : Nat
  ns : Nat
  deriving DecidableEq, Repr

def readSmpHeader (ws : Memory) (a : Nat) : SmpHeader :=
  let w := readLe ws a 64
  { v := bitsOf w 0 19, bf16 := bitsOf w 19 1 = 1, h1tie := bitsOf w 20 1 = 1,
    rsv := bitsOf w 21 11 ≠ 0 || bitsOf w 160 352 ≠ 0,
    lstride := bitsOf w 32 32, out := bitsOf w 64 64, ns := bitsOf w 128 32 }

/-- An entry of a parameter block (Table 6.11). -/
structure SmpEntry where
  handle : W32
  pos : W32
  wgen : W32
  temp : W32
  topP : W32
  topK : Nat
  seed : W32
  row : BitVec 16
  deriving DecidableEq, Repr

def readSmpEntry (ws : Memory) (a i : Nat) : SmpEntry :=
  let w := readLe ws (a + 64 + 32 * i) 32
  let f (lo : Nat) : W32 := BitVec.ofNat 32 (bitsOf w lo 32)
  { handle := f 0, pos := f 32, wgen := f 64, temp := f 96, topP := f 128, topK := bitsOf w 160 11, seed := f 192,
    row := BitVec.ofNat 16 (bitsOf w 224 16) }

/-- One logit: FP32, or BF16 widened (R273). -/
def readLogit (ws : Memory) (h : SmpHeader) (base i : Nat) : W32 :=
  if h.bf16 then BitVec.ofNat 32 (readLe ws (base + 2 * i) 2 * 65536)
  else BitVec.ofNat 32 (readLe ws (base + 4 * i) 4)

/-- A value with NaN counted as minus infinity (R275, R281). -/
def nanToNegInf (x : W32) : W32 := if (fp32ToNum x).isNan then negInf else x

def isNanW (x : W32) : Bool := (fp32ToNum x).isNan

/-- exp, log and reciprocal of R112. -/
def fexp (x : W32) : W32 := sfuFp32 0 x
def flog (x : W32) : W32 := sfuFp32 1 x
def frecip (x : W32) : W32 := sfuFp32 3 x

/-- One cycle's 256 values entered into a running pair (R275). -/
def pairStep (ms : W32 × W32) (vals : List W32) : W32 × W32 :=
  let (m, s) := ms
  let row := vals ++ List.replicate (256 - vals.length) negInf
  let mc := treeRed fp32Max row
  if mc = negInf then ms
  else
    let sc := treeRed fp32Add (row.map fun x => fexp (fp32Sub x mc))
    if fp32Lt m mc then (mc, fp32Add (fp32Mul s (fexp (fp32Sub m mc))) sc)
    else (m, fp32Add s (fp32Mul sc (fexp (fp32Sub mc m))))

/-- A running pair over all values, 256 a cycle, ascending (R275). -/
def runPair (vals : List W32) : W32 × W32 :=
  (chunks 256 (cdiv vals.length 256) vals).foldl pairStep (negInf, 0)

/-- Candidate order: descending value, equal values by token index (R276). -/
def candBefore (h1 : Bool) (a b : Nat × W32) : Bool :=
  fp32Lt b.2 a.2 || (!fp32Lt a.2 b.2 && (if h1 then b.1 < a.1 else a.1 < b.1))

def candInsert (h1 : Bool) (a : Nat × W32) : List (Nat × W32) → List (Nat × W32)
  | [] => [a]
  | b :: r => if candBefore h1 a b then a :: b :: r else b :: candInsert h1 a r

/-- All tokens in candidate order (R276). -/
def candOrder (h1 : Bool) (zs : List W32) : List (Nat × W32) :=
  ((List.range zs.length).zip zs).foldr (candInsert h1) []

/-- The shortest prefix whose running FP32 sum of q reaches the target; all of the list when none does (R277). -/
def prefixReach (target : W32) : W32 → List W32 → Nat
  | _, [] => 0
  | run, q :: r =>
    let run' := fp32Add run q
    if !fp32Lt run' target then 1 else 1 + prefixReach target run' r

/-- The first index whose running sum exceeds t, or the last (R278). -/
def pickFirst (t : W32) : W32 → List W32 → Nat
  | _, [] => 0
  | _, [_] => 0
  | run, q :: r =>
    let run' := fp32Add run q
    if fp32Lt t run' then 0 else 1 + pickFirst t run' r

/-- FP32 sum in list order. -/
def sumInOrder (l : List W32) : W32 := l.foldl fp32Add 0

/-- A token record as the sampling unit writes it (Table 6.14); STATUS, STOP and BFLAGS are Ballutos's. -/
structure TokRec where
  handle : W32
  pos : W32
  token : W32
  wgen : W32
  logp : W32
  logpRaw : W32
  ncand : Nat
  greedy : Bool := false
  tie : Bool := false
  nonfinite : Bool := false
  infl : Bool := false
  trunc : Bool := false
  status : BitVec 16 := 0
  stop : Nat := 0
  first : Bool := false
  last : Bool := false
  spec : Bool := false
  deriving DecidableEq, Repr

def b2n (b : Bool) : Nat := if b then 1 else 0

/-- The 32 bytes of a record (Table 6.14). -/
def TokRec.bytes (r : TokRec) : List Byte :=
  leBytes 4 r.handle.toNat ++ leBytes 4 r.pos.toNat ++ leBytes 4 r.token.toNat ++ leBytes 4 r.wgen.toNat ++
  leBytes 4 r.logp.toNat ++ leBytes 4 r.logpRaw.toNat ++
  leBytes 2 (r.ncand % 2048 + 2048 * (b2n r.greedy + 2 * b2n r.tie + 4 * b2n r.nonfinite + 8 * b2n r.infl + 16 * b2n r.trunc)) ++
  leBytes 2 r.status.toNat ++ leBytes 1 r.stop ++ leBytes 1 (b2n r.first + 2 * b2n r.last + 4 * b2n r.spec) ++ [0, 0]

/-- A record read back from 32 bytes of WS. -/
def readRec (ws : Memory) (a : Nat) : TokRec :=
  let w := readLe ws a 32
  let f (lo : Nat) : W32 := BitVec.ofNat 32 (bitsOf w lo 32)
  let b (i : Nat) : Bool := bitsOf w i 1 = 1
  { handle := f 0, pos := f 32, token := f 64, wgen := f 96, logp := f 128, logpRaw := f 160, ncand := bitsOf w 192 11,
    greedy := b 203, tie := b 204, nonfinite := b 205, infl := b 206, trunc := b 207,
    status := BitVec.ofNat 16 (bitsOf w 208 16), stop := bitsOf w 224 8, first := b 232, last := b 233, spec := b 234 }

/-- LOGP_RAW of the chosen token with raw logit x (R280, R281). -/
def logpRawOf (x : W32) (anyPosInf : Bool) (mr sr : W32) : W32 :=
  if x = posInf then 0
  else if anyPosInf then negInf
  else fp32Sub (fp32Sub x mr) (flog sr)

/-- One row's record (R275 to R281). -/
def sampleRow (key : W64) (h : SmpHeader) (e : SmpEntry) (logits : List W32) : TokRec :=
  let xs := logits.map nanToNegInf
  let nanX := logits.any isNanW
  let greedy := e.temp = 0 || e.temp = 0x80000000
  let r := frecip e.temp
  let zRaw := xs.map fun x => fp32Mul x r
  let zs := if greedy then xs else zRaw.map nanToNegInf
  let nonfin := nanX || (!greedy && zRaw.any isNanW)
  let (mr, sr) := runPair xs
  let (m, s) := runPair zs
  let order := candOrder h.h1tie zs
  let k := if e.topK = 0 then 1024 else e.topK
  let c := order.take k
  let trunc := e.topK = 0 && h.v > 1024
  let anyRawInf := xs.any (· == posInf)
  let base : TokRec :=
    { handle := e.handle, pos := e.pos, token := 0xFFFFFFFF, wgen := e.wgen, logp := 0, logpRaw := 0, ncand := 0,
      greedy := greedy, nonfinite := nonfin, trunc := trunc }
  if zs.all (· == negInf) then
    { base with logp := fp32Nan, logpRaw := fp32Nan, nonfinite := true }
  else
    let top := c.headD (0, negInf)
    let xOf (t : Nat) : W32 := xs.getD t negInf
    let tieAfter (n : Nat) : Bool :=
      -- adjacent members among the first n, or the last of them with its follower, of equal value
      (List.range n).any fun i =>
        match order[i]?, order[i + 1]? with
        | some a, some b => fp32Eq a.2 b.2 || (a.2 == b.2)
        | _, _ => false
    if top.2 = posInf then
      { base with token := BitVec.ofNat 32 top.1, ncand := 1, infl := true, tie := tieAfter 1,
                  logpRaw := logpRawOf (xOf top.1) anyRawInf mr sr }
    else if greedy then
      { base with token := BitVec.ofNat 32 top.1, ncand := 1, tie := tieAfter 1,
                  logpRaw := logpRawOf (xOf top.1) anyRawInf mr sr }
    else
      let q := c.map fun p => fexp (fp32Sub p.2 m)
      let n := if e.topP = 0x3F800000 then c.length else prefixReach (fp32Mul e.topP s) 0 q
      let f := c.take n
      let qf := q.take n
      let sF := sumInOrder qf
      let u := drawWord key (e.seed ++ e.pos) 0x20 0
      let t := fp32Mul (fp32Of24 (u >>> 8).toNat) sF
      let ch := f.getD (pickFirst t 0 qf) top
      { base with
        token := BitVec.ofNat 32 ch.1, ncand := n, tie := tieAfter n,
        logp := if n = 1 then 0 else fp32Sub (fp32Sub ch.2 m) (flog sF),
        logpRaw := logpRawOf (xOf ch.1) anyRawInf mr sr }

/-- Cycles from issue to the unit's token (R115). -/
def smpCycles (rows v : Nat) : Nat := 64 + rows * (cdiv v 256 + 96)

/-- Whether a VSMP's parameters are legal (R274). -/
def smpLegal (h : SmpHeader) (rows : Nat) : Bool := rows ≤ h.ns && 1 ≤ h.v && h.v ≤ 262144 && !h.rsv

/-- The records of all rows (R273): row i's logits at base + 64 × LSTRIDE × i. -/
def sampleAll (key : W64) (ws : Memory) (block base rows : Nat) : List TokRec :=
  let h := readSmpHeader ws block
  (List.range rows).map fun i =>
    let e := readSmpEntry ws block i
    sampleRow key h e ((List.range h.v).map fun j => readLogit ws h (base + 64 * h.lstride * i) j)

end Sys2Proof.Machine
end

