-- ==== Sys2Proof/Machine/Streams.lean ====
section
/-! DEFINITION. Machine/Streams.lean: budgets, stream contexts, KV regions, request areas, token records, rings and stream ends (chapters 5, 6, 8). -/

namespace Sys2Proof.Machine

/-! ## Budgets (R266 to R271) -/

def budgetOf (x : Channel) (c : Nat) : Budget := tget {} x.budgets c
def modBudget (x : Channel) (c : Nat) (f : Budget → Budget) : Channel := { x with budgets := tmod {} x.budgets c f }

/-- Refill before a check (R266). -/
def refill (x : Channel) (c : Nat) : Channel :=
  modBudget x c fun b =>
    let acc := (b.reg.rate.toNat * (nowUs x - b.lastUs) + b.rem) % 2 ^ 64
    { reg := { b.reg with level := BitVec.ofNat 48 (min b.reg.burst.toNat (b.reg.level.toNat + acc / 1000)) },
      rem := acc % 1000, lastUs := nowUs x }

def levelOf (x : Channel) (c : Nat) : Nat := (budgetOf x c).reg.level.toNat
/-- A debit, once a check has succeeded (R267). -/
def debit (x : Channel) (c cost : Nat) : Channel :=
  modBudget x c fun b => { b with reg := { b.reg with level := BitVec.ofNat 48 (b.reg.level.toNat - cost) } }
/-- Returned credits, clamped to BURST (R269). -/
def credit (x : Channel) (c amount : Nat) : Channel :=
  modBudget x c fun b => { b with reg := { b.reg with level := BitVec.ofNat 48 (min b.reg.burst.toNat (b.reg.level.toNat + amount)) } }

/-! ## Stream contexts (R258, R259) -/

/-- A context: its channel and index. -/
abbrev SRef := Ch × Nat

def ctxOf (x : Channel) (i : Nat) : StreamCtx := tget {} x.ctxs i
def modCtxC (x : Channel) (i : Nat) (f : StreamCtx → StreamCtx) : Channel := { x with ctxs := tmod {} x.ctxs i f }
def strm (d : Device) (r : SRef) : StreamCtx := ctxOf (chanOf d r.1) r.2
def modStrm (d : Device) (r : SRef) (f : StreamCtx → StreamCtx) : Device := modChan d r.1 fun x => modCtxC x r.2 f

/-- The streams of a room, in the order of handle bits [17:0]. -/
def roomStreams (d : Device) (s : Ch) (n : Nat) : List SRef :=
  (suiteChans d s).flatMap fun c =>
    ((chanOf d c).ctxs.filter fun e => e.2.state != .free && e.2.room == n).map fun e => (c, e.1)

/-- A handle (R258). -/
def handleOf (gen : Nat) (r : SRef) : W32 := BitVec.ofNat 32 (gen * 2 ^ 18 + r.1.num * 2 ^ 16 + r.2)
def genOf (h : W32) : Nat := h.toNat / 2 ^ 18
/-- The generation after a context is freed: 0 to 0x3FFE. -/
def nextGen (g : Nat) : Nat := if g = 0x3FFE then 0 else g + 1
def refOfHandle (h : W32) : SRef := (Ch.ofNum (h.toNat / 2 ^ 16 % 4), h.toNat % 2 ^ 16)

/-- PENDING, ACTIVE and SLOTS_USED follow the contexts (Tables 6.15, 5.10). -/
def showStreams (d : Device) (s : Ch) (n : Nat) : Device :=
  let l := (roomStreams d s n).map (strm d)
  let held := (l.filter fun c => c.slot.isSome).length
  let pend := (l.filter fun c => c.state == .pending).length
  modLeadRoom d s n fun r => { r with
    srv := { r.srv with pending := BitVec.ofNat 32 pend, active := BitVec.ofNat 32 held },
    kv := { r.kv with slotsUsed := BitVec.ofNat 32 held } }

/-! ## Request areas (R260) -/

def maxLen (r : Room) : Nat := r.kv.maxlen.toNat * 128
def areaPages (r : Room) : Nat := cdiv (2048 + 4 * maxLen r) pageBytes
def areaBase (r : Room) (i : Nat) : Nat := r.srv.histBase.toNat + i * areaPages r * pageBytes
/-- The request header of a stream. -/
def reqHdr (d : Device) (n : Nat) (q : SRef) : Nat := readRoomLe (chanOf d q.1) n (strm d q).area 128
def reqPrompt (h : Nat) : Nat := bitsOf h 96 32
def reqNseq (h : Nat) : Nat := bitsOf h 240 3
def reqRetNode (h : Nat) : BitVec 18 := BitVec.ofNat 18 (bitsOf h 288 18)
def reqRetQueue (h : Nat) : W32 := BitVec.ofNat 32 (bitsOf h 320 32)
/-- The token at a position of the history. -/
def histTok (d : Device) (n : Nat) (q : SRef) (p : Nat) : Nat := readRoomLe (chanOf d q.1) n ((strm d q).area + 2048 + 4 * p) 4
/-- A write of Ballutos to a room's own pages for its streams: they are allocated as they are first written (R260, R455). A page that the account
cannot take leaves the room short, and it ends at its boundary. DESIGN CHOICE, log 134. -/
def writeOwn (d : Device) (c : Ch) (n a : Nat) (bs : List Byte) : Device :=
  match writeAlloc d c n a bs 0 with
  | some d1 => d1
  | none => modRoom d c n fun r => { r with serve := { r.serve with short := true } }

/-- Writes into a request area. -/
def writeArea (d : Device) (n : Nat) (q : SRef) (off : Nat) (bs : List Byte) : Device := writeOwn d q.1 n ((strm d q).area + off) bs

/-- A context as its 64 bytes in the controllers' 4 MiB of T1 hold it, at byte 64 i for index i (R259, Table 6.5). -/
def contextBits (c : StreamCtx) : BitVec 512 :=
  let f := fun (v at_ width : Nat) => v % 2 ^ width * 2 ^ at_
  BitVec.ofNat 512 (f c.handle.toNat 0 32 + f c.room 32 6 + f c.state.code.toNat 38 4 + f (b2n c.pin) 42 1 + f c.priority.toNat 48 8 +
    f c.customer.toNat 56 12 + f c.deliver.toNat 68 2 + f (c.slot.getD 0x1FFFF) 72 17 + f c.len 96 32 + f (c.recomp.getD 0xFFFFFFFF) 128 32 +
    f c.wgen.toNat 160 32 + f c.generated 192 32 + f c.maxNew 224 32 + f c.temp.toNat 256 32 + f c.topP.toNat 288 32 + f c.topK 320 11 +
    f c.seed.toNat 336 32 + f c.reqTag.toNat 368 32 + f c.lastStep.toNat 400 32 + f (c.pinDl.getD 0) 432 16 + f (c.holdDl.getD 0) 448 16 +
    f c.area 464 48)

/-! ## KV regions (R213 to R218) -/

/-- Regions of one stream: L × G. -/
def kvRegions (k : KvRoom) : Nat := k.layers.toNat * k.g.toNat
/-- Bytes of one position of one head group, keys alone, times two for MXFP4 (R213): Hg × D × e × 2. -/
def kvRow2 (k : KvRoom) : Nat := k.hg.toNat * (32 * k.db.toNat) * (if k.cls = 2 then 1 else 2)
/-- Positions of a KV page (R214). -/
def kvP (k : KvRoom) : Nat := 32 * (65536 / (32 * kvRow2 k))
def kvRP (k : KvRoom) : Nat := cdiv (k.maxlen.toNat * 128) (kvP k)
/-- Strip bytes of one position (R216). -/
def stripRow (k : KvRoom) : Nat := k.hg.toNat * k.db.toNat
def kvRS (k : KvRoom) : Nat := cdiv (k.maxlen.toNat * 128 * stripRow k) pageBytes
/-- Pages of one column of a slot, in all its regions (R218). -/
def colPages (k : KvRoom) (slot col : Nat) : List Nat :=
  (List.range (kvRegions k)).map fun j => k.kvBase.toNat / pageBytes + (slot * kvRegions k + j) * kvRP k + col
def stripPages (k : KvRoom) (slot i : Nat) : List Nat :=
  (List.range (kvRegions k)).map fun j => k.kvsBase.toNat / pageBytes + (slot * kvRegions k + j) * kvRS k + i
/-- The page columns, and the strip pages, that positions a to b − 1 need. -/
def colsFor (k : KvRoom) (a b : Nat) : List Nat :=
  if b ≤ a then [] else (List.range ((b - 1) / kvP k - a / kvP k + 1)).map (a / kvP k + ·)
def stripsFor (k : KvRoom) (a b : Nat) : List Nat :=
  if b ≤ a then [] else
    (List.range ((b * stripRow k - 1) / pageBytes - a * stripRow k / pageBytes + 1)).map (a * stripRow k / pageBytes + ·)

def hasPage (x : Channel) (n p : Nat) : Bool := (tget {} (roomOf x n).pages p).valid

/-- Pages of a list go on every channel of the suite, and KV_ROOM_n.PAGES follows. -/
def freeKv (d : Device) (s : Ch) (n : Nat) (pages : List Nat) : Device :=
  modChans d (suiteChans d s) fun _ x =>
    let held := (pages.filter (hasPage x n)).length
    modRoomC (freeRoomPages x n pages) n fun r => { r with kv := { r.kv with pages := r.kv.pages - BitVec.ofNat 32 held } }

/-- A stream gives up page columns and strip pages (R242). -/
def dropKv (d : Device) (s : Ch) (n : Nat) (q : SRef) (cols strips : List Nat) : Device :=
  let c := strm d q
  let k := (leadRoom d s n).kv
  match c.slot with
  | none => d
  | some sl =>
    let pages := cols.flatMap (colPages k sl) ++ strips.flatMap (stripPages k sl)
    modStrm (freeKv d s n pages) q fun c => { c with
      cols := c.cols.filter (fun a => !cols.contains a), strips := c.strips.filter fun a => !strips.contains a }

/-- Staging slots of a KV slot are given up (R243). -/
def dropStaging (d : Device) (s : Ch) (n sl : Nat) : Device :=
  let m := 2 * kvRegions (leadRoom d s n).kv
  modChans d (suiteChans d s) fun _ x => modRoomC x n fun r =>
    { r with staging := r.staging.filter fun g => g.key < sl * m || (sl + 1) * m ≤ g.key }

/-! ## Adapter references (R332) -/

def adpOf (x : Channel) (k : Nat) : AdpEntry := tget {} x.slots k
def modAdp (x : Channel) (k : Nat) (f : AdpEntry → AdpEntry) : Channel := { x with slots := tmod {} x.slots k f }
def modAdps (d : Device) (s : Ch) (k : Nat) (f : AdpEntry → AdpEntry) : Device := modChans d (suiteChans d s) fun _ x => modAdp x k f
def bindUp (d : Device) (s : Ch) (b : Bind) : Device :=
  match b with
  | .slot k => modAdps d s k fun e => { e with reg := { e.reg with refs := e.reg.refs + 1 } }
  | _ => d
def bindDown (d : Device) (s : Ch) (b : Bind) : Device :=
  match b with
  | .slot k => modAdps d s k fun e => { e with reg := { e.reg with refs := e.reg.refs - 1 } }
  | _ => d

/-! ## Records (R285 to R294) -/

def tbPages (r : Room) : Nat := cdiv (32 * maxLen r) pageBytes
def tbBase (r : Room) (i : Nat) : Nat := r.cfg.tbBase.toNat + i * tbPages r * pageBytes

def minW (a b : W32) : W32 := if a < b then a else b
def maxW (a b : W32) : W32 := if a < b then b else a

/-- Queues a record for its destination (R291, R294, R455), and counts it. -/
def queueRec (d : Device) (s : Ch) (n : Nat) (q : SRef) (r : TokRec) : Device :=
  let c := strm d q
  let rec' := { r with first := c.firstDue }
  let d0 := modStrm d q fun c => { c with
    firstDue := false, recompNext := if r.status = Status.kvRecompute.code then false else c.recompNext,
    generated := if r.token = 0xFFFFFFFF then c.generated else c.generated + 1,
    nrec := c.nrec + 1, stepRecs := c.stepRecs + 1, stop := if r.last then r.stop else c.stop,
    wgenFirst := if c.nrec = 0 then r.wgen else minW c.wgenFirst r.wgen, wgenLast := maxW c.wgenLast r.wgen }
  let d1 := if r.token = 0xFFFFFFFF then d0 else
    modLeadRoom d0 s n fun m => { m with acct := { m.acct with tokOut := m.acct.tokOut + 1 } }
  match c.deliver.toNat with
  | 0 => modLeadRoom d1 s n fun m => { m with serve := { m.serve with owed := m.serve.owed ++ [(q.1.num, q.2, rec'.bytes)] } }
  | 1 =>
    let h := reqHdr d n q
    modLeadRoom d1 s n fun m =>
      { m with serve := { m.serve with toFabric := m.serve.toFabric ++ [(reqRetNode h, reqRetQueue h, rec'.bytes)] } }
  | _ => writeOwn d1 q.1 n (tbBase (leadRoom d s n) q.2 + 32 * c.nrec) rec'.bytes

/-- Records of one step for one node and queue go in messages of up to 128 records (R497). -/
def flushFabric (d : Device) (s : Ch) (n : Nat) : Device :=
  let out := (leadRoom d s n).serve.toFabric
  let d1 := modLeadRoom d s n fun m => { m with serve := { m.serve with toFabric := [] } }
  let dests := (out.map fun o => (o.1, o.2.1)).eraseDups
  dests.foldl (fun d t =>
    let recs := (out.filter fun o => (o.1, o.2.1) == t).map (·.2.2)
    (List.range (cdiv recs.length 128)).foldl (fun d i =>
      sendMsg d (leadOf d s) { node := t.1, queue := t.2, reply := 0, bytes := ((recs.drop (128 * i)).take 128).flatten }) d) d1

/-! ## Writes between two steps (R299, R351, R430) -/

/-- Writes a word of a register by its access codes (Table 0.10, R16). -/
def putWord {α : Type} (get : α → Nat → W64) (put : α → Nat → W64 → α) (w : RegWord) (k : Nat) (locked : Bool) (r : α) (v : W64) : α :=
  put r k (writtenWord (wordMask w) locked (get r k) v)

/-- A word of SRV_ROOM_n, ADP_ROOM_n or UPD_ROOM_n. -/
def stepWord (w : RegWord) (lk : Bool) (v : W64) (r : Room) : Room :=
  let srv := fun k => { r with srv := putWord getSrvRoom putSrvRoom w k lk r.srv v }
  let adp := fun k => { r with adp := putWord getAdpRoom putAdpRoom w k lk r.adp v }
  let upd := fun k => { r with upd := putWord getUpdRoom putUpdRoom w k lk r.upd v }
  match w with
  | .srvRoom0 => srv 0 | .srvRoom1 => srv 1 | .srvRoom2 => srv 2 | .srvRoom3 => srv 3 | .srvRoom4 => srv 4 | .srvRoom5 => srv 5
  | .srvRoom6 => srv 6
  | .adpRoom0 => adp 0 | .adpRoom1 => adp 1 | .adpRoom2 => adp 2 | .adpRoom3 => adp 3 | .adpRoom4 => adp 4 | .adpRoom5 => adp 5
  | .updRoom0 => upd 0 | .updRoom1 => upd 1 | .updRoom2 => upd 2 | .updRoom3 => upd 3 | .updRoom4 => upd 4 | .updRoom5 => upd 5
  | .updRoom6 => upd 6 | .updRoom7 => upd 7 | .updRoom8 => upd 8 | .updRoom9 => upd 9 | .updRoom10 => upd 10
  | _ => r

def isStepWord (w : RegWord) : Bool :=
  match w with
  | .srvRoom0 | .srvRoom1 | .srvRoom2 | .srvRoom3 | .srvRoom4 | .srvRoom5 | .srvRoom6
  | .adpRoom0 | .adpRoom1 | .adpRoom2 | .adpRoom3 | .adpRoom4 | .adpRoom5
  | .updRoom0 | .updRoom1 | .updRoom2 | .updRoom3 | .updRoom4 | .updRoom5 | .updRoom6 | .updRoom7 | .updRoom8 | .updRoom9
  | .updRoom10 => true
  | _ => false

/-- A step of the room is in progress: a training room's steps follow each other. -/
def inStep (r : Room) : Bool := if trains r then isStarted r else r.serve.inStep

/-- The step has ended: the writes that waited for it are made. -/
def takeLater (r : Room) : Room :=
  let r1 := r.later.foldl (fun r t => stepWord t.1 true t.2 r) r
  { r1 with later := [] }

/-! ## Rings (R291, R292, R751) -/

def ringRegion (w : BitVec 64) : Nat := bitsOf w.toNat 0 4
def ringEn (w : BitVec 64) : Bool := w.getLsbD 4
def ringSize (w : BitVec 64) : Nat := 2 ^ (min 20 (max 10 (bitsOf w.toNat 5 5)))
/-- The words of the ring as registers stand: word +0x28 and RING_BASE. -/
def ringWords (r : Room) : BitVec 64 × BitVec 64 :=
  (BitVec.ofNat 64 (r.srv.ringRegion.toNat + 16 * b2n r.srv.ringEn + 32 * r.srv.ringLog2.toNat), r.srv.ringBase)

/-- The ring in force is valid (R751). -/
def ringValid (d : Device) (s : Ch) (n : Nat) : Bool :=
  let r := leadRoom d s n
  let now := r.serve.ringNow.1
  let k := (regionOf (chanOf d (leadOf d s)) (ringRegion now)).kind
  ringEn now && (match r.owner with
    | some f => k == (if f.portB then 4 else 3)
    | none => false)

/-- The ring can be written now: valid, and the owner's port is up and may write (R688, R689). -/
def ringOpen (d : Device) (s : Ch) (n : Nat) : Bool :=
  ringValid d s n && (match (leadRoom d s n).owner with
    | some f => portUp d f.portB && mayDma (fnOf d f)
    | none => false)

/-- Writes the records that fit, in order, then the produce index, and counts them on the ring's vector (R291, R682). -/
def ringWrite (d : Device) (s : Ch) (n : Nat) : Device :=
  let r := leadRoom d s n
  let v := r.serve
  let size := ringSize v.ringNow.1
  let k := min v.owed.length (size - (v.ringProd - v.ringCons))
  if !ringOpen d s n || k = 0 then d else
  match r.owner with
  | none => d
  | some f =>
    let base := v.ringNow.2.toNat
    let reg := ringRegion v.ringNow.1
    let d1 := (List.range k).foldl (fun d i =>
      send d (.regionWrite f reg (base + 32 * ((v.ringProd + i) % size)) ((v.owed.getD i (0, 0, [])).2.2))) d
    let d2 := send d1 (.regionWrite f reg (base + 32 * size) (leBytes 8 (v.ringProd + k)))
    let d3 := modLeadRoom d2 s n fun m => { m with serve := { m.serve with owed := v.owed.drop k, ringProd := v.ringProd + k } }
    vecUnits d3 f (32 + 64 * s.num + n) k

/-- The ring in force with RING_EN as the register stands. -/
def ringSwitched (m : Room) : BitVec 64 × BitVec 64 :=
  let now := m.serve.ringNow
  (BitVec.ofNat 64 (ringRegion now.1 + 16 * b2n m.srv.ringEn + 32 * bitsOf now.1.toNat 5 5), now.2)

/-- RING_EN takes effect at once. Under RING_EN 1, a change of the region, the size or the base waits until every record owed to the old ring has
been written there (R300); the new ring starts at index 0. DESIGN CHOICE, log 22. -/
def adoptRing (m : Room) : Room :=
  if ringWords m = m.serve.ringNow then m
  else if ringWords m = ringSwitched m || (ringEn m.serve.ringNow.1 && m.srv.ringEn && !m.serve.owed.isEmpty) then
    { m with serve := { m.serve with ringNow := ringSwitched m } }
  else { m with serve := { m.serve with ringNow := ringWords m, ringProd := 0, ringCons := 0, ringNext := none } }

def ringAdopt (d : Device) (s : Ch) (n : Nat) : Device := modLeadRoom d s n adoptRing

/-! ## Stream ends (R242, R243, R287) -/

/-- Frees a context, its request area and its trajectory buffer; the handle's generation moves on (R258). -/
def freeCtx (d : Device) (s : Ch) (n : Nat) (q : SRef) : Device :=
  let r := leadRoom d s n
  let c := strm d q
  let area := (List.range (areaPages r)).map (c.area / pageBytes + ·)
  let buf := if c.deliver.toNat = 2 then (List.range (tbPages r)).map (tbBase r q.2 / pageBytes + ·) else []
  let d1 := modChan d q.1 fun x =>
    { freeRoomPages x n (area ++ buf) with ctxs := tset {} x.ctxs q.2 { handle := handleOf (nextGen (genOf c.handle)) q } }
  showStreams d1 s n

/-- Whether a stream is owed a record. -/
def owes (d : Device) (s : Ch) (n : Nat) (q : SRef) : Bool :=
  (leadRoom d s n).serve.owed.any fun o => o.1 == q.1.num && o.2.1 == q.2

/-- After the ring has been written: streams with records left wait in RING_WAIT, others return, and an ENDING stream that is owed
nothing and holds no trajectory is freed (R292, R457). -/
def settle (d : Device) (s : Ch) (n : Nat) : Device :=
  (roomStreams d s n).foldl (fun d q =>
    let c := strm d q
    let o := owes d s n q
    if c.state = .ending then (if o || c.deliver.toNat = 2 then d else freeCtx d s n q)
    else if o && c.state != .ringWait then modStrm d q fun c => { c with state := .ringWait, under := if c.state = .held || c.state = .starved then c.under else c.state }
    else if !o && c.state = .ringWait then modStrm d q fun c => { c with state := c.under }
    else d) d

/-- Delivers what can be delivered now. -/
def deliver (d : Device) (s : Ch) (n : Nat) : Device :=
  settle (ringAdopt (ringWrite (ringAdopt (flushFabric d s n) s n) s n) s n) s n

/-- Asks the store's owner for a slot (R457). -/
def askSlot (d : Device) (s : Ch) (n : Nat) (q : SRef) : Device :=
  let r := leadRoom d s n
  sendMsg d (leadOf d s)
    { node := r.storeNode, queue := 1, reply := 0, bytes := leBytes 4 (strm d q).handle.toNat ++ leBytes 4 (strm d q).wgenFirst.toNat ++ leBytes 1 r.store.toNat }

/-- A stream that has had its last record gives up its cache, its pin and its binding, and is ENDING (R242, R286, R332). -/
def release (d : Device) (s : Ch) (n : Nat) (q : SRef) : Device :=
  let c := strm d q
  let d1 := dropKv d s n q c.cols c.strips
  let d2 := match c.slot with | some sl => dropStaging d1 s n sl | none => d1
  let d3 := bindDown (modLead d2 s fun x => dropPin x (pinKey q.1.num q.2)) s c.bind
  let d4 := modStrm d3 q fun c => { c with
    state := .ending, under := .ending, slot := none, recomp := none, bind := .none, pinDl := none, holdDl := none, cancel := false }
  let d5 := showStreams d4 s n
  if c.deliver.toNat = 2 then askSlot d5 s n q else d5

/-- The position that a stream's next token would have taken. -/
def nextPos (d : Device) (n : Nat) (q : SRef) : Nat :=
  let c := strm d q
  let st := if c.state = .held || c.state = .starved || c.state = .ringWait then c.under else c.state
  if st = .decode then c.len + 1 else reqPrompt (reqHdr d n q)

/-- Ends a stream for a reason that no token causes: its terminal record, and its resources (R285, R287, R290). -/
def endStream (d : Device) (s : Ch) (n : Nat) (q : SRef) (stop : Nat) (st : Status) : Device :=
  let c := strm d q
  if c.state = .ending || c.state = .free then d else
  let t : TokRec :=
    { handle := c.handle, pos := BitVec.ofNat 32 (nextPos d n q), token := 0xFFFFFFFF, wgen := c.wgen, logp := 0, logpRaw := 0, ncand := 0,
      status := st.code, stop := stop, last := true }
  release (queueRec d s n q t) s n q

/-- Every stream of a room ends (stop 9), and what can be delivered is. -/
def endStreams (d : Device) (s : Ch) (n : Nat) (st : Status) : Device :=
  let r := leadRoom d s n
  -- credits set aside for a step that will not end are returned
  let d0 := r.serve.table.foldl (fun d e => modLead d s fun x => credit x (strm d (Ch.ofNum e.ch, e.ctx)).customer.toNat e.aside) d
  let d1 := (roomStreams d s n).foldl (fun d q => endStream d s n q 9 st) d0
  let d2 := modLeadRoom d1 s n fun m => { m with serve := { m.serve with table := [], inStep := false, sampled := false, short := false } }
  let d3 := completeWaits (deliver d2 s n) fun w =>
    match w.kind with
    | .cancel c i => if (strm d2 (c, i)).room = n && (suiteOfChan d c) = some s && (strm d2 (c, i)).state = .ending then some (.ok, []) else none
    | _ => none
  d3

end Sys2Proof.Machine
end

