-- ==== Sys2Proof/Machine/Kv.lean ====
section
/-! DEFINITION. Machine/Kv.lean: codes and scales of the key-value cache: where a position lies, appends, flushes and relinks (R213 to R231, R251). -/

namespace Sys2Proof.Machine

/-- Head dimension D. -/
def kvD (k : KvRoom) : Nat := 32 * k.db.toNat
/-- Half bytes of one code (Table 5.3). -/
def kvNib (k : KvRoom) : Nat := if k.cls = 2 then 1 else 2
/-- The format of codes: MXFP4 E2M1 in class L, else FP8 E4M3 (R214, Table 5.3). -/
def kvFmt (k : KvRoom) : MxFmt := if k.cls = 2 then .e2m1 else .e4m3

/-- Region index of a slot, a layer and a head group (R218). -/
def kvRegion (k : KvRoom) (slot layer g : Nat) : Nat := (slot * k.layers.toNat + layer) * k.g.toNat + g
/-- Room virtual address of a page of a region. -/
def kvPageVa (k : KvRoom) (r page : Nat) : Nat := k.kvBase.toNat + (r * kvRP k + page) * pageBytes

/-- Offset of a key code in a page, in half bytes (Table 5.2). -/
def keyOff (k : KvRoom) (h j dim : Nat) : Nat := ((h * kvP k + j) * kvD k + dim) * kvNib k
/-- Offset of a value code in a page, in half bytes (Table 5.2). -/
def valOff (k : KvRoom) (h j dim : Nat) : Nat :=
  (k.hg.toNat * kvP k * kvD k + ((h * (kvP k / 32) + j / 32) * kvD k + dim) * 32 + j % 32) * kvNib k
/-- Strip address of the first key scale of a head at a position (R216). -/
def stripVa (k : KvRoom) (r p h : Nat) : Nat :=
  k.kvsBase.toNat + r * kvRS k * pageBytes + (p * k.hg.toNat + h) * k.db.toNat

/-- The staging slot of a page in class S (R227). -/
def stageKey (r page : Nat) : Nat := 2 * r + page % 2
def stagingOf (m : Room) (r page : Nat) : Option Staging := m.staging.find? fun g => g.key == stageKey r page && g.page == page

/-- A room's Sump, on the islands or as saved (R230), and its poisoned lines. -/
def roomSump (x : Channel) (n : Nat) : Memory := if x.island.room = some n then x.sump else (roomOf x n).saved.sump
def roomSumpPoison (x : Channel) (n : Nat) : List Nat := if x.island.room = some n then x.sumpPoison else (roomOf x n).saved.sumpPoison
def setRoomSump (n : Nat) (m : Memory) (x : Channel) : Channel :=
  if x.island.room = some n then { x with sump := m } else modRoomC x n fun r => { r with saved := { r.saved with sump := m } }
def dropSumpPoison (n : Nat) (ls : List Nat) (x : Channel) : Channel :=
  if x.island.room = some n then { x with sumpPoison := dropAll x.sumpPoison ls }
  else modRoomC x n fun r => { r with saved := { r.saved with sumpPoison := dropAll r.saved.sumpPoison ls } }

/-- Sump address of a staged page, while the page is staged. -/
def stagedAt (x : Channel) (n r page : Nat) : Option Nat :=
  if (roomOf x n).kv.cls = 0 then (stagingOf (roomOf x n) r page).map fun g => g.key * pageBytes else none

/-- A half byte of a byte. -/
def nibOf (b : Byte) (hi : Bool) : Nat := if hi then b.toNat / 16 else b.toNat % 16
def setNib (b : Byte) (hi : Bool) (v : Nat) : Byte :=
  if hi then BitVec.ofNat 8 (b.toNat % 16 + 16 * (v % 16)) else BitVec.ofNat 8 (b.toNat / 16 * 16 + v % 16)

/-- Reads the code at a half-byte offset of a page. -/
def readCode (x : Channel) (n r page off : Nat) : Nat :=
  let k := (roomOf x n).kv
  let b := match stagedAt x n r page with
    | some a => readByte (roomSump x n) (a + off / 2)
    | none => roomByte x n (kvPageVa k r page + off / 2)
  if kvNib k = 2 then b.toNat else nibOf b (off % 2 = 1)

/-- Writes the code at a half-byte offset of a page. -/
def writeCode (n r page off v : Nat) (x : Channel) : Channel :=
  let k := (roomOf x n).kv
  match stagedAt x n r page with
  | some a =>
    let b := if kvNib k = 2 then BitVec.ofNat 8 v else setNib (readByte (roomSump x n) (a + off / 2)) (off % 2 = 1) v
    setRoomSump n (writeBytes (roomSump x n) (a + off / 2) [b]) x
  | none =>
    let va := kvPageVa k r page + off / 2
    let b := if kvNib k = 2 then BitVec.ofNat 8 v else setNib (roomByte x n va) (off % 2 = 1) v
    writeRoom x n va [b]

/-- Copies one position of a region: codes and key scales (R251). -/
def movePosition (n r src dst : Nat) (x : Channel) : Channel :=
  let k := (roomOf x n).kv
  let p := kvP k
  let heads := List.range k.hg.toNat
  let dims := List.range (kvD k)
  let x1 := heads.foldl (fun x h => dims.foldl (fun x e =>
    let y := writeCode n r (dst / p) (keyOff k h (dst % p) e) (readCode x n r (src / p) (keyOff k h (src % p) e)) x
    writeCode n r (dst / p) (valOff k h (dst % p) e) (readCode y n r (src / p) (valOff k h (src % p) e)) y) x) x
  heads.foldl (fun x h => writeRoom x n (stripVa k r dst h) (readRoom x n (stripVa k r src h) k.db.toNat)) x1

/-- The regions of a KV slot. -/
def slotRegions (k : KvRoom) (slot : Nat) : List Nat := (List.range (kvRegions k)).map (slot * kvRegions k + ·)

/-- Notes a position in its staging slot. -/
def noteStaged (n r pos : Nat) (x : Channel) : Channel :=
  let k := (roomOf x n).kv
  if k.cls = 0 then
    modRoomC x n fun m =>
      let page := pos / kvP k
      match stagingOf m r page with
      | some _ => { m with staging := m.staging.map fun g =>
          if g.key = stageKey r page && g.page = page then { g with held := addAll g.held [pos % kvP k] } else g }
      | none => { m with staging := m.staging ++ [{ key := stageKey r page, page := page, held := [pos % kvP k] }] }
  else x

/-- The pumps have written a staged page to T1: the slot is free (R227). -/
def flushLands (n key page : Nat) (x : Channel) : Channel :=
  let m := roomOf x n
  match m.staging.find? fun g => g.key == key && g.page == page with
  | none => x
  | some _ =>
    let bytes := readBytes (roomSump x n) (key * pageBytes) pageBytes
    let y := modRoomC x n fun m => { m with staging := m.staging.filter fun g => !(g.key == key && g.page == page) }
    let bad := (roomSumpPoison y n).filter fun l => l / 1024 == key
    let va := kvPageVa m.kv (key / 2) page
    let z := writeRoom (dropSumpPoison n bad (setRoomSump n (clearBytes (roomSump y n) (key * pageBytes) pageBytes) y)) n va bytes
    bad.foldl (fun z l => poisonRoom n (va + 64 * (l % 1024), 64) (aroseAt x (.sump n l)) z) z

/-- SUMP_PAGE_FLUSH: the flush of the page that fills a Sump slot lands. -/
def sumpPageFlush (n key : Nat) (x : Channel) : Channel :=
  match (roomOf x n).staging.find? fun g => g.key == key && g.flushing with
  | some g => flushLands n key g.page x
  | none => x

def execSumpPageFlush (c : Ch) (room : BitVec 6) (key : Nat) (s : State) : Out :=
  onDev (fun d => modChan d c (sumpPageFlush room.toNat key)) s

/-- WRITE_THROUGH_APPEND_LAND: one outstanding append of a room has landed (R231). -/
def appendLands (n : Nat) (x : Channel) : Channel := modRoomC x n fun m => { m with appends := m.appends - 1 }

def execWriteThroughAppendLand (c : Ch) (room : BitVec 6) (s : State) : Out :=
  onDev (fun d => modChan d c (appendLands room.toNat)) s

/-- Relinks an accepted chain of a tree entry on one channel: position ctxLen + a_j moves to ctxLen + j (R251); a staged page whose
positions are then all committed is flushed. -/
def relinkOn (n slot ctxLen : Nat) (chain : List Nat) (x : Channel) : Channel :=
  let k := (roomOf x n).kv
  let moves := ((List.range chain.length).zip chain).filter fun m => m.1 != m.2
  let len := ctxLen + chain.length
  (slotRegions k slot).foldl (fun x r =>
    let y := moves.foldl (fun x m => noteStaged n r (ctxLen + m.1) (movePosition n r (ctxLen + m.2) (ctxLen + m.1) x)) x
    let mine := fun (g : Staging) => g.key / 2 == r
    let z := modRoomC y n fun m => { m with
      staging := (m.staging.map fun g => if mine g then { g with held := g.held.filter fun j => g.page * kvP k + j < len } else g).filter
        fun g => !g.held.isEmpty }
    let full := (roomOf z n).staging.filter fun g => mine g && (g.page + 1) * kvP k ≤ len
    full.foldl (fun x g => flushLands n g.key g.page x) z) x

end Sys2Proof.Machine
end

