-- ==== Sys2Proof/Machine/Adapters.lean ====
section
/-! DEFINITION. Machine/Adapters.lean: adapter slots, extra experts, warm adapters, and the adapter step block (chapter 8). -/

namespace Sys2Proof.Machine

/-- The slot states of Table 8.2. -/
def asFree : BitVec 3 := 0
def asLoading : BitVec 3 := 1
def asReady : BitVec 3 := 2
def asTrain : BitVec 3 := 3
def asCache : BitVec 3 := 4
def asReleasing : BitVec 3 := 5

def slotIxs : List Nat := List.range 4096
/-- Room virtual address of a slot, and its 64 pages. -/
def slotVa (k : Nat) : Nat := 0xFFFE00000000 + k * 0x400000
def slotPageList (k : Nat) : List Nat := (List.range 64).map (slotVa k / pageBytes + ·)
/-- The slot whose 4 MiB hold a room virtual address. -/
def slotAt (a : Nat) : Option Nat := if 0xFFFE00000000 ≤ a && a < slotVa 4096 then some ((a - 0xFFFE00000000) / 0x400000) else none

def warmVa (r : Room) (w : Nat) : Nat := r.adp.warmBase.toNat + w * 0x400000
def warmPages (r : Room) (w : Nat) : List Nat := (List.range 64).map (warmVa r w / pageBytes + ·)
def warmOf (r : Room) (w : Nat) : WarmAdp := tget {} r.warm w

/-- The slot entries of a lead channel that a room holds. -/
def roomSlots (x : Channel) (n : Nat) : List (Nat × AdpEntry) :=
  x.slots.filter fun e => e.2.reg.state != asFree && e.2.reg.room.toNat == n

/-- A slot's entry is one of the warm adapter that its room holds under an index now: an index that has been unpinned and pinned anew leaves
the old one's slots behind (R337, R345). -/
def sameWarm (a : WarmAdp) (w : Nat) (e : AdpEntry) : Bool :=
  a.held && e.reg.warm.toNat == w && e.reg.owner == a.owner && e.digest == a.digest && e.reg.merged == a.merged && e.reg.mergeVa == a.mergeVa

/-- The CACHE slot that holds a room's warm adapter. -/
def cacheSlot (x : Channel) (n w : Nat) : Option Nat :=
  ((roomSlots x n).find? fun e => e.2.reg.state == asCache && sameWarm (warmOf (roomOf x n) w) w e.2).map (·.1)

/-! ## Extra experts (R325, R326) -/

def expertsOf (m : W64) : List Nat := (List.range 64).filter fun i => m.getLsbD i
/-- The region of an extra expert: base and bytes. -/
def xexpRun (r : Room) (i : Nat) : Nat × Nat :=
  (r.adp.xexpBase.toNat + i * r.adp.xexpMib.toNat * 2 ^ 20, r.adp.xexpMib.toNat * 2 ^ 20)
/-- Pages that lie whole in an extra expert's region. -/
def xexpWhole (r : Room) (i : Nat) : List Nat :=
  (pagesOf (xexpRun r i)).filter fun p => (xexpRun r i).1 ≤ p * pageBytes && (p + 1) * pageBytes ≤ (xexpRun r i).1 + (xexpRun r i).2

/-- Clears an extra expert to zero: pages whole in its region are freed, which reads as zero (R168, R326). -/
def clearExpert (n i : Nat) (x : Channel) : Channel :=
  let r := roomOf x n
  let run := xexpRun r i
  let part := dropAll (pagesOf run) (xexpWhole r i)
  let y := freeRoomPages x n (xexpWhole r i)
  part.foldl (fun y p => modRoomC y n fun m =>
    { m with mem := clearBytes m.mem (max run.1 (p * pageBytes)) (bytesInPage run p) }) y

/-- Ends the claims of a holder (a slot, or 4,096 + a warm index). -/
def dropExperts (d : Device) (s : Ch) (n holder : Nat) : Device :=
  let mine := ((leadRoom d s n).xexps.filter fun e => e.2 == some holder).map (·.1)
  let d1 := modChans d (suiteChans d s) fun _ x => mine.foldl (fun x i => clearExpert n i x) x
  modLeadRoom d1 s n fun r => { r with xexps := r.xexps.filter fun e => e.2 != some holder }

/-! ## Ends of claims (R334 to R337) -/

/-- A slot becomes FREE: its pages and its merged copy go, and its extra experts are cleared. -/
def freeSlot (d : Device) (s : Ch) (n k : Nat) : Device :=
  let d1 := dropExperts d s n k
  modChans d1 (suiteChans d1 s) fun _ x =>
    { freeRoomPages x n (adpOf x k).pages with slots := tset {} x.slots k {} }

/-- At a step boundary, RELEASING slots without references become FREE (R335). -/
def freeReleasing (d : Device) (s : Ch) (n : Nat) : Device :=
  (roomSlots (chanOf d (leadOf d s)) n).foldl (fun d e =>
    if e.2.reg.state = asReleasing && e.2.reg.refs = 0 then freeSlot d s n e.1 else d) d

/-- A slot is unbound (R335). -/
def releaseSlot (d : Device) (s : Ch) (k : Nat) : Device := modAdps d s k fun e => { e with reg := { e.reg with state := asReleasing } }

/-- Streams of a room bound to a warm adapter. -/
def warmStreams (d : Device) (s : Ch) (n w : Nat) : Bool := (roomStreams d s n).any fun q => (strm d q).bind == .warm w

/-- The home of an unpinned warm adapter goes once no stream is bound to it. DESIGN CHOICE, log 23. -/
def freeWarm (d : Device) (s : Ch) (n : Nat) : Device :=
  (leadRoom d s n).warm.foldl (fun d e =>
    if e.2.unpinned && !warmStreams d s n e.1 then
      let d1 := dropExperts d s n (4096 + e.1)
      modChans d1 (suiteChans d1 s) fun _ x =>
        modRoomC (freeRoomPages x n (warmPages (roomOf x n) e.1 ++ e.2.pages)) n fun r => { r with warm := tset {} r.warm e.1 {} }
    else d) d

/-- A room's binding of a customer. -/
def bindingOf (r : Room) (c : Nat) : AdpBind := tget {} r.binds c
def setBinding (d : Device) (s : Ch) (n c : Nat) (b : AdpBind) : Device :=
  modLeadRoom d s n fun r => { r with binds := tset {} r.binds c b }
/-- The binding as an admission takes it and its stream records it (R332, R334). -/
def bindFor (r : Room) (c : Nat) : Bind :=
  let b := tget {} r.admBinds c
  if b.kind = 1 then .slot b.slot.toNat else if b.kind = 2 then .warm b.warm.toNat else .none

/-! ## Warm fetches (R337) -/

/-- Slots that a room's table refers to. -/
def tableSlots (d : Device) (s : Ch) (n : Nat) (t : List LtEntry) : List Nat :=
  t.filterMap fun e =>
    match (strm d (Ch.ofNum e.ch, e.ctx)).bind with
    | .slot k => some k
    | .warm w => cacheSlot (chanOf d (leadOf d s)) n w
    | .none => none

/-- The slot that a fetch takes: the lowest FREE one while CACHE_MAX allows another, else the room's CACHE slot unused for the most steps. -/
def fetchSlot (d : Device) (s : Ch) (n : Nat) (inUse : List Nat) : Option Nat :=
  let x := chanOf d (leadOf d s)
  let r := leadRoom d s n
  let mine := (roomSlots x n).filter fun e => e.2.reg.state == asCache || e.2.fetching
  let free := slotIxs.find? fun k => (adpOf x k).reg.state == asFree
  let old := ((mine.filter fun e => e.2.reg.state == asCache && e.2.reg.refs == 0 && !inUse.contains e.1).foldl
    (fun (b : Option (Nat × Nat)) e => match b with
      | none => some (e.1, e.2.stamp)
      | some t => if e.2.stamp < t.2 then some (e.1, e.2.stamp) else b) none).map (·.1)
  if mine.length < r.adp.cacheMax.toNat then (match free with | some k => some k | none => old)
  else if mine.length ≤ r.adp.cacheMax.toNat then old else none

/-- Starts the fetch of a warm adapter unless it is resident or on its way. -/
def startFetch (d : Device) (s : Ch) (n : Nat) (inUse : List Nat) (w : Nat) : Device :=
  let x := chanOf d (leadOf d s)
  let a := warmOf (leadRoom d s n) w
  if (roomSlots x n).any (fun e => (e.2.reg.state == asCache || e.2.fetching) && sameWarm a w e.2) || !a.held || a.loading then d else
  match fetchSlot d s n inUse with
  | none => d
  | some k =>
    let d1 := if (adpOf x k).reg.state = asFree then d else freeSlot d s n k
    let pages := slotPageList k
    let got := (suiteChans d1 s).foldlM (fun d c => (allocRoomPages (chanOf d c) n 1 pages).map fun x => setChan d c x) d1
    match got with
    | none => d1
    | some d2 => modAdps d2 s k fun _ =>
        { reg := { state := asLoading, room := BitVec.ofNat 6 n, owner := a.owner, merged := a.merged, va := BitVec.ofNat 48 (slotVa k),
                   warm := BitVec.ofNat 16 w, xexp := a.xexp, mergeVa := a.mergeVa },
          fetching := true, digest := a.digest, pages := pages }

/-- Bytes of a warm home as they come back from the Cellar, with those that differ, by their offsets in the home. -/
def homeBack (x : Channel) (a : Nat) (n : Nat) (back : List (Nat × Byte)) : List Byte :=
  back.foldl (fun l b => l.set b.1 b.2) (readRoom x n a 0x400000)

/-- The pages of a home whose fingerprint is not the one held with them (R195, R337). -/
def homeBroken (x : Channel) (n w : Nat) (bs : List Byte) : List Nat :=
  (List.zip (List.range 64) (warmPages (roomOf x n) w)).filterMap fun t =>
    let e := pteAt x (.room n t.2)
    if e.t2 && crc64 ((bs.drop (t.1 * pageBytes)).take pageBytes) != e.t2fp then some t.2 else none

/-- What comes back for one channel. -/
def backOn (c : Ch) (back : List (Ch × Nat × Byte)) : List (Nat × Byte) := (back.filter fun b => b.1 == c).map (·.2)

/-- WARM_ADAPTER_FETCH_DONE: the image lies in its CACHE slot, or a page's fingerprint did not hold: that page is poisoned, and the slot is FREE
again, as is one whose adapter the room holds no more (R337, R195). -/
def warmFetchDone (su : Ch) (k : BitVec 12) (back : List (Ch × Nat × Byte)) (d : Device) : Device :=
  let e := adpOf (chanOf d (leadOf d su)) k.toNat
  let n := e.reg.room.toNat
  let w := e.reg.warm.toNat
  let cs := suiteChans d su
  let home := fun (c : Ch) => homeBack (chanOf d c) (warmVa (roomOf (chanOf d c) n) w) n (backOn c back)
  let bad := fun (c : Ch) => homeBroken (chanOf d c) n w (home c)
  if !e.fetching then d
  else if !sameWarm (warmOf (leadRoom d su n) w) w e then freeSlot d su n k.toNat
  else if cs.all fun c => (bad c).isEmpty then
    let d1 := modChans d cs fun c x => writeRoom x n (slotVa k.toNat) (home c)
    let d2 := modAdps d1 su k.toNat fun e => { e with fetching := false, reg := { e.reg with state := asCache }, stamp := (leadRoom d su n).serve.step }
    modLeadRoom d2 su n fun m => { m with adp := { m.adp with warmLoads := satInc m.adp.warmLoads } }
  else
    let d1 := modChans d cs fun c x => (bad c).foldl (fun x p =>
      let a := BitVec.ofNat 64 (p * pageBytes)
      record (poisonPage (some { cls := 0xA0, unit := 0, addr := a }) x (.room n p)) { cls := 0xA0, kind := 1, room := BitVec.ofNat 6 n, addr := a }) x
    freeSlot d1 su n k.toNat

def execWarmAdapterFetchDone (su : Ch) (slot : BitVec 12) (back : List (Ch × Nat × Byte)) (s : State) : Out := onDev (warmFetchDone su slot back) s

/-! ## The step block (R338 to R340) -/

/-- The adapter of an entry: its slot, and whether it is merged. -/
def entryAdp (d : Device) (s : Ch) (n : Nat) (q : SRef) : Option (Nat × Bool) :=
  let x := chanOf d (leadOf d s)
  let k := match (strm d q).bind with
    | .slot k => some k
    | .warm w => cacheSlot x n w
    | .none => none
  k.map fun k => (k, (adpOf x k).reg.merged)

/-- The MODE of a step (R339). -/
def stepMode (force : Bool) (adps : List (Option (Nat × Bool))) : Nat :=
  let un := adps.filterMap fun a => match a with | some (k, false) => some k | _ => none
  let dn := un.eraseDups.length
  if 1 ≤ dn && (force || 8 < dn || (2 ≤ dn && dn = un.length)) then 2
  else if adps.any Option.isSome then 1
  else 0

/-- The sub-batches of a step: the adapter (none, a slot, or a per-row run) and the entries, in order (R339). -/
inductive SubKind where
  | plain | slot (k : Nat) | perRow
  deriving DecidableEq, Repr

def ascSlots (l : List Nat) : List Nat := l.eraseDups.mergeSort (· ≤ ·)

def subBatches {α : Type} (mode : Nat) (es : List (α × Option (Nat × Bool))) : List (SubKind × List α) :=
  let merged := ascSlots (es.filterMap fun e => match e.2 with | some (k, true) => some k | _ => none)
  let un := ascSlots (es.filterMap fun e => match e.2 with | some (k, false) => some k | _ => none)
  let pick := fun (p : Option (Nat × Bool) → Bool) => (es.filter fun e => p e.2).map (·.1)
  let isM := fun (a : Option (Nat × Bool)) => match a with | some (_, true) => true | _ => false
  let front := if mode = 2 then [(SubKind.perRow, pick fun a => !isM a)]
    else (SubKind.plain, pick Option.isNone) :: un.map fun k => (SubKind.slot k, pick fun a => a == some (k, false))
  (front ++ merged.map fun k => (SubKind.slot k, pick fun a => a == some (k, true))).filter fun b => !b.2.isEmpty

/-- The bytes of the adapter step block (Tables 8.3 to 8.5), from the sub-batches of (rows, adapter) of the table's entries. -/
def stepBlock (x : Channel) (mode step : Nat) (subs : List (SubKind × List (Nat × Option Nat))) : List Byte :=
  let slots := ascSlots (subs.flatMap fun b => b.2.filterMap (·.2))
  let ixOf := fun (k : Nat) => (slots.findIdx? (· == k)).getD 0xFFFF
  let header := leBytes 8 (mode + 2 ^ 8 * subs.length + 2 ^ 16 * slots.length) ++ leBytes 8 step ++ List.replicate 48 0
  let entry := fun (k : Nat) =>
    let a := (adpOf x k).reg
    leBytes 8 (k + 2 ^ 12 * b2n a.merged) ++ leBytes 8 a.va.toNat ++ leBytes 8 a.xexp.toNat ++ leBytes 8 a.mergeVa.toNat
  let rowsOf := fun (l : List (Nat × Option Nat)) => (l.map (·.1)).sum
  let sub := subs.foldl (fun (acc : List Byte × Nat) b =>
    let a := match b.1 with | .plain => 0xFFFF | .perRow => 0xFFFE | .slot k => ixOf k
    (acc.1 ++ leBytes 4 acc.2 ++ leBytes 4 (rowsOf b.2) ++ leBytes 8 a, acc.2 + rowsOf b.2)) ([], 0)
  let rows := if mode = 2 then subs.flatMap fun b => b.2.flatMap fun e =>
      (List.replicate e.1 (match e.2 with | some k => ixOf k | none => 0xFFFF)).flatMap (leBytes 2) else []
  header ++ slots.flatMap entry ++ sub.1 ++ rows

end Sys2Proof.Machine
end

