-- ==== Sys2Proof/Machine/ArrayOp.lean ====
section
/-! DEFINITION. Machine/ArrayOp.lean: what ARR.LDW and ARR.MM read, compute and write, and their durations (R63 to R82, R117 to R121). -/

namespace Sys2Proof.Machine

/-- The bit offset of a position's code within a tile's element area (R59, R164). -/
def codeOffset (f : Fmt) (xorder : Bool) (l e : Nat) : Nat :=
  match xorder, xWidth f with
  | true, some w => fmtBits f * ((128 * (e / w) + l) * w + e % w)
  | _, _ => fmtBits f * (128 * l + e)

/-- The code of a position of the tile at byte address a of a memory. -/
def memCode (m : Memory) (a : Nat) (f : Fmt) (xorder : Bool) (l e : Nat) : Nat :=
  let o := codeOffset f xorder l e
  bitsOf (readLe m (a + o / 8) 9) (o % 8) (fmtBits f)

/-- The scale code of block b of line l of the tile at a (R164). -/
def memScale (m : Memory) (a : Nat) (f : Fmt) (l b : Nat) : Byte := readByte m (a + elemArea f + 4 * l + b)

/-- Whether the two operand formats may be paired, with the MAC rate r in quarters: 1 for BF16, 4r for MX (R63, R64). -/
def pairRate (fa fb : Fmt) : Option Nat :=
  match fa, fb with
  | .mx a, .mx b => some (4 * min (mxRate a) (mxRate b))
  | .bf16, .bf16 => some 1
  | _, _ => none

/-- The K depth of one pass (R117). -/
def passDepth (rate4 : Nat) : Nat := if rate4 = 1 then 512 else 128 * rate4

/-- 512 B units of one weight image: (D / 128) × 4 tiles of B's format (R117). -/
def imageUnits (fb : Fmt) (rate4 : Nat) : Nat := passDepth rate4 / 128 * 4 * tileUnits fb

/-- Row tiles of the streamed operand. -/
def rowTiles (m : Nat) : Nat := cdiv m 128

/-- 512 B units of the A tiles, B images and C tiles of an operation (R117, R119). -/
def unitsA (s : BitVec 128) (fa : Fmt) (rate4 : Nat) : Nat :=
  rowTiles (arM s) * (arKP s * passDepth rate4 / 128) * tileUnits fa
def unitsB (s : BitVec 128) (fb : Fmt) (rate4 : Nat) : Nat := arNG s * arKP s * imageUnits fb rate4
def unitsC (s : BitVec 128) (fo : Fmt) : Nat := rowTiles (arM s) * (arNG s * 4) * tileUnits fo

/-- Cycles of the operation's passes with their loads, and with the drain stage (R121). -/
def passCycles (s : BitVec 128) (rate4 : Nat) : Nat :=
  let st := if rate4 = 1 then 4 * arM s else arM s
  (if arPre s then 0 else 272) + arNG s * arKP s * max st 272
def opCycles (s : BitVec 128) (rate4 : Nat) : Nat := passCycles s rate4 + 1056

/-- One block's contribution to an accumulator (R66, R67, R73). -/
def blockAdd (fa fb : MxFmt) (ca cb : Byte) (pairs : List (Nat × Nat)) (acc : BitVec 42) : BitVec 42 :=
  addExt42 acc (blockToExt42 fa fb ca cb
    (pairs.foldl (fun b p => b.mac (mxElem fa p.1) (mxElem fb p.2)) {}))

/-- The accumulation of output element (m, n) of column group g over one pass p, whose image lies at byte ib of memory im (R66 to R70, R117). -/
def passAccum (ws im : Memory) (s : BitVec 128) (fa fb : Fmt) (rate4 p ib m n : Nat) (acc : BitVec 42) : BitVec 42 :=
  let d := passDepth rate4
  let aTile (kt : Nat) : Nat := 512 * (arA s + ((p * d / 128 + kt) * rowTiles (arM s) + m / 128) * tileUnits fa)
  let bTile (kt : Nat) : Nat := ib + 512 * ((n / 128 * (d / 128) + kt) * tileUnits fb)
  (List.range (d / 32)).foldl (fun acc j =>
    let kt := j / 4
    let b := j % 4
    let pairs := (List.range 32).map fun i =>
      (memCode ws (aTile kt) fa false (m % 128) (32 * b + i), memCode im (bTile kt) fb true (n % 128) (32 * b + i))
    match fa, fb with
    | .mx a, .mx c =>
      blockAdd a c (memScale ws (aTile kt) fa (m % 128) b) (memScale im (bTile kt) fb (n % 128) b) pairs acc
    | _, _ =>
      pairs.foldl (fun acc q => addExt42 acc (bf16Product (BitVec.ofNat 16 q.1) (BitVec.ofNat 16 q.2))) acc) acc

/-- The starting accumulator of element (m, n) of the output: +0, or its container at CADDR (R68, R120). Bits 63 to 42 of the container, which
are written as zeros, are not looked at when it is read. DESIGN CHOICE, log 113. -/
def startAcc (ws : Memory) (s : BitVec 128) (g m n : Nat) : BitVec 42 :=
  if arInit s then
    let t := 512 * (arC s + ((4 * g + n / 128) * rowTiles (arM s) + m / 128) * tileUnits .ext42)
    let c := if arOaxis s then memCode ws t .ext42 false (n % 128) (m % 128)
             else memCode ws t .ext42 false (m % 128) (n % 128)
    BitVec.ofNat 42 c
  else 0

/-- The EXT42 result of output element (m, n) of group g over all passes in ascending order (R119). buf is the image preloaded for the first pass, when PRE is 1. -/
def elementAcc (ws : Memory) (s : BitVec 128) (fa fb : Fmt) (rate4 : Nat) (buf : Memory) (g m n : Nat) : BitVec 42 :=
  (List.range (arKP s)).foldl (fun acc p =>
    let idx := g * arKP s + p
    if idx = 0 && arPre s then passAccum ws buf s fa fb rate4 p 0 m n acc
    else passAccum ws ws s fa fb rate4 p (512 * (arB s + idx * imageUnits fb rate4)) m n acc)
    (startAcc ws s g m n)

/-- The row-major position of element (m, n) of an operation's output in the program's logical output tensor; an operation that computes the
transposed product has its rows along the tensor's columns (R82, R84). -/
def outPosition (p : OutPlace) (m n : Nat) : Nat :=
  if p.flip then (p.row + n) * p.width + p.col + m else (p.row + m) * p.width + p.col + n

/-- The counter index of an output element for stochastic rounding: tensor number, and position in the logical output tensor (R82). -/
def srIndex (s : BitVec 128) (p : OutPlace) (tensor : BitVec 24) (g m n : Nat) : W64 :=
  (tensor ++ BitVec.ofNat 40 (outPosition p m (32 * arNW s * g + n))).setWidth 64

/-- The rounding of one output element (Table 2.5, R81): draw gives the r-bit uniform integer of an index. -/
def outRule (s : BitVec 128) (pl : OutPlace) (tensor : BitVec 24) (draw : Nat → W64 → Nat) (r g m n : Nat) : Rounding :=
  match arRnd s with
  | 0 => .rne
  | 1 => .rtz
  | _ => .sr r (draw r (srIndex s pl tensor g m n))

/-- Writes an n-bit code at a bit offset of the tile at byte a. -/
def putCode (w : Memory) (a : Nat) (f : Fmt) (l e c : Nat) : Memory :=
  let o := codeOffset f false l e
  let nb := fmtBits f
  let old := readLe w (a + o / 8) 9
  let sh := o % 8
  writeLe w (a + o / 8) 9 (old - bitsOf old sh nb * 2 ^ sh + c % 2 ^ nb * 2 ^ sh)

/-- Line and position of element (m, n) in a C tile: lines run along the block axis that OAXIS names (R165). -/
def cPlace (s : BitVec 128) (m n : Nat) : Nat × Nat :=
  if arOaxis s then (n % 128, m % 128) else (m % 128, n % 128)

/-- The byte address of the C tile of element (m, n) of group g (R117, R119). -/
def cTile (s : BitVec 128) (fo : Fmt) (g m n : Nat) : Nat :=
  512 * (arC s + ((4 * g + n / 128) * rowTiles (arM s) + m / 128) * tileUnits fo)

/-- The memory after one column group's non-MX outputs (R79). -/
def writePlain (s : BitVec 128) (pl : OutPlace) (fo : Fmt) (tensor : BitVec 24) (draw : Nat → W64 → Nat) (g : Nat)
    (acc : Nat → Nat → BitVec 42) (w : Memory) : Memory :=
  (List.range (arM s)).foldl (fun w m =>
    (List.range (32 * arNW s)).foldl (fun w n =>
      let (l, e) := cPlace s m n
      let c := match fo with
        | .ext42 => (acc m n).toNat
        | .fp32 => (outFp32 (outRule s pl tensor draw 32 g m n) (arSat s) (ext42ToNum (acc m n))).toNat
        | _ => (outBf16 (outRule s pl tensor draw 32 g m n) (arSat s) (ext42ToNum (acc m n))).toNat
      putCode w (cTile s fo g m n) fo l e c) w) w

/-- The memory after one column group's MX outputs, block by block along OAXIS (R77 to R80). -/
def writeMx (s : BitVec 128) (pl : OutPlace) (fo : MxFmt) (tensor : BitVec 24) (draw : Nat → W64 → Nat) (g : Nat)
    (acc : Nat → Nat → BitVec 42) (w : Memory) : Memory :=
  let lines := if arOaxis s then 32 * arNW s else arM s
  let blocks := (if arOaxis s then arM s else 32 * arNW s) / 32
  (List.range lines).foldl (fun w ln =>
    (List.range blocks).foldl (fun w b =>
      let at' (i : Nat) : Nat × Nat := if arOaxis s then (32 * b + i, ln) else (ln, 32 * b + i)
      let vs := (List.range 32).map fun i =>
        let (m, n) := at' i
        (outRule s pl tensor draw 8 g m n, ext42ToNum (acc m n))
      let (sc, cs) := mxQuantBlock fo (arSat s) vs
      let (m0, n0) := at' 0
      let t := cTile s (.mx fo) g m0 n0
      let (l0, e0) := cPlace s m0 n0
      let w := (List.range 32).foldl (fun w i => putCode w t (.mx fo) l0 (e0 + i) (cs.getD i 0)) w
      writeBytes w (t + elemArea (.mx fo) + 4 * l0 + e0 / 32) [sc]) w) w

/-- WS after the operation's outputs (R119, R69). -/
def arrOutputs (ws : Memory) (s : BitVec 128) (pl : OutPlace) (fa fb fo : Fmt) (rate4 : Nat) (buf : Memory) (tensor : BitVec 24)
    (draw : Nat → W64 → Nat) : Memory :=
  (List.range (arNG s)).foldl (fun w g =>
    let acc := fun m n => elementAcc ws s fa fb rate4 buf g m n
    match fo with
    | .mx f => writeMx s pl f tensor draw g acc w
    | f => writePlain s pl f tensor draw g acc w) ws

/-! ## The checks (R88 to R92) -/

def residueOf (i : Int) : Nat := (i % (residueMod : Int)).toNat

/-- The residues of a weight image's elements, tile by tile, line by line (R89, R162). -/
def imageResidues (fb : Fmt) (rate4 : Nat) (im : Memory) (ib : Nat) : List (BitVec 16) :=
  (List.range (passDepth rate4 / 128 * 4)).flatMap fun t => (List.range 128).flatMap fun l => (List.range 128).map fun e =>
    BitVec.ofNat 16 (residueOf (elemInt fb (memCode im (ib + 512 * (t * tileUnits fb)) fb true l e)))

/-- The block integer of row l of an A tile and line n of a B tile, exactly: for BF16 the side chain's sum of significand products (R66, R91). -/
def blockInt (ws im : Memory) (fa fb : Fmt) (ta tb b l n : Nat) : Int :=
  (List.range 32).foldl (fun s i =>
    s + elemInt fa (memCode ws ta fa false l (32 * b + i)) * elemInt fb (memCode im tb fb true n (32 * b + i))) 0

/-- The comparison for output column n of a pass, block b of A tile (mt, kt): the residue of the sum of c_k r_kn, formed from the shadow's
residues and the residue unit's copy, against that of the sum of the 128 block integers (R90). -/
def blockAgrees (ws im : Memory) (tags : Tab TileTag) (res : List (BitVec 16)) (fa fb : Fmt) (rate4 ta tb mtUnit kt n b : Nat) : Bool :=
  let cs := match tags.find? (fun p => p.1 == mtUnit) with | some p => p.2.residues | none => []
  let tile := n / 128 * (passDepth rate4 / 128) + kt
  let r (e : Nat) : Nat := (res.getD ((tile * 128 + n % 128) * 128 + e) 0).toNat
  let byUnit := (List.range 32).foldl (fun (s : Nat) i => (s + (cs.getD (32 * b + i) 0).toNat * r (32 * b + i)) % residueMod) 0
  let byArray := (List.range 128).foldl (fun (s : Int) l => s + blockInt ws im fa fb ta tb b l (n % 128)) 0
  byUnit == residueOf byArray

/-- Every residue comparison of one pass (R90). -/
def passAgrees (ws im : Memory) (tags : Tab TileTag) (res : List (BitVec 16)) (s : BitVec 128) (fa fb : Fmt) (rate4 p ib : Nat) : Bool :=
  let d := passDepth rate4
  (List.range (32 * arNW s)).all fun n => (List.range (rowTiles (arM s))).all fun mt => (List.range (d / 128)).all fun kt =>
    let unit := arA s + ((p * d / 128 + kt) * rowTiles (arM s) + mt) * tileUnits fa
    (List.range 4).all fun b =>
      blockAgrees ws im tags res fa fb rate4 (512 * unit) (ib + 512 * ((n / 128 * (d / 128) + kt) * tileUnits fb)) unit kt n b

/-- What the checks of an operation find: bit 0 a residue mismatch in some pass, bit 1 an output element on whose value the two copies of its
column's chain differ (R90, R92). buf and res are the preloaded image and its residues. -/
def arrFound (ws : Memory) (tags : Tab TileTag) (s : BitVec 128) (fa fb : Fmt) (rate4 : Nat) (buf : Memory) (res : List (BitVec 16)) : BitVec 2 :=
  let residues := (List.range (arNG s * arKP s)).all fun idx =>
    let p := idx % arKP s
    if idx = 0 && arPre s then passAgrees ws buf tags res s fa fb rate4 p 0
    else
      let ib := 512 * (arB s + idx * imageUnits fb rate4)
      passAgrees ws ws tags (imageResidues fb rate4 ws ib) s fa fb rate4 p ib
  let copies := (List.range (arNG s)).all fun g => (List.range (arM s)).all fun m => (List.range (32 * arNW s)).all fun n =>
    elementAcc ws s fa fb rate4 buf g m n == elementAcc ws s fa fb rate4 buf g m n
  BitVec.ofBool (!copies) ++ BitVec.ofBool (!residues)

/-- The C tiles that the operation writes, by byte address (R119): those holding one of the first 32 × NW columns of a group. -/
def cTilesWritten (s : BitVec 128) (fo : Fmt) : List Nat :=
  ((List.range (arNG s)).map fun g =>
    ((List.range (cdiv (32 * arNW s) 128)).map fun nt =>
      (List.range (rowTiles (arM s))).map fun mt =>
        512 * (arC s + ((4 * g + nt) * rowTiles (arM s) + mt) * tileUnits fo)).flatten).flatten

/-- Tags the output tiles in L-order (R160, R165). -/
def tagOutputs (tags : Tab TileTag) (w : Memory) (s : BitVec 128) (fo : Fmt) : Tab TileTag :=
  (cTilesWritten s fo).foldl (fun t a => setTag t a fo false (readBytes w a (tileBytes fo))) tags

/-- Whether every tile of a run of tiles carries the tag of a format and order (R162). -/
def tagsMatch (tags : Tab TileTag) (unit count : Nat) (f : Fmt) (xorder : Bool) : Bool :=
  (List.range count).all fun i =>
    match tags.find? (fun p => p.1 == unit + i * tileUnits f) with
    | some p => p.2.fmt == f.code && p.2.xorder == xorder
    | none => false

end Sys2Proof.Machine
end

