-- ==== Sys2Proof/Machine/Pipeline.lean ====
section
/-! DEFINITION. Machine/Pipeline.lean: the island's cycles, and the landing of pipelined results (R30, R105 to R108, R146, R161). -/

namespace Sys2Proof.Machine

/-! ## Cycles -/

/-- Picoseconds of k compute cycles at throttle step s: 2.000 GHz less 62.5 MHz a step (R30). -/
def cyclesPs (s k : Nat) : Nat := k * 2000000 / (4000 - 125 * s)

/-- The island's clocks go on by k cycles; the room's issue-cycle counter counts them all (Table 3.4, SCYC). -/
def addCycles (k : Nat) (x : Channel) : Channel :=
  { x with island := { x.island with
      cycle := x.island.cycle + k, ps := x.island.ps + cyclesPs x.step k,
      ctx := { x.island.ctx with scyc := x.island.ctx.scyc + BitVec.ofNat 64 k } } }

/-! ## Results that land (R107) -/

/-- The lines that a run of bytes covers whole. -/
def wholeLines (a n : Nat) : List Nat := (linesOf (a, n)).filter fun l => a ≤ 64 * l && 64 * l + 64 ≤ a + n

/-- A position's residue after a store, from the residues of the tile's codes before and after it (R161). -/
def residueStep (kept old new : BitVec 16) : BitVec 16 := BitVec.ofNat 16 ((kept.toNat + new.toNat + residueMod - old.toNat) % residueMod)

/-- Tagged tiles that a vector store meets have their residues updated from the old and the new codes (R161). -/
def retag (old new : Memory) (tags : Tab TileTag) (a n : Nat) : Tab TileTag :=
  tags.map fun p =>
    if tagMeets a n p then
      match Fmt.ofCode p.2.fmt with
      | some f =>
        let was := tileResidues f p.2.xorder (readBytes old (512 * p.1) (tileBytes f))
        let now := tileResidues f p.2.xorder (readBytes new (512 * p.1) (tileBytes f))
        (p.1, { p.2 with residues := (p.2.residues.zip (was.zip now)).map fun r => residueStep r.1 r.2.1 r.2.2 })
      | none => p
    else p

/-- A store of the compute island: a line written whole holds no poison any more. -/
def storeWs (x : Channel) (a : Nat) (bs : List Byte) (vec : Bool) : Channel :=
  let ws := writeBytes x.ws a bs
  { x with ws := ws, tags := if vec then retag x.ws ws x.tags a bs.length else x.tags,
           wsPoison := dropAll x.wsPoison (wholeLines a bs.length) }

def modCtx (x : Channel) (f : Ctx → Ctx) : Channel := { x with island := { x.island with ctx := f x.island.ctx } }

def landOne (x : Channel) (t : Target) : Channel :=
  match t with
  | .x r v => modCtx x fun c => writeX c r v
  | .q i v => modCtx x fun c => writeQ c i v
  | .lanes reg grp vals => modCtx x fun c => writeRow c reg grp vals
  | .lane0 reg grp v => modCtx x fun c => writeRow c reg grp (v :: (readRow c reg grp).drop 1)
  | .ws a bs vec => storeWs x a bs vec

/-- Every result due by now lands, in order of its time and then of its issue. -/
def landDue (x : Channel) : Channel :=
  let go := (x.island.writes.filter fun w => w.due ≤ x.island.cycle).mergeSort fun a b => a.due ≤ b.due
  let y := { x with island := { x.island with writes := x.island.writes.filter fun w => !(w.due ≤ x.island.cycle) } }
  go.foldl (fun y w => landOne y w.target) y

/-- The island waits for every result in flight, and each lands (R146). -/
def landAll (x : Channel) : Channel :=
  let last := x.island.writes.foldl (fun k w => max k w.due) x.island.cycle
  landDue (addCycles (last - x.island.cycle) x)

/-- The stores in flight that meet a list of runs land: a descriptor moves data after every store issued before it. DEDUCED, log 35. -/
def landStores (x : Channel) (runs : List (Nat × Nat)) : Channel :=
  let hit := fun (w : PendWrite) => match w.target with
    | .ws a bs _ => runs.any fun r => meets (a, bs.length) r
    | _ => false
  let go := (x.island.writes.filter hit).mergeSort fun a b => a.due ≤ b.due
  go.foldl (fun y w => landOne y w.target) { x with island := { x.island with writes := x.island.writes.filter fun w => !hit w } }

/-- Whether two results land on one register lane or predicate in one cycle (R108); X0 and Q0 take no result. -/
def collide (a b : PendWrite) : Bool :=
  a.due == b.due &&
  match a.target, b.target with
  | .x r _, .x s _ => r == s && r != 0
  | .q i _, .q j _ => i == j && i != 0
  | .lanes r g _, .lanes s h _ => r == s && g == h
  | .lanes r g _, .lane0 s h _ => r == s && g == h
  | .lane0 r g _, .lanes s h _ => r == s && g == h
  | .lane0 r g _, .lane0 s h _ => r == s && g == h
  | _, _ => false

end Sys2Proof.Machine
end

