-- ==== Sys2Proof/Machine/Report.lean ====
section
/-! DEFINITION. Machine/Report.lean: checks of host-memory parameters, the fault summary, and attestation reports (R572 to R575, R615, R750). -/

namespace Sys2Proof.Machine

/-! ## Host memory (R750) -/

/-- A region of an allowed KIND, with an aligned offset and an extent within its PAGES. -/
def regionAllows (x : Channel) (kinds : List Nat) (align reg off bytes : Nat) : Bool :=
  kinds.contains (regionOf x reg).kind.toNat && off % align == 0 && off + bytes ≤ (regionOf x reg).pages.toNat * pageBytes
def hostKinds : List Nat := [3, 4]

/-- A fetch from or write to a region fails: the environment says so, or the host memory's port is down. -/
def accessFails (d : Device) (x : Channel) (data : HostData) (reg : Nat) : Bool :=
  data.fails || ((regionOf x reg).kind == 3 && !d.fy.linkA) || ((regionOf x reg).kind == 4 && !d.fy.linkB)

/-! ## Fault summary (R615) -/

def dayMs : Nat := 86400000
/-- Records of a channel's history, newest first. -/
def allRecords (x : Channel) : List FaultRec := x.hist.buffer ++ x.hist.flash
/-- Transient faults of the last 24 h. -/
def transients (x : Channel) : Nat :=
  ((allRecords x).filter fun r => r.judge == 0 && lifeMs x < r.lifeMs.toNat + dayMs).length

def stackSpares (x : Channel) : Nat := (Ch.all.map fun s => (x.memStacks.get s).reg.sparesUsed.toNat).sum

def chanState (x : Channel) : Nat :=
  if !inService x then 0 else if x.flt.draining then 3 else if chanDegraded x then 2 else 1

def faultSummary (d : Device) : List Byte :=
  let v := d.fy.dev
  let flags := b2n d.fy.replace.isSet + 2 * b2n v.draining + 4 * b2n (Ch.all.any fun c => (chanOf d c).fltHist.rebuilt) + 8 * b2n v.degraded
  let entry := fun (c : Ch) =>
    let x := chanOf d c
    leBytes 1 (chanState x) ++ leBytes 1 (min 255 (x.failedCols.length + x.failedRows.length)) ++ leBytes 1 (stackSpares x) ++
    leBytes 1 x.pumps.count.toNat ++ leBytes 2 x.flt.permanent.toNat ++ leBytes 2 (min 65535 (transients x)) ++ leBytes 4 x.flt.uncorr.toNat
  leBytes 4 flags ++ leBytes 4 d.fy.drains ++ Ch.all.flatMap entry

/-! ## Attestation (R572 to R575) -/

/-- Bytes that this model does not compute, by place. -/
def openBytes (place n : Nat) : List Byte := (List.range n).map (Config.reportByte place)

/-- Digest of a copy's fingerprint table, in tile order (R575). -/
def copyDigest (w : WCopy) : BitVec 256 := sha3 ((List.range w.reg.tiles.toNat).flatMap fun i => leBytes 8 (tget 0 w.fps i).toNat)

/-- The adapters of a room in READY, TRAIN or CACHE, in ascending slot order. -/
def heldAdapters (x : Channel) (n : Nat) : List (Nat × AdpEntry) :=
  x.slots.filter fun e => (e.2.reg.state == 2 || e.2.reg.state == 3 || e.2.reg.state == 4) && e.2.reg.room.toNat == n

def adapterList (x : Channel) (n : Nat) : List Byte :=
  (heldAdapters x n).flatMap fun e =>
    leBytes 2 e.1 ++ leBytes 2 e.2.reg.owner.toNat ++ leBytes 1 e.2.reg.state.toNat ++ List.replicate 11 0 ++ leBytes 32 e.2.digest.toNat

/-- A model entry of a room entry (Table 14.7). -/
def modelEntry (x : Channel) (r : Room) (m : Nat) : List Byte :=
  let (valid, wgen, dig) := match ptrOf r m with
    | some k => (1, (wgenOf x k).toNat, (copyDigest (copyOf x k)).toNat)
    | none => if r.cfg.kind = 2 then (2, r.trn.wgen.toNat, 0) else (0, 0, 0)
  leBytes 1 m ++ leBytes 1 valid ++ List.replicate 2 0 ++ leBytes 4 wgen ++ List.replicate 8 0 ++ leBytes 32 dig

/-- A room's entry, with its adapter list when LIST is set (Table 14.7). -/
def attestEntry (d : Device) (s : Ch) (n : Nat) (list : Bool) : List Byte :=
  let x := chanOf d (leadOf d s)
  let r := roomOf x n
  let l := adapterList x n
  let (dig, signer, sealedForm) := match r.prog with
    | some p => (p.digest.toNat, p.signer.toNat, p.sealedForm)
    | none => (0, 0, false)
  let keyBytes := fun (k : Option (BitVec 256)) => match k with
    | some v => openBytes (v.toNat * 64) 1184
    | none => List.replicate 1184 0
  leBytes 1 n ++ leBytes 1 s.num ++ leBytes 1 r.cfg.kind.toNat ++ leBytes 1 r.cfg.state.toNat ++
  leBytes 4 (b2n r.cfg.h1Mode + 2 * b2n r.cont.isSome + 4 * b2n sealedForm) ++
  leBytes 8 (heldAdapters x n).length ++ leBytes 32 dig ++ leBytes 32 signer ++
  leBytes 32 (match r.cont with | some c => (sha3 (leBytes 32 c.toNat ++ [3])).toNat | none => 0) ++
  [0, 1, 2, 3].flatMap (modelEntry x r) ++ leBytes 32 (sha3 l).toNat ++
  keyBytes r.key ++ keyBytes x.suiteKey ++ List.replicate 1392 0 ++ (if list then l else [])

/-- The channel that signs: the lowest in service of the suite, or of the device for SCOPE 0. -/
def signerOf (d : Device) (scope : Nat) (s : Ch) : Option Ch :=
  (if scope = 0 then Ch.all else suiteChans d s).find? fun c => inService (chanOf d c)

/-- The report of its moment, from the entries taken (Table 14.6). -/
def reportBytes (d : Device) (cmd : Accepted) (sg : Ch) (entries : List (Nat × List Byte)) : List Byte :=
  let x := chanOf d sg
  let v := d.fy.dev
  let all := (entries.mergeSort fun a b => a.1 ≤ b.1).map (·.2)
  let flags := b2n d.fy.debugOpen + 2 * b2n v.compatH1 + 4 * b2n v.degraded + 8 * b2n v.draining + 16 * b2n d.fy.replace.isSet +
    32 * b2n (if cmd.fn.portB then d.fy.ideB else d.fy.ideA) + 64 * b2n (Ch.all.any fun c => (chanOf d c).trngFail)
  let len := 4096 + (all.map List.length).sum + 2420
  let boot := fun (x : Channel) => 64 * (2 * x.hist.boots + b2n x.debugBoot)
  let fw := fun (c : Ch) => if inService (chanOf d c) then openBytes (128 * (chanOf d c).hist.boots + 1 + c.num) 32 else List.replicate 32 0
  let w := fun (v : BitVec 8) => v.setWidth 32
  leBytes 2 1 ++ leBytes 2 flags ++ leBytes 4 len ++ leBytes 4 entries.length ++ leBytes 4 sg.num ++ leBytes 8 x.node.count.toNat ++
  leBytes 32 (par cmd.params 256 256) ++ leBytes 8 x.hist.boots ++ openBytes 0 32 ++ Ch.all.flatMap fw ++
  (Ch.all.flatMap fun c => leBytes 4 (w (chanOf d c).sec.svn).toNat) ++ List.replicate 16 0 ++
  leBytes 4 (devStatusBits v).toNat ++ leBytes 4 (getFyArrWidth d.fy.width 0).toNat ++ faultSummary d ++
  openBytes (boot x + 8 + sg.num) 1312 ++ openBytes (boot x + 16 + sg.num) 2420 ++ List.replicate 44 0 ++
  all.flatten ++ openBytes (2 ^ 300 + d.free) 2420

/-- Completes a report whose rooms have all had their moment: BAD_COMMAND when the space is too small, ATTEST_FAIL without a usable
per-boot key, DEGRADED when host memory fails (R573, R750). -/
def finishReport (d : Device) (cmd : Accepted) (entries : List (Nat × List Byte)) : Device × Status × List W32 :=
  let scope := par cmd.params 6 2
  let s := Ch.ofNum (par cmd.params 9 2)
  match signerOf d scope s with
  | none => (d, .attestFail, [])
  | some sg =>
    let reg := par cmd.params 64 4
    let bytes := reportBytes d cmd sg entries
    if par cmd.params 192 64 < bytes.length then (d, .badCommand, [])
    else if !cmd.data.signOk || (chanOf d sg).bootKey.isNone then (d, .attestFail, [])
    else if accessFails d (chanOf d sg) cmd.data reg then (d, .degraded, [])
    else
      (send { d with free := d.free + 1 } (.regionWrite cmd.fn reg (par cmd.params 128 64) bytes), .ok, [BitVec.ofNat 32 bytes.length])

/-- A room's moment for the reports that wait for it (R573). -/
def attestMoment (d : Device) (s : Ch) (n : Nat) : Device :=
  let waits := d.fy.waits.map fun w => match w.kind with
    | .attest rooms taken =>
      if rooms.contains (s, n) then
        { w with kind := .attest (rooms.filter (· != (s, n))) (taken ++ [(64 * s.num + n, attestEntry d s n (parB w.cmd.params 8))]) }
      else w
    | _ => w
  let ready := waits.filter fun w => match w.kind with | .attest [] _ => true | _ => false
  let rest := waits.filter fun w => match w.kind with | .attest [] _ => false | _ => true
  ready.foldl (fun d w => match w.kind with
    | .attest _ taken =>
      let r := finishReport d w.cmd taken
      postResult r.1 w.cmd.key r.2.1 r.2.2
    | _ => d) { d with fy := { d.fy with waits := rest } }

end Sys2Proof.Machine
end

