-- ==== Sys2Proof/Machine/Rooms.lean ====
section
/-! DEFINITION. Machine/Rooms.lean: virtual time, the scheduler, room switches, and the ends of jobs and rooms (chapter 13, R150, R530, R753). -/

namespace Sys2Proof.Machine

/-! ## Scheduling state (Table 13.12) -/

def ssNone : BitVec 2 := 0
def ssEligible : BitVec 2 := 1
def ssRunning : BitVec 2 := 2
def ssBlocked : BitVec 2 := 3

def sstate (d : Device) (s : Ch) (n : Nat) : BitVec 2 := (leadRoom d s n).sch.sstate
def setSstate (d : Device) (s : Ch) (n : Nat) (v : BitVec 2) : Device :=
  modLeadRoom d s n fun r => { r with sch := { r.sch with sstate := v } }
def vtOf (d : Device) (s : Ch) (n : Nat) : Nat := (leadRoom d s n).sch.vt.toNat
def suiteUs (d : Device) (s : Ch) : Nat := nowUs (chanOf d (leadOf d s))
def runningRoom (d : Device) (s : Ch) : Option Nat := if (suiteOf d s).idle then none else some (suiteOf d s).running.toNat
def eligible (d : Device) (s : Ch) : List Nat := roomIndexes.filter fun n => sstate d s n == ssEligible

/-- A charge of t ns (R533). -/
def chargeVt (t : Nat) (r : Room) : Room :=
  let x := t * 65536 + r.vtRem
  let sh := r.sch.shares.toNat
  { r with sch := { r.sch with vt := r.sch.vt + BitVec.ofNat 64 (x / sh) }, vtRem := x % sh }

/-- Adds to an accounting counter on every channel of the suite. -/
def modAcctAll (d : Device) (s : Ch) (n : Nat) (f : SchAcct → SchAcct) : Device :=
  modSuiteRoom d s n fun r => { r with acct := f r.acct }

/-- Charges a room's switch time (R542). -/
def chargeSwitch (d : Device) (s : Ch) (n t : Nat) : Device :=
  modAcctAll (modLeadRoom d s n (chargeVt t)) s n fun a => { a with switchNs := a.switchNs + BitVec.ofNat 64 t }

/-- Charges the running room for its occupancy so far (R533). -/
def chargeRun (d : Device) (s : Ch) (n : Nat) : Device :=
  let now := suiteUs d s
  let t := 1000 * (now - (leadRoom d s n).sinceUs)
  let d1 := modLeadRoom d s n fun r => { chargeVt t r with sinceUs := now }
  modAcctAll d1 s n fun a => { a with runNs := a.runNs + BitVec.ofNat 64 t }

/-- An eligible room's wait comes to its account (Table 13.9). -/
def chargeWait (d : Device) (s : Ch) (n : Nat) : Device :=
  let t := 1000 * (suiteUs d s - (leadRoom d s n).sinceUs)
  modAcctAll d s n fun a => { a with waitNs := a.waitNs + BitVec.ofNat 64 t }

/-- Becoming eligible (R534). -/
def makeEligible (d : Device) (s : Ch) (n : Nat) : Device :=
  let d0 := match runningRoom d s with | some r => chargeRun d s r | none => d
  let others := (eligible d0 s ++ (runningRoom d0 s).toList).filter (· != n)
  let vmin := others.foldl (fun b k => min b (vtOf d0 s k)) (2 ^ 64)
  modLeadRoom d0 s n fun r => { r with
    sinceUs := suiteUs d0 s,
    sch := { r.sch with sstate := ssEligible, vt := if others.isEmpty then r.sch.vt else BitVec.ofNat 64 (max r.sch.vt.toNat vmin) } }

/-- The eligible room with the lowest vt, and among equals the lowest index (R535). -/
def nextRoom (d : Device) (s : Ch) : Option Nat :=
  (eligible d s).foldl (fun b n => match b with
    | none => some n
    | some m => if vtOf d s n < vtOf d s m then some n else some m) none

/-- Whether the scheduler switches at a switch point of the running room (R535). -/
def wantsSwitch (d : Device) (s : Ch) (n : Nat) (yieldAbsent : Bool) : Bool :=
  let e := eligible d s
  (yieldAbsent && !e.isEmpty) ||
  ((suiteOf d s).sliceUs.toNat ≤ suiteUs d s - (leadRoom d s n).resumeUs && e.any fun k => vtOf d s k < vtOf d s n)

/-! ## Tokens (R132, R537) -/

/-- The context of a room on a channel: on the island, or saved. -/
def ctxOn (x : Channel) (n : Nat) : Ctx := if x.island.room = some n then x.island.ctx else (roomOf x n).ctx
def modCtxOn (x : Channel) (n : Nat) (f : Ctx → Ctx) : Channel :=
  if x.island.room = some n then { x with island := { x.island with ctx := f x.island.ctx } }
  else modRoomC x n fun r => { r with ctx := f r.ctx }

/-- The yielding wait at which a room was switched out on a channel still lacks its token. -/
def stillBlocked (x : Channel) (n : Nat) : Bool :=
  match (roomOf x n).yielded with
  | some (t, c) => (readTk (roomOf x n).ctx t).toNat < c
  | none => false

/-- A blocked room whose tokens have come becomes eligible (R534). -/
def unblock (d : Device) (s : Ch) (n : Nat) : Device :=
  if sstate d s n = ssBlocked && !((suiteChans d s).any fun c => stillBlocked (chanOf d c) n) then makeEligible d s n else d

/-- Posts a token to a room on a channel, wherever the room's counters are. -/
def postToken (d : Device) (c : Ch) (n t : Nat) : Device :=
  let d1 := modChan d c fun x => modCtxOn x n fun k => incTk k t
  match suiteOfChan d c with
  | some s => unblock d1 s n
  | none => d1

/-! ## Live state (Table 13.6, R532) -/

def genTerm (r : Room) : Nat := if r.rng.mode then 500 * cdiv r.rng.ngen.toNat 64 else 0
/-- A room's own terms of the switch time, in ns, from its live units (R540). -/
def switchTerm (ws sump cis gens : Nat) : Nat := ws * pageBytes / 4000 + sump * pageBytes / 1000 + cis * pageBytes / 4000 + gens

/-- WS units that the switch-point table lists as live at a bundle counter (R539). -/
def liveUnits (r : Room) (pc : Nat) : List Nat :=
  match r.prog with
  | some p => (match p.info.switchTable.find? (fun e => e.1 == pc) with | some e => e.2 | none => [])
  | none => []

def inUnits (u : List Nat) (m : List (Nat × Byte)) : List (Nat × Byte) := m.filter fun c => u.contains (c.1 / pageBytes)

/-- What a departing room saves on a channel. -/
def saveOf (x : Channel) (n : Nat) : Saved :=
  let r := roomOf x n
  let u := liveUnits r x.island.switchPc
  let sl := (r.staging.filter fun g => !g.held.isEmpty).map (·.key)
  { ws := inUnits u x.ws, tags := x.tags.filter (fun t => u.contains (512 * t.1 / pageBytes)),
    wsPoison := x.wsPoison.filter (fun l => u.contains (l / 1024)),
    sump := inUnits sl x.sump, sumpPoison := x.sumpPoison.filter (fun l => sl.contains (l / 1024)),
    cistern := inUnits r.train.cisLive x.cistern, cisPoison := x.cisPoison.filter (fun l => r.train.cisLive.contains (l / 1024)),
    wsUnits := u.length + 64, sumpUnits := sl.length, cisUnits := r.train.cisLive.length }

/-- A room's own terms of the switch time. A job that has not run yet has its vector registers and the units listed at its first bundle as
its live state (R540, R542). DEDUCED, log 66. -/
def savedTerm (r : Room) : Nat :=
  if r.fresh then switchTerm ((liveUnits r r.ctx.pc).length + 64) 0 0 (genTerm r)
  else switchTerm r.saved.wsUnits r.saved.sumpUnits r.saved.cisUnits (genTerm r)

/-- The island without a room: nothing of the last room is left in its pipelines, buffers and Loop room (R144, R122). What other islands hold,
or have accepted, goes on: the pump queues, the array's and the sampling unit's work, the signals that the controller has yet to take (R136). -/
def emptyIsland (i : Island) : Island :=
  { room := none, ctx := {}, cycle := i.cycle, ps := i.ps, pumps := i.pumps, boundPs := i.boundPs, powerHold := i.powerHold, smp := i.smp,
    arr := i.arr, signals := i.signals, steered := i.steered, lineHolds := i.lineHolds, pumpSeq := i.pumpSeq }

/-- Switch-out of the room on a channel: context and live state go to the save area; its traffic counts in T1 (Table 13.9). -/
def switchOut (x : Channel) (n : Nat) : Channel :=
  let sv := saveOf x n
  let y := modRoomC x n fun r => { r with
    ctx := { x.island.ctx with ordinal := 0 }, saved := sv, fresh := false,
    yielded := match x.island.hold with | some (.token t c true) => some (t, c) | _ => none,
    yieldUs := x.island.holdUs,
    acct := { r.acct with t1Bytes := r.acct.t1Bytes + BitVec.ofNat 64 (pageBytes * (sv.wsUnits + sv.sumpUnits + sv.cisUnits)) } }
  { y with island := emptyIsland y.island }

/-- The program window as the image holds it. -/
def windowBytes (p : Program) : List (Nat × Byte) :=
  (p.stream.filter fun b => b.1 < 128 * p.info.winBundles).map fun b => (p.info.winBase + b.1, b.2)

/-- Switch-in on a channel: what is not restored reads as zero and carries no tag (R532); arrivals are copied (R537). A job's first
resume finds its program window loaded and all else zero. -/
def switchIn (x : Channel) (n : Nat) : Channel :=
  let r := roomOf x n
  let first := match r.prog with | some p => windowBytes p | none => []
  let ws0 := if r.fresh then writeCells [] first else r.saved.ws
  let tags := r.arrivals.foldl (fun t a => match a.tag with
    | some g => insertTag (clearTags t a.addr a.bytes.length) (a.addr / 512) g
    | none => clearTags t a.addr a.bytes.length) r.saved.tags
  let bad := r.arrivals.foldl (fun l a =>
    addAll (dropAll l (linesOf (a.addr, a.bytes.length))) (a.bad.map (a.addr / 64 + ·))) r.saved.wsPoison
  let y : Channel := { x with
    ws := r.arrivals.foldl (fun m a => writeBytes m a.addr a.bytes) ws0,
    tags := tags, wsPoison := bad, sump := r.saved.sump, sumpPoison := r.saved.sumpPoison, cistern := r.saved.cistern, cisPoison := r.saved.cisPoison,
    island := { emptyIsland x.island with room := some n, ctx := r.ctx, steered := [] },
    arrStatus := { x.arrStatus with steered := false } }
  let z := r.arrivals.foldl (fun y a => (a.bad.map (a.addr / 64 + ·)).foldl (fun y l => setArose (.ws n l) a.arose y) y) y
  modRoomC z n fun r => { r with
    saved := {}, arrivals := [], fresh := false, yielded := none,
    acct := { r.acct with t1Bytes := r.acct.t1Bytes + BitVec.ofNat 64 (pageBytes * (r.saved.wsUnits + r.saved.sumpUnits + r.saved.cisUnits)) } }
where
  /-- A tag in its place. -/
  insertTag (t : Tab TileTag) (u : Nat) (g : TileTag) : Tab TileTag := t.filter (fun p => p.1 < u) ++ [(u, g)] ++ t.filter (fun p => u < p.1)
  /-- Bytes listed one by one, in a memory. -/
  writeCells (m : Memory) (l : List (Nat × Byte)) : Memory := l.foldl (fun m c => writeBytes m c.1 [c.2]) m

/-! ## Switches (R535 to R542) -/

/-- A receive that waits with no data landed does not count as outstanding (R537). -/
def unbegun (x : Channel) (e : PumpEntry) : Bool :=
  (pdKind e.desc == 6 || pdKind e.desc == 7) && !(x.posted.any fun p => p.seq == e.seq && p.begun)

/-- The waits of R146 on a channel: the array, the pump descriptors and the write-through appends; and the work that a room which has left for
good still has in the sampling unit (R150). Pipeline writes land by themselves (landAll). -/
def quiet (x : Channel) : Bool :=
  x.island.arr.isNone && (match x.island.smp with | some m => !m.dead | none => true) && x.island.pumps.all (fun q => q.2.all (unbegun x)) &&
  (match x.island.room with | some n => (roomOf x n).appends == 0 && !((roomOf x n).staging.any (·.flushing)) | none => true)

/-- The arriving room resumes: counters, charges and switch time (R540, R542). -/
def arrive (d : Device) (s : Ch) (n : Nat) (leaving : List Nat) : Device :=
  let cs := suiteChans d s
  let terms := cs.map fun c => savedTerm (roomOf (chanOf d c) n) + pageBytes * ((roomOf (chanOf d c) n).arrivals.map fun a => cdiv a.bytes.length pageBytes).sum / 4000
  let own := terms.foldl max 0
  let time := (List.zipWith (· + ·) terms leaving).foldl max 0 + 1800
  let d1 := chargeSwitch (chargeWait d s n) s n (own + 900)
  let d2 := modChans d1 cs fun _ x => switchIn x n
  let now := suiteUs d s
  let d3 := modLeadRoom d2 s n fun r => { r with
    sinceUs := now, resumeUs := now,
    sch := { r.sch with
      sstate := ssRunning, lastSwitchNs := BitVec.ofNat 32 time,
      maxSwitchNs := if r.sch.maxSwitchNs.toNat < time then BitVec.ofNat 32 time else r.sch.maxSwitchNs } }
  modSuite d3 s fun u => { u with running := BitVec.ofNat 6 n, idle := false, switches := u.switches + 1 }

/-- The departing room leaves, saved (R539, R542). -/
def depart (d : Device) (s : Ch) (n : Nat) : Device :=
  let cs := suiteChans d s
  let d0 := chargeRun d s n
  let d1 := modChans d0 cs fun _ x => switchOut x n
  let terms := cs.map fun c => savedTerm (roomOf (chanOf d1 c) n)
  let units := (cs.map fun c => let v := (roomOf (chanOf d1 c) n).saved; v.wsUnits + v.sumpUnits + v.cisUnits).foldl (· + ·) 0
  let d2 := chargeSwitch d1 s n (terms.foldl max 0 + 900)
  let blocked := cs.any fun c => stillBlocked (chanOf d2 c) n
  let d3 := modAcctAll d2 s n fun a => { a with switches := a.switches + 1, preempts := if blocked then a.preempts else a.preempts + 1 }
  let d4 := modLeadRoom d3 s n fun r => { r with
    sinceUs := suiteUs d s, sch := { r.sch with sstate := if blocked then ssBlocked else ssEligible, liveUnits := BitVec.ofNat 32 units } }
  modSuite d4 s fun u => { u with idle := true }

/-! ## Drain, as it follows the rooms (R610) -/

def suiteDraining (d : Device) (s : Ch) : Bool := (suiteChans d s).any fun c => (chanOf d c).flt.draining
def anyDraining (d : Device) : Bool := Ch.all.any fun c => (chanOf d c).flt.draining
def chanHasStarted (d : Device) (c : Ch) : Bool :=
  match suiteOfChan d c with
  | some s => roomIndexes.any fun n => isStarted (leadRoom d s n)
  | none => false

/-- DRAIN_DONE once no room of a draining channel is STARTED (R610 step 6). -/
def showDrained (d : Device) : Device :=
  modChans d Ch.all fun c x =>
    if x.flt.draining && !chanHasStarted d c then { x with flt := { x.flt with drainDone := true } } else x

/-- A room whose job has stopped under a drain is drained (R610 step 5). -/
def markDrained (d : Device) (s : Ch) (n : Nat) (st : Status) : Device :=
  let d1 := modChans d (suiteChans d s) fun _ x =>
    if x.flt.draining then
      let m : BitVec 64 := BitVec.shiftLeft 1 n
      record { x with flt := { x.flt with drainedRooms := x.flt.drainedRooms ||| m } } { cls := 0x90, kind := 10, room := BitVec.ofNat 6 n, status := st }
    else x
  postRoomEvent d1 s n 0x03 st

/-! ## The ends of jobs -/

/-- A room leaves the islands without a save: its pipeline writes land, its array operation, its sampling run and its descriptors complete, and
their tokens are discarded (R150, R530); its receives are withdrawn, since no transfer may be delivered to a room that is not started (R494), and so are its collectives' chunks. DEDUCED, log 52. -/
def leaveIslands (d : Device) (s : Ch) (n : Nat) : Device :=
  let d1 := modChans d (suiteChans d s) fun _ x =>
    let keep := fun (e : PumpEntry) => !(e.room == n && (pdKind e.desc == 6 || pdKind e.desc == 7))
    let dead := fun (e : PumpEntry) => if e.room = n then { e with dead := true } else e
    let pumps := (x.island.pumps.map fun q => (q.1, (q.2.filter keep).map dead)).filter fun q => !q.2.isEmpty
    let x := if x.island.room = some n then landAll x else x
    let isl := { x.island with
      pumps := pumps,
      smp := x.island.smp.map fun m => if m.room = n then { m with dead := true } else m,
      arr := x.island.arr.map fun a => if a.room = n then { a with dead := true } else a }
    let y := modRoomC x n fun r => { r with fab := { r.fab with arrUsed := 0 } }
    let mine := fun (k : Nat) => (tget {} x.colls k).kind != 0 && (tget {} x.colls k).room.toNat == n
    let gone := x.redChunks.filter fun r => mine r.k
    let slots := 16 * (gone.filter fun r => r.granted).length
    let area := 16 * (gone.filter fun r => !r.granted).length
    { y with
      insts := x.insts.filter (fun i => !mine i.k), redChunks := x.redChunks.filter (fun r => !mine r.k),
      red := { x.red with free := x.red.free + BitVec.ofNat 9 slots, fbUsed := x.red.fbUsed - BitVec.ofNat 32 area },
      island := if isl.room = some n then emptyIsland isl else isl,
      posted := x.posted.filter (fun p => p.room != n), early := x.early.filter (fun e => e.room != n),
      ctrlItems := x.ctrlItems.filter fun i => i.room != n }
  if runningRoom d s = some n then
    let d2 := chargeSwitch d1 s n 900
    modSuite d2 s fun u => { u with idle := true }
  else d1

/-- The live state that a room held off the islands is discarded (R528, R532). -/
def dropLive (d : Device) (s : Ch) (n : Nat) : Device :=
  modSuiteRoom d s n fun r => { r with
    ctx := {}, saved := {}, fresh := true, yielded := none, arrivals := [], stopping := false, appends := 0, staging := [] }

/-- SWITCH_WEIGHTS that waits completes once no STARTED room is left to pass a boundary (R444). -/
def passSwitchWaits (d : Device) (s : Ch) (n : Nat) : Device :=
  let waits := d.fy.waits.map fun w => match w.kind with
    | .switchWeights su m l => if su = s then { w with kind := .switchWeights su m (l.erase n) } else w
    | _ => w
  completeWaits { d with fy := { d.fy with waits := waits } } fun w => match w.kind with
    | .switchWeights su _ l => if su = s && l.isEmpty then some (.ok, []) else none
    | _ => none

/-- Pointer moves that a room owed at its next boundary are made at once when it is no longer STARTED (R444). -/
def moveOwed (d : Device) (s : Ch) (n : Nat) : Device :=
  let d1 := (leadRoom d s n).switchTo.foldl (fun d e => match e.2 with
    | some k => if ptrOf (leadRoom d s n) e.1 = some k then d else movePtr d s n e.1 k
    | none => d) d
  passSwitchWaits (modLeadRoom d1 s n fun r => { r with switchTo := [] }) s n

/-- A bit per room index of a list. -/
def roomBits (l : List Nat) : W64 := l.foldl (fun (b : W64) i => b ||| BitVec.shiftLeft 1 i) 0

/-- The capture of a room, or with later set the cut pending behind it, has ended with a status: commands that wait for it go on; a
command that merged then waits for the pending cut as its own (R629, R630). -/
def ckpDone (d : Device) (s : Ch) (n : Nat) (later : Bool) (st : Status) : Device :=
  let waits := d.fy.waits.map fun w => match w.kind with
    | .checkpoint rooms first failed all =>
      let mine := rooms.contains (s, n, later)
      let rest := (rooms.filter (· != (s, n, later))).map fun r => if r = (s, n, true) then (s, n, false) else r
      let k := WaitKind.checkpoint rest (if mine && first = .ok then st else first) (if mine && st != .ok then failed ++ [n] else failed) all
      { w with kind := k }
    | _ => w
  completeWaits { d with fy := { d.fy with waits := waits } } fun w => match w.kind with
    | .checkpoint [] first failed all =>
      some (first, if all then [0, (roomBits failed).setWidth 32, ((roomBits failed).extractLsb' 32 32)] else [])
    | _ => none

/-- A room's job ends in a state: STOPPED with OK, or FAULTED with its status (R528, R530, Table 13.3). -/
def endJob (d : Device) (s : Ch) (n : Nat) (st : BitVec 3) (status : Status) : Device :=
  let d0 := if runningRoom d s = some n then chargeRun d s n else if sstate d s n = ssEligible then chargeWait d s n else d
  let d1 := dropLive (leaveIslands d0 s n) s n
  let d2 := modSuiteRoom d1 s n fun r => takeLater { r with
    cfg := { r.cfg with state := st }, faultStatus := if st = rsFaulted then status else r.faultStatus }
  let d3 := setSstate d2 s n ssNone
  let d4 := if servesStreams (leadRoom d3 s n) then endStreams d3 s n (if st = rsFaulted then .roomFault else .ok) else d3
  let d5 := modLead d4 s fun x => dropJob x n
  let d6 := moveOwed (modLeadRoom d5 s n fun r => { r with jobWgen := none }) s n
  let d7 := completeWaits d6 fun w => match w.kind with
    | .stop su k => if su = s && k = n then some (if st = rsFaulted then status else .ok, []) else none
    | _ => none
  -- a cut that has not been taken will not come
  let k := (leadRoom d7 s n).ckps
  let d8 := modLeadRoom d7 s n fun r => { r with ckps := { r.ckps with due := none }, ckp := { r.ckp with pending := false } }
  attestMoment (showDrained (if k.due.isSome then ckpDone d8 s n k.capture.isSome .badCommand else d8)) s n

/-- A room faults (R530): it is FAULTED with its status, and event 0x08 is posted. -/
def faultRoom (d : Device) (s : Ch) (n : Nat) (st : Status) : Device :=
  if isStarted (leadRoom d s n) then postRoomEvent (endJob d s n rsFaulted st) s n 0x08 st else d

/-- A room's job stops: by STOP_JOB, END or a drain. -/
def stopRoom (d : Device) (s : Ch) (n : Nat) : Device :=
  if isStarted (leadRoom d s n) then endJob d s n rsStopped .ok else d

/-- Under a drain, a serving or generator job stops once it holds no stream (R610 step 3). -/
def drainServe (d : Device) (s : Ch) (n : Nat) : Device :=
  let r := leadRoom d s n
  if suiteDraining d s && isStarted r && servesStreams r && (roomStreams d s n).isEmpty then
    markDrained (stopRoom d s n) s n .ok
  else d

/-- The controller takes the oldest event code that the program has signalled; no code has a stated meaning of its own. DESIGN CHOICE, log 53. -/
def takeSignal (x : Channel) : Channel := { x with island := { x.island with signals := x.island.signals.drop 1 } }

/-- Faults the room of a channel, whichever suite it belongs to. -/
def faultOn (d : Device) (c : Ch) (n : Nat) (st : Status) : Device :=
  match suiteOfChan d c with
  | some s => faultRoom d s n st
  | none => d

end Sys2Proof.Machine
end

