-- ==== Sys2Proof/Machine/Gradient.lean ====
section
/-! DEFINITION. Machine/Gradient.lean: Stairwell decisions, gradient formats and version rules over one room's training state (R364 to R393). -/

namespace Sys2Proof.Machine

/-- The fields of a Stairwell window address (Table 9.2). -/
def swTag (a : W64) : BitVec 8 := a.extractLsb' 0 8
def swSeg (a : W64) : BitVec 8 := a.extractLsb' 8 8
def swMb (a : W64) : BitVec 12 := a.extractLsb' 16 12
def swKind (a : W64) : BitVec 2 := a.extractLsb' 28 2
/-- A window address with KIND 3 or a reserved bit set is rejected (R362). -/
def swLegal (a : W64) : Bool := swKind a != 3 && a.extractLsb' 30 2 == 0

/-- Whether a room virtual address lies in the Stairwell window (R361). -/
def inStairwell (a : W64) : Bool := a.extractLsb' 32 32 == 0xFFFD

/-- Whether a room virtual address lies in the Cistern window (R377). -/
def inCistern (a : W64) : Bool := a.extractLsb' 32 32 == 0xFFFC

/-- Whether a room virtual address lies in the Sump window (R228). -/
def inSump (a : W64) : Bool := a.extractLsb' 32 32 == 0xFFFF

/-- TOP: the offset just past the highest frame not bound by a pop (R363, R367). -/
def stwTop (frames : List Frame) : Nat :=
  match frames.find? (fun f => !f.bound) with
  | some f => f.off + f.size
  | none => 0

/-- The outcomes of Table 9.4. -/
inductive PushOutcome where
  | stored | dropped | full
  deriving DecidableEq, Repr

/-- Table 9.4: the outcome of a push of frame size f of kind k, whose segment is dropped or not (R365, R366). -/
def pushOutcome (top f stwPages stwSeg stwKeep : Nat) (kind : BitVec 2) (segDropped : Bool) : PushOutcome :=
  let c := stwPages * 65536
  -- LIMIT and LIMIT − KEEP may be negative, so the sums are compared on the other side
  if kind = 0 ∧ !segDropped ∧ top + f + 512 * stwSeg + 512 * stwKeep ≤ c then .stored
  else if kind = 0 ∧ top + 512 + 512 * stwSeg ≤ c then .dropped
  else if kind = 1 ∧ top + f + 512 * stwSeg ≤ c then .stored
  else if kind = 2 ∧ top + f ≤ c then .stored
  else .full

/-- The frame size of a payload of n bytes: the header unit and the payload rounded up (R363). -/
def frameSize (n : Nat) : Nat := 512 + 512 * cdiv n 512

/-- floor of log2 of a positive FP32 value, subnormals included (R383). -/
def fp32Log2 (x : W32) : Int :=
  match fp32ToNum x with
  | .fin _ m e => e + bitLen m - 1
  | _ => 0

/-- The gradient format of R383 from a history, outside H1_MODE. -/
def gfmtChoice (h : List W32) : BitVec 8 :=
  if h.length < 4 then 0x8
  else
    let nz := h.filter fun x => fp32Lt 0 x
    match nz with
    | [] => 0x0
    | x :: xs =>
      let hi := xs.foldl (fun a b => max a (fp32Log2 b)) (fp32Log2 x)
      let lo := xs.foldl (fun a b => min a (fp32Log2 b)) (fp32Log2 x)
      let r := hi - lo
      if r ≤ 4 then 0x0 else if r ≤ 12 then 0x1 else 0x8

/-- Appends an entry to a history, dropping the oldest once 16 are held (R382). -/
def histAppend (h : List W32) (x : W32) : List W32 :=
  if h.length < 16 then h ++ [x] else h.drop 1 ++ [x]

/-- Whether an FP32 word is finite. -/
def fp32Finite (x : W32) : Bool :=
  match fp32ToNum x with
  | .fin _ _ _ => true
  | _ => false

/-- Whether any reference to version w remains (R388, R393). -/
def hasRef (refs : List VerRef) (w : W32) : Bool := refs.any (fun r => r.wgen == w)

/-- The shadows that stay once the references have changed (R393). -/
def keptShadows (refs : List VerRef) (sh : List Shadow) : List Shadow := sh.filter fun s => hasRef refs s.wgen

/-- The lowest free page of the shadow area (R390). -/
def freeShadow (n : Nat) (sh : List Shadow) : Option Nat :=
  (List.range n).find? fun i => !(sh.any fun s => s.slot == i)

/-- What a write to a versioned page of version v needs (R390, R391). -/
inductive VerWrite where
  | proceed            -- the page already holds WGEN + 1
  | shadow (slot : Nat)
  | stall              -- no shadow page is free
  | mark               -- no reference to v remains
  deriving DecidableEq, Repr

def verWrite (t : TrainState) (wgen : W32) (shdPages page : Nat) : VerWrite :=
  let v := tget 0 t.verMap page
  if v = wgen + 1 then .proceed
  else if hasRef t.refs v then
    match freeShadow shdPages t.shadows with
    | some s => .shadow s
    | none => .stall
  else .mark

/-- Where a reader's access under a version finds a page (R392). -/
inductive VerRead where
  | live
  | shadow (slot : Nat)
  | gone
  deriving DecidableEq, Repr

/-- A page whose entry lies below w has not been written since before w, and its contents are still those of w. DEDUCED, log 130. -/
def verRead (t : TrainState) (w : W32) (page : Nat) : VerRead :=
  let v := tget 0 t.verMap page
  if v = w then .live
  else match t.shadows.find? (fun s => s.page == page && s.wgen == w) with
    | some s => .shadow s.slot
    | none => if v < w then .live else .gone

/-- Whether a registration for w is refused: a page was written above w without a shadow of w (R389). -/
def regRefused (t : TrainState) (vwPages : Nat) (w : W32) : Bool :=
  (List.range vwPages).any fun p =>
    let v := tget 0 t.verMap p
    w < v && !(t.shadows.any fun s => s.page == p && s.wgen == w)

end Sys2Proof.Machine
end

