-- ==== Sys2Proof/Machine/Tensors.lean ====
section
/-! DEFINITION. Machine/Tensors.lean: the checks of a program's metadata, the tensor table, state areas, and the copies that masters give (R213, R220, R373, R396 to R403, R421, R422, R455). -/

namespace Sys2Proof.Machine

/-! ## The KV configuration (R213, R220, R221) -/

/-- The address space of a room ends at 2^48, and the Sump window is its last 4 GiB. -/
def addrEnd : Nat := 2 ^ 48
def sumpWindow : Nat × Nat := (0xFFFF00000000, 2 ^ 32)

/-- Hg is the largest power of two that divides H and keeps two rows within 2,048 B (R213). -/
def headsLegal (k : KvRoom) : Bool :=
  let pow2 := [1, 2, 4, 8, 16, 32, 64].contains k.hg.toNat
  pow2 && k.g != 0 && kvRow2 k ≤ 2048 && (k.g.toNat % 2 == 1 || 2048 < 2 * kvRow2 k)
def dimLegal (k : KvRoom) : Bool := 1 ≤ k.db.toNat && k.db.toNat ≤ 8

def kvArea (k : KvRoom) : Nat × Nat := (k.kvBase.toNat, k.slots.toNat * kvRegions k * kvRP k * pageBytes)
def stripArea (k : KvRoom) : Nat × Nat := (k.kvsBase.toNat, k.slots.toNat * kvRegions k * kvRS k * pageBytes)
def inSpace (r : Nat × Nat) : Bool := r.1 + r.2 ≤ addrEnd

/-- The ranges and reserved codes that Table 5.10 gives (log 75): they are refused as the rules of R220 are. -/
def kvInRange (k : KvRoom) : Bool :=
  k.ablk != 3 && k.layers != 0 && 1 ≤ k.slots.toNat && k.slots.toNat ≤ 65536 && k.sumpSize.toNat ≤ 128 &&
  k.hg.toNat ≤ 32 && k.g.toNat ≤ 64 && k.kvBase.toNat % pageBytes == 0 && k.kvsBase.toNat % pageBytes == 0

/-- The class conditions of R221. -/
def classLegal (k : KvRoom) : Bool :=
  k.cls != 3 && ((k.cls == 2) == decide (16384 ≤ k.slots.toNat)) &&
  (k.cls != 0 || 2 * k.slots.toNat * kvRegions k ≤ k.sumpSize.toNat)

def kvLegal (k : KvRoom) : Bool :=
  kvInRange k && headsLegal k && dimLegal k && k.maxlen != 0 && classLegal k && inSpace (kvArea k) && inSpace (stripArea k) &&
  !meets (kvArea k) (stripArea k) && !meets (kvArea k) sumpWindow && !meets (stripArea k) sumpWindow

/-- The trajectory buffers of a generator stay clear of the other areas (R455). -/
def buffersLegal (i : ProgMeta) : Bool :=
  let r : Room := { kv := i.kv, srv := i.srv, cfg := { tbBase := i.tbBase.setWidth 48 } }
  let buf := (i.tbBase.toNat, 65536 * tbPages r * pageBytes)
  let areas := (i.srv.histBase.toNat, 65536 * areaPages r * pageBytes)
  inSpace buf && !meets buf areas && !meets buf (kvArea i.kv) && !meets buf (stripArea i.kv)

/-! ## Tensor table entries (Table 10.1) -/

def teRule (e : BitVec 512) : Nat := fld e 0 4
def teSform (e : BitVec 512) : Bool := e.getLsbD 4
def teEma (e : BitVec 512) : Bool := e.getLsbD 6
def teSparse (e : BitVec 512) : Bool := e.getLsbD 7
def teSfmt (e : BitVec 512) : BitVec 4 := e.extractLsb' 8 4
def teMblk (e : BitVec 512) : Nat := fld e 12 2
def teRows (e : BitVec 512) : Nat := fld e 32 32
def teCols (e : BitVec 512) : Nat := fld e 64 32
def teState (e : BitVec 512) : Nat := fld e 160 48
def teGrad (e : BitVec 512) : Nat := fld e 256 48
def teFwd (e : BitVec 512) : Nat := fld e 320 48
def teBwd (e : BitVec 512) : Nat := fld e 384 48
def teTouch (e : BitVec 512) : Nat := fld e 448 48
def teReserved (e : BitVec 512) : Bool :=
  [(14, 18), (240, 16), (304, 16), (368, 16), (432, 16), (496, 16)].all fun f => fld e f.1 f.2 == 0
def teN (e : BitVec 512) : Nat := teRows e * teCols e
/-- Side of a matrix block: the whole tensor for MBLK 3. -/
def teSide (e : BitVec 512) : Nat := if teMblk e = 3 then max (teRows e) (teCols e) else 128 * 2 ^ teMblk e
def teBlocks (e : BitVec 512) : Nat := cdiv (teRows e) (teSide e) * cdiv (teCols e) (teSide e)
/-- SFMT 0x9: the master is itself the weight (R422). -/
def teWhole (e : BitVec 512) : Bool := teSfmt e == 0x9

/-- Where each tensor's gradient has to lie (R397). -/
def gradPlaces : Nat → List (BitVec 512) → List Nat
  | _, [] => []
  | p, e :: es => 65536 * p :: gradPlaces (if teRule e = 0 then p else p + cdiv (teN e) 16384) es

def isPow2In (lo hi n : Nat) : Bool := (List.range 32).any fun i => 2 ^ i == n && lo ≤ n && n ≤ hi

/-- One entry obeys R397, with the place its gradient has to have. -/
def entryLegal (e : BitVec 512) (place : Nat) : Bool :=
  teReserved e && teRule e ≤ 4 && (teMblk e != 3 || teRule e == 2) && (!teSparse e || teRule e == 1) &&
  (teRule e != 4 || isPow2In 32 16384 (teCols e)) && teGrad e == place

def tableLegal (i : ProgMeta) : Bool :=
  !i.statePlace2 && (i.tensors.zip (gradPlaces 0 i.tensors)).all fun p => entryLegal p.1 p.2

/-! ## Adapted points (R320, R321) -/

/-- Bytes of an adapter's point data: 8 * N_p for each point. -/
def pointBytes (i : ProgMeta) : Nat := 8 * i.widths.sum
def pointsLegal (i : ProgMeta) : Bool :=
  i.widths.length ≤ 1024 && pointBytes i ≤ 4190208 && i.widths.all fun w => w % 32 == 0 && 32 ≤ w && w ≤ 65536
/-- POINT_SIG: the CRC-64 over the widths as u32 values in point order. -/
def pointSig (i : ProgMeta) : W64 := crc64 (i.widths.flatMap (leBytes 4))

/-- The metadata that LOAD_PROGRAM refuses for a room of a kind (R220, R373, R374, R397, R455, R674). -/
def metaBad (i : ProgMeta) (r : Room) : Bool :=
  let serving := r.cfg.kind == 0 || r.cfg.kind == 1
  i.kind != r.cfg.kind || decide (768 < i.trn.cisSize.toNat) || !pointsLegal i || (serving && !kvLegal i.kv) || (r.cfg.kind == 1 && !buffersLegal i) || (i.trn.segments && i.rngMode) ||
  (!serving && !tableLegal i)

/-! ## State areas (R398) -/

/-- The sub-areas of Table 10.3, in order. -/
inductive SubArea where
  | master | m | v | stats | flags | counters | ema
  deriving DecidableEq, Repr

def roundPage (n : Nat) : Nat := cdiv n pageBytes * pageBytes

/-- Sub-areas that a tensor's rule uses, with their bytes. -/
def subSizes (e : BitVec 512) : List (SubArea × Nat) :=
  let n := teN e
  let rule := teRule e
  let mv := if teSform e then 2 * n + cdiv n 32 else 4 * n
  if rule = 0 then [] else
  (if teWhole e then [] else [(.master, 4 * n)]) ++ [(.m, mv)] ++ (if rule = 2 then [] else [(.v, mv)]) ++
  (if rule = 3 then [(.stats, 16 * teSide e ^ 2 * teBlocks e), (.flags, 64 * teBlocks e)] else []) ++
  (if rule = 4 then [(.counters, 4 * teRows e)] else []) ++ (if teEma e then [(.ema, 4 * n)] else [])

def placeSubs : Nat → List (SubArea × Nat) → List (SubArea × Nat × Nat)
  | _, [] => []
  | a, s :: ss => (s.1, a, s.2) :: placeSubs (a + roundPage s.2) ss

/-- Each sub-area with its room virtual address and bytes. -/
def subAreas (e : BitVec 512) : List (SubArea × Nat × Nat) := placeSubs (teState e) (subSizes e)
def subOf (e : BitVec 512) (k : SubArea) : Option (Nat × Nat) := ((subAreas e).find? fun s => s.1 == k).map (·.2)

/-- Where a tensor's FP32 masters start (R398, R422). -/
def masterVa (e : BitVec 512) : Nat := if teWhole e then teFwd e else ((subOf e .master).getD (0, 0)).1

/-- The touch map of a tensor: one bit per 32-element block, or per row (R410, R411). -/
def touchRun (e : BitVec 512) : Option (Nat × Nat) :=
  if teRule e = 4 then some (teTouch e, cdiv (teRows e) 8)
  else if teSparse e then some (teTouch e, cdiv (cdiv (teN e) 32) 8)
  else none

/-! ## Fresh state (R403) -/

/-- Sets a run of room memory to zero: pages that are not allocated read zero already. -/
def zeroRun (n : Nat) (x : Channel) (run : Nat × Nat) : Channel :=
  ((tkeys (roomOf x n).pages).filter fun p => (pagesOf run).headD 0 ≤ p && p * pageBytes < run.1 + run.2 && run.2 != 0).foldl (fun x p =>
    let r := resolve x n p
    let y := modPte (cancelEvict x r) r fun e => if e.valid then { e with dirty := true } else e
    match r with
    | .room _ _ => refreshFp (modRoomC y n fun m => { m with mem := clearBytes m.mem (max run.1 (p * pageBytes)) (bytesInPage run p) }) r
    | .common _ => x) x

/-- What START_JOB sets to zero of a tensor. -/
def zeroRuns (e : BitVec 512) : List (Nat × Nat) :=
  ((subAreas e).filter fun s => s.1 != .master && s.1 != .ema).map (·.2) ++ (touchRun e).toList

/-- TSTEP of entry i in the table. -/
def tstepRun (base i : Nat) : Nat × Nat := (base + 64 * i + 26, 4)

/-- Pages of a room that lie in a run. -/
def heldIn (x : Channel) (n : Nat) (run : Nat × Nat) : List Nat :=
  (tkeys (roomOf x n).pages).filter fun p => (pagesOf run).headD 0 ≤ p && p * pageBytes < run.1 + run.2 && run.2 != 0

/-- A tensor's averages become its masters: page after page where either is allocated; none when a page cannot be. -/
def emaCopy (n : Nat) (e : BitVec 512) (x : Channel) : Option Channel :=
  match subOf e .ema with
  | none => some x
  | some area =>
    let src := masterVa e
    let pages := (heldIn x n (src, area.2)).flatMap (fun p => pagesOf (area.1 + (max src (p * pageBytes) - src), bytesInPage (src, area.2) p)) ++
      heldIn x n area
    pages.eraseDups.foldlM (fun x p =>
      (allocRoomPage 0 n x p).map fun y =>
        let off := p * pageBytes - area.1
        let len := bytesInPage area p
        writeRoom y n (p * pageBytes) (readRoom y n (src + off) len)) x

/-- The state of every tensor as START_JOB sets it on a channel. -/
def freshTensors (n : Nat) (base : Nat) (ts : List (BitVec 512)) (x : Channel) : Option Channel :=
  let y := ((List.range ts.length).map (tstepRun base)).foldl (zeroRun n) x
  ts.foldlM (fun x e => emaCopy n e ((zeroRuns e).foldl (zeroRun n) x)) y

/-! ## Masters and the copies derived from them (R421, R439) -/

/-- The tensors that are not frozen, each with the job's element at which it starts (R400). -/
def placeTensors : Nat → List (BitVec 512) → List (Nat × BitVec 512)
  | _, [] => []
  | a, e :: es => if teRule e = 0 then placeTensors a es else (a, e) :: placeTensors (a + teN e) es
def jobTensors (i : ProgMeta) : List (Nat × BitVec 512) := placeTensors 0 i.tensors

/-! ## Runs of a tensor's state, and the units of a shard (R399, R424) -/

/-- Bytes of a sub-area that hold the elements from a to before b, or the matrix blocks, rows and scales that those lie in. -/
def subRuns (e : BitVec 512) (k : SubArea) (base a b : Nat) : List (Nat × Nat) :=
  let perRow := teSide e * teCols e
  let nbc := cdiv (teCols e) (teSide e)
  let b0 := a / perRow * nbc
  let b1 := cdiv b perRow * nbc
  let wide := [(base + 4 * a, 4 * (b - a))]
  match k with
  | .master | .ema => wide
  | .m | .v =>
    if teSform e then [(base + 2 * a, 2 * (b - a)), (base + cdiv (2 * teN e) 64 * 64 + a / 32, cdiv b 32 - a / 32)] else wide
  | .stats => [(base + 16 * teSide e ^ 2 * b0, 16 * teSide e ^ 2 * (b1 - b0))]
  | .flags => [(base + 64 * b0, 64 * (b1 - b0))]
  | .counters => [(base + 4 * (a / teCols e), 4 * (cdiv b (teCols e) - a / teCols e))]

/-- All runs of a tensor's state, masters included, for the elements from a to before b. -/
def stateRuns (e : BitVec 512) (a b : Nat) : List (Nat × Nat) :=
  if b ≤ a then [] else
  (if teWhole e then [(masterVa e + 4 * a, 4 * (b - a))] else []) ++ (subAreas e).flatMap fun s => subRuns e s.1 s.2.1 a b

def runPages (l : List (Nat × Nat)) : List Nat := (l.flatMap pagesOf).eraseDups

/-- Pages of a unit that is a matrix block: its rows' parts, and its own statistics and flags. -/
def blockPages (e : BitVec 512) (i j : Nat) : List Nat :=
  let w := teSide e
  let c0 := w * j
  let c1 := min (teCols e) (w * (j + 1))
  let rows := (List.range (min (teRows e) (w * (i + 1)) - w * i)).map (w * i + ·)
  let b := i * cdiv (teCols e) w + j
  let own := fun (s : SubArea × Nat × Nat) => match s.1 with
    | .stats => [(s.2.1 + 16 * w ^ 2 * b, 16 * w ^ 2)]
    | .flags => [(s.2.1 + 64 * b, 64)]
    | k => rows.flatMap fun r => subRuns e k s.2.1 (r * teCols e + c0) (r * teCols e + c1)
  runPages ((if teWhole e then rows.map fun r => (masterVa e + 4 * (r * teCols e + c0), 4 * (c1 - c0)) else []) ++ (subAreas e).flatMap own)

/-- The state pages of each unit of a tensor that lies in a range of its elements, in unit order (Table 10.2). -/
def tensorUnits (e : BitVec 512) (a b : Nat) : List (List Nat) :=
  if teRule e = 2 || teRule e = 3 then
    let perRow := teSide e * teCols e
    ((List.range (cdiv (teRows e) (teSide e))).filter fun i => a ≤ i * perRow && i * perRow < b).flatMap fun i =>
      (List.range (cdiv (teCols e) (teSide e))).map (blockPages e i)
  else
    ((List.range (cdiv (teN e) 16384)).filter fun k => a ≤ 16384 * k && 16384 * k < b).map fun k =>
      runPages (stateRuns e (16384 * k) (min (teN e) (16384 * (k + 1))))

/-- The state pages of each unit of a shard (R424, R428). -/
def shardUnits (i : ProgMeta) : List (List Nat) :=
  (jobTensors i).flatMap fun t => tensorUnits t.2 (i.firstElem - t.1) (min (t.1 + teN t.2) i.lastElem - t.1)

/-! ## The copies that masters give (R421) -/

/-- A master element of a tensor. -/
def masterAt (x : Channel) (n : Nat) (e : BitVec 512) (i : Nat) : W32 := BitVec.ofNat 32 (readRoomLe x n (masterVa e + 4 * i) 4)

/-- The value of the weight at row r, column c; +0 beyond the matrix (R187). -/
def weightAt (x : Channel) (n : Nat) (e : BitVec 512) (r c : Nat) : Num :=
  if r < teRows e && c < teCols e then fp32ToNum (masterAt x n e (r * teCols e + c)) else .fin false 0 0

/-- A tile of a copy: line l and position p of tile (i, j), with the block axis along the columns for the forward copy and along the rows
for the backward one; X-ordered, as weight images are (R165, R421). -/
def copyTile (x : Channel) (n : Nat) (e : BitVec 512) (fwd : Bool) (f : Fmt) (i j : Nat) : List Byte :=
  let at_ := fun (l p : Nat) => if fwd then weightAt x n e (128 * i + l) (128 * j + p) else weightAt x n e (128 * i + p) (128 * j + l)
  match f with
  | .bf16 => packTile f true fun l p => (outBf16 .rne false (at_ l p)).toNat
  | .mx m =>
    let block := fun (l k : Nat) => mxQuantBlock m true ((List.range 32).map fun q => (.rne, at_ l (32 * k + q)))
    packTile f true (fun l p => (block l (p / 32)).2.getD (p % 32) 0) ++
    (List.range 512).map fun b => (block (b / 4) (b % 4)).1
  | _ => []

/-- Tile (i, j) of a matrix, rows by columns, holds an element of the range from a to before b. -/
def tileMeets (e : BitVec 512) (a b i j : Nat) : Bool :=
  (List.range 128).any fun k =>
    let r := 128 * i + k
    r < teRows e && r * teCols e + 128 * j < b && a < r * teCols e + min (128 * j + 128) (teCols e)

/-- The tiles of both copies that hold an element of the range; the place of a tile in its copy is not stated. -/
def writeCopies (n : Nat) (e : BitVec 512) (lo hi : Nat) (x : Channel) : Option Channel :=
  match Fmt.ofCode (teSfmt e) with
  | none => some x
  | some f =>
    if teWhole e then some x else
    let ti := cdiv (teRows e) 128
    let tj := cdiv (teCols e) 128
    let put := fun (fwd : Bool) (base : Nat) (x : Channel) =>
      (((List.range ti).flatMap fun i => (List.range tj).map fun j => (i, j)).filter fun t => tileMeets e lo hi t.1 t.2).foldlM (fun (x : Channel) t =>
        let a := base + tileBytes f * (Config.copyTile fwd ti tj t.1 t.2 % (ti * tj))
        let bs := copyTile x n e fwd f t.1 t.2
        (allocRoomPages x n 0 (pagesOf (a, bs.length))).map fun y => writeRoom y n a bs) x
    (put true (teFwd e) x).bind (put false (teBwd e))

/-- Writes the shard's own range of the masters from the image's bytes, element k of the job at byte 4k (R400, R439), and derives both
copies of each tensor that the range meets. -/
def writeMasters (n : Nat) (i : ProgMeta) (bytes : Nat → Nat → List Byte) (x : Channel) : Option Channel :=
  (jobTensors i).foldlM (fun x t =>
    let lo := max t.1 i.firstElem
    let hi := min (t.1 + teN t.2) i.lastElem
    if hi ≤ lo then some x else
    let a := masterVa t.2 + 4 * (lo - t.1)
    let bs := bytes (4 * lo) (4 * (hi - lo))
    (allocRoomPages x n 0 (pagesOf (a, bs.length))).bind fun y => writeCopies n t.2 (lo - t.1) (hi - t.1) (writeRoom y n a bs)) x

/-- Pages that a shard's masters and copies need at most. -/
def masterPages (i : ProgMeta) : List Nat :=
  ((jobTensors i).flatMap fun t =>
    let lo := max t.1 i.firstElem
    let hi := min (t.1 + teN t.2) i.lastElem
    if hi ≤ lo then [] else
    let copy := match Fmt.ofCode (teSfmt t.2) with
      | some f => if teWhole t.2 then 0 else tileBytes f * (cdiv (teRows t.2) 128 * cdiv (teCols t.2) 128)
      | none => 0
    pagesOf (masterVa t.2 + 4 * (lo - t.1), 4 * (hi - lo)) ++ pagesOf (teFwd t.2, copy) ++ pagesOf (teBwd t.2, copy)).eraseDups

/-! ## Places in a training room (R168, R361, R379) -/

def pageIn (p base n : Nat) : Bool := base ≤ p && p < base + n

/-- A page that no descriptor of the room reaches: the Stairwell region (R361) and the save area (R531). -/
def barred (r : Room) (p : Nat) : Bool :=
  (trains r && pageIn p (r.trn.stwBase.toNat / pageBytes) r.trn.stwPages.toNat) ||
  pageIn p (r.cfg.saveBase.toNat / pageBytes) r.cfg.savePages.toNat

/-- Pages of the spill area from SPILL_BASE: those of the allocation, and those of the gradients, which GRAD_OFF places there as in the Cistern
(R379, R397). DEDUCED, log 126. -/
def spillPages (r : Room) : Nat :=
  match r.prog with
  | some p => p.info.tensors.foldl (fun m e => max m (teGrad e / pageBytes + cdiv (teN e) 16384)) r.trn.cisSize.toNat
  | none => r.trn.cisSize.toNat

/-- Pages of the Stairwell region and of the spill area are pinned to T1 (R170, R361, R379); every other page is tiered. -/
def placeOf (r : Room) (p : Nat) : BitVec 2 :=
  if trains r && (pageIn p (r.trn.spillBase.toNat / pageBytes) (spillPages r) || pageIn p (r.trn.stwBase.toNat / pageBytes) r.trn.stwPages.toNat)
  then 1 else 0

def allocFor (x : Channel) (n : Nat) (pages : List Nat) : Option Channel :=
  pages.foldlM (fun x p => allocRoomPage (placeOf (roomOf x n) p) n x p) x

/-- A delivery that no descriptor makes: the runs are written, and allocated where they are not; none when one of them meets a barred page, or
the account cannot take a page (R168, R361, R531). -/
def deliverRun (d : Device) (c : Ch) (n a : Nat) (bs : List Byte) : Option Device :=
  let ps := pagesOf (a, bs.length)
  if ps.any (barred (roomOf (chanOf d c) n)) then none
  else (allocFor (chanOf d c) n ps).map fun x => writeMem (setChan d c x) c n a bs

end Sys2Proof.Machine
end

