-- ==== Sys2Proof/Machine/Checkpoint.lean ====
section
/-! DEFINITION. Machine/Checkpoint.lean: cuts: what is captured, capture sets, pending maps, and the triggers that ask for a cut (R621 to R643). -/

namespace Sys2Proof.Machine

/-- A range of pages: first page and count. -/
def inRange (p : Nat) (r : Nat × Nat) : Bool := r.1 ≤ p && p < r.1 + r.2

/-- Ranges that no capture takes: KV and strip pages, request areas, trajectory buffers and shadow pages (Table 16.1). -/
def neverCaptured (r : Room) : List (Nat × Nat) :=
  let k := r.kv
  let kv := if servesStreams r then
      [(k.kvBase.toNat / pageBytes, k.slots.toNat * kvRegions k * kvRP k), (k.kvsBase.toNat / pageBytes, k.slots.toNat * kvRegions k * kvRS k),
       (r.srv.histBase.toNat / pageBytes, 65536 * areaPages r)] else []
  let tb := if r.cfg.kind = 1 then [(r.cfg.tbBase.toNat / pageBytes, 65536 * tbPages r)] else []
  let sh := if trains r then [(r.trn.shdBase.toNat / pageBytes, r.trn.shdPages.toNat)] else []
  kv ++ tb ++ sh

/-- Scratch ranges: the Stairwell region, the spill area, the declared ranges, and the save area, which only a POINT cut takes (Table 16.1). -/
def scratchRanges (r : Room) : List (Nat × Nat) :=
  let tr := if trains r then
      [(r.trn.stwBase.toNat / pageBytes, r.trn.stwPages.toNat), (r.trn.spillBase.toNat / pageBytes, spillPages r)] else []
  tr ++ (match r.prog with | some p => p.info.scratch | none => []) ++ [(r.cfg.saveBase.toNat / pageBytes, r.cfg.savePages.toNat)]

/-- The pages of a room on a channel that a cut captures. -/
def capturedPages (r : Room) (point : Bool) : List (Nat × Pte) :=
  r.pages.filter fun e =>
    e.2.valid && !e.2.shared && !((neverCaptured r).any (inRange e.1)) && (point || !((scratchRanges r).any (inRange e.1)))

/-- All captured pages of a room by capture key, each with its DIRTY bit. -/
def capturedAll (d : Device) (s : Ch) (n : Nat) (point : Bool) : List (Nat × Bool) :=
  (suiteChans d s).flatMap fun c => (capturedPages (roomOf (chanOf d c) n) point).map fun e => (capKey c e.1, e.2.dirty)

/-- The slot that the next capture overwrites: the older one, an empty one first (R633, R639). True is B. -/
def nextSlot (k : CkpRoom) : Bool := if !k.aValid then false else if !k.bValid then true else !k.slot

/-- Pages of a slot that holds n room pages: the commit record's page, the directory and the data, with the pages of controller-held state
and register fields, whose number is not stated (R632). -/
def slotNeeds (n : Nat) : Nat := 1 + cdiv (n + Config.ctrlPages n) 4096 + n + Config.ctrlPages n

/-- A capture ends without a commit (Table 16.4): FAILED, LAST_STATUS and the fault history record it. -/
def captureFails (d : Device) (s : Ch) (n : Nat) (st : Status) : Device :=
  let d1 := modLead d s fun x => record x { cls := 0x90, kind := 7, room := BitVec.ofNat 6 n, status := st }
  let d2 := modLeadRoom d1 s n fun r => { r with
    ckps := { r.ckps with capture := none },
    ckp := { r.ckp with busy := false, failed := satInc r.ckp.failed, lastStatus := st.code } }
  ckpDone d2 s n false st

/-- A capture that STOP_JOB or ROOM_DESTROY ends (Table 16.4); a command that waits for it completes as for a room that is not STARTED.
DESIGN CHOICE, log 57. -/
def endCapture (d : Device) (s : Ch) (n : Nat) : Device :=
  if (leadRoom d s n).ckps.capture.isSome then captureFails d s n .badCommand else d

/-- The replicas listed for a model (Table 11.9). -/
def replicasOf (q : SrvWmodel) : List (BitVec 18) :=
  [q.repl0, q.repl1, q.repl2, q.repl3, q.repl4, q.repl5, q.repl6].take q.replN.toNat

/-- A comparison with the replicas starts: the digest of the copy's table goes to each (R447). -/
def startCompare (d : Device) (s : Ch) (k : Nat) : Device :=
  let x := chanOf d (leadOf d s)
  let rs := replicasOf (modelOf x (copyModel x k))
  if rs.isEmpty then d else
  let d1 := modLead d s fun x => modCopy x k fun w => { w with comparing := true, answers := [] }
  rs.foldl (fun d node => sendMsg d (leadOf d s)
    { node := node, queue := 1, reply := 0, bytes := leBytes 32 (copyDigest (copyOf x k)).toNat }) d1

/-- At a checkpoint, each copy that the room reads is reread and then compared with its replicas (R447). -/
def compareCopies (d : Device) (s : Ch) (n : Nat) : Device :=
  [0, 1, 2, 3].foldl (fun d m => match ptrOf (leadRoom d s n) m with
    | some k => startCompare (rereadCopy d s k) s k
    | none => d) d

/-- The live state of the running room on a channel, as its save area takes it. -/
def liveCut (x : Channel) (n : Nat) : LiveCut :=
  let r := roomOf x n
  { ctx := x.island.ctx, saved := saveOf x n, staging := r.staging, frames := r.train.frames, droppedSegs := r.train.droppedSegs, cisLive := r.train.cisLive }

/-- The state that a cut captures on a channel (Table 16.1); the slot table and the pointers are the lead channel's. -/
def cutState (d : Device) (s c : Ch) (n : Nat) (point : Bool) : CutState :=
  let x := chanOf d c
  let l := chanOf d (leadOf d s)
  let r := roomOf x n
  { cfg := r.cfg, rng := r.rng, kv := r.kv, srv := r.srv, adp := r.adp, trn := r.trn, bcast := r.bcast, upd := r.upd, fab := r.fab, tier := r.tier,
    ckp := r.ckp, sch := r.sch,
    slots := (l.slots.filter fun e => e.2.reg.state != 0 && e.2.reg.room.toNat == n).map fun e => (e.1, e.2.reg),
    binds := (leadRoom d s n).binds, hist := r.train.hist, gfmt := r.train.gfmt, gens := r.gens, verMap := r.train.verMap,
    models := [0, 1, 2, 3].map fun m => (ptrOf (leadRoom d s n) m).map fun k => (wgenOf l k, copyDigest (copyOf l k)),
    live := if point then some (liveCut x n) else none }

/-- A write into a slot of the room's Attic from a channel, from a byte offset in the slot (R633). -/
def atticWrite (d : Device) (s : Ch) (n : Nat) (b : Bool) (c : Ch) (off : Nat) (bytes : List Byte) : Device :=
  send d (.atticWrite c (leadRoom d s n).ckp.atticNode n b off bytes)

/-- A cut: the capture set is fixed, the maps and DIRTY bits move on, and the capture starts with zeros over the slot's commit record
(R634, R639). -/
def takeCut (d : Device) (s : Ch) (n : Nat) (point : Bool) : Device :=
  let r := leadRoom d s n
  let all := capturedAll d s n point
  let b := nextSlot r.ckp
  let empty := if b then !r.ckp.bValid else !r.ckp.aValid
  let map := if b then r.ckps.mapB else r.ckps.mapA
  let set := (all.filter fun p => empty || p.2 || map.contains p.1).map (·.1)
  let dirty := (all.filter (·.2)).map (·.1)
  let d0 := modLeadRoom d s n fun r => { r with ckps := { r.ckps with due := none }, ckp := { r.ckp with pending := false } }
  if r.ckp.atticPages.toNat < slotNeeds all.length then captureFails d0 s n .quotaExceeded else
  let keys := all.map (·.1)
  let d1 := modChans d0 (suiteChans d s) fun c x => modRoomC x n fun m =>
    { m with pages := m.pages.map fun e => if keys.contains (capKey c e.1) then (e.1, { e.2 with dirty := false }) else e }
  let d2 := compareCopies d1 s n
  let dir := keys.map fun k => (k, pageFp (chanOf d (Ch.ofNum (k / 2 ^ 32))) (.room n (k % 2 ^ 32)))
  let d3 := atticWrite d2 s n b (leadOf d s) 0 (List.replicate 512 0)
  modLeadRoom d3 s n fun r => { r with
    ckps := { r.ckps with
      drainDue := false,
      capture := some { slotB := b, point := point, step := r.steps, toSend := set, sent := [], forDrain := r.ckps.drainDue, dir := dir,
                        cut := (suiteChans d s).map fun c => (c.num, cutState d s c n point) },
      mapA := if b then addAll r.ckps.mapA dirty else [], mapB := if b then [] else addAll r.ckps.mapB dirty },
    ckp := { r.ckp with
      busy := true, aValid := if b then r.ckp.aValid else false, bValid := if b then false else r.ckp.bValid } }

/-- A trigger asks for a cut: behind a running capture it merges (R629). -/
def askCut (d : Device) (s : Ch) (n : Nat) (point : Bool) : Device :=
  modLeadRoom d s n fun r =>
    if r.ckps.capture.isSome then
      { r with
        ckps := { r.ckps with due := some (r.ckps.due.getD point) },
        ckp := { r.ckp with pending := true, merged := satInc r.ckp.merged } }
    else { r with ckps := { r.ckps with due := some (r.ckps.due.getD point) } }

def hasAttic (r : Room) : Bool := r.ckp.atticPages != 0

/-- The step-count trigger (R628), evaluated where a step ends; in a sharded job only shard 0 evaluates triggers (R626). -/
def stepTrigger (d : Device) (s : Ch) (n : Nat) : Device :=
  let r := leadRoom d s n
  let fires := r.ckp.en && r.ckp.everySteps != 0 && r.ckp.everySteps.toNat ≤ r.steps - r.ckps.lastStep && hasAttic r
  if fires && r.upd.nshards1 = 0 then askCut d s n r.ckp.cut else d

/-- A STEP cut that is due falls at the step boundary (R623, R629). -/
def stepCut (d : Device) (s : Ch) (n : Nat) : Device :=
  let r := leadRoom d s n
  if r.ckps.due = some false && r.ckps.capture.isNone && hasAttic r then takeCut d s n false else d

/-- A POINT cut that is due falls at the next switch point: the live state is saved, and the departing terms are charged (R623, R624). -/
def pointCut (d : Device) (s : Ch) (n : Nat) : Device :=
  let r := leadRoom d s n
  if r.ckps.due = some true && r.ckps.capture.isNone && hasAttic r then
    let terms := (suiteChans d s).map fun c =>
      let v := saveOf (chanOf d c) n
      switchTerm v.wsUnits v.sumpUnits v.cisUnits (genTerm r)
    takeCut (chargeSwitch d s n (terms.foldl max 0 + 900)) s n true
  else d

end Sys2Proof.Machine
end

