-- ==== Sys2Proof/Machine/Switch.lean ====
section
/-! DEFINITION. Machine/Switch.lean: switch points as they are reached, and room switches (R146, R147, R528, R535 to R542, R573, R623). -/

namespace Sys2Proof.Machine

/-! ## Reaching a switch point -/

/-- A POINT cut waits for the room's next switch point (R623). -/
def pointDue (r : Room) : Bool := decide (r.ckps.due = some true) && r.ckps.capture.isNone && hasAttic r

/-- The ordinal at which the streams of a suite can still all stop: the lead's own, or the first that no other channel has passed. -/
def stopOrdinal (d : Device) (s : Ch) (k : Nat) : Nat :=
  ((suiteChans d s).filter (· != leadOf d s)).foldl (fun m c =>
    let i := (chanOf d c).island
    if i.ctx.ended || i.atSwitch then m else max m (i.ctx.ordinal + 1)) k

/-- The scheduler decides on the lead channel, at its switch point of ordinal k, by the room's virtual time up to now (R533, R535, R536). -/
def decideSwitch (d : Device) (s : Ch) (n k : Nat) (absent : Bool) : Device :=
  let d0 := chargeRun d s n
  let d1 := if (leadRoom d0 s n).steps = 0 && !(leadRoom d0 s n).serve.inStep then attestMoment d0 s n else d0
  if (chanOf d1 (leadOf d1 s)).island.switchAt.isNone && (wantsSwitch d1 s n absent || pointDue (leadRoom d1 s n)) then
    let stop := stopOrdinal d1 s k
    modChans d1 (suiteChans d1 s) fun _ x => { x with island := { x.island with switchAt := some stop } }
  else d1

/-- Channel c has reached the switch point of ordinal k at bundle pc. A stop takes effect at the lead's next one (R528). -/
def reachPoint (c : Ch) (n k pc : Nat) (absent : Bool) (d : Device) : Device :=
  match suiteOfChan d c with
  | none => d
  | some s =>
    if c = leadOf d s && (leadRoom d s n).stopping then stopRoom (endCapture d s n) s n else
    let d1 := if c = leadOf d s then decideSwitch d s n k absent else d
    modChan d1 c fun x =>
      if x.island.switchAt = some k then { x with island := { x.island with atSwitch := true, switchPc := pc } } else x

/-! ## The switch (R535, R539) -/

/-- The room's channels go on from the switch point. -/
def resume (d : Device) (s : Ch) : Device :=
  modChans d (suiteChans d s) fun _ x => { x with island := { x.island with atSwitch := false, switchAt := none } }

/-- The lead channel waits at a yielding wait whose token is absent. -/
def yieldsNow (d : Device) (s : Ch) : Bool :=
  match (chanOf d (leadOf d s)).island.hold with
  | some (.token _ _ y) => y
  | _ => false

/-- ROOM_SWITCH: once the waits of R146 end, a POINT cut that is due is taken; then the departing room is saved and the arriving room
restored. When no other room is to run, the running room keeps the islands. A channel whose program has issued END has no switch point left to
reach, and the others do not wait for it. DESIGN CHOICE, log 119. -/
def roomSwitch (s : Ch) (d : Device) : Device :=
  let cs := suiteChans d s
  if cs.isEmpty || !(cs.all fun c => quiet (chanOf d c)) then d else
  match runningRoom d s with
  | none =>
    match nextRoom d s with
    | some n => arrive d s n (cs.map fun _ => 0)
    | none => d
  | some r =>
    if !(cs.all fun c => (chanOf d c).island.atSwitch || (chanOf d c).island.ctx.ended) then d else
    let d1 := pointCut (chargeRun (modChans d cs fun _ x => landAll x) s r) s r
    match nextRoom d1 s with
    | none => resume d1 s
    | some n =>
      if wantsSwitch d1 s r (yieldsNow d1 s) then
        let d2 := depart d1 s r
        arrive d2 s n (cs.map fun c => savedTerm (roomOf (chanOf d2 c) r))
      else resume d1 s

def execRoomSwitch (su : Ch) (s : State) : Out := onDev (roomSwitch su) s

end Sys2Proof.Machine
end

