-- ==== Sys2Proof/Machine/Transfers.lean ====
section
/-! DEFINITION. Machine/Transfers.lean: chunks into frames, posted receives and early transfers, and the arrival of data chunks (R479, R492, R493, R511, R518). -/

namespace Sys2Proof.Machine

/-- A chunk holds at most 1 MiB (R479, R492). -/
def chunkBytes : Nat := 1048576

/-! ## Sending -/

/-- Zero bytes up to a multiple of 64: frame payloads count 64 B units (Table 12.1). -/
def padTo64 (l : List Byte) : List Byte := l ++ List.replicate (64 * cdiv l.length 64 - l.length) 0

/-- Offsets, within a chunk, of the first data byte of frame i: 480 bytes follow the descriptor in the FIRST frame, and 512 fill each other. -/
def frameStart (i : Nat) : Nat := if i = 0 then 0 else 480 + 512 * (i - 1)
def frameCount (bytes : Nat) : Nat := if bytes ≤ 480 then 1 else 1 + cdiv (bytes - 480) 512

/-- The frames of a chunk. bad holds the poisoned lines of its data, as offsets in 64 B. -/
def chunkFrames (src dst : BitVec 18) (sroom droom : BitVec 6) (xid : W32) (k : ChunkDesc) (data : List Byte) (bad : List Nat) : List FabFrame :=
  let n := frameCount data.length
  (List.range n).map fun i =>
    let lo := frameStart i
    let hi := frameStart (i + 1)
    { type := .request, first := i == 0, last := i + 1 == n, poison := bad.any fun l => 64 * l < hi && lo < 64 * l + 64,
      dst := dst, src := src, droom := droom, sroom := sroom, fidx := BitVec.ofNat 12 i, xid := xid,
      desc := if i = 0 then some k else none, payload := padTo64 ((data.drop lo).take (hi - lo)) }

/-- Sends one chunk: it is stamped (R511), and its frames go to the router. A chunk for the channel's own node needs no link (R486). -/
def sendFrames (d : Device) (c : Ch) (n : Nat) (dst : BitVec 18) (droom : BitVec 6) (k : ChunkDesc) (data : List Byte) (bad : List Nat) : Device :=
  let d1 := modChan d c fun x => { causalUp x with nextXid := x.nextXid + 1 }
  let x := chanOf d1 c
  let fs := chunkFrames (nodeOf x) dst (BitVec.ofNat 6 n) droom (chanOf d c).nextXid { k with stamp := x.node.count, bytes := BitVec.ofNat 32 data.length } data bad
  if dst = nodeOf x then d1 else fs.foldl (fun d f => forward d c f none none) d1

/-- Sends one chunk for a room, which counts in its registers and its account (Table 12.13, Table 13.9). -/
def sendChunk (d : Device) (c : Ch) (n : Nat) (dst : BitVec 18) (droom : BitVec 6) (k : ChunkDesc) (data : List Byte) (bad : List Nat) : Device :=
  sendFrames (modChan d c fun x => modRoomC x n fun r => { r with
    fab := { r.fab with xferOut := satInc r.fab.xferOut },
    acct := { r.acct with fabTxBytes := r.acct.fabTxBytes + BitVec.ofNat 64 data.length } }) c n dst droom k data bad

/-- A transfer: its data in chunks of 1 MiB, in order (R492). -/
def sendTransfer (d : Device) (c : Ch) (n : Nat) (dst : BitVec 18) (droom : BitVec 6) (tag : W32) (data : List Byte) (bad : List Nat) : Device :=
  (List.range (cdiv data.length chunkBytes)).foldl (fun d i =>
    sendChunk d c n dst droom { tag := tag, chunk := BitVec.ofNat 32 i, op := .data }
      ((data.drop (i * chunkBytes)).take chunkBytes)
      ((bad.filter fun l => l / 16384 == i).map (· % 16384))) d

/-! ## Receiving (R493) -/

def chunksOf (bytes : Nat) : Nat := cdiv bytes chunkBytes

/-- Whether a chunk fits a receive of so many bytes. -/
def chunkFits (bytes chunk len : Nat) (last : Bool) : Bool :=
  chunk < chunksOf bytes && len == min chunkBytes (bytes - chunk * chunkBytes) && last == (chunk + 1 == chunksOf bytes)

def sameXfer (r : Nat) (node : BitVec 18) (sroom : BitVec 6) (tag : W32) (r' : Nat) (node' : BitVec 18) (sroom' : BitVec 6) (tag' : W32) : Bool :=
  r == r' && node == node' && sroom == sroom' && tag == tag'

/-- Every chunk of a receive has come. -/
def recvDone (p : Posted) : Bool := p.chunks.length == chunksOf p.bytes

/-- Bytes of a room's early transfers, in pages of its arrival area; where in the area they lie is not stated. -/
def earlyPages (x : Channel) (n : Nat) : Nat :=
  ((x.early.filter fun e => e.room == n).map fun e => cdiv ((e.chunks.map fun k => k.2.1.length).sum) pageBytes).sum
def showArrival (x : Channel) (n : Nat) : Channel :=
  modRoomC x n fun r => { r with fab := { r.fab with arrUsed := BitVec.ofNat 32 (earlyPages x n) } }

/-- Changes the first element that p picks. -/
def modFirst {α : Type} (p : α → Bool) (f : α → α) : List α → List α
  | [] => []
  | a :: l => if p a then f a :: l else a :: modFirst p f l

/-- Removes the first element that p picks. -/
def dropFirst {α : Type} (p : α → Bool) : List α → List α
  | [] => []
  | a :: l => if p a then l else a :: dropFirst p l

/-- Posts a receive: the first early transfer of its source meets it. None: the transfer's byte count differs (R493). -/
def postReceive (x : Channel) (p : Posted) : Option Channel :=
  let mine := fun (e : EarlyXfer) => sameXfer p.room p.node p.sroom p.tag e.room e.node e.sroom e.tag
  match x.early.find? mine with
  | none => some { x with posted := x.posted ++ [p] }
  | some e =>
    let sizeOk := match e.total with
      | some t => t == p.bytes
      | none => e.chunks.all fun k => k.1 + 1 < chunksOf p.bytes
    if sizeOk then
      let q : Posted := { p with chunks := e.chunks, begun := x.island.room == some p.room }
      some (showArrival { x with posted := x.posted ++ [q], early := dropFirst mine x.early } p.room)
    else none

/-- A data chunk for a room: it meets the first receive that lacks it, else it lands early. -/
def takeChunk (d : Device) (c : Ch) (node : BitVec 18) (sroom : BitVec 6) (n : Nat) (tag : W32) (chunk : Nat) (last poison : Bool)
    (bytes : List Byte) : Device :=
  let x := chanOf d c
  if !isStarted (roomOf x n) then d else
  let fail := fun (d : Device) => faultOn (modChan d c fun x => record x { cls := 0x90, kind := 7, room := BitVec.ofNat 6 n, status := .roomFault }) c n .roomFault
  let d1 := modChan d c fun x => modRoomC x n fun r => { r with
    fab := { r.fab with xferIn := satInc r.fab.xferIn },
    acct := { r.acct with fabRxBytes := r.acct.fabRxBytes + BitVec.ofNat 64 bytes.length } }
  let meetsP := fun (p : Posted) => sameXfer n node sroom tag p.room p.node p.sroom p.tag && !recvDone p && !(p.chunks.any fun k => k.1 == chunk)
  let meetsE := fun (e : EarlyXfer) => sameXfer n node sroom tag e.room e.node e.sroom e.tag && !(e.chunks.any fun k => k.1 == chunk)
  match x.posted.find? meetsP with
  | some p =>
    if chunkFits p.bytes chunk bytes.length last then
      modChan d1 c fun x => { x with posted := modFirst meetsP (fun p =>
        { p with chunks := p.chunks ++ [(chunk, bytes, poison)], begun := p.begun || x.island.room == some n }) x.posted }
    else fail d1
  | none =>
    let total : Option Nat := if last then some (chunk * chunkBytes + bytes.length) else none
    let isNew := (x.early.find? meetsE).isNone
    let d2 := modChan d1 c fun x =>
      let e : List EarlyXfer :=
        if isNew then x.early ++ [{ room := n, node := node, sroom := sroom, tag := tag, chunks := [(chunk, bytes, poison)], total := total }]
        else modFirst meetsE (fun e => { e with chunks := e.chunks ++ [(chunk, bytes, poison)], total := if last then total else e.total }) x.early
      modRoomC (showArrival { x with early := e } n) n fun r =>
        if isNew then { r with fab := { r.fab with early := satInc r.fab.early } } else r
    let r := roomOf (chanOf d2 c) n
    if r.fab.arrPages.toNat < r.fab.arrUsed.toNat then fail d2 else d2

/-- DATA_CHUNK_ARRIVAL: a chunk of a transfer arrives for a room and is matched FIFO per source (R493). -/
def execDataChunkArrival (c : Ch) (node : BitVec 18) (sroom droom : BitVec 6) (tag : W32) (chunk : Nat) (last poison : Bool)
    (bytes : List Byte) (s : State) : Out :=
  onDev (fun d => takeChunk d c node sroom droom.toNat tag chunk last poison bytes) s

end Sys2Proof.Machine
end

