-- ==== Sys2Proof/Machine/Collect.lean ====
section
/-! DEFINITION. Machine/Collect.lean: instances of collectives: the ranks of a reduce, the tree of a broadcast, slots and acknowledgements (R499 to R506). -/

namespace Sys2Proof.Machine

/-! ## Instances -/

def collOf (x : Channel) (k : Nat) : FabColl := tget {} x.colls k

def instOf (x : Channel) (k : Nat) (tag : W32) : CollInst :=
  match x.insts.find? fun i => i.k == k && i.tag == tag with
  | some i => i
  | none => { k := k, tag := tag }
def setInst (x : Channel) (i : CollInst) : Channel :=
  { x with insts := x.insts.filter (fun j => !(j.k == i.k && j.tag == i.tag)) ++ [i] }

/-- Bytes of chunk c of an instance. -/
def chunkLen (e : FabColl) (c : Nat) : Nat := min chunkBytes (e.bytes.toNat - c * chunkBytes)

/-- This channel's data for a chunk, with the offsets of its poisoned lines. -/
def localChunk (x : Channel) (e : FabColl) (c : Nat) : List Byte × List Nat :=
  let a := e.localVa.toNat + c * chunkBytes
  (readRoom x e.room.toNat a (chunkLen e c), (List.range (cdiv (chunkLen e c) 64)).filter fun j => linePoisoned x e.room.toNat (a / 64 + j))

def childrenOf (e : FabColl) : List (BitVec 18) := [e.child0, e.child1, e.child2, e.child3].take e.nchild.toNat

/-! ## The adder (R500, R501) -/

/-- Bytes of an element: FP32, BF16, or EXT42 in a container of 8. -/
def redWidth (f : BitVec 4) : Nat := if f = 8 then 2 else if f = 10 then 8 else 4

/-- The sum of two elements, the partial first. -/
def redAdd (f : BitVec 4) (a b : Nat) : Nat :=
  if f = 8 then (bf16Add (BitVec.ofNat 16 a) (BitVec.ofNat 16 b)).toNat
  else if f = 10 then (addExt42 (BitVec.ofNat 42 a) (BitVec.ofNat 42 b)).toNat
  else (fp32Add (BitVec.ofNat 32 a) (BitVec.ofNat 32 b)).toNat

def redSum (f : BitVec 4) (p q : List Byte) : List Byte :=
  let w := redWidth f
  (List.range (p.length / w)).flatMap fun i =>
    leBytes w (redAdd f (leNat ((p.drop (i * w)).take w)) (leNat ((q.drop (i * w)).take w)))

/-! ## Sending and delivering -/

/-- This channel's part of an instance is complete (R499). -/
def instDone (x : Channel) (k : Nat) (tag : W32) : Bool :=
  let f := tget {} x.colls k
  let i := instOf x k tag
  let chunks := chunksOf f.bytes.toNat
  let sends := f.hasNext || f.nchild != 0 || (f.kind == 1 && f.root != nodeOf x && !f.hasNext)
  (!f.deliver || decide (chunks ≤ i.delivered.length)) && (!sends || (decide (chunks ≤ i.sent.length) && i.wait.isEmpty))

/-- Instances complete at this channel count once in USES of their entry (R516). -/
def countUses (x : Channel) : Channel :=
  let fresh := fun (i : CollInst) => !i.counted && instDone x i.k i.tag
  { x with
    colls := (x.insts.filter fresh).foldl (fun t i => tmod {} t i.k fun e => { e with uses := satInc e.uses }) x.colls,
    insts := x.insts.map fun i => if fresh i then { i with counted := true } else i }

/-- Sends a chunk of an instance; the next room has this room's index. DEDUCED, log 51. -/
def sendColl (d : Device) (c : Ch) (k : Nat) (tag : W32) (chunk : Nat) (dst : BitVec 18) (final : Bool) (op : ChunkOp) (data : List Byte)
    (bad : List Nat) : Device :=
  let e := collOf (chanOf d c) k
  let xid := (chanOf d c).nextXid
  let send := if roomless e then sendFrames d c else sendChunk d c
  let d1 := send e.room.toNat dst e.room
    { tag := tag, chunk := BitVec.ofNat 32 chunk, op := op, final := final, coll := BitVec.ofNat 8 k } data bad
  modChan d1 c fun x =>
    let i := instOf x k tag
    setInst x { i with sent := addAll i.sent [chunk], wait := if dst = nodeOf x then i.wait else i.wait ++ [(xid, chunk)] }

/-- Tiles of an instance whose every byte has landed once chunk c has, and had not before (R506). -/
def tilesEnding (e : FabColl) (len : Nat) (landed : List Nat) (c : Nat) : List Nat :=
  if len = 0 then [] else
  (List.range (e.bytes.toNat / len)).filter fun i =>
    let cs := (List.range ((i * len + len - 1) / chunkBytes - i * len / chunkBytes + 1)).map (i * len / chunkBytes + ·)
    cs.contains c && cs.all fun j => j == c || landed.contains j

/-- Writes a chunk at DEST_VA + c · 1 MiB, and with FPW the fingerprints of the tiles that it completes; the room ends where its memory cannot
take them (R131, R361). -/
def deliverChunk (d : Device) (c : Ch) (k : Nat) (tag : W32) (chunk : Nat) (data : List Byte) (bad : List Nat) : Device :=
  let e := collOf (chanOf d c) k
  let n := e.room.toNat
  if !e.deliver then d else
  match deliverRun d c n (e.destVa.toNat + chunk * chunkBytes) data with
  | none => faultOn d c n .roomFault
  | some d1 =>
    let i := instOf (chanOf d1 c) k tag
    let len := match Fmt.ofCode e.fmt with | some f => tileBytes f | none => 0
    let tiles := if e.fpw then tilesEnding e len i.delivered chunk else []
    let d2 := modChan d1 c fun x =>
      let a := e.destVa.toNat + chunk * chunkBytes
      let y := bad.foldl (fun x j => poisonRoom n (a + 64 * j, 64) none x) (cleanRoom n (a, data.length) x)
      setInst y { i with delivered := addAll i.delivered [chunk] }
    let put := fun (d : Device) (t : Nat) =>
      deliverRun d c n (e.fpaddr.toNat + 8 * t) (leBytes 8 (crc64 (readRoom (chanOf d c) n (e.destVa.toNat + t * len) len)).toNat)
    match tiles.foldlM put d2 with
    | some d3 => modChan d3 c countUses
    | none => faultOn d2 c n .roomFault

/-- A rank passes its chunk on: to NEXT, to ROOT with FINAL set, or as ROOT to its own memory. -/
def passOn (d : Device) (c : Ch) (k : Nat) (tag : W32) (chunk : Nat) (data : List Byte) (bad : List Nat) : Device :=
  let x := chanOf d c
  let e := collOf x k
  if e.hasNext then sendColl d c k tag chunk e.next false .red data bad
  else if e.root = nodeOf x then deliverChunk d c k tag chunk data bad
  else sendColl d c k tag chunk e.root true .red data bad

/-! ## Reduction slots and the fallback area (R502 to R505) -/

def sameChunk (k : Nat) (tag : W32) (chunk : Nat) (r : RedChunk) : Bool := r.k == k && r.tag == tag && r.chunk == chunk

/-- A partial chunk leaves the slots, or the fallback area. -/
def dropRed (r : RedChunk) (x : Channel) : Channel :=
  { x with
    redChunks := x.redChunks.filter fun q => !sameChunk r.k r.tag r.chunk q,
    red := if r.granted then { x.red with free := x.red.free + 16 } else { x.red with fbUsed := x.red.fbUsed - 16 } }

/-- A rank adds its local chunk to the partial, partial first, and passes the sum on; slots stay taken until the next hop has the chunk. -/
def addChunk (c : Ch) (d : Device) (r : RedChunk) : Device :=
  let x := chanOf d c
  let e := collOf x r.k
  let mine := if e.contrib then some (localChunk x e r.chunk) else none
  let data := match mine with | some l => redSum e.fmt r.data l.1 | none => r.data
  let bad := if r.bad then List.range (cdiv data.length 64) else (match mine with | some l => l.2 | none => [])
  let xid := x.nextXid
  let d1 := passOn d c r.k r.tag r.chunk data bad
  let sends := e.hasNext || e.root != nodeOf x
  modChan d1 c fun x =>
    if r.granted && sends then { x with redChunks := x.redChunks.map fun q => if sameChunk r.k r.tag r.chunk q then { q with xid := some xid } else q }
    else dropRed r x

/-- Frames of a transmission of this channel still await an acknowledgement. -/
def stillHeld (x : Channel) (xid : W32) : Bool :=
  x.links.any fun l => l.2.held.any fun h => h.frame.src == nodeOf x && h.frame.xid == xid

/-- Transmissions whose every frame has been acknowledged: instances have them so, and reduction slots come free (R499, R502, R516). -/
def settleAcks (x : Channel) : Channel :=
  let insts := x.insts.map fun (i : CollInst) => { i with wait := i.wait.filter fun w => stillHeld x w.1 }
  let y : Channel := { x with insts := insts }
  countUses ((y.redChunks.filter fun r => match r.xid with | some q => !stillHeld x q | none => false).foldl (fun y r => dropRed r y) y)

/-! ## Armed instances (R499, R500, R505, R506) -/

/-- An armed instance does what it can: rank 0 and a broadcast's source send their chunks, another rank adds the chunks that waited in slots. -/
def runInst (d : Device) (c : Ch) (k : Nat) (tag : W32) : Device :=
  let x := chanOf d c
  let e := collOf x k
  let i := instOf x k tag
  let todo := (List.range (chunksOf e.bytes.toNat)).filter fun j => !i.sent.contains j && !i.delivered.contains j
  if !i.armed then d
  else if e.kind = 1 then
    if e.hasPrev then
      (x.redChunks.filter fun r => r.k == k && r.tag == tag && r.granted && r.xid.isNone).foldl (addChunk c) d
    else if e.contrib then
      todo.foldl (fun d j => let l := localChunk (chanOf d c) e j; passOn d c k tag j l.1 l.2) d
    else d
  else if e.kind = 2 && !e.hasPrev then
    todo.foldl (fun d j =>
      let l := localChunk (chanOf d c) e j
      (childrenOf e).foldl (fun d node => sendColl d c k tag j node false .bcast l.1 l.2) d) d
  else d

end Sys2Proof.Machine
end

