-- ==== Sys2Proof/Machine/Tiering.lean ====
section
/-! DEFINITION. Machine/Tiering.lean: heat, the epoch pass, promotions and evictions, demotion and window promotion (R194 to R205). -/

namespace Sys2Proof.Machine

/-- Heat of n bytes read or written in a page: 1 for each 4 KiB or part of it, saturating at 255 (R194). -/
def addHeat (x : Channel) (r : PageRef) (bytes : Nat) : Channel :=
  modPte x r fun p => if p.valid then { p with heat := satAdd p.heat (cdiv bytes 4096) } else p

/-- The pages of a list of ranges, each once, with the bytes touched. -/
def touchedPages (runs : List (Nat × Nat)) : List (Nat × Nat) :=
  ((runs.flatMap pagesOf).eraseDups).map fun p => (p, (runs.map fun r => bytesInPage r p).sum)

/-- A room descriptor's heat over the ranges it reads or writes; a shared page's heat is its common entry's (R194). -/
def heatRuns (x : Channel) (n : Nat) (runs : List (Nat × Nat)) : Channel :=
  (touchedPages runs).foldl (fun y t => addHeat y (resolve y n t.1) t.2) x

/-! ## The epoch pass (R196) -/

/-- Candidates: tiered T2 pages of accounts past their first 8 epochs that no earlier move waits for, by falling heat and rising page number (R196, R202). -/
def candidates (x : Channel) : List (PageRef × Pte) :=
  let all := (allAccts.filter fun a => 8 ≤ epochsOf x a).flatMap fun a =>
    (acctPages x a).filter fun e =>
      e.2.valid && e.2.t2 && e.2.place == 0 && !e.2.moving && !awaited x e.1 && x.tierCtl.promoteMin ≤ e.2.heat
  all.mergeSort fun a b => b.2.heat < a.2.heat || (a.2.heat == b.2.heat && pageNum a.1 ≤ pageNum b.1)

/-- One candidate: a promotion where a frame is free within T1MAX, else the eviction of its victim with the promotion queued behind it. -/
def passOne (st : Channel × Nat) (e : PageRef × Pte) : Channel × Nat :=
  let x := st.1
  let a := ownerOf e.2
  if st.2 = 0 then st else
  match startPromote x e.1 with
  | some y => (y, st.2 - 1)
  | none =>
    if st.2 < 2 then st else
    let vs := (acctPages x a).filter fun v => victimOk x v && v.2.heat.toNat + x.tierCtl.hyst.toNat < e.2.heat.toNat
    match (coldest vs).bind fun v => startEvict x v.1 with
    | some y => ({ y with chosen := y.chosen ++ [⟨e.1, true, true⟩] }, st.2 - 2)
    | none => st

def halve (t : Tab Pte) : Tab Pte := t.map fun p => (p.1, { p.2 with heat := BitVec.ushiftRight p.2.heat 1 })

/-- Tiered pages of an account above its lowered T1MAX are evicted, coldest first, outside the budget, once its first 8 epochs have passed (R197, R205). -/
def shedOne (a : Nat) (x : Channel) (_ : Nat) : Channel :=
  let t := acctOf x a
  if t.t1use.toNat ≤ t.t1max.toNat + movesOf x a false || epochsOf x a < 8 then x
  else match (coldest ((acctPages x a).filter (victimOk x))).bind fun v => startEvict x v.1 with
    | some y => y
    | none => x
def shed (x : Channel) (a : Nat) : Channel :=
  (List.range ((acctOf x a).t1use.toNat - (acctOf x a).t1max.toNat)).foldl (shedOne a) x

def countEpoch (n : Nat) : Nat := min 8 (n + 1)

/-- The end of a heat epoch (R196, R207). -/
def heatEpoch (x : Channel) : Channel :=
  let y := ((candidates x).foldl passOne (x, x.tierCtl.moveBudget.toNat)).1
  let z := allAccts.foldl shed y
  { z with
    tierCtl := { z.tierCtl with epochs := z.tierCtl.epochs + 1 },
    commonPages := halve z.commonPages,
    commonEpochs := countEpoch z.commonEpochs,
    rooms := z.rooms.map fun r => (r.1, { r.2 with pages := halve r.2.pages, epochs := countEpoch r.2.epochs }) }

def execHeatEpoch (c : Ch) (s : State) : Out :=
  onDev (fun d => if (chanOf d c).started then modChan d c heatEpoch else d) s

/-! ## The ends of moves -/

/-- A page that lies in T2 and is not moving. -/
def promotable (p : Pte) : Bool := p.valid && p.t2 && !p.moving

/-- Promotions queued behind an eviction start as frames come free; one whose page has left T2 or moves meanwhile is dropped. -/
def startChosen (x : Channel) : Channel :=
  x.chosen.foldl (fun y m =>
    let done := fun (z : Channel) => { z with chosen := z.chosen.filter fun k => k.page != m.page }
    if !promotable (pteAt y m.page) then done y
    else match startPromote y m.page with
      | some z => done z
      | none => y) x

/-- Bytes of a page that come back from the Cellar other than they left, by their offsets in it. -/
def alterPage (x : Channel) (r : PageRef) (back : List (Nat × Byte)) : Channel :=
  match r with
  | .room n k => modRoomC x n fun m => { m with mem := back.foldl (fun m b => writeBytes m (k * pageBytes + b.1 % pageBytes) [b.2]) m.mem }
  | .common i => { x with commonMem := back.foldl (fun m b => writeBytes m (i * pageBytes + b.1 % pageBytes) [b.2]) x.commonMem }

/-- A promotion's end apart from its check: the page lies in its frame, and its Cellar page is free. -/
def landPage (x : Channel) (r : PageRef) (frame : Nat) : Channel :=
  let p := pteAt x r
  let y := setPte (giveCellar x p.frame) r { p with t2 := false, moving := false, frame := BitVec.ofNat 32 frame, t2fp := 0 }
  let z := modAcct y (ownerOf p) fun t => { t with t1use := t.t1use + 1, t2use := t.t2use - 1, moves := satInc t.moves }
  chargeMove { z with moves := z.moves.filter fun k => k.page != r } (ownerOf p)

/-- A page that came back other than it left: poison, and an event of the fault history (R191, R195, R592). -/
def brokenPage (a : Nat) (r : PageRef) (x : Channel) : Channel :=
  record (poisonPage (some { cls := 0xA0, unit := 0, addr := BitVec.ofNat 64 (pageNum r) }) x r)
    { cls := 0xA0, unit := 0, kind := 1, room := if a < 64 then BitVec.ofNat 6 a else 0x3F, addr := BitVec.ofNat 64 (pageNum r) }

/-- A promotion ends: the fingerprint is recomputed over the bytes that came back and compared with T2FP; on a mismatch the page is poisoned
(R195). -/
def promotionDone (x : Channel) (r : PageRef) (back : List (Nat × Byte)) : Channel :=
  match x.moves.find? fun m => m.page == r && m.promote with
  | none => x
  | some m =>
    let y := alterPage x r back
    let z := landPage y r m.place
    if pageFp y r = (pteAt x r).t2fp then z else brokenPage (ownerOf (pteAt x r)) r z

/-- A promotion whose read of the Cellar has failed ends with a poisoned page (R498). -/
def promotionFails (x : Channel) (r : PageRef) : Channel :=
  match x.moves.find? fun m => m.page == r && m.promote with
  | none => x
  | some m => brokenPage (ownerOf (pteAt x r)) r (landPage x r m.place)

def execPagePromotionDone (c : Ch) (p : PageRef) (back : List (Nat × Byte)) (s : State) : Out :=
  onDev (fun d => modChan d c fun x => promotionDone x p back) s

/-- An eviction ends (R195, R181). -/
def evictionDone (x : Channel) (r : PageRef) : Channel :=
  match x.moves.find? fun m => m.page == r && !m.promote with
  | none => x
  | some m => startChosen (endEvict x r m.place)

/-! ## Requests of programs -/

/-- DEMOTE: eviction of COUNT pages from SRC; one against a promotion in progress is cancelled, and one on a shared page takes
effect only below PROMOTE_MIN (R198). A page that R197 bars stays. -/
def demotePage (n : Nat) (x : Channel) (page : Nat) : Channel :=
  let r := resolve x n page
  let p := pteAt x r
  let shared := match r with | .common _ => true | .room _ _ => false
  if victimOk x (r, p) && settled x p && (!shared || p.heat < x.tierCtl.promoteMin) then
    (startEvict x r).getD x
  else x

def demote (x : Channel) (n src count : Nat) : Channel :=
  ((List.range count).map (src / pageBytes + ·)).foldl (demotePage n) x

/-- Pages of a layer of a window map. -/
def layerPages (m : TierWmap) (l : Nat) : List Nat :=
  (List.range m.ppl.toNat).map (m.base.toNat + (l % m.layers.toNat) * m.ppl.toNat + ·)

/-- One page of a window promotion: a victim comes from outside layers L to L + d, without hysteresis (R201). The eviction of a shared page is
cancelled (Table 1.6), and a page whose promotion waits for a frame already is left to it. -/
def windowPage (n : Nat) (keep : List Nat) (x : Channel) (page : Nat) : Channel :=
  let r := resolve x n page
  let p := pteAt x r
  let shared := match r with | .common _ => true | .room _ _ => false
  if shared && p.valid && !p.t2 && p.moving then cancelEvict x r
  else if !promotable p || p.place != 0 || awaited x r then x else
  match startPromote x r with
  | some y => y
  | none =>
    let inWindow := fun q => keep.any fun k => resolve x n k == q
    let vs := (acctPages x (ownerOf p)).filter fun v => victimOk x v && settled x v.2 && !inWindow v.1
    match (coldest vs).bind fun v => startEvict x v.1 with
    | some y => { y with chosen := y.chosen ++ [⟨r, true, false⟩] }
    | none => x

/-- WINDOW: the T2 pages of layers L + 1 to L + d are promoted at once, in ascending page order (R201). -/
def window (x : Channel) (n map l depth : Nat) : Channel :=
  let m := tget {} (roomOf x n).wmaps map
  let pages := ((List.range depth).flatMap fun i => layerPages m (l + 1 + i)).mergeSort (· ≤ ·)
  let keep := (List.range (depth + 1)).flatMap fun i => layerPages m (l + i)
  pages.foldl (windowPage n keep) x

end Sys2Proof.Machine
end

