-- ==== Sys2Proof/Machine/Issue.lean ====
section
/-! DEFINITION. Machine/Issue.lean: in-flight locks, stream faults, holds and what they count as (R33, R123, R133, R149 to R154, R594, R754). -/

namespace Sys2Proof.Machine

/-! ## In-flight locks (R133, Table 3.9) -/

/-- Two runs share a 512 B unit. -/
def unitMeets (r q : Nat × Nat) : Bool :=
  r.2 != 0 && q.2 != 0 && r.1 / 512 ≤ (q.1 + q.2 - 1) / 512 && q.1 / 512 ≤ (r.1 + r.2 - 1) / 512
def anyMeets (l : List (Nat × Nat)) (r : Nat × Nat) : Bool := l.any (unitMeets r)

/-- WS runs that a pump entry reads and writes. A pop writes its header at DST and its payload behind it (R368); a dropped push reads nothing (R366). -/
def entryReads (x : Channel) (e : PumpEntry) : List (Nat × Nat) :=
  match e.frame with
  | some i => if ((roomOf x e.room).train.frames.any fun f => f.id == i && f.dropped) then [] else wsReads e.desc
  | none => wsReads e.desc
def entryWrites (e : PumpEntry) : List (Nat × Nat) :=
  if pdKind e.desc = 2 && e.frame.isSome then
    ((pdDst e.desc).toNat, 64) :: (dstRuns e.desc).map fun r => (r.1 + 512, r.2)
  else wsWrites e.desc

def allEntries (x : Channel) : List PumpEntry := x.island.pumps.flatMap (·.2)

/-- Runs of the array operation in flight: A and B, and C (R117, R119). -/
def arrAB (s : BitVec 128) : List (Nat × Nat) :=
  match Fmt.ofCode (arAfmt s), Fmt.ofCode (arBfmt s) with
  | some fa, some fb =>
    match pairRate fa fb with
    | some r =>
      if arOp s = 1 then [(512 * arB s, 512 * imageUnits fb r)]
      else [(512 * arA s, 512 * unitsA s fa r), (512 * arB s, 512 * unitsB s fb r)]
    | none => []
  | _, _ => []
def arrC (s : BitVec 128) : List (Nat × Nat) :=
  match Fmt.ofCode (arOfmt s) with
  | some fo => if arOp s = 2 then [(512 * arC s, 512 * unitsC s fo)] else []
  | none => []

/-- Units of a weight image that is still loading. -/
def loading (x : Channel) : List (Nat × Nat) :=
  [x.island.wb0, x.island.wb1].filterMap fun b => match b with
    | some w => if x.island.cycle < w.ready then some (512 * w.addr, 512 * w.units) else none
    | none => none

/-- The descriptors of the room on the island: WS is its own, and a receive that the router holds for a room off the islands covers no unit of
it (R157, R537). -/
def ownEntries (x : Channel) : List PumpEntry := (allEntries x).filter fun e => x.island.room == some e.room

/-- Runs whose units hold a read, and runs whose units hold a write. -/
def readLocks (x : Channel) : List (Nat × Nat) :=
  (ownEntries x).flatMap entryWrites ++ (match x.island.arr with | some a => arrC a.slot | none => [])
def writeLocks (x : Channel) : List (Nat × Nat) :=
  (ownEntries x).flatMap (fun e => entryReads x e ++ entryWrites e) ++
  (match x.island.arr with | some a => arrAB a.slot ++ arrC a.slot | none => []) ++ loading x

/-! ## Stream faults (R149 to R153) -/

/-- An event of a program, charged to no unit (R150). -/
def programRecord (n kind : Nat) (st : Status) : FaultRec :=
  { cls := 0x90, kind := 7, room := BitVec.ofNat 6 n, status := st, detail := BitVec.ofNat 192 kind }

/-- A stream fault of room n at the bundle of the channel's program counter: recorded, and the room ends on all its channels with status st; the history keeps the cause. -/
def streamFaultAs (d : Device) (c : Ch) (n kind slot : Nat) (st cause : Status) : Device :=
  let d1 := modChan d c fun x =>
    record { x with streamFault :=
      { kind := BitVec.ofNat 8 kind, slot := BitVec.ofNat 4 slot, room := BitVec.ofNat 6 n, pc := BitVec.ofNat 24 (if x.island.room = some n then x.island.ctx else (roomOf x n).ctx).pc, valid := true } }
      (programRecord n kind cause)
  faultOn d1 c n st

def streamFault (d : Device) (c : Ch) (n kind slot : Nat) : Device :=
  let st := if kind = 0x0B then Status.poisonConsumed else .roomFault
  streamFaultAs d c n kind slot st st

/-- The record of poison that room n consumed: it is charged to the unit where the poison arose (R594). -/
def poisonRecord (x : Channel) (n : Nat) (p : PoisonPlace) : FaultRec :=
  let o := (aroseAt x p).getD { cls := 0x90, unit := 0, addr := 0 }
  { cls := o.cls, unit := o.unit, kind := 8, room := BitVec.ofNat 6 n, addr := o.addr, status := .poisonConsumed }

/-- Poison consumed (R594): the room ends, and the event is charged to a unit and not to the program. -/
def consumePoison (d : Device) (c : Ch) (n : Nat) (p : PoisonPlace) : Device :=
  faultOn (modChan d c fun x => record x (poisonRecord x n p)) c n .poisonConsumed

/-! ## Holds (R33, R104, R154) -/

/-- A bundle holds for a cycle. -/
def holdBundle (h : Hold) (x : Channel) : Channel :=
  let y := match x.island.hold with
    | some _ => { x with island := { x.island with hold := some h } }
    | none => { x with island := { x.island with hold := some h, holdUs := nowUs x, miss := none } }
  addCycles 1 y

def countMiss (x : Channel) : Miss → Channel
  | .tier => { x with issueCount := { x.issueCount with tierMiss := satInc x.issueCount.tierMiss } }
  | .bound => { x with issueCount := { x.issueCount with boundMiss := satInc x.issueCount.boundMiss } }

/-- What a hold counts as. A wait for a token counts by the descriptor whose token ends it (R754); a token that no descriptor posts (R132:
the controller's, the array's without a fault) misses no bound. The plain wait for the check token is none either (R123). Every other hold is
a bound miss, but for one that a descriptor of another tier has caused (R138). DEDUCED, logs 37 and 117. -/
def missOf (h : Hold) (miss : Option Miss) : Option Miss :=
  match h with
  | .token _ _ _ => miss
  | .check => none
  | _ => some (miss.getD .bound)

/-- The hold that a bundle leaves behind is counted once (R129, R136, R154, R754). -/
def countHold (x : Channel) : Channel :=
  let y := match x.island.hold.bind fun h => missOf h x.island.miss with
    | some m => countMiss x m
    | none => x
  { y with island := { y.island with hold := none } }

end Sys2Proof.Machine
end

