-- ==== Sys2Proof/Machine/PumpIssue.lean ====
section
/-! DEFINITION. Machine/PumpIssue.lean: what a PISSUE checks, allocates and queues (R127 to R131, R135, R168, R169, R188, R201 to R203, R228, R328, R361 to R367, R377, R390, R433, R491 to R499, R531). -/

namespace Sys2Proof.Machine

/-! ## Queue classes and bounds (Tables 3.10, 4.9) -/

inductive PumpClass where
  | ww | mw | wm | mm | router | unbounded
  deriving DecidableEq, Repr

def pumpClass (kind : Nat) : Option PumpClass :=
  match kind with
  | 0x01 | 0x08 | 0x09 | 0x0A => some .ww
  | 0x02 | 0x0B => some .mw
  | 0x03 => some .wm
  | 0x04 => some .mm
  | 0x05 => some .router
  | 0x06 | 0x07 => some .unbounded
  | _ => none

def PumpClass.latPs : PumpClass → Nat
  | .ww => 160000 | .mw => 720000 | .wm => 1520000 | .mm => 2240000 | .router => 400000 | .unbounded => 0

/-- Picoseconds for so many bytes at 819.2 GB/s, or for T1 at 204.8 GB/s for each working stack (R137). -/
def PumpClass.xferPs (c : PumpClass) (memStacks bytes : Nat) : Nat :=
  match c with
  | .mw | .wm | .mm => cdiv (bytes * 10000) (2048 * memStacks)
  | _ => cdiv (bytes * 10000) 8192

/-- The bound of a descriptor (R135). -/
def boundOf (old issue : Nat) (c : PumpClass) (memStacks bytes : Nat) : Nat := max (issue + c.latPs) old + c.xferPs memStacks bytes

/-! ## Where an address leads -/

/-- What a room virtual address names. -/
inductive VaKind where
  | memory | sump | stairwell | cistern
  deriving DecidableEq, Repr

def vaKind (a : Nat) : VaKind :=
  if a / 2 ^ 32 = 0xFFFF then .sump
  else if a / 2 ^ 32 = 0xFFFD then .stairwell
  else if a / 2 ^ 32 = 0xFFFC then .cistern
  else .memory

/-- A page of an adapter slot that a descriptor of room n may not reach (R327, R328): one of a slot that another room holds or that is LOADING,
and for a write one of a slot in any state but TRAIN. A read of a FREE slot finds pages that are not allocated (R168). DEDUCED, log 128. -/
def slotBarred (slots : Tab AdpEntry) (n p : Nat) (write : Bool) : Bool :=
  match slotAt (p * pageBytes) with
  | none => false
  | some k =>
    let e := (tget {} slots k).reg
    (e.state != asFree && e.room.toNat != n) || e.state == asLoading || (write && e.state != asTrain)

/-- The version under which the room's present micro-batch reads its own versioned area, when it holds a reference to it (R388, R392). The
update's own reads come after the last micro-batch has retired, and find the pages as they are (R355). -/
def readVersion (x : Channel) (n : Nat) : Option W32 :=
  ((roomOf x n).train.held.find? fun h => h.node == nodeOf x && h.room.toNat == n && h.mb == (roomOf x n).train.mb).map (·.wgen)

/-- Where a read under the micro-batch's version finds a page of the versioned area; every other page, and any read without a version, is live. -/
def versionOf (x : Channel) (n p : Nat) : VerRead :=
  let r := roomOf x n
  let base := r.trn.vwBase.toNat / pageBytes
  match readVersion x n with
  | some w => if pageIn p base r.trn.vwPages.toNat then verRead r.train w (p - base) else .live
  | none => .live

/-- The address at which a read of a room virtual address finds its byte. -/
def versionVa (x : Channel) (n a : Nat) : Nat :=
  match versionOf x n (a / pageBytes) with
  | .shadow k => (roomOf x n).trn.shdBase.toNat + k * pageBytes + a % pageBytes
  | _ => a

/-- A page that a descriptor reads or writes is one that it may (R169, R392, R433). -/
def pageLegal (x : Channel) (slots : Tab AdpEntry) (n : Nat) (write : Bool) (p : Nat) : Bool :=
  let r := roomOf x n
  match windowOf p with
  | some (m, i) => !write && decide (i < (tget (0, 0) r.windows m).2)
  | none =>
    let e := tget {} r.pages p
    !barred r p && !(write && e.valid && e.shared) && !slotBarred slots n p write && (write || versionOf x n p != .gone)

/-- Offset of a Cistern window address in the allocation; bit 31 asks for a clearing read (R377). -/
def cisOff (a : Nat) : Nat := a % 2 ^ 26
def cisClears (a : Nat) : Bool := a / 2 ^ 31 % 2 = 1
/-- Bytes of a room's Cistern allocation, from byte 0 on: the store has 48 MiB (R374, Table 0.4). -/
def cisLimit (r : Room) : Nat := min 768 r.trn.cisSize.toNat * pageBytes
def cisLegal (r : Room) (a n : Nat) : Bool := a / 2 ^ 26 % 32 == 0 && cisOff a + n ≤ cisLimit r

/-- A run that meets an experience store of the room lies in PRODUCED, CONSUMED and CLAIMED, or in the commit log (R454). DEDUCED, log 73. -/
def storeByteOk (n : Nat) (run : Nat × Nat) (e : XStore) : Bool :=
  let b := e.reg.xsBase.toNat
  let fin := run.1 + run.2
  !e.reg.en || e.reg.room.toNat != n || fin ≤ b || b + (1 + e.reg.nslots.toNat * e.reg.slotPages.toNat) * pageBytes ≤ run.1 ||
  (b ≤ run.1 && (fin ≤ b + 24 || (b + 64 ≤ run.1 && fin ≤ b + 64 + 4 * e.reg.nslots.toNat)))

/-- A run of room virtual addresses is one that the descriptor may read or write (R188, R228, R361, R377, R454). -/
def runLegal (x : Channel) (slots : Tab AdpEntry) (n : Nat) (write : Bool) (run : Nat × Nat) : Bool :=
  run.1 + run.2 ≤ 2 ^ 48 &&
  (run.2 == 0 ||
    (vaKind run.1 == vaKind (run.1 + run.2 - 1) &&
     match vaKind run.1 with
     | .memory => (pagesOf run).all (pageLegal x slots n write) && (!write || x.stores.all fun e => storeByteOk n run e.2)
     | .sump => !write && run.1 % 2 ^ 32 + run.2 ≤ (roomOf x n).kv.sumpSize.toNat * pageBytes
     | .cistern => cisLegal (roomOf x n) run.1 run.2
     | .stairwell => false))

/-! ## Fields (R188, R491, R499) -/

def pdNode (d : BitVec 512) : BitVec 18 := d.extractLsb' 384 18
def pdRoom (d : BitVec 512) : BitVec 6 := d.extractLsb' 402 6
def pdOp (d : BitVec 512) : Nat := fld d 408 2
def pdTag (d : BitVec 512) : W32 := d.extractLsb' 416 32
def pdColl (d : BitVec 512) : Nat := fld d 448 8
def pdFabRsv (d : BitVec 512) : Bool := fld d 410 6 != 0 || fld d 456 56 != 0

def isFabric (d : BitVec 512) : Bool := pdKind d == 5 || pdKind d == 6 || pdKind d == 7
/-- Arms or waits for an instance of a collective, and moves no data itself. -/
def isCollective (d : BitVec 512) : Bool := isFabric d && pdOp d != 0

/-- The FABRIC field of a SEND or a receive (Table 12.5, R499); OP 1 and 2 name an entry of this room and kind. DEDUCED, log 38. -/
def fabricLegal (x : Channel) (n : Nat) (d : BitVec 512) : Bool :=
  !isFabric d ||
  (!pdFabRsv d && pdOp d != 3 &&
   (pdOp d == 0 || (pdCount d == 0 && (tget {} x.colls (pdColl d)).kind.toNat == pdOp d && (tget {} x.colls (pdColl d)).room.toNat == n)))

/-- KIND, FMT, KLAST, XP, FPW, FPC and the reserved bits (R188); FPSCAN checks fingerprints, so it needs a tile format. -/
def fieldsLegal (d : BitVec 512) : Bool :=
  (pumpClass (pdKind d)).isSome && !pdRsv d && (pdRaw d || (pdFmt d).isSome) && decide (pdKlast d < 128) &&
  (!pdXp d || (match pdFmt d with | some f => (xWidth f).isSome | none => false)) &&
  !(pdRaw d && (pdFpw d || pdFpc d || pdKind d == 0x0B))

/-- Tile addresses and strides are multiples of 512, raw addresses of 64 (R188). -/
def aligned (d : BitVec 512) (base : W64) (stride : Nat) : Bool :=
  if pdRaw d then base.toNat % 64 == 0 else base.toNat % 512 == 0 && stride % 512 == 0

/-- The range starts in the room's allocation, and so do its runs lie, even where there is none of them (R188). -/
def inWs (x : Channel) (n : Nat) (base : W64) (runs : List (Nat × Nat)) : Bool :=
  base.toNat ≤ wsLimit x n && runs.all fun r => r.2 == 0 || r.1 + r.2 ≤ wsLimit x n

/-- The address is one of a room, even where nothing is read or written at it (R188). -/
def inVa (a : W64) : Bool := a.toNat < 2 ^ 48

def isPush (d : BitVec 512) : Bool := pdKind d == 3 && inStairwell (pdDst d)
def isPop (d : BitVec 512) : Bool := pdKind d == 2 && inStairwell (pdSrc d)

def srcInWs (k : Nat) : Bool := k == 1 || k == 3 || k == 5
def srcInMem (k : Nat) : Bool := k == 2 || k == 4 || k == 0x0B
def dstInWs (k : Nat) : Bool := k == 1 || k == 2 || k == 6 || k == 8
def dstInMem (k : Nat) : Bool := k == 3 || k == 4 || k == 7

/-- Fingerprint runs: FPSCAN reads its array whatever FPC holds. -/
def fpReads (d : BitVec 512) : List (Nat × Nat) := if pdFpc d || pdKind d == 0x0B then [((pdFpaddr d).toNat, 8 * pdTiles d)] else []
def fpWrites (d : BitVec 512) : List (Nat × Nat) := if pdFpw d then [((pdFpaddr d).toNat, 8 * pdTiles d)] else []

/-- Runs of room memory proper that a descriptor reads and writes, windows left out. -/
def pageReads (d : BitVec 512) : List (Nat × Nat) := (memReads d).filter fun r => vaKind r.1 == .memory
def pageWrites (d : BitVec 512) : List (Nat × Nat) := (memWrites d).filter fun r => vaKind r.1 == .memory

/-- Every rule of R188 and of the windows, apart from pushes, pops and allocation. -/
def descLegal (x : Channel) (slots : Tab AdpEntry) (n : Nat) (d : BitVec 512) : Bool :=
  let k := pdKind d
  let src := if srcInWs k then aligned d (pdSrc d) (pdSstride d) && inWs x n (pdSrc d) (srcRuns d)
             else if isPop d then true
             else if srcInMem k then inVa (pdSrc d) && aligned d (pdSrc d) (pdSstride d) && (srcRuns d).all (runLegal x slots n false)
             else if k == 9 then inVa (pdSrc d) && aligned d (pdSrc d) 0 && (pdSrc d).toNat + pdCount d * pageBytes ≤ 2 ^ 48
             else true
  let dst := if isPop d then aligned d (pdDst d) (pdDstride d) && inWs x n (pdDst d) (((pdDst d).toNat, 64) :: (dstRuns d).map fun r => (r.1 + 512, r.2))
             else if dstInWs k then aligned d (pdDst d) (pdDstride d) && inWs x n (pdDst d) (dstRuns d)
             else if isPush d then true
             else if dstInMem k then inVa (pdDst d) && aligned d (pdDst d) (pdDstride d) && (dstRuns d).all (runLegal x slots n true)
             else true
  fieldsLegal d && fabricLegal x n d && (isCollective d || (src && dst)) &&
  ((!pdFpw d && !pdFpc d && k != 0x0B) || inVa (pdFpaddr d)) &&
  ((fpReads d).all fun r => vaKind r.1 == .memory && runLegal x slots n false r) &&
  ((fpWrites d).all fun r => vaKind r.1 == .memory && runLegal x slots n true r) &&
  (k != 0x0A || ((tget {} (roomOf x n).wmaps ((pdSrc d).toNat % 4)).ppl != 0 && decide (1 ≤ pdCount d) && decide (pdCount d ≤ 8)))

/-! ## The outcome of a PISSUE -/

inductive Enq where
  | ok (d : Device)
  /-- Rejected under R131: the room's final status, and the cause that the history keeps. -/
  | reject (st cause : Status)
  /-- The receiving room ends under R493, with no descriptor at fault. -/
  | roomFault
  | hold (h : Hold)

/-! ## Versioned writes (R390, R391) -/

/-- Copies a page of a room to another of its pages, poison and all. -/
def copyPage (d : Device) (c : Ch) (n src dst : Nat) : Device :=
  let x := chanOf d c
  let bs := readRoom x n (src * pageBytes) pageBytes
  let bad := (linesOf (src * pageBytes, pageBytes)).filter (linePoisoned x n)
  let d1 := writeMem d c n (dst * pageBytes) bs
  modChan d1 c fun y =>
    bad.foldl (fun y l => poisonRoom n (dst * pageBytes + 64 * (l % 1024), 64) (lineArose x n l) y) (cleanRoom n (dst * pageBytes, pageBytes) y)

def showShadows (x : Channel) (n : Nat) : Channel :=
  modRoomC x n fun r => { r with trn := { r.trn with shadows := BitVec.ofNat 32 r.train.shadows.length } }

/-- One write to a page of the versioned area. -/
def versionWrite (c : Ch) (n : Nat) (st : Enq) (page : Nat) : Enq :=
  match st with
  | .ok d =>
    let r := roomOf (chanOf d c) n
    let base := r.trn.vwBase.toNat / pageBytes
    if !pageIn page base r.trn.vwPages.toNat then st else
    let i := page - base
    let mark := fun (d : Device) => modRoom d c n fun r => { r with
      train := { r.train with verMap := tset 0 r.train.verMap i (r.trn.wgen + 1) } }
    match verWrite r.train r.trn.wgen r.trn.shdPages.toNat i with
    | .proceed => st
    | .mark => .ok (mark d)
    | .stall => .hold .shadow
    | .shadow k =>
      let p := r.trn.shdBase.toNat / pageBytes + k
      match allocRoomPage 0 n (chanOf d c) p with
      | none => .reject .roomFault .quotaExceeded
      | some x =>
        let v := tget 0 r.train.verMap i
        let d1 := copyPage (setChan d c x) c n page p
        .ok (mark (modChan d1 c fun x => showShadows (modRoomC x n fun r => { r with
          train := { r.train with shadows := r.train.shadows ++ [⟨i, v, k⟩] } }) n))
  | _ => st

/-! ## Stairwell (R364 to R367) -/

/-- TOP and the top frame's micro-batch, as their register shows them. -/
def showTop (r : Room) : Room :=
  { r with trn := { r.trn with
      stwTop := BitVec.ofNat 40 (stwTop r.train.frames),
      topMb := match r.train.frames.find? (fun f => !f.bound) with | some f => f.mb | none => 0 } }

/-- A push is legal in its form, and of the micro-batch of the frames that the Stairwell holds (R356, R362, R364). A frame whose pop is
outstanding is still held. DEDUCED, log 127. -/
def pushLegal (r : Room) (d : BitVec 512) : Bool :=
  swLegal (pdDst d) && pdDstride d == 0 && !pdFpw d && !pdFpc d && r.train.frames.all fun f => f.mb == swMb (pdDst d)

/-- PREV of the next frame: the offset of the frame that TOP lies just past (Table 9.3). -/
def framePrev (frames : List Frame) : W32 :=
  match frames.find? (fun f => !f.bound) with
  | some f => BitVec.ofNat 32 (f.off / 512)
  | none => 0xFFFFFFFF

/-- A push takes its frame at TOP. -/
def pushFrame (x : Channel) (n : Nat) (d : BitVec 512) : Option Channel :=
  let r := roomOf x n
  let a := pdDst d
  let seg := (swMb a, swSeg a)
  let top := stwTop r.train.frames
  let f := frameSize (pdBytes d)
  let mk := fun (size : Nat) (dropped : Bool) =>
    ({ id := x.island.pumpSeq, off := top, size := size, tag := swTag a, seg := swSeg a, mb := swMb a, kind := swKind a, fmt := pdFmtCode d,
       dropped := dropped, count := BitVec.ofNat 32 (pdCount d), wgen := r.trn.wgen, prev := framePrev r.train.frames } : Frame)
  let put := fun (fr : Frame) => modRoomC x n fun r => showTop { r with train := { r.train with frames := fr :: r.train.frames } }
  if !pushLegal r d then none
  else match pushOutcome top f r.trn.stwPages.toNat r.trn.stwSeg.toNat r.trn.stwKeep.toNat (swKind a) (r.train.droppedSegs.contains seg) with
    | .stored => some (put (mk f false))
    | .dropped =>
      let y := put (mk 512 true)
      some (if r.train.droppedSegs.contains seg then y else modRoomC y n fun r => { r with
        train := { r.train with droppedSegs := r.train.droppedSegs ++ [seg] },
        trn := { r.trn with droppedSegs := satInc r.trn.droppedSegs } })
    | .full => none

/-- The push is rejected because nothing in Table 9.4 takes it, and not for its form. -/
def pushFull (x : Channel) (n : Nat) (d : BitVec 512) : Bool :=
  let r := roomOf x n
  let a := pdDst d
  pushLegal r d &&
  decide (pushOutcome (stwTop r.train.frames) (frameSize (pdBytes d)) r.trn.stwPages.toNat r.trn.stwSeg.toNat r.trn.stwKeep.toNat (swKind a)
    (r.train.droppedSegs.contains (swMb a, swSeg a)) = .full)

/-- The pages that the frame pushed last takes of the region. -/
def framePages (r : Room) : List Nat :=
  match r.train.frames with
  | f :: _ => pagesOf (r.trn.stwBase.toNat + f.off, f.size)
  | [] => []

/-- A pop binds the highest frame not bound yet (R367). -/
def popFrame (x : Channel) (n : Nat) (d : BitVec 512) : Option (Nat × Channel) :=
  let r := roomOf x n
  let a := pdSrc d
  match r.train.frames.find? (fun f => !f.bound) with
  | none => none
  | some f =>
    let fits := swLegal a && f.kind == swKind a && f.mb == swMb a && f.seg == swSeg a && f.tag == swTag a && f.fmt == pdFmtCode d &&
      (pdCount d == 0 || pdCount d == f.count.toNat) && pdSstride d == 0
    if fits then
      some (f.id, modRoomC x n fun r => showTop { r with
        train := { r.train with frames := modFirst (fun g => !g.bound) (fun g => { g with bound := true }) r.train.frames } })
    else none

/-! ## Into the queue -/

/-- A page of the descriptor lies in another tier, or is on its way back: the descriptor is a tier miss (R138, R199). -/
def meetsOther (x : Channel) (n : Nat) (d : BitVec 512) : Bool :=
  (pageReads d ++ pageWrites d).any fun run => (pagesOf run).any fun p =>
    let r := resolve x n p
    let e := pteAt x r
    e.valid && ((e.t2 && e.place != 2) || promoting x r)
/-- A page pinned to T2 puts the descriptor in the unbounded class (R182). -/
def meetsPinned2 (x : Channel) (n : Nat) (d : BitVec 512) : Bool :=
  (pageReads d ++ pageWrites d).any fun run => (pagesOf run).any fun p =>
    let e := pteAt x (resolve x n p)
    e.valid && e.t2 && e.place == 2

/-- The descriptor enters its queue, with its bound (R128, R135). -/
def intoQueue (n q tok : Nat) (desc : BitVec 512) (frame : Option Nat) (x : Channel) : Channel :=
  let i := x.island
  let cls := if meetsPinned2 x n desc then .unbounded else (pumpClass (pdKind desc)).getD .unbounded
  let b := boundOf (tget 0 i.boundPs q) i.ps cls (workingStacks x).length (pdBytes desc)
  let bounded := cls != .unbounded
  let e : PumpEntry :=
    { desc := desc, tok := BitVec.ofNat 6 tok, room := n, bound := if bounded then b else 0, tierMiss := meetsOther x n desc, seq := i.pumpSeq, frame := frame }
  { x with island := { i with
      pumps := tset [] i.pumps q (tget [] i.pumps q ++ [e]), pumpSeq := i.pumpSeq + 1,
      boundPs := if bounded then tset 0 i.boundPs q b else i.boundPs } }

/-- The pages that a descriptor writes are allocated, and the versioned ones among them shadowed and marked (R168, R203, R390). -/
def takePages (c : Ch) (n : Nat) (desc : BitVec 512) (d : Device) : Enq :=
  let pages := ((pageWrites desc).flatMap pagesOf).eraseDups
  match allocFor (chanOf d c) n pages with
  | none => .reject .roomFault .quotaExceeded
  | some y => pages.foldl (versionWrite c n) (.ok (setChan d c y))

/-- What a legal descriptor does with its PISSUE once its pages are taken, by its kind. -/
def enqueueKind (c : Ch) (n q tok : Nat) (desc : BitVec 512) (d : Device) : Enq :=
  let x := chanOf d c
  let bad : Enq := .reject .roomFault .roomFault
  if isPush desc then
    match pushFrame x n desc with
    | some y =>
      match allocFor y n (framePages (roomOf y n)) with
      | some z => .ok (setChan d c (intoQueue n q tok desc (some x.island.pumpSeq) z))
      | none => .reject .roomFault .quotaExceeded
    | none => if pushFull x n desc then .reject .stairwellFull .stairwellFull else bad
  else if isPop desc then
    match popFrame x n desc with
    | some (i, y) => .ok (setChan d c (intoQueue n q tok desc (some i) y))
    | none => bad
  else if isCollective desc then
    let y := if pdKind desc = 5 then setInst x { instOf x (pdColl desc) (pdTag desc) with armed := true } else x
    .ok (setChan d c (intoQueue n q tok desc none y))
  else
    let y := if pdKind desc = 9 then demote x n (pdSrc desc).toNat (pdCount desc)
             else if pdKind desc = 0x0A then window x n ((pdSrc desc).toNat % 4) ((pdSrc desc).toNat / 65536 % 65536) (pdCount desc)
             else x
    if pdKind desc = 6 || pdKind desc = 7 then
      let p : Posted := { room := n, node := pdNode desc, sroom := pdRoom desc, tag := pdTag desc, bytes := pdBytes desc, seq := y.island.pumpSeq }
      match postReceive y p with
      | some z => .ok (setChan d c (intoQueue n q tok desc none z))
      | none => .roomFault
    else .ok (setChan d c (intoQueue n q tok desc none y))

/-- Everything about a descriptor that takes effect with its PISSUE. -/
def enqueueDesc (c : Ch) (n q tok : Nat) (desc : BitVec 512) (slots : Tab AdpEntry) (d : Device) : Enq :=
  if !descLegal (chanOf d c) slots n desc then .reject .roomFault .roomFault
  else match takePages c n desc d with
    | .ok d1 => enqueueKind c n q tok desc d1
    | e => e

/-- Descriptors of a queue that hold an entry of it: a receive that waits for its data while its room is away is held by the router (R537). -/
def queueUse (x : Channel) (q : Nat) : Nat :=
  ((tget [] x.island.pumps q).filter fun e => !(x.island.room != some e.room && unbegun x e)).length

end Sys2Proof.Machine
end

