-- ==== Sys2Proof/Machine/PumpDone.lean ====
section
/-! DEFINITION. Machine/PumpDone.lean: the completion of pump descriptors: waits, data, fingerprints, tags, poison, accounting and tokens (R128, R133, R160, R185 to R191, R194, R199, R368 to R370, R377, R492, R499, R543, R593, R595, R642, R754). -/

namespace Sys2Proof.Machine

/-! ## Tiles on the move -/

/-- A tile, or a raw run, read from its source: bytes, whether it is in X-order, and its poisoned lines as 64 B offsets. -/
structure Piece where
  bytes : List Byte
  xorder : Bool := false
  bad : List Nat := []
  /-- Where its poison arose, if that is known. -/
  arose : Option Arose := none
  deriving DecidableEq, Repr

/-- A piece with the origin of its first poisoned line. -/
def withArose (o : Nat → Option Arose) (p : Piece) : Piece := { p with arose := p.bad.head?.bind o }

def lineOffsets (n : Nat) : List Nat := List.range (cdiv n 64)

/-- A tile in WS is in the order that its tag names, a tile anywhere else in L-order. DEDUCED, log 34. -/
def wsPiece (x : Channel) (d : BitVec 512) (run : Nat × Nat) : Piece :=
  let xo := match pdFmt d, x.tags.find? (fun t => t.1 == run.1 / 512) with
    | some f, some t => t.2.fmt == f.code && t.2.xorder
    | _, _ => false
  withArose (fun j => aroseAt x (.ws (x.island.room.getD 0) (run.1 / 64 + j)))
    { bytes := readBytes x.ws run.1 run.2, xorder := xo, bad := (lineOffsets run.2).filter fun j => x.wsPoison.contains (run.1 / 64 + j) }

/-- A room's Cistern and its poisoned lines, on the island or in its save area (R380, R537). -/
def roomCistern (x : Channel) (n : Nat) : Memory × List Nat :=
  if x.island.room = some n then (x.cistern, x.cisPoison) else ((roomOf x n).saved.cistern, (roomOf x n).saved.cisPoison)
def setCistern (x : Channel) (n : Nat) (m : Memory) (bad : List Nat) : Channel :=
  if x.island.room = some n then { x with cistern := m, cisPoison := bad }
  else modRoomC x n fun r => { r with saved := { r.saved with cistern := m, cisPoison := bad } }

def memPiece (x : Channel) (n : Nat) (run : Nat × Nat) : Piece :=
  match vaKind run.1 with
  | .sump => let a := run.1 % 2 ^ 32
    withArose (fun j => aroseAt x (.sump n (a / 64 + j)))
      { bytes := readBytes (roomSump x n) a run.2, bad := (lineOffsets run.2).filter fun j => (roomSumpPoison x n).contains (a / 64 + j) }
  | .cistern => let a := cisOff run.1
    withArose (fun j => aroseAt x (.cistern n (a / 64 + j)))
      { bytes := readBytes (roomCistern x n).1 a run.2, bad := (lineOffsets run.2).filter fun j => (roomCistern x n).2.contains (a / 64 + j) }
  | _ =>
    let line := fun (j : Nat) => versionVa x n (64 * (run.1 / 64 + j)) / 64
    withArose (fun j => lineArose x n (line j))
      { bytes := (List.range run.2).map fun i => roomByte x n (versionVa x n (run.1 + i)),
        bad := (lineOffsets run.2).filter fun j => linePoisoned x n (line j) }

/-- XP and KLAST applied to a piece (R83, R187). Transposition spreads a poisoned line over the whole tile. DEDUCED, log 34. -/
def shape (d : BitVec 512) (p : Piece) : Piece :=
  match pdFmt d with
  | none => p
  | some f =>
    let q : Piece := if pdXp d then
        { bytes := transposeTile f p.xorder p.bytes, xorder := !p.xorder, bad := if p.bad.isEmpty then [] else lineOffsets p.bytes.length }
      else p
    { q with bytes := padTile f q.xorder (pdKlast d) q.bytes }

def pieceFp (d : BitVec 512) (p : Piece) : W64 :=
  match pdFmt d with
  | some f => fingerprint f p.xorder p.bytes
  | none => crc64 p.bytes

/-- Writes a piece into WS: its bytes, its tag (R160) and its poison. A room off the islands has it among its arrivals (R537); a room that
has left for good has it nowhere. -/
def putWs (n : Nat) (dead : Bool) (desc : BitVec 512) (a : Nat) (p : Piece) (x : Channel) : Channel :=
  if dead then x
  else if x.island.room = some n then
    let y := writeWs x a p.bytes
    let z := match pdFmt desc with
      | some f => { y with tags := setTag y.tags a f p.xorder p.bytes }
      | none => y
    poisonWs n (p.bad.map (a / 64 + ·)) p.arose z
  else
    modRoomC x n fun r => { r with arrivals := r.arrivals ++
      [{ addr := a, bytes := p.bytes, tag := (pdFmt desc).map fun f => tagOf f p.xorder p.bytes, bad := p.bad, arose := p.arose }] }

/-- CIS_LIVE, and the Cistern units of the save area of a room off the islands, follow the live pages (R380). -/
def showLive (x : Channel) (n : Nat) : Channel :=
  modRoomC x n fun r => { r with
    trn := { r.trn with cisLive := BitVec.ofNat 10 r.train.cisLive.length },
    saved := { r.saved with cisUnits := if x.island.room = some n then r.saved.cisUnits else r.train.cisLive.length } }

/-- Pages of the Cistern become live (R380). -/
def cisTouch (x : Channel) (n : Nat) (run : Nat × Nat) : Channel :=
  showLive (modRoomC x n fun r => { r with train := { r.train with cisLive := addAll r.train.cisLive (pagesOf run) } }) n

/-- A clearing read leaves +0 (R377). -/
def cisClear (x : Channel) (n : Nat) (run : Nat × Nat) : Channel :=
  let t := roomCistern x n
  setCistern x n (clearBytes t.1 run.1 run.2) (dropAll t.2 (wholeLines run.1 run.2))

/-- The pages that a clearing read covers whole, by all its runs together, are live no more (R380). -/
def cisCleared (x : Channel) (n : Nat) (runs : List (Nat × Nat)) : Channel :=
  let lines := runs.flatMap fun r => wholeLines r.1 r.2
  let whole := ((runs.flatMap pagesOf).eraseDups).filter fun p => (pageLines p).all lines.contains
  showLive (modRoomC x n fun r => { r with train := { r.train with cisLive := dropAll r.train.cisLive whole } }) n

/-- Writes a piece into the Cistern window. -/
def putCistern (n a : Nat) (p : Piece) (x : Channel) : Channel :=
  let o := cisOff a
  let t := roomCistern x n
  let y := setCistern x n (writeBytes t.1 o p.bytes) (addAll (dropAll t.2 (linesOf (o, p.bytes.length))) (p.bad.map (o / 64 + ·)))
  cisTouch (p.bad.foldl (fun y j => setArose (.cistern n (o / 64 + j)) p.arose y) y) n (o, p.bytes.length)

/-- Writes a piece into room memory or into the Cistern window; the Cistern of a room that has left for good is another's. -/
def putMem (d : Device) (c : Ch) (n : Nat) (dead : Bool) (a : Nat) (p : Piece) : Device :=
  match vaKind a with
  | .cistern => if dead then d else modChan d c (putCistern n a p)
  | _ =>
    let d1 := writeMem d c n a p.bytes
    modChan d1 c fun x =>
      p.bad.foldl (fun x j => poisonRoom n (a + 64 * j, 64) p.arose x) (cleanRoom n (a, p.bytes.length) x)

/-! ## Accounting (Table 13.9) -/

/-- Bytes of a run in T1 and in T2, by the tier of each page; a page that is not allocated is in neither. -/
def tierBytes (x : Channel) (n : Nat) (run : Nat × Nat) : Nat × Nat :=
  (pagesOf run).foldl (fun t p =>
    let e := pteAt x (resolve x n p)
    let b := bytesInPage run p
    if !e.valid then t else if e.t2 then (t.1, t.2 + b) else (t.1 + b, t.2)) (0, 0)

def countMem (n : Nat) (runs : List (Nat × Nat)) (x : Channel) : Channel :=
  let t := runs.foldl (fun t r => let u := tierBytes x n r; (t.1 + u.1, t.2 + u.2)) (0, 0)
  modRoomC x n fun r => { r with
    acct := { r.acct with t1Bytes := r.acct.t1Bytes + BitVec.ofNat 64 t.1, t2Bytes := r.acct.t2Bytes + BitVec.ofNat 64 t.2 } }
def countT0 (n b : Nat) (x : Channel) : Channel :=
  modRoomC x n fun r => { r with acct := { r.acct with t0Bytes := r.acct.t0Bytes + BitVec.ofNat 64 b } }
def countT1 (n b : Nat) (x : Channel) : Channel :=
  modRoomC x n fun r => { r with acct := { r.acct with t1Bytes := r.acct.t1Bytes + BitVec.ofNat 64 b } }

/-! ## Fingerprints (R190, R191) -/

/-- The record of a fingerprint mismatch; a tile outside the weight windows has no copy index. DEDUCED, log 39. -/
def fpRecord (x : Channel) (n a : Nat) : FaultRec :=
  let unit : BitVec 16 := match windowOf (a / pageBytes) with
    | some (m, _) => (match ptrOf (roomOf x n) m with | some k => BitVec.ofNat 16 k | none => 0xFFFF)
    | none => 0xFFFF
  { cls := 0xA0, unit := unit, kind := 1, room := BitVec.ofNat 6 n, addr := BitVec.ofNat 64 a }

/-- A piece that failed its fingerprint: all of it is poison, which arose in the tile unless it came poisoned (R592, R594). -/
def failPiece (f : FaultRec) (p : Piece) : Piece :=
  { p with bad := lineOffsets p.bytes.length, arose := if p.bad.isEmpty then some { cls := f.cls, unit := f.unit, addr := f.addr } else p.arose }

/-- Tile i's fingerprint is checked (FPC, FPSCAN), then written (FPW); a mismatch poisons the destination tile. -/
def fpTile (d : Device) (c : Ch) (n : Nat) (desc : BitVec 512) (i src : Nat) (p : Piece) : Piece × Device :=
  let va := (pdFpaddr desc).toNat + 8 * i
  let v := pieceFp desc p
  let checks := pdFpc desc || pdKind desc == 0x0B
  let wrong := checks && readRoomLe (chanOf d c) n va 8 != v.toNat
  let d1 := if wrong then modChan d c fun x => record x (fpRecord x n src) else d
  let d2 := if pdFpw desc then writeMem d1 c n va (leBytes 8 v.toNat) else d1
  (if wrong then failPiece (fpRecord (chanOf d c) n src) p else p, d2)

/-! ## Moving data -/

/-- Copies: WS to WS, room memory to WS, WS to room memory, room memory to room memory, FPSCAN (Table 4.9). -/
def moveCopy (d : Device) (c : Ch) (e : PumpEntry) : Device :=
  let desc := e.desc
  let k := pdKind desc
  let n := e.room
  let runs := (srcRuns desc).zip (dstRuns desc)
  let cleared := if srcInMem k then ((srcRuns desc).filter fun s => vaKind s.1 == .cistern && cisClears s.1).map fun s => (cisOff s.1, s.2) else []
  let moved := (List.zip (List.range runs.length) runs).foldl (fun d t =>
    let i := t.1
    let s := t.2.1
    let o := t.2.2
    let x := chanOf d c
    let p := shape desc (if srcInMem k then memPiece x n s else wsPiece x desc s)
    let d0 := if srcInMem k && vaKind s.1 == .cistern && cisClears s.1 then modChan d c fun x => cisClear x n (cisOff s.1, s.2) else d
    let (p, d1) := if (fpRuns desc).isEmpty then (p, d0) else fpTile d0 c n desc i s.1 p
    if dstInWs k then modChan d1 c (putWs n e.dead desc o.1 p)
    else if dstInMem k then putMem d1 c n e.dead o.1 p
    else d1) d
  if cleared.isEmpty then moved else modChan moved c fun x => cisCleared x n cleared

/-- FILL: zero tiles, tagged; with XP they are tagged in X-order. -/
def moveFill (d : Device) (c : Ch) (e : PumpEntry) : Device :=
  let runs := dstRuns e.desc
  (List.zip (List.range runs.length) runs).foldl (fun d t =>
    let p := shape e.desc { bytes := List.replicate t.2.2 0 }
    let (p, d1) := if (fpRuns e.desc).isEmpty then (p, d) else fpTile d c e.room e.desc t.1 t.2.1 p
    modChan d1 c (putWs e.room e.dead e.desc t.2.1 p)) d

/-- The pieces of a list of runs as one stream: bytes, and poisoned lines by offset. -/
def gather (ps : List Piece) : List Byte × List Nat :=
  ps.foldl (fun t p => (t.1 ++ p.bytes, t.2 ++ p.bad.map (t.1.length / 64 + ·))) ([], [])

/-- SEND: the tiles, shaped and in order, as a transfer. -/
def moveSend (d : Device) (c : Ch) (e : PumpEntry) : Device :=
  let x := chanOf d c
  let runs := srcRuns e.desc
  let t := (List.zip (List.range runs.length) runs).foldl (fun (t : List Piece × Device) r =>
    let p := shape e.desc (wsPiece x e.desc r.2)
    let (p, d) := if (fpRuns e.desc).isEmpty then (p, t.2) else fpTile t.2 c e.room e.desc r.1 r.2.1 p
    (t.1 ++ [p], d)) ([], d)
  let g := gather t.1
  sendTransfer t.2 c e.room (pdNode e.desc) (pdRoom e.desc) (pdTag e.desc) g.1 g.2

/-- The bytes of a complete receive in order, with the offsets of its poisoned lines. -/
def recvData (p : Posted) : List Byte × List Nat :=
  gather (((List.range (chunksOf p.bytes)).filterMap fun i => p.chunks.find? fun k => k.1 == i).map fun k =>
    { bytes := k.2.1, bad := if k.2.2 then lineOffsets k.2.1.length else [] })

/-- A receive places its data (R492). -/
def moveRecv (d : Device) (c : Ch) (e : PumpEntry) : Device :=
  match (chanOf d c).posted.find? fun p => p.seq == e.seq with
  | none => d
  | some p =>
    let data := recvData p
    let runs := dstRuns e.desc
    let d1 := modChan d c fun x => { x with posted := x.posted.filter fun q => q.seq != e.seq }
    (List.zip (List.range runs.length) runs).foldl (fun d t =>
      let i := t.1
      let o := t.2
      let raw : Piece :=
        { bytes := (data.1.drop (i * o.2)).take o.2,
          bad := (data.2.filter fun l => i * o.2 ≤ 64 * l && 64 * l < (i + 1) * o.2).map fun l => l - i * o.2 / 64 }
      let q := shape e.desc raw
      let (q, d2) := if (fpRuns e.desc).isEmpty then (q, d) else fpTile d c e.room e.desc i o.1 q
      if pdKind e.desc = 6 then modChan d2 c (putWs e.room e.dead e.desc o.1 q) else putMem d2 c e.room e.dead o.1 q) d1

/-! ## Stairwell frames (R363, R368, R369) -/

def frameOfId (r : Room) (i : Nat) : Option Frame := r.train.frames.find? fun f => f.id == i
def modFrame (x : Channel) (n i : Nat) (f : Frame → Frame) : Channel :=
  modRoomC x n fun r => { r with train := { r.train with frames := r.train.frames.map fun g => if g.id = i then f g else g } }

/-- The fingerprint of a frame's payload: the CRC over its tiles in L-order one after another, or over the raw bytes. -/
def payloadFp (desc : BitVec 512) (ps : List Piece) : W64 :=
  crc64 (ps.flatMap fun p => match pdFmt desc with | some f => toL f p.xorder p.bytes | none => p.bytes)

/-- The 64 B header of a frame (Table 9.3). -/
def frameHeader (f : Frame) (fp : W64) : List Byte :=
  leBytes 8 (1 + 2 ^ 16 * f.tag.toNat + 2 ^ 24 * f.seg.toNat + 2 ^ 32 * f.mb.toNat + 2 ^ 44 * f.fmt.toNat +
    2 ^ 48 * (if f.dropped then 1 else 0) + 2 ^ 49 * f.kind.toNat) ++
  leBytes 4 f.count.toNat ++ leBytes 4 (if f.dropped then 0 else f.size / 512 - 1) ++
  leBytes 4 f.wgen.toNat ++ leBytes 4 f.prev.toNat ++ leBytes 8 fp.toNat ++ leBytes 32 0

/-- Byte offsets of the payload's tiles behind the header. -/
def payloadStarts (desc : BitVec 512) (base n : Nat) : List Nat := (List.range n).map fun i => base + 512 + pdTile desc * i

/-- A push writes its frame: header unit, then the payload unless it was dropped. -/
def movePush (d : Device) (c : Ch) (e : PumpEntry) (i : Nat) : Device :=
  let n := e.room
  let x := chanOf d c
  let r := roomOf x n
  match frameOfId r i with
  | none => d
  | some f =>
    let base := r.trn.stwBase.toNat + f.off
    let ps := if f.dropped then [] else (srcRuns e.desc).map fun s => shape e.desc (wsPiece x e.desc s)
    let hdr := frameHeader f (if f.dropped then 0 else payloadFp e.desc ps) ++ List.replicate 448 0
    let d1 := putMem d c n e.dead base { bytes := hdr }
    let d2 := (List.zip (payloadStarts e.desc base ps.length) ps).foldl (fun d t => putMem d c n e.dead t.1 t.2) d1
    modChan d2 c fun x => countT1 n (512 + (ps.map fun p => p.bytes.length).sum)
      (modFrame x n i fun f => { f with landed := true, orders := ps.map (·.xorder) })

/-- A pop writes the header at DST, and unless COUNT is 0 or the frame was dropped, the payload behind it; the frame is freed. A frame's
payload is kept as it was pushed, each tile in its order. -/
def movePop (d : Device) (c : Ch) (e : PumpEntry) (i : Nat) : Device :=
  let n := e.room
  let x := chanOf d c
  let r := roomOf x n
  match frameOfId r i with
  | none => d
  | some f =>
    let base := r.trn.stwBase.toNat + f.off
    let dst := (pdDst e.desc).toNat
    let withData := pdCount e.desc != 0 && !f.dropped
    let raw := if withData then (List.zip (List.range (pdTiles e.desc)) (payloadStarts e.desc base (pdTiles e.desc))).map fun t =>
      { memPiece x n (t.2, pdTile e.desc) with xorder := f.orders.getD t.1 false } else []
    let fp := readRoomLe x n (base + 24) 8
    let wrong := withData && (payloadFp e.desc raw).toNat != fp
    let d0 := if wrong then modChan d c fun x => record x (fpRecord x n base) else d
    let hdr : Piece := { memPiece x n (base, 64) with xorder := false }
    let rawDesc : BitVec 512 := 0xF0000#512
    let d1 := modChan d0 c (putWs n e.dead rawDesc dst hdr)
    let ps := raw.map fun p => shape e.desc (if wrong then failPiece (fpRecord x n base) p else p)
    let starts := (dstRuns e.desc).map fun o => o.1 + 512
    let d2 := (List.zip (List.range ps.length) (starts.zip ps)).foldl (fun d t =>
      let (p, d) := if (fpRuns e.desc).isEmpty then (t.2.2, d) else fpTile d c n e.desc t.1 base t.2.2
      modChan d c (putWs n e.dead e.desc t.2.1 p)) d1
    let b := (ps.map fun p => p.bytes.length).sum
    modChan d2 c fun x =>
      countT0 n (64 + b) (countT1 n (64 + b) (modRoomC x n fun r => { r with
        train := { r.train with frames := r.train.frames.filter fun g => g.id != i } }))

/-! ## When a descriptor may complete -/

def crosses (l : List (Nat × Nat)) (m : List (Nat × Nat)) : Bool := l.any fun r => m.any fun q => unitMeets r q

/-- The locks of earlier descriptors and of the array (R133). A room off the islands meets none: its receives write its arrivals. -/
def lockedOut (x : Channel) (e : PumpEntry) : Bool :=
  let rs := entryReads x e
  let ws := entryWrites e
  let earlier := (allEntries x).filter fun f => f.seq < e.seq && f.room == e.room
  (earlier.any fun f => crosses ws (entryReads x f ++ entryWrites f) || crosses rs (entryWrites f)) ||
  (match x.island.arr with
   | some a => crosses ws (arrAB a.slot ++ arrC a.slot) || crosses rs (arrC a.slot)
   | none => false) ||
  crosses ws (loading x)

/-- A page of the descriptor is on its way back to T1 (Table 4.11). -/
def onItsWay (x : Channel) (e : PumpEntry) : Bool :=
  (pageReads e.desc ++ pageWrites e.desc).any fun run => (pagesOf run).any fun p => promoting x (resolve x e.room p)

/-- A shared tile that it reads is poisoned with its repair pending (R449, R595). -/
def awaitsRepair (x : Channel) (e : PumpEntry) : Bool :=
  (pageReads e.desc).any fun run => (pagesOf run).any (fun p => (windowOf p).isSome) && roomPoisoned x e.room run

/-- A write to a page of a capture set finds the staging area full (R642). -/
def awaitsStage (d : Device) (c : Ch) (e : PumpEntry) : Bool :=
  match suiteOfChan d c with
  | none => false
  | some s =>
    let r := leadRoom d s e.room
    stageFull r && (pageWrites e.desc).any fun run => (pagesOf run).any fun p => needsStage r (capKey c p)

/-- What a receive waits for has come. -/
def recvReady (x : Channel) (e : PumpEntry) : Bool :=
  if isCollective e.desc then pdKind e.desc == 5 || instDone x (pdColl e.desc) (pdTag e.desc)
  else if pdKind e.desc == 6 || pdKind e.desc == 7 then
    match x.posted.find? fun p => p.seq == e.seq with
    | some p => recvDone p
    | none => true
  else true

/-- Stairwell order (R370): a pop waits for its push, and a push for a pop of a frame that it overlaps. -/
def frameReady (x : Channel) (e : PumpEntry) : Bool :=
  match e.frame with
  | none => true
  | some i =>
    match frameOfId (roomOf x e.room) i with
    | none => true
    | some f =>
      if isPop e.desc then f.landed
      else !((roomOf x e.room).train.frames.any fun g => g.bound && g.id != i && f.off < g.off + g.size && g.off < f.off + f.size)

/-- The pump island runs, and for T1 so do the stack controllers (Table 15.3). -/
def pumpRuns (x : Channel) (e : PumpEntry) : Bool :=
  x.pumps.count != 0 && !x.trips.contains .pllOther &&
  !(x.trips.contains .vstk && (pumpClass (pdKind e.desc) == some .mw || pumpClass (pdKind e.desc) == some .wm || pumpClass (pdKind e.desc) == some .mm))

def entryReady (d : Device) (c : Ch) (e : PumpEntry) : Bool :=
  let x := chanOf d c
  pumpRuns x e && recvReady x e && frameReady x e && !onItsWay x e && !awaitsRepair x e && !awaitsStage d c e &&
  (x.island.room != some e.room || !lockedOut x e)

/-- The entry of a queue that completes next: the first that is ready, where every entry before it is a receive held by the router for
another room (R128, R537). -/
def nextDone (d : Device) (c : Ch) : List PumpEntry → List PumpEntry → Option PumpEntry
  | [], _ => none
  | e :: l, before =>
    let x := chanOf d c
    let passes := before.all fun f => f.room != e.room && x.island.room != some f.room && unbegun x f
    if passes && entryReady d c e then some e
    else nextDone d c l (before ++ [e])

/-! ## Completion -/

/-- The descriptor's data moves. -/
def moveData (d : Device) (c : Ch) (e : PumpEntry) : Device :=
  let k := pdKind e.desc
  if isCollective e.desc then
    if k = 5 then runInst d c (pdColl e.desc) (pdTag e.desc) else modChan d c fun x => { x with
      insts := x.insts.filter fun i => !(i.k == pdColl e.desc && i.tag == pdTag e.desc),
      colls := tmod {} x.colls (pdColl e.desc) fun f => { f with uses := if (instOf x (pdColl e.desc) (pdTag e.desc)).counted then f.uses else satInc f.uses } }
  else match e.frame with
    | some i => if isPop e.desc then movePop d c e i else movePush d c e i
    | none =>
      if k = 5 then moveSend d c e
      else if k = 6 ∨ k = 7 then moveRecv d c e
      else if k = 8 then moveFill d c e
      else if k = 9 ∨ k = 0x0A then d
      else moveCopy d c e

/-- What a push writes and a pop reads of the Stairwell region: the header, and the payload that is stored and asked for (R365, R368). -/
def frameRuns (x : Channel) (e : PumpEntry) : List (Nat × Nat) :=
  match e.frame.bind (frameOfId (roomOf x e.room)) with
  | none => []
  | some f =>
    let base := (roomOf x e.room).trn.stwBase.toNat + f.off
    if isPop e.desc then (base, 64) :: (if pdCount e.desc = 0 || f.dropped then [] else [(base + 512, pdBytes e.desc)])
    else (base, 512) :: (if f.dropped then [] else [(base + 512, pdBytes e.desc)])

/-- Heat and accounting of what a descriptor read and wrote (R194, Table 13.9). -/
def accountEntry (e : PumpEntry) (frame : List (Nat × Nat)) (x : Channel) : Channel :=
  let runs := pageReads e.desc ++ pageWrites e.desc
  let y := countMem e.room runs (heatRuns x e.room (runs ++ frame))
  if e.frame.isNone && dstInWs (pdKind e.desc) then countT0 e.room (pdBytes e.desc) y else y

/-- Whether the end of this descriptor ends the hold in progress: its token is the last that the wait needs, its locks stood in the way, or its
place in a full queue comes free (R129, R754). -/
def endsHold (x : Channel) (q : Nat) (e : PumpEntry) : Bool :=
  match x.island.hold with
  | some (.token t c _) => x.island.room == some e.room && e.tok.toNat == t && (readTk x.island.ctx t).toNat + 1 == c
  | some (.lock rs ws) => crosses rs (entryWrites e) || crosses ws (entryReads x e ++ entryWrites e)
  | some (.cistern rs) => (srcRuns e.desc ++ dstRuns e.desc).any fun r => vaKind r.1 == .cistern && rs.any fun q => meets (cisOff r.1, r.2) q
  | some (.queue qs) => qs.contains q
  | _ => false

/-- State pages that a descriptor wrote; a unit whose every page has been written is held no longer (R424). -/
def releaseHeld (e : PumpEntry) (x : Channel) : Channel :=
  let ps := (pageWrites e.desc).flatMap pagesOf
  if (roomOf x e.room).update.holds.isEmpty then x else
  modRoomC x e.room fun r => { r with update := { r.update with
    holds := (r.update.holds.map fun h => (h.1, dropAll h.2 ps)).filter fun h => !h.2.isEmpty } }

/-- A version that the descriptor was to read is held no more: the reader's lease has lapsed since its PISSUE (R392). -/
def versionGone (x : Channel) (e : PumpEntry) : Bool :=
  !e.dead && (pageReads e.desc).any fun run => (pagesOf run).any fun p => versionOf x e.room p == .gone

def dropEntry (q : Nat) (e : PumpEntry) (x : Channel) : Channel :=
  { x with island := { x.island with pumps := tset [] x.island.pumps q ((tget [] x.island.pumps q).filter fun f => f.seq != e.seq) } }

/-- PUMP_DESCRIPTOR_COMPLETE. -/
def pumpDone (c : Ch) (q : Nat) (d : Device) : Device :=
  match nextDone d c (tget [] (chanOf d c).island.pumps q) [] with
  | none => d
  | some e =>
    if versionGone (chanOf d c) e then faultOn d c e.room .roomFault else
    let d0 := if (chanOf d c).island.room = some e.room then modChan d c fun x => landStores x (entryReads x e ++ entryWrites e) else d
    let live := isStarted (roomOf (chanOf d0 c) e.room) || e.dead
    let d1 := if live then moveData d0 c e else d0
    let d2 := modChan d1 c fun x =>
      let y := releaseHeld e (accountEntry e (frameRuns (chanOf d0 c) e) x)
      let z := if endsHold x q e then { y with island := { y.island with miss := some (if e.tierMiss then .tier else .bound) } } else y
      dropEntry q e z
    if e.dead then d2 else postToken d2 c e.room e.tok.toNat

def execPumpDescriptorComplete (c : Ch) (q : BitVec 4) (s : State) : Out := onDev (pumpDone c q.toNat) s

end Sys2Proof.Machine
end

