-- ==== Sys2Proof/Machine/Scalar.lean ====
section
/-! DEFINITION. Machine/Scalar.lean: the scalar slots (R109, Table 3.4). -/

namespace Sys2Proof.Machine

/-- Whether a scalar opcode is one of Table 3.4. -/
def scOpKnown (op : Nat) : Bool := op ≤ 0x0E || (0x10 ≤ op && op ≤ 0x13)

/-- Whether the slot accesses WS (SLD, SST). -/
def scIsMem (s : BitVec 64) : Bool := scOp s = 0x10 || scOp s = 0x11

/-- SADD: SD := SA + SB + IMM32. -/
def opSADD (a b i : W64) : W64 := a + b + i
/-- SSUB: SD := SA − SB − IMM32. -/
def opSSUB (a b i : W64) : W64 := a - b - i
/-- SMUL: low 64 bits of SA × SB. -/
def opSMUL (a b : W64) : W64 := a * b
/-- SAND: SA and (SB or IMM32). -/
def opSAND (a b i : W64) : W64 := a &&& (b ||| i)
/-- SOR: SA or SB or IMM32. -/
def opSOR (a b i : W64) : W64 := a ||| b ||| i
/-- SXOR: SA xor SB xor IMM32. -/
def opSXOR (a b i : W64) : W64 := a ^^^ b ^^^ i
/-- The shift count SB + IMM32, modulo 64 (R109). -/
def shiftCount (b i : W64) : Nat := (b + i).toNat % 64
/-- SSHL. -/
def opSSHL (a b i : W64) : W64 := a <<< shiftCount b i
/-- SSHR: logical. -/
def opSSHR (a b i : W64) : W64 := a >>> shiftCount b i
/-- SSRA: arithmetic. -/
def opSSRA (a b i : W64) : W64 := a.sshiftRight (shiftCount b i)
/-- SLIH: SD[63:32] := IMM32, with SD[31:0] unchanged. -/
def opSLIH (d i : W64) : W64 := (i <<< 32) ||| (d &&& 0xFFFFFFFF)

/-- What a scalar slot writes and when, from the registers as they stand at issue (R106, R107, Table 3.4).
ld is the WS word a load reads. -/
def scalarWrites (c : Ctx) (cycle : Nat) (ld : Nat → W64) (s : BitVec 64) : List PendWrite :=
  let a := readX c (scSA s)
  let b := readX c (scSB s)
  let i := scImm s
  let u := scImmZ s
  let d := scSD s
  let reg (lat : Nat) (v : W64) : List PendWrite := [⟨cycle + lat, .x d v⟩]
  let pred (v : Bool) : List PendWrite := [⟨cycle + 1, .q (d % 8) v⟩]
  match scOp s with
  | 0x01 => reg 1 (opSADD a b i)
  | 0x02 => reg 1 (opSSUB a b i)
  | 0x03 => reg 3 (opSMUL a b)
  | 0x04 => reg 1 (opSAND a b u)
  | 0x05 => reg 1 (opSOR a b u)
  | 0x06 => reg 1 (opSXOR a b u)
  | 0x07 => reg 1 (opSSHL a b i)
  | 0x08 => reg 1 (opSSHR a b i)
  | 0x09 => reg 1 (opSSRA a b i)
  | 0x0A => reg 1 u
  | 0x0B => reg 1 (opSLIH (readX c d) u)
  | 0x0C => pred (a == b)
  | 0x0D => pred (a.slt b)
  | 0x0E => pred (a.ult b)
  | 0x10 => reg 8 (ld (scAddr c s))
  | 0x11 => [⟨cycle + 8, .ws (scAddr c s) (leBytes 8 b.toNat) false⟩]
  | 0x12 => reg 1 ((readTk c (fld s 26 6)).setWidth 64)
  | 0x13 => reg 1 c.scyc
  | _ => []

end Sys2Proof.Machine
end

