-- ==== Sys2Proof/Machine/VecIssue.lean ====
section
/-! DEFINITION. Machine/VecIssue.lean: the vector slots as their bundle issues: legality, what they touch, and what they do (R110 to R115, R158, R222 to R227, R274, R306 to R316, R375, R378). -/

namespace Sys2Proof.Machine

/-! ## Legality of a slot by itself (R103, R110, R111, R306, R375) -/

/-- The sub-function of an opcode is one that Table 3.6 names; values above are reserved. DEDUCED, log 42. -/
def sfnKind (s : BitVec 96) : Option Nat :=
  let f := vcSFN s
  match vcOp s with
  | 0x09 => if f % 4 = 3 then some 0x07 else none
  | 0x0A => if f ≤ 3 then none else some 0x07
  | 0x0B =>
    match Fmt.ofCode (BitVec.ofNat 4 (f % 16)) with
    | some (.mx _) => if f / 16 % 4 = 3 then some 0x03 else none
    | _ => some 0x02
  | 0x0C => if f ≤ 5 then none else some 0x07
  | 0x0D | 0x0E => if f ≤ 2 then none else some 0x07
  | _ => none

/-- The generator that a STATE-mode VRNG names (R306). -/
def rngGen (c : Ctx) (s : BitVec 96) : Nat := (readX c (vcXS s)).toNat % 4096

/-- The stream fault kind of vector slot i when it is illegal whatever its predicate. Table 3.14 names neither a group range beyond 63 nor a VSMP
outside V3: both are fields out of range, kind 0x07. DESIGN CHOICE, log 116. -/
def vecStatic (x : Channel) (n i : Nat) (s : BitVec 96) : Option Nat :=
  let r := roomOf x n
  if !vcOpKnown (vcOp s) then some 0x01
  else if vcRsv s != 0 then some 0x07
  else if vcOp s = 0 then none
  else if (vcVType s).isNone then some 0x07
  else if 64 ≤ vcG0 s + vcGN s then some 0x07
  else match sfnKind s with
  | some k => some k
  | none =>
    match vcOp s with
    | 0x14 => if vrngLegal s r.rng.mode r.rng.ngen.toNat (rngGen x.island.ctx s) then none else some 0x07
    | 0x18 | 0x19 => if vcType s = 0 then none else some 0x07
    | 0x1C => if i = 3 then none else some 0x07
    | _ => none

/-- Two non-empty vector slots share a lane group (R110). -/
def groupsOverlap (a b : BitVec 96) : Bool :=
  vcOp a != 0 && vcOp b != 0 && vcG0 a ≤ vcG0 b + vcGN b && vcG0 b ≤ vcG0 a + vcGN a

/-- The slot acts: it is not empty and its predicate is true. -/
def vecActs (c : Ctx) (s : BitVec 96) : Bool := vcOp s != 0 && readQ c (vcQP s)

/-! ## Operands -/

def vecSpan (s : BitVec 96) : Nat := 1024 * (vcGN s + 1)
/-- The run that a load, a store or a Cistern add addresses (R111, R375). -/
def vecRun (c : Ctx) (s : BitVec 96) : Nat × Nat := (vcAddr c s 0, vecSpan s)
/-- The lanes of a vector register in a slot's groups, group by group. -/
def vecLanes (c : Ctx) (s : BitVec 96) (reg : Nat) : List W32 := (vcGroups s).flatMap fun g => readRow c reg g
/-- VGATHER's address of each lane; VA counts as an unsigned number of words. DEDUCED, log 43. -/
def gatherAddrs (c : Ctx) (s : BitVec 96) : List Nat :=
  let base := (readX c (vcXS s)).toNat
  (vecLanes c s (vcVA s)).map fun v => base + 4 * v.toNat

/-- The parameters of a VSMP (R115): block address, first logit, rows. -/
def smpBlock (c : Ctx) (s : BitVec 96) : Nat := (readX c (vcVA s)).toNat
def smpBase (s : BitVec 96) : Nat := 64 * vcImm s
def smpRows (c : Ctx) (s : BitVec 96) : Nat := (readX c (vcXS s)).toNat
/-- What the unit reads, and the records that it writes (Tables 6.10, 6.11, R273). -/
def smpReads (ws : Memory) (c : Ctx) (s : BitVec 96) : List (Nat × Nat) :=
  let b := smpBlock c s
  let h := readSmpHeader ws b
  let rows := smpRows c s
  if rows ≤ h.ns then
    (b, 64) :: (b + 64, 32 * rows) :: (List.range rows).map fun i => (smpBase s + 64 * h.lstride * i, h.v * (if h.bf16 then 2 else 4))
  else [(b, 64)]
def smpWrites (ws : Memory) (c : Ctx) (s : BitVec 96) : List (Nat × Nat) :=
  let h := readSmpHeader ws (smpBlock c s)
  if smpRows c s ≤ h.ns then [(h.out, 32 * smpRows c s)] else []

/-! ## VSUMP: its append point and rows (R222) -/

/-- First row, layer and head group of the append point. -/
def sumpRow0 (c : Ctx) (s : BitVec 96) : Nat := (readX c (vcXS s)).toNat % 65536
def sumpLayer (c : Ctx) (s : BitVec 96) : Nat := (readX c (vcXS s)).toNat / 65536 % 1024
def sumpGroup (c : Ctx) (s : BitVec 96) : Nat := (readX c (vcXS s)).toNat / 2 ^ 26 % 64
/-- Lanes of a row: 2 × Hg × D. -/
def sumpWidth (k : KvRoom) : Nat := 2 * (k.hg.toNat * kvD k)
def sumpRows (k : KvRoom) (s : BitVec 96) : Nat := 256 * (vcGN s + 1) / sumpWidth k

/-- A length-table entry (Table 5.5). -/
structure LtRow where
  slot : Nat
  ctxLen : Nat
  qoff : Nat
  qn : Nat
  tree : Bool
  deriving DecidableEq, Repr

def readLtRow (ws : Memory) (lt i : Nat) : LtRow :=
  let w := readLe ws (lt + 64 + 32 * i) 32
  { slot := bitsOf w 0 32, ctxLen := bitsOf w 32 32, qoff := bitsOf w 64 32, qn := bitsOf w 96 16, tree := bitsOf w 112 1 = 1 }
def ltEntries (ws : Memory) (lt : Nat) : Nat := min 8192 (readLe ws lt 4)
def ltRows (ws : Memory) (lt : Nat) : Nat := readLe ws (lt + 4) 4

/-- The entry that holds a row of the table. -/
def ltFind (ws : Memory) (lt row : Nat) : Option LtRow :=
  ((List.range (ltEntries ws lt)).map (readLtRow ws lt)).find? fun e => e.qoff ≤ row && row < e.qoff + e.qn

/-- A row of a VSUMP: its keys and values lane by lane, its region, its position, and whether it is a tree row. -/
structure SumpRow where
  region : Nat
  pos : Nat
  tree : Bool
  first : Nat
  deriving DecidableEq, Repr

/-- The rows of a slot, each with the number of its first lane; none when a condition of R222 fails. -/
def sumpPlan (x : Channel) (n : Nat) (s : BitVec 96) : Option (List SumpRow) :=
  let c := x.island.ctx
  let k := (roomOf x n).kv
  let lt := k.ltAddr.toNat
  let w := sumpWidth k
  let rows := sumpRows k s
  if (readX c (vcXS s)).toNat / 2 ^ 32 != 0 || w = 0 || 256 * (vcGN s + 1) % w != 0 || ltRows x.ws lt < sumpRow0 c s + rows ||
     k.layers.toNat ≤ sumpLayer c s || k.g.toNat ≤ sumpGroup c s then none
  else (List.range rows).mapM fun i => do
    let e ← ltFind x.ws lt (sumpRow0 c s + i)
    let pos := e.ctxLen + (sumpRow0 c s + i - e.qoff)
    if k.slots.toNat ≤ e.slot || k.maxlen.toNat * 128 ≤ pos then none
    else some { region := kvRegion k e.slot (sumpLayer c s) (sumpGroup c s), pos := pos, tree := e.tree, first := w * i }

/-- A Sump slot that the rows append to still holds another page (R227). -/
def sumpBusy (x : Channel) (n : Nat) (rows : List SumpRow) : Bool :=
  let k := (roomOf x n).kv
  decide (k.cls = 0) && rows.any fun w =>
    (roomOf x n).staging.any fun g => g.key == stageKey w.region (w.pos / kvP k) && g.page != w.pos / kvP k

/-- The fixed scale code of a head of a layer (R224). -/
def vscOf (x : Channel) (k : KvRoom) (layer g h : Nat) : Byte :=
  readByte x.ws (k.vscAddr.toNat + layer * (k.g.toNat * k.hg.toNat) + g * k.hg.toNat + h)

/-- A value's code under a fixed scale, and whether it saturated (R224, R225). A NaN or an infinity has its code whatever the scale; a finite
value under the scale code 0xFF has no stated code. -/
def valueCode (f : MxFmt) (vsc : Byte) (v : W32) : Nat × Bool :=
  let x : Int := (vsc.toNat : Int) - 127
  match fp32ToNum v with
  | .fin sg m e =>
    if vsc = 0xFF then ((Config.laneRest 0x19 (vsc.setWidth 32) v).toNat % 2 ^ mxBits f, false) else
    let mb := (mxLayout f).2.1 + 1
    let lsb := max (e - x + bitLen m - mb) (mxLsb f)
    (mxOutElem f .rne true x (.fin sg m e), m != 0 && decide (mxMaxInt f < roundMag .rne m (e - x) lsb <<< (lsb - mxLsb f).toNat))
  | num => (mxOutElem f .rne true x num, false)

/-- The stored form of one head of one row: key codes with their block scales, value codes, and how many saturated. -/
structure HeadForm where
  keys : List (Byte × List Nat)
  vals : List Nat
  vsc : Byte
  sats : Nat

def headForm (f : MxFmt) (vsc : Byte) (keys vals : List W32) : HeadForm :=
  let nanV := f == .e2m1 && vals.any isNanW
  let ks := (chunks 32 (keys.length / 32) keys).map fun b =>
    let q := mxQuantBlock f true (b.map fun v => (.rne, fp32ToNum v))
    (if nanV then 0xFF else q.1, q.2)
  let vs := vals.map (valueCode f vsc)
  { keys := ks, vals := vs.map (·.1), vsc := vsc, sats := (vs.filter (·.2)).length }

/-- The word that VSUMP returns for a lane (R226). -/
def storedLane (scale : Byte) (code : Nat) : W32 := scale ++ 0#16 ++ BitVec.ofNat 8 code

/-- Appends one row and gives its lanes' stored forms, keys first. -/
def sumpAppend (n layer g : Nat) (lanes : List W32) (w : SumpRow) (x : Channel) : List W32 × Channel :=
  let k := (roomOf x n).kv
  let f := kvFmt k
  let dd := kvD k
  let hg := k.hg.toNat
  let row := (lanes.drop w.first).take (sumpWidth k)
  let heads := (List.range hg).map fun h =>
    headForm f (vscOf x k layer g h) ((row.drop (h * dd)).take dd) ((row.drop (hg * dd + h * dd)).take dd)
  let p := kvP k
  let page := w.pos / p
  let j := w.pos % p
  let pages := (if k.cls = 0 then [] else [kvPageVa k w.region page / pageBytes]) ++ pagesOf (stripVa k w.region w.pos 0, hg * (dd / 32))
  let forms := heads.flatMap (fun h => h.keys.flatMap fun b => b.2.map (storedLane b.1)) ++ heads.flatMap (fun h => h.vals.map (storedLane h.vsc))
  -- an unreserved page is allocated by its first write (R168, R170); where its account cannot take it the position is not kept
  match allocRoomPages x n 1 pages with
  | none => (forms, x)
  | some x0 =>
  let x1 := noteStaged n w.region w.pos x0
  let x2 := (heads.zip (List.range hg)).foldl (fun x t =>
    let h := t.2
    let codes := t.1.keys.flatMap (·.2)
    let y := (codes.zip (List.range dd)).foldl (fun x q => writeCode n w.region page (keyOff k h j q.2) q.1 x) x
    let z := (t.1.vals.zip (List.range dd)).foldl (fun x q => writeCode n w.region page (valOff k h j q.2) q.1 x) y
    writeRoom z n (stripVa k w.region w.pos h) (t.1.keys.map (·.1))) x1
  let sats := (heads.map (·.sats)).sum
  let x3 := modRoomC x2 n fun r =>
    let lastOne := j + 1 == p && !w.tree
    { r with
      kv := { r.kv with saturated := BitVec.ofNat 32 (min (2 ^ 32 - 1) (r.kv.saturated.toNat + sats)) },
      staging := if k.cls = 0 && lastOne then r.staging.map fun g => if g.key = stageKey w.region page && g.page = page then { g with flushing := true } else g else r.staging,
      appends := if k.cls = 0 then r.appends else r.appends + 1 }
  (forms, x3)

/-! ## What a slot touches -/

def vecReads (x : Channel) (n : Nat) (s : BitVec 96) : List (Nat × Nat) :=
  let c := x.island.ctx
  let k := (roomOf x n).kv
  match vcOp s with
  | 0x10 => [vecRun c s]
  | 0x12 => (gatherAddrs c s).map fun a => (a, 4)
  | 0x19 => [(k.ltAddr.toNat, 64 + 32 * ltEntries x.ws k.ltAddr.toNat), (k.vscAddr.toNat, k.layers.toNat * k.g.toNat * k.hg.toNat)]
  | 0x1C => smpReads x.ws c s
  | _ => []
def vecWrites (x : Channel) (s : BitVec 96) : List (Nat × Nat) :=
  let c := x.island.ctx
  match vcOp s with
  | 0x11 => [vecRun c s]
  | 0x1C => smpWrites x.ws c s
  | _ => []
/-- WS lines that the compute island accesses for the slot, once for each access (R158): each line of a load or store, each lane of a gather. -/
def vecLines (c : Ctx) (s : BitVec 96) : List Nat :=
  match vcOp s with
  | 0x10 | 0x11 => linesOf (vecRun c s)
  | 0x12 => (gatherAddrs c s).map (· / 64)
  | _ => []

def fits (lim : Nat) (r : Nat × Nat) : Bool := r.2 == 0 || r.1 + r.2 ≤ lim

/-- The stream fault kind of a slot that acts, from its operands. -/
def vecDynamic (x : Channel) (n : Nat) (s : BitVec 96) : Option Nat :=
  let c := x.island.ctx
  let lim := wsLimit x n
  let all := fun (l : List (Nat × Nat)) => l.all (fits lim)
  match vcOp s with
  | 0x18 => if fits (cisLimit (roomOf x n)) (vecRun c s) then none else some 0x08
  | 0x19 => if !all (vecReads x n s) then some 0x08 else if (sumpPlan x n s).isNone then some 0x07 else none
  | 0x1C =>
    if x.island.smp.isSome then some 0x05
    else if !fits lim (smpBlock c s, 64) then some 0x08
    else if !smpLegal (readSmpHeader x.ws (smpBlock c s)) (smpRows c s) then some 0x07
    else if all (smpReads x.ws c s ++ smpWrites x.ws c s) then none else some 0x08
  | _ => if all (vecReads x n s ++ vecWrites x s) then none else some 0x08

/-- Cistern lines that a slot adds into. -/
def vecCistern (c : Ctx) (s : BitVec 96) : List (Nat × Nat) := if vcOp s = 0x18 then [vecRun c s] else []

/-- Runs of a room's Cistern that its outstanding window descriptors cover (R378). -/
def cisOutstanding (x : Channel) (n : Nat) : List (Nat × Nat) :=
  ((allEntries x).filter fun e => e.room == n).flatMap fun e => (((memReads e.desc ++ memWrites e.desc).filter fun r => vaKind r.1 == .cistern).map fun r => (cisOff r.1, r.2))
/-- Two runs share a 64 B line. -/
def lineMeets (r q : Nat × Nat) : Bool := r.2 != 0 && q.2 != 0 && r.1 / 64 ≤ (q.1 + q.2 - 1) / 64 && q.1 / 64 ≤ (r.1 + r.2 - 1) / 64

/-! ## What a slot does -/

/-- How many different draws a list of indexes needs (R303). -/
def drawCount (byteKind : Bool) (idx : List W64) : Nat :=
  let ks := (idx.map fun i => if byteKind then i.toNat / 16 else i.toNat / 4).mergeSort
  ((ks.zip (ks.drop 1)).filter fun p => p.1 != p.2).length + (if ks.isEmpty then 0 else 1)

def countDraws (n k : Nat) (x : Channel) : Channel :=
  modRoomC x n fun r => { r with rng := { r.rng with draws := BitVec.ofNat 64 (min (2 ^ 64 - 1) (r.rng.draws.toNat + k)) } }

/-- Queues results in the island's pipelines. -/
def push (ws : List PendWrite) (x : Channel) : Channel := { x with island := { x.island with writes := x.island.writes ++ ws } }

/-- Indexes of a VRNG slot, lane by lane. -/
def rngIndexes (x : Channel) (n : Nat) (s : BitVec 96) : List W64 :=
  let c := x.island.ctx
  let r := roomOf x n
  let ctr := tget 0 r.gens (rngGen c s)
  (((vcGroups s).zip (List.range (vcGN s + 1))).flatMap fun g =>
    (((readRow c (vcVA s) g.1).zip (readRow c (vcVB s) g.1)).zip (List.range 256)).map fun v =>
      vrngIndex r.rng.mode ctr g.2 v.2 v.1.1 v.1.2)

/-- VRNG: draws for every lane (R304, R306, R312). -/
def actVrng (n : Nat) (s : BitVec 96) (x : Channel) : Channel :=
  let c := x.island.ctx
  let r := roomOf x n
  let idx := rngIndexes x n s
  let kind := vrngKind s
  let gen : BitVec 16 := if r.rng.mode then BitVec.ofNat 16 (rngGen c s + 1) else 0
  let vals := (idx.zip (vecLanes c s (vcVC s))).map fun v =>
    vrngLane r.rng.seed r.rng.salt r.cfg.h1Mode kind (BitVec.ofNat 8 (vcSFN s)) gen v.1 (v.2.extractLsb' 0 8)
  let rows := (vcGroups s).zip (chunks 256 (vcGN s + 1) vals)
  countDraws n (drawCount (vrngByte kind) idx)
    (push (rows.map fun t => ⟨x.island.cycle + 12, .lanes (vcVD s) t.1 t.2⟩) x)

/-- The counter of a STATE-mode generator advances whatever the predicate (R312, R313). -/
def advanceGen (n : Nat) (s : BitVec 96) (x : Channel) : Channel :=
  if vcOp s = 0x14 && (roomOf x n).rng.mode then
    modRoomC x n fun r => { r with gens := tmod 0 r.gens (rngGen x.island.ctx s) fun v => v + BitVec.ofNat 64 (256 * (vcGN s + 1)) }
  else x

/-- VCIS: FP32 adds into the Cistern (R375, R380). They take effect in issue order, so that their latency is not seen. -/
def actVcis (n : Nat) (s : BitVec 96) (x : Channel) : Channel :=
  let c := x.island.ctx
  let a := vcAddr c s 0
  let lanes := vecLanes c s (vcVA s)
  let old := readBytes x.cistern a (vecSpan s)
  let new := (chunks 4 lanes.length old).zip lanes |>.flatMap fun p => leBytes 4 (fp32Add (BitVec.ofNat 32 (leNat p.1)) p.2).toNat
  cisTouch { x with cistern := writeBytes x.cistern a new } n (a, vecSpan s)

/-- VSUMP: rows appended in slot order; VD receives the stored forms 6 cycles after issue (R222 to R227). -/
def actVsump (n : Nat) (s : BitVec 96) (x : Channel) : Channel :=
  match sumpPlan x n s with
  | none => x
  | some rows =>
    let c := x.island.ctx
    let lanes := vecLanes c s (vcVA s)
    let t := rows.foldl (fun (t : List W32 × Channel) w =>
      let u := sumpAppend n (sumpLayer c s) (sumpGroup c s) lanes w t.2
      (t.1 ++ u.1, u.2)) ([], x)
    push (((vcGroups s).zip (chunks 256 (vcGN s + 1) t.1)).map fun g => ⟨x.island.cycle + 6, .lanes (vcVD s) g.1 g.2⟩) t.2

/-- VSMP: the unit starts; what it will write is fixed by what it reads now (R115, R273 to R281). -/
def actVsmp (n : Nat) (s : BitVec 96) (x : Channel) : Channel :=
  let c := x.island.ctx
  let r := roomOf x n
  let h := readSmpHeader x.ws (smpBlock c s)
  let recs := sampleAll (rngKey r.rng.seed r.rng.salt) x.ws (smpBlock c s) (smpBase s) (smpRows c s)
  let run : SmpRun := { room := n, tok := vcVB s, out := h.out, records := recs.map TokRec.bytes, due := x.island.cycle + smpCycles (smpRows c s) h.v }
  { x with island := { x.island with smp := some run } }

/-- The results of a slot that computes lanes, loads or stores. -/
def vecResults (x : Channel) (s : BitVec 96) : List PendWrite :=
  let c := x.island.ctx
  let now := x.island.cycle
  let op := vcOp s
  match vcVType s with
  | none => []
  | some t =>
    let f := redOp t (vcSFN s)
    match op with
    | 0x0D => (vcGroups s).map fun g => ⟨now + 12, .lane0 (vcVD s) g (treeRed f (readRow c (vcVA s) g))⟩
    | 0x0E => [⟨now + 24, .lane0 (vcVD s) (vcG0 s) (redAll f ((vcGroups s).map fun g => readRow c (vcVA s) g))⟩]
    | 0x10 => ((vcGroups s).zip (List.range (vcGN s + 1))).map fun g =>
        ⟨now + 8, .lanes (vcVD s) g.1 ((chunks 4 256 (readBytes x.ws (vcAddr c s g.2) 1024)).map fun b => BitVec.ofNat 32 (leNat b))⟩
    | 0x11 => [⟨now + 8, .ws (vcAddr c s 0) ((vecLanes c s (vcVA s)).flatMap fun v => leBytes 4 v.toNat) true⟩]
    | 0x12 => ((vcGroups s).zip (chunks 256 (vcGN s + 1) ((gatherAddrs c s).map fun a => BitVec.ofNat 32 (readLe x.ws a 4)))).map fun g =>
        ⟨now + 16, .lanes (vcVD s) g.1 g.2⟩
    | _ => (vcGroups s).filterMap fun g =>
        (rowOp t op (vcSFN s) (readRow c (vcVD s) g) (readRow c (vcVA s) g) (readRow c (vcVB s) g) (readRow c (vcVC s) g)).map
          fun row => ⟨now + vcLatency op, .lanes (vcVD s) g row⟩

/-- One vector slot acts. -/
def actVec (n : Nat) (x : Channel) (s : BitVec 96) : Channel :=
  let y :=
    if !vecActs x.island.ctx s then x
    else match vcOp s with
    | 0x14 => actVrng n s x
    | 0x18 => actVcis n s x
    | 0x19 => actVsump n s x
    | 0x1C => actVsmp n s x
    | _ => push (vecResults x s) x
  advanceGen n s y

/-- One scalar slot acts. -/
def actScalar (x : Channel) (s : BitVec 64) : Channel :=
  push (scalarWrites x.island.ctx x.island.cycle (fun a => BitVec.ofNat 64 (readLe x.ws a 8)) s) x

end Sys2Proof.Machine
end

