-- ==== Sys2Proof/Machine/Bundle.lean ====
section
/-! DEFINITION. Machine/Bundle.lean: BUNDLE_ISSUE: fetch, legality, holds, poison, the bank delay, and a bundle acting whole (R31, R102 to R155, R162, R745). -/

namespace Sys2Proof.Machine

/-! ## Program window and Loop room (R142, R145) -/

def winBase (x : Channel) (n : Nat) : Nat := match (roomOf x n).prog with | some p => p.info.winBase | none => 0
def winBundles (x : Channel) (n : Nat) : Nat := match (roomOf x n).prog with | some p => p.info.winBundles | none => 0
def fetchAddr (x : Channel) (n : Nat) : Nat := winBase x n + 128 * x.island.ctx.pc

/-- The resident region's loop is in progress and the program counter lies in its body. -/
def inRegion (i : Island) : Option LoopRegion :=
  match i.loopRoom with
  | some r => if (i.ctx.loops.any fun f => f.start == r.start && f.len == r.len) && r.start ≤ i.ctx.pc && i.ctx.pc < r.start + r.len then some r else none
  | none => none
/-- The bundle as the Loop room holds it. -/
def fromLoopRoom (i : Island) : Option (BitVec 1024) :=
  match inRegion i with
  | some r => (r.bundles.find? fun p => p.1 == i.ctx.pc).map (·.2)
  | none => none
/-- A bundle of the region's body is decoded on its first issue, in whichever iteration that is: one that a branch skips in the first is read from
WS when it first issues. DESIGN CHOICE, log 120. -/
def keepDecoded (b : BitVec 1024) (i : Island) : Island :=
  match inRegion i with
  | some r => { i with loopRoom := some { r with bundles := tset 0 r.bundles i.ctx.pc b } }
  | none => i
/-- A LOOP outside the resident region's loop takes the Loop room when its body fits. -/
def newRegion (start len : Nat) (i : Island) : Island :=
  if (inRegion i).isNone && len ≤ 8192 then { i with loopRoom := some { start := start, len := len, bundles := [] } } else i

/-! ## Control slot (R140, R141, R145, R745) -/

/-- Where issue goes after a bundle. -/
structure Flow where
  next : Nat
  loops : List LoopFrame
  taken : Bool := false
  ended : Bool := false
  /-- The body of a LOOP that starts. -/
  body : Option (Nat × Nat) := none

/-- The next bundle in program order from p: back edges of the loops that end there (R141). -/
def seqNext : List LoopFrame → Nat → List LoopFrame × Nat
  | [], p => ([], p)
  | f :: fs, p =>
    if p = f.start + f.len then
      if f.left = 0 then seqNext fs p else ({ f with left := f.left - 1 } :: fs, f.start)
    else (f :: fs, p)

def ctWaitT (s : BitVec 32) : Nat := fld s 12 6
def ctWaitC (s : BitVec 32) : Nat := fld s 18 8
def ctYield (s : BitVec 32) : Bool := s.getLsbD 26
def ctLoopX (s : BitVec 32) : Nat := fld s 12 6
def ctLoopL (s : BitVec 32) : Nat := fld s 18 14
/-- A BR's target counts from the branch itself. DEDUCED, log 44. -/
def brTarget (pc : Nat) (s : BitVec 32) : Int := (pc : Int) + (ctArg s).toInt

/-- A reserved bit of ARG is set (R140). -/
def ctRsv (s : BitVec 32) : Bool :=
  match ctOp s with
  | 0x00 | 0x04 | 0x06 => ctArg s != 0
  | 0x03 => fld s 27 5 != 0
  | 0x05 => fld s 20 12 != 0
  | 0x07 => fld s 18 14 != 0
  | _ => false

/-- Where issue goes after the bundle, or the stream fault kind. -/
def flowOf (c : Ctx) (win : Nat) (s : BitVec 32) : Except Nat Flow :=
  let seq : Except Nat Flow :=
    let t := seqNext c.loops (c.pc + 1)
    if t.2 < win then .ok { next := t.2, loops := t.1 } else .error 0x0D
  if !ctActs c s then seq else
  match ctOp s with
  | 0x01 =>
    let t := brTarget c.pc s
    if t < 0 ∨ (win : Int) ≤ t then .error 0x0D
    else .ok { next := t.toNat, loops := c.loops.filter (fun f => f.start ≤ t.toNat && t.toNat < f.start + f.len), taken := true }
  | 0x02 =>
    let len := ctLoopL s
    let stop := c.pc + 1 + len
    let within := match c.loops with | f :: _ => stop ≤ f.start + f.len | [] => true
    if len = 0 || 4 ≤ c.loops.length || !within then .error 0x07
    else if win < stop then .error 0x0D
    else
      let k := (readX c (ctLoopX s)).toNat
      if k = 0 then
        let t := seqNext c.loops stop
        if t.2 < win then .ok { next := t.2, loops := t.1 } else .error 0x0D
      else .ok { next := c.pc + 1, loops := { start := c.pc + 1, len := len, left := k - 1 } :: c.loops, body := some (c.pc + 1, len) }
  | 0x03 => if ctWaitC s = 0 then .error 0x07 else seq
  | 0x06 => .ok { next := c.pc, loops := c.loops, ended := true }
  | _ => seq

/-! ## Array slot (R63, R116 to R126, R162) -/

def arFormats (s : BitVec 128) : Option (Fmt × Fmt × Nat) :=
  match Fmt.ofCode (arAfmt s), Fmt.ofCode (arBfmt s) with
  | some fa, some fb => (pairRate fa fb).map fun r => (fa, fb, r)
  | _, _ => none

/-- Runs that an array operation reads: its A tiles, its B images, which leave out a preloaded first one, and its starting containers. -/
def arrReads (s : BitVec 128) : List (Nat × Nat) :=
  match arOp s, arFormats s with
  | 1, some (_, fb, r) => [(512 * arB s, 512 * imageUnits fb r)]
  | 2, some (fa, fb, r) =>
    let skip := if arPre s then imageUnits fb r else 0
    [(512 * arA s, 512 * unitsA s fa r), (512 * (arB s + skip), 512 * (unitsB s fb r - skip))] ++
      (if arInit s then [(512 * arC s, 512 * unitsC s .ext42)] else [])
  | _, _ => []

/-- Every tile range of an array operation, a preloaded first image among them (R126). -/
def arrRanges (s : BitVec 128) : List (Nat × Nat) :=
  arrAB s ++ arrC s ++ (if arOp s = 2 && arInit s then [(512 * arC s, 512 * unitsC s .ext42)] else [])

/-- Every tile that the operation reads carries the tag of its format and order (R120, R162, R165). -/
def arrTagged (x : Channel) (s : BitVec 128) (fa fb : Fmt) (r : Nat) : Bool :=
  if arOp s = 1 then tagsMatch x.tags (arB s) (imageUnits fb r / tileUnits fb) fb true
  else
    let skip := if arPre s then imageUnits fb r else 0
    tagsMatch x.tags (arA s) (unitsA s fa r / tileUnits fa) fa false &&
    tagsMatch x.tags (arB s + skip) ((unitsB s fb r - skip) / tileUnits fb) fb true &&
    (!arInit s || (cTilesWritten s .ext42).all fun a => tagsMatch x.tags (a / 512) 1 .ext42 false)

def wbOf (i : Island) (b : Bool) : Option WBuf := if b then i.wb1 else i.wb0
def setWb (i : Island) (b : Bool) (w : WBuf) : Island := if b then { i with wb1 := some w } else { i with wb0 := some w }
def stillLoading (i : Island) (b : Bool) : Bool := match wbOf i b with | some w => decide (i.cycle < w.ready) | none => false

/-- The array runs an operation once more, so that every array slot holds (R99). -/
def retrying (i : Island) : Bool := match i.arr with | some a => a.phase == .retrying | none => false

/-- Why an ARR.MM with PRE = 1 cannot take the image in its buffer (R122, R126). -/
def bufferFault (i : Island) (s : BitVec 128) (r : Nat) : Option Nat :=
  match wbOf i (arWB s) with
  | none => some 0x05
  | some w => if i.cycle < w.ready && !retrying i then some 0x05 else if w.bfmt != arBfmt s || w.rate != r then some 0x02 else none

/-- The stream fault kind of the array slot. The spec does not order the conditions of one slot: the model takes the opcode, reserved bits and
formats first, then the rounding code, the busy array, the width, the other fields, the ranges, the buffer and the tags. DESIGN CHOICE, log 118. -/
def arrFaultKind (x : Channel) (n : Nat) (s : BitVec 128) : Option Nat :=
  let i := x.island
  let lim := wsLimit x n
  let busyTo := fun (f : ArrOp → Nat) => match i.arr with | some a => !retrying i && decide (i.cycle < f a) | none => false
  if 2 < arOp s then some 0x01
  else if arRsv s != 0 then some 0x07
  else if arOp s = 0 then none
  else match arFormats s with
  | none => some 0x02
  | some (fa, fb, r) =>
    if arOp s = 1 then
      if !retrying i && (stillLoading i false || stillLoading i true) then some 0x05
      else if busyTo ArrOp.passEnd then some 0x05
      else if !(arrRanges s).all (fits lim) then some 0x08
      else if arrTagged x s fa fb r then none else some 0x02
    else match Fmt.ofCode (arOfmt s) with
    | none => some 0x02
    | some fo =>
      let isMx := match fo with | .mx _ => true | _ => false
      if arRnd s = 3 then some 0x03
      else if busyTo ArrOp.lastOut then some 0x05
      else if arrayWidth x < arNW s then some 0x06
      else if arNW s = 0 || arKP s = 0 || (arOaxis s && isMx && arM s % 32 != 0) then some 0x07
      else if !(arrRanges s).all (fits lim) then some 0x08
      else match (if arPre s then bufferFault i s r else none) with
        | some k => some k
        | none => if arrTagged x s fa fb r then none else some 0x02

/-- Draws that stochastic rounding of the outputs needs: one for 16 or for 4 positions (R82). -/
def arrDraws (s : BitVec 128) (fo : Fmt) : Nat :=
  let els := arM s * (arNG s * 32 * arNW s)
  if arRnd s != 2 then 0 else match fo with
    | .mx _ => els / 16
    | .ext42 => 0
    | _ => els / 4

def countArray (n k : Nat) (x : Channel) : Channel :=
  modRoomC x n fun r => { r with acct := { r.acct with arrayCyc := r.acct.arrayCyc + BitVec.ofNat 64 k } }

/-- The buffer that the last pass of an operation uses. -/
def lastPassBuf (s : BitVec 128) : Bool := arWB s != decide ((arNG s * arKP s - 1) % 2 = 1)

/-- A weight image as the array takes it from WS at byte address a, with the stores in flight to it landed, and its elements' residues (R89,
R117, R162). -/
def imageOf (x : Channel) (code : BitVec 4) (fb : Fmt) (r unit ready : Nat) : WBuf :=
  let u := imageUnits fb r
  let ws := (landStores x [(512 * unit, 512 * u)]).ws
  { bfmt := code, rate := r, image := readBytes ws (512 * unit) (512 * u), ready := ready, issued := x.island.cycle, addr := unit, units := u,
    residues := imageResidues fb r ws (512 * unit) }

/-- ARR.LDW: into buffer WB, or, issued in an operation's drain stage, into the buffer that its last pass did not use (R118, R124). -/
def actLdw (n : Nat) (s : BitVec 128) (fb : Fmt) (r : Nat) (x : Channel) : Channel :=
  let i := x.island
  let drain := match i.arr with | some a => if i.cycle < a.lastOut then some a else none | none => none
  let target := match drain with | some a => !lastPassBuf a.slot | none => arWB s
  let ready := match drain with | some a => max (i.cycle + 272) a.lastOut | none => i.cycle + 272
  countArray n (ready - i.cycle) { x with island := setWb i target (imageOf x (arBfmt s) fb r (arB s) ready) }

/-- The images that an operation leaves in the buffers (R119). -/
def keepImages (s : BitVec 128) (fb : Fmt) (r : Nat) (x : Channel) : Island :=
  let total := arNG s * arKP s
  [total - 2, total - 1].foldl (fun i k =>
    if (k = 0 && arPre s) || (total = 1 && k + 1 != total) then i
    else setWb i (arWB s != decide (k % 2 = 1)) (imageOf x (arBfmt s) fb r (arB s + k * imageUnits fb r) i.cycle)) x.island

/-- Where the operation's output lies in the program's logical tensor: the program's own affair, and so a free value of the program, its
stream, the bundle and the operation's number (R82). DESIGN CHOICE, log 14. -/
def placeOut (prog : Option Program) (stream pc k : Nat) : OutPlace :=
  let g := match prog with | some p => p.digest | none => 0
  { row := Config.outRow g stream pc k, col := Config.outCol g stream pc k, width := Config.outWidth g stream pc k, flip := Config.outFlip g stream pc k }

/-- ARR.MM: the operation starts, with its times; its outputs come with its check token (R119 to R121). C is locked until then. -/
def actMm (n stream : Nat) (s : BitVec 128) (fb fo : Fmt) (r : Nat) (x : Channel) : Channel :=
  let i := x.island
  let op : ArrOp :=
    { slot := s, room := n, tensor := (readX i.ctx (arTsr s)).extractLsb' 0 24, issue := i.cycle, passEnd := i.cycle + passCycles s r,
      lastOut := i.cycle + opCycles s r, place := placeOut (roomOf x n).prog stream i.ctx.pc i.ctx.mms, buf := if arPre s then wbOf i (arWB s) else none }
  let j := keepImages s fb r x
  let y := { x with island := { j with arr := some op, ctx := { j.ctx with mms := j.ctx.mms + 1 } } }
  countDraws n (arrDraws s fo) (countArray n (opCycles s r) y)

def actArr (n stream : Nat) (s : BitVec 128) (x : Channel) : Channel :=
  match arOp s, arFormats s with
  | 1, some (_, fb, r) => actLdw n s fb r x
  | 2, some (_, fb, r) => (match Fmt.ofCode (arOfmt s) with | some fo => actMm n stream s fb fo r x | none => x)
  | _, _ => x

/-! ## Legality of the whole bundle (R103 to R110, R149) -/

def scaFault (x : Channel) (n : Nat) (s : BitVec 64) : Option Nat :=
  if !scOpKnown (scOp s) then some 0x01
  else if scRsv s != 0 then some 0x07
  else if scIsMem s && (scAddr x.island.ctx s % 8 != 0 || !fits (wsLimit x n) (scAddr x.island.ctx s, 8)) then some 0x08
  else none
def vecFault (x : Channel) (n i : Nat) (s : BitVec 96) : Option Nat :=
  match vecStatic x n i s with
  | some k => some k
  | none => if vecActs x.island.ctx s then vecDynamic x n s else none
def pmpFault (x : Channel) (n : Nat) (s : BitVec 48) : Option Nat :=
  if 1 < pmOp s then some 0x01
  else if pmRsv s != 0 then some 0x07
  else if pmOp s = 1 && !fits (wsLimit x n) (pmAddr x.island.ctx s, 64) then some 0x08
  else none
def hdrFault (h : BitVec 32) : Option Nat :=
  if fld h 0 8 != 2 then some 0x01 else if fld h 8 8 != 0 || fld h 24 8 != 0 then some 0x07 else none
def ctlFault (x : Channel) (n : Nat) (s : BitVec 32) : Option Nat :=
  if 7 < ctOp s then some 0x01
  else if ctRsv s then some 0x07
  else match flowOf x.island.ctx (winBundles x n) s with
    | .error k => some k
    | .ok _ => none

/-- The channel with the results of a bundle's vector and scalar slots in its pipelines. -/
def actSlots (n : Nat) (b : BitVec 1024) (x : Channel) : Channel :=
  let y := [bVec b 0, bVec b 1, bVec b 2, bVec b 3].foldl (actVec n) x
  [bSca b 0, bSca b 1, bSca b 2, bSca b 3].foldl actScalar y

def pairwiseBad {α : Type} (f : α → α → Bool) : List α → Bool
  | [] => false
  | a :: l => l.any (f a) || pairwiseBad f l

/-- Two results meet on one register or predicate in one cycle (R108). -/
def collides (b : BitVec 1024) (x : Channel) : Bool :=
  let new := ([bVec b 0, bVec b 1, bVec b 2, bVec b 3].flatMap fun s =>
      if !vecActs x.island.ctx s then []
      else match vcOp s with
        | 0x14 => (vcGroups s).map fun g => ⟨x.island.cycle + 12, .lanes (vcVD s) g []⟩
        | 0x19 => (vcGroups s).map fun g => ⟨x.island.cycle + 6, .lanes (vcVD s) g []⟩
        | 0x18 | 0x1C => []
        | _ => vecResults x s) ++
    [bSca b 0, bSca b 1, bSca b 2, bSca b 3].flatMap (scalarWrites x.island.ctx x.island.cycle fun _ => 0)
  pairwiseBad collide new || new.any fun w => (x.island.writes.filter fun v => v.due == w.due).any (collide w)

/-- The first stream fault of a bundle: kind and slot. A bundle with several is charged with the first in slot order. DESIGN CHOICE, log 45. -/
def bundleFault (x : Channel) (n : Nat) (b : BitVec 1024) : Option (Nat × Nat) :=
  let at' := fun (slot : Nat) (k : Option Nat) => k.map fun k => (k, slot)
  let all := [at' 0 (hdrFault (bHdr b)), at' 1 (arrFaultKind x n (bArr b))] ++
    [0, 1, 2, 3].map (fun i => at' (2 + i) (vecFault x n i (bVec b i))) ++
    [0, 1, 2, 3].map (fun i => at' (6 + i) (scaFault x n (bSca b i))) ++
    [0, 1, 2, 3].map (fun i => at' (10 + i) (pmpFault x n (bPmp b i))) ++
    [at' 14 (ctlFault x n (bCtl b))]
  match all.findSome? id with
  | some k => some k
  | none =>
    if pairwiseBad groupsOverlap [bVec b 0, bVec b 1, bVec b 2, bVec b 3] || collides b x then some (0x04, 15) else none

/-! ## What the bundle touches -/

def actingVecs (x : Channel) (b : BitVec 1024) : List (BitVec 96) :=
  [bVec b 0, bVec b 1, bVec b 2, bVec b 3].filter (vecActs x.island.ctx)
def pumpSlots (b : BitVec 1024) : List (Nat × BitVec 48) :=
  [(0, bPmp b 0), (1, bPmp b 1), (2, bPmp b 2), (3, bPmp b 3)].filter fun p => pmOp p.2 = 1
def scaRuns (x : Channel) (b : BitVec 1024) (op : Nat) : List (Nat × Nat) :=
  ([bSca b 0, bSca b 1, bSca b 2, bSca b 3].filter fun s => scOp s = op).map fun s => (scAddr x.island.ctx s, 8)

/-- WS runs that a bundle reads and writes. -/
def bundleReads (x : Channel) (n : Nat) (b : BitVec 1024) : List (Nat × Nat) :=
  arrReads (bArr b) ++ (actingVecs x b).flatMap (vecReads x n) ++ scaRuns x b 0x10 ++ (pumpSlots b).map fun p => (pmAddr x.island.ctx p.2, 64)
def bundleWrites (x : Channel) (b : BitVec 1024) : List (Nat × Nat) :=
  arrC (bArr b) ++ (actingVecs x b).flatMap (vecWrites x) ++ scaRuns x b 0x11

/-- Cycles of the bank delay: one for each compute-island access to a bank beyond the first (R158). DEDUCED, log 46. -/
def bankDelay (x : Channel) (b : BitVec 1024) : Nat :=
  let c := x.island.ctx
  let lines := (actingVecs x b).flatMap (vecLines c) ++ (scaRuns x b 0x10 ++ scaRuns x b 0x11).map (fun r => r.1 / 64) ++
    (pumpSlots b).map fun p => pmAddr c p.2 / 64
  let banks := (lines.map (· % 1024)).mergeSort
  ((banks.zip (banks.drop 1)).filter fun p => p.1 == p.2).length

/-! ## Holds (R31) -/

def waits (x : Channel) (s : BitVec 32) : Bool :=
  ctOp s == 0x03 && ctActs x.island.ctx s && decide ((readTk x.island.ctx (ctWaitT s)).toNat < ctWaitC s)

/-- The queues that have no room for the bundle's descriptors (R129). -/
def fullQueues (x : Channel) (b : BitVec 1024) : List Nat :=
  let ps := pumpSlots b
  (ps.filter fun p => 32 < queueUse x (pmPQ p.2) + (ps.filter fun q => pmPQ q.2 == pmPQ p.2).length).map fun p => pmPQ p.2

/-- Until when an access to one of these lines holds for a line under write-back, or of a row on its way to its spare (R585, R606). -/
def lineBusy (x : Channel) (lines : List (LineStore × Nat)) : Option Nat :=
  (x.island.lineHolds.find? fun h => decide (x.island.ps < h.til) && lines.contains (h.store, h.line)).map (·.til)

/-- The staged Sump lines of the slots that a bundle appends to. -/
def sumpLines (x : Channel) (n : Nat) (b : BitVec 1024) : List (LineStore × Nat) :=
  (x.island.lineHolds.filter fun h => h.store == .sump && (actingVecs x b).any fun s => vcOp s == 0x19 &&
    (match sumpPlan x n s with
      | some l => l.any fun w => stageKey w.region (w.pos / kvP (roomOf x n).kv) == h.line / 1024
      | none => false)).map fun h => (h.store, h.line)

/-- The program's lines that the bundle was fetched from, when it is not the Loop room's. -/
def fetchRuns (x : Channel) (n : Nat) : List (Nat × Nat) := if (fromLoopRoom x.island).isSome then [] else [(fetchAddr x n, 128)]

/-- What a legal bundle holds for. An array operation tests the locks of all its ranges (R133); one that meets a retry holds as R99 says. -/
def bundleHold (x : Channel) (n : Nat) (b : BitVec 1024) : Option Hold :=
  let rs := arrAB (bArr b) ++ bundleReads x n b
  let ws := bundleWrites x b
  let cis := (actingVecs x b).flatMap (vecCistern x.island.ctx)
  let sump := (actingVecs x b).any fun s => vcOp s = 0x19 && (match sumpPlan x n s with | some l => sumpBusy x n l | none => false)
  let full := fullQueues x b
  if waits x (bCtl b) then some (.token (ctWaitT (bCtl b)) (ctWaitC (bCtl b)) (ctYield (bCtl b)))
  else if arOp (bArr b) = 2 && x.island.arr.isSome && !retrying x.island then some .check
  else if rs.any (anyMeets (readLocks x)) || ws.any (anyMeets (writeLocks x)) || (arOp (bArr b) != 0 && retrying x.island) then some (.lock rs ws)
  else if cis.any fun r => (cisOutstanding x n).any (lineMeets r) then some (.cistern cis)
  else if sump then some .sump
  else if !full.isEmpty then some (.queue full)
  else if ctOp (bCtl b) = 0x05 && ctActs x.island.ctx (bCtl b) && 64 ≤ x.island.signals.length then some .signal
  else (lineBusy x ((fetchRuns x n ++ rs ++ ws).flatMap (fun r => (linesOf r).map fun l => (LineStore.ws, l)) ++
    cis.flatMap (fun r => (linesOf r).map fun l => (LineStore.cistern, l)) ++ sumpLines x n b)).map Hold.line

/-- The poison that a bundle would consume, in slot order (R594). -/
def bundlePoison (x : Channel) (n : Nat) (b : BitVec 1024) : Option PoisonPlace :=
  match (bundleReads x n b).findSome? fun r => (linesOf r).find? fun l => x.wsPoison.contains l with
  | some l => some (.ws n l)
  | none => (((actingVecs x b).flatMap (vecCistern x.island.ctx)).findSome? fun r => (linesOf r).find? fun l => x.cisPoison.contains l).map (.cistern n)

/-! ## The verdict on the bundle at the program counter -/

inductive Verdict where
  | fault (kind slot : Nat)
  /-- The bundle itself was read with an uncorrectable error (R145). -/
  | badFetch (line : Nat)
  | poison (p : PoisonPlace)
  | hold (h : Hold)
  | issue (b : BitVec 1024)

def verdict (x : Channel) (n : Nat) : Verdict :=
  let i := x.island
  if i.ctx.tkOver then .fault 0x09 15
  else if winBundles x n ≤ i.ctx.pc then .fault 0x0D 15
  else
    let run := (fetchAddr x n, 128)
    let judge := fun (b : BitVec 1024) =>
      match bundleFault x n b with
      | some (k, slot) => Verdict.fault k slot
      | none => match bundleHold x n b with
        | some h => .hold h
        | none => match bundlePoison x n b with
          | some p => .poison p
          | none => .issue b
    match fromLoopRoom i with
    | some b => judge b
    | none =>
      if anyMeets (readLocks x) run then .hold (.lock [run] [])
      else match (linesOf run).find? fun l => x.wsPoison.contains l with
        | some l => .badFetch l
        | none => judge (BitVec.ofNat 1024 (readLe x.ws (fetchAddr x n) 128))

/-! ## Issue -/

/-- PISSUEs enter their queues in slot order; the first that does not is answered with its slot. -/
def issuePumps (c : Ch) (n : Nat) (b : BitVec 1024) (d : Device) : Enq × Nat :=
  let slots := match suiteOfChan d c with | some s => (chanOf d (leadOf d s)).slots | none => []
  (pumpSlots b).foldl (fun st p => match st with
    | (.ok d1, _) =>
      let x := chanOf d1 c
      let desc := BitVec.ofNat 512 (readLe x.ws (pmAddr x.island.ctx p.2) 64)
      (enqueueDesc c n (pmPQ p.2) (pmTok p.2) desc slots d1, 10 + p.1)
    | e => e) (.ok d, 10)

/-- The control slot's effect on the channel's own state (Table 3.13). -/
def actControl (s : BitVec 32) (f : Flow) (x : Channel) : Channel :=
  let c := x.island.ctx
  let acts := ctActs c s
  let t := fld s 12 6
  let c1 := if acts && ctOp s == 0x03 then writeTk c t (readTk c t - BitVec.ofNat 8 (ctWaitC s))
            else if acts && ctOp s == 0x07 then writeTk c t 0 else c
  let point := acts && (ctOp s == 0x04 || (ctOp s == 0x03 && ctYield s))
  let c2 := { c1 with pc := f.next, loops := f.loops, ended := f.ended, ordinal := if point then c1.ordinal + 1 else c1.ordinal }
  let i := match f.body with | some (a, l) => newRegion a l x.island | none => x.island
  let sig := if acts && ctOp s == 0x05 then i.signals ++ [s.extractLsb' 12 8] else i.signals
  { x with island := { i with ctx := c2, signals := sig } }

/-- A bundle with a vector slot other than VNOP counts one issue cycle (Table 13.9). -/
def countVector (n : Nat) (b : BitVec 1024) (x : Channel) : Channel :=
  if [bVec b 0, bVec b 1, bVec b 2, bVec b 3].any fun s => vcOp s != 0 then
    modRoomC x n fun r => { r with acct := { r.acct with vuCyc := r.acct.vuCyc + 1 } }
  else x

/-- Cycles until the next bundle in program order may issue (R105, Table 3.13). A taken branch's five cycles and the bundle's own IDLE count run
together, so that the larger holds. DESIGN CHOICE, log 115. -/
def issueCycles (b : BitVec 1024) (f : Flow) : Nat :=
  let k := fld (bHdr b) 16 8 + 1
  if f.taken then max k 5 else k

/-- The number of a channel's stream in its room: its place among the suite's channels (R35). -/
def streamOf (d : Device) (c : Ch) : Nat :=
  match suiteOfChan d c with
  | some s => ((suiteChans d s).takeWhile (· != c)).length
  | none => 0

/-- The suite's room stops once every channel's program has ended (R524). -/
def endProgram (c : Ch) (n : Nat) (d : Device) : Device :=
  match suiteOfChan d c with
  | none => d
  | some s => if (suiteChans d s).all fun k => (chanOf d k).island.ctx.ended then stopRoom d s n else d

/-- A hold begins or goes on. A yielding wait that holds is a switch point (R535). -/
def holdAt (c : Ch) (n : Nat) (h : Hold) (d : Device) : Device :=
  let x := chanOf d c
  let stall := h == .shadow && x.island.hold.isNone
  let d1 := modChan d c fun x =>
    let y := holdBundle h x
    if stall then modRoomC y n fun r => { r with trn := { r.trn with shadowStalls := satInc r.trn.shadowStalls } } else y
  match h with
  | .token _ _ true => reachPoint c n (x.island.ctx.ordinal + 1) x.island.ctx.pc true d1
  | _ => d1

/-- A legal bundle acts whole (R104). -/
def issueBundle (c : Ch) (n : Nat) (b : BitVec 1024) (d : Device) : Device :=
  let x := chanOf d c
  match flowOf x.island.ctx (winBundles x n) (bCtl b) with
  | .error k => streamFault d c n k 14
  | .ok f =>
    let pc := x.island.ctx.pc
    let d1 := modChan d c fun x =>
      actArr n (streamOf d c) (bArr b) (actSlots n b (countVector n b { countHold x with island := keepDecoded b (countHold x).island }))
    match issuePumps c n b d1 with
    | (.reject st cause, slot) =>
      streamFaultAs d c n 0x0E slot st cause
    | (.roomFault, _) => faultOn d c n .roomFault
    | (.hold h, _) => holdAt c n h d
    | (.ok d2, _) =>
      let d3 := modChan d2 c fun x => addCycles (issueCycles b f) (actControl (bCtl b) f x)
      let k := (chanOf d3 c).island.ctx.ordinal
      if f.ended then endProgram c n d3
      else if k != x.island.ctx.ordinal then reachPoint c n k pc false d3
      else d3

/-- What a verdict does. -/
def settleBundle (c : Ch) (n : Nat) (d : Device) : Verdict → Device
  | .fault k slot => streamFault d c n k slot
  | .badFetch l => streamFault (modChan d c fun x => record x (poisonRecord x n (.ws n l))) c n 0x0B 15
  | .poison p => consumePoison d c n p
  | .hold h => holdAt c n h d
  | .issue b => issueBundle c n b d

/-- BUNDLE_ISSUE: the island's next cycle of issue: results land, and the bundle at the program counter issues, holds or faults. -/
def bundleIssue (c : Ch) (d : Device) : Device :=
  let x := chanOf d c
  match x.island.room with
  | none => d
  | some n =>
    if !isStarted (roomOf x n) || x.island.atSwitch || x.island.ctx.ended || x.issueHold then d
    else if x.island.powerHold then modChan d c (addCycles 1)
    else
      let d1 := modChan d c landDue
      match verdict (chanOf d1 c) n with
      | .issue b =>
        let k := bankDelay (chanOf d1 c) b
        if k = 0 then issueBundle c n b d1
        else
          let d2 := modChan d1 c fun x => landDue (addCycles k x)
          settleBundle c n d2 (verdict (chanOf d2 c) n)
      | v => settleBundle c n d1 v

def execBundleIssue (c : Ch) (s : State) : Out := onDev (bundleIssue c) s

end Sys2Proof.Machine
end

