-- ==== Sys2Proof/Machine/Irq.lean ====
section
/-! DEFINITION. Machine/Irq.lean: interrupt sources of a channel: levels, routes, masks, priority stacks and sleep (R690 to R693). -/

namespace Sys2Proof.Machine

/-- A core by its role: false the command core, true the housekeeping core. -/
def coreOf (x : Channel) (hk : Bool) : Core := if hk then x.hkCore else x.cmdCore
def setCore (x : Channel) (hk : Bool) (k : Core) : Channel := if hk then { x with hkCore := k } else { x with cmdCore := k }

/-- A level is masked for a core; level 0 cannot be (R691). -/
def levelMasked (x : Channel) (hk : Bool) (l : Nat) : Bool := l != 0 && (if hk then x.irq.maskHk else x.irq.maskCmd).getLsbD l

/-- The level on top of a core's stack; an idle core runs at level 8. -/
def topLevel (k : Core) : Nat := k.stack.headD 8

/-- The source that is delivered next: the highest level below the top that is not masked; within a level the oldest. -/
def nextSource (x : Channel) (hk : Bool) : Option Nat :=
  let k := coreOf x hk
  (k.waiting.filter fun l => decide (l < topLevel k) && !levelMasked x hk l).foldl (fun b l => match b with
    | none => some l
    | some m => if l < m then some l else some m) none

/-- DEPTH_CMD and DEPTH_HK follow the stacks (Table 17.24). -/
def showDepth (x : Channel) : Channel :=
  { x with irq := { x.irq with depthCmd := BitVec.ofNat 4 x.cmdCore.stack.length, depthHk := BitVec.ofNat 4 x.hkCore.stack.length } }

/-- Delivers what a core can take: a handler of a higher level interrupts one of a lower level, so several may be pushed in turn; the first
wakes a sleeping core, which the Porch counts (R691, R692). -/
def deliverIrq (hk : Bool) : Nat → Channel → Channel
  | 0, x => showDepth x
  | fuel + 1, x =>
    let k := coreOf x hk
    if !k.up then showDepth x else
    match nextSource x hk with
    | none => showDepth x
    | some l =>
      let y := setCore x hk { k with stack := l :: k.stack, waiting := k.waiting.erase l, asleep := false }
      deliverIrq hk fuel (if k.asleep then { y with irq := { y.irq with wakes := satInc y.irq.wakes } } else y)

/-- Both cores take what they can. -/
def deliverBoth (x : Channel) : Channel := deliverIrq true 9 (deliverIrq false 9 x)

/-- A source waits for a core. -/
def pendSource (hk : Bool) (l : Nat) (x : Channel) : Channel :=
  let k := coreOf x hk
  if k.up then setCore x hk { k with waiting := k.waiting ++ [l] } else x

/-- A source of a level goes to the core that ROUTE names, level 0 to both, and every level to the one core that carries the channel (R690,
R700). -/
def raiseIrq (l : Nat) (x : Channel) : Channel :=
  deliverBoth (
    if x.flt.oneCore then pendSource (!x.cmdCore.up) l x
    else if l = 0 then pendSource true l (pendSource false l x)
    else pendSource (x.irq.route.getLsbD l) l x)

/-- IRQ_SOURCE_SIGNAL. -/
def execIrqSourceSignal (c : Ch) (level : BitVec 3) (s : State) : Out := onDev (fun d => modChan d c (raiseIrq level.toNat)) s

/-- A handler returns: its level is popped, the next source is delivered, and a core with none to deliver and nothing to run sleeps, as R692
allows. DESIGN CHOICE, log 58. -/
def handlerReturn (hk : Bool) (x : Channel) : Channel :=
  let k := coreOf x hk
  if k.stack.isEmpty then x else
  let y := deliverIrq hk 9 (setCore x hk { k with stack := k.stack.tail })
  let j := coreOf y hk
  if j.stack.isEmpty then setCore y hk { j with asleep := true } else y

/-- HANDLER_RETURN. -/
def execHandlerReturn (c : Ch) (hk : Bool) (s : State) : Out := onDev (fun d => modChan d c (handlerReturn hk)) s

/-- MILLISECOND_TICK: the Porch's counter reaches its next millisecond, and the tick, a source of level 7, is signalled (R690, R693). -/
def msTick (x : Channel) : Channel := raiseIrq 7 { x with porchUs := 1000 * (x.porchUs / 1000 + 1) }

def execMillisecondTick (c : Ch) (s : State) : Out := onDevB (fun b d => if b.vaux then modChan d c msTick else d) s

end Sys2Proof.Machine
end

