-- ==== Sys2Proof/Machine/Judge.lean ====
section
/-! DEFINITION. Machine/Judge.lean: transient or permanent, the responses of Table 15.5, and the start of a drain (R604 to R610, R174, R176). -/

namespace Sys2Proof.Machine

/-! ## Throttle steps as PWR_STATUS shows them -/

/-- STEP, TMAX, TSTACK and LIMITER follow the channels (Table 18.8). -/
def showPower (b : Board) (d : Device) : Board :=
  let xs := Ch.all.map fun c => chanOf d c
  let worst := xs.foldl (fun (m : Nat) x => max m x.step) 0
  let cause := match xs.find? (fun x => x.step == worst) with
    | some x => if worst = 0 then 0 else x.stepCause
    | none => 0
  { b with pwr := { b.pwr with
      step := BitVec.ofNat 20 (d.chans.c0.step + 2 ^ 5 * d.chans.c1.step + 2 ^ 10 * d.chans.c2.step + 2 ^ 15 * d.chans.c3.step),
      tmax := BitVec.ofNat 8 (xs.foldl (fun m x => max m x.temp) 0),
      tstack := BitVec.ofNat 8 (xs.foldl (fun m x => max m x.stackTemp) 0),
      limiter := cause } }

/-! ## Starting a drain (R609, R610) -/

/-- FLT_REPLACE with a cause: the first cause's class and unit stay (Table 15.12). -/
def replaceFor (cause : Option (Ch × Byte × BitVec 16)) (r : FltReplace) : FltReplace :=
  match cause with
  | none => { r with isSet := true }
  | some (c, cls, unit) =>
    let q := if r.isSet then r else { r with cls := cls, unit := unit }
    { q with isSet := true, ch := q.ch ||| BitVec.ofNat 4 (2 ^ c.num) }

/-- FLT_REPLACE.SET, with the event of code 0x06 when it was clear. -/
def setReplace (d : Device) (cause : Option (Ch × Byte × BitVec 16)) : Device :=
  let was := d.fy.replace.isSet
  let d1 := { d with fy := { d.fy with replace := replaceFor cause d.fy.replace } }
  if was then d1 else postAll d1 { code := 0x06 }

/-- The effect of a drain on one channel: DRAINING, the limit, and a drain step in the history. A drain already under way goes on as it
is, and can be cancelled only if neither start forbids it (R612, R613). -/
def drainChan (cancellable : Bool) (limitS : Nat) (x : Channel) : Channel :=
  match x.drain with
  | some k => { x with drain := some { k with cancellable := k.cancellable && cancellable } }
  | none =>
    record { x with
      flt := { x.flt with draining := true, drainDone := false },
      drain := some { cancellable := cancellable, startMs := nowMs x, limitS := limitS } }
      { cls := 0x90, kind := 10 }

/-- Serving and generator rooms without a stream stop at once; a channel without a STARTED room is done (R610). -/
def drainIdle (d : Device) : Device :=
  let d1 := Ch.all.foldl (fun d s => if suiteExists d s && suiteDraining d s then
    roomIndexes.foldl (fun d n => drainServe d s n) d else d) d
  showDrained d1

/-- A drain starts on channels cs. -/
def startDrain (d : Device) (cs : List Ch) (cancellable : Bool) (limitS : Nat) : Device :=
  let new := cs.filter fun c => (chanOf d c).drain.isNone
  let d1 := modChans d cs fun _ x => drainChan cancellable limitS x
  if new.isEmpty then d1 else
  let d2 := postAll { d1 with fy := { d1.fy with drains := d1.fy.drains + 1 } }
    { code := 0x02, detail := (bitsFrom (new.map Ch.num) : BitVec 4).setWidth 64 }
  refresh (drainIdle d2)

/-- A drain that a fault starts covers the whole device and sets FLT_REPLACE; the channel's history keeps the trigger (R608, R609). -/
def faultDrain (d : Device) (c : Ch) (cls : Byte) (unit : BitVec 16) : Device :=
  let d1 := modChan d c fun x => { x with hist := { x.hist with trigger := true }, flt := { x.flt with cause := true } }
  startDrain (setReplace d1 (some (c, cls, unit))) Ch.all false d1.fy.replace.drainLimitS.toNat

/-! ## The judgement (R604) -/

def sameAddr (cls : Byte) (unit : BitVec 16) (addr : W64) (r : FaultAddr) : Bool := r.cls == cls && r.unit == unit && r.addr == addr

/-- Times of the last three faults at an address within 24 h of the life clock, this one among them (R598, R599). -/
def recentTimes (x : Channel) (cls : Byte) (unit : BitVec 16) (addr : W64) : List Nat :=
  let now := lifeMs x
  let old := match x.hist.table.find? (sameAddr cls unit addr) with | some r => r.times | none => []
  (now :: old.filter fun t => now < t + dayMs).take 3

/-- A fault is permanent when it survives a rewrite, or is the third at its address within 24 h. -/
def isPermanent (x : Channel) (cls : Byte) (unit : BitVec 16) (addr : W64) (survives : Bool) : Bool :=
  survives || 3 ≤ (recentTimes x cls unit addr).length

def noteTimes (cls : Byte) (unit : BitVec 16) (addr : W64) (times : List Nat) (x : Channel) : Channel :=
  let rest := x.hist.table.filter fun r => !sameAddr cls unit addr r
  { x with hist := { x.hist with table := if times.isEmpty then rest else rest ++ [{ cls := cls, unit := unit, addr := addr, times := times }] } }

/-! ## Responses (Table 15.5) -/

/-- A data channel is steered to the next spare, and its contents migrate (R174). -/
def steerChannel (unit : Nat) (x : Channel) : Channel :=
  let s := Ch.ofNum (unit / 128)
  let k := x.memStacks.get s
  if k.reg.sparesUsed.toNat = 8 then x else
  let v : BitVec 64 := BitVec.shiftLeft (BitVec.ofNat 64 (2 ^ 7 + unit % 128)) (8 * k.reg.sparesUsed.toNat)
  { x with memStacks := x.memStacks.set s { k with reg := { k.reg with
      sparesUsed := k.reg.sparesUsed + 1, spares := k.reg.spares ||| v, migrating := true, migCh := BitVec.ofNat 7 unit } } }

def retirePump (p : Nat) (x : Channel) : Channel :=
  if x.pumps.working.getLsbD p then
    { x with pumps := { working := x.pumps.working &&& ~~~(BitVec.ofNat 16 (2 ^ p)), count := x.pumps.count - 1 } }
  else x

/-- KIND of the record that a response leaves: 3 steered or remapped, 4 retired; none for a class without one. -/
def responseKind (cls : Byte) : Option (BitVec 4) :=
  match cls.toNat with
  | 0x01 | 0x02 | 0x10 | 0x20 | 0x21 | 0x40 => some 3
  | 0x11 | 0x30 | 0x41 | 0x42 | 0x50 => some 4
  | _ => none

/-- The response on the channel, and whether Table 15.5 starts a drain. -/
def respond (cls : Byte) (unit : BitVec 16) (x : Channel) : Channel × Bool :=
  let u := unit.toNat
  match cls.toNat with
  | 0x01 =>
    let y := { x with bankSpares := tmod 0 x.bankSpares u (· + 1) }
    (y, 16 ≤ tget 0 y.bankSpares u)
  | 0x02 =>
    let y := { x with storeSpares := tmod 0 x.storeSpares u (· + 1) }
    (y, 64 ≤ tget 0 y.storeSpares u)
  | 0x10 =>
    let y := steerChannel u x
    (y, 8 ≤ (y.memStacks.get (Ch.ofNum (u / 128))).reg.sparesUsed.toNat)
  | 0x20 =>
    let y := showFailed { x with failedCols := if x.failedCols.contains u then x.failedCols else x.failedCols ++ [u] }
    (y, 32 ≤ y.failedCols.length)
  | 0x21 =>
    let y := showFailed { x with failedRows := if x.failedRows.contains u then x.failedRows else x.failedRows ++ [u] }
    (y, 32 ≤ y.failedRows.length)
  | 0x30 =>
    let y := retirePump u x
    (y, y.pumps.count.toNat < 12)
  | 0x40 => (x, false)
  | 0x41 => (x, 2 ≤ ((List.range 4).filter fun p => portOut (tget {} x.ports p)).length)
  | 0x90 | 0xA0 => (x, false)
  -- 0x42: the link is out of service from its judgement on (packOut), and traffic takes a detour (R487)
  | _ => (x, true)

/-- A permanent judgement: recorded, met by its response, kept for every boot; it may start a drain (R605, R608). -/
def meetPermanent (d : Device) (c : Ch) (cls : Byte) (unit : BitVec 16) (addr : W64) : Device :=
  let d1 := modChan d c fun x =>
    let y := record (noteTimes cls unit addr [] x) { cls := cls, unit := unit, addr := addr, kind := 9, judge := 1 }
    { y with hist := { y.hist with perm := y.hist.perm ++ [{ cls := cls, unit := unit, addr := addr }] } }
  let d2 := postAll d1 { code := 0x05, detail := (unit ++ cls).setWidth 64 }
  let t := respond cls unit (chanOf d2 c)
  let d3 := setChan d2 c (match responseKind cls with
    | some k => record t.1 { cls := cls, unit := unit, addr := addr, kind := k, judge := 1 }
    | none => t.1)
  refresh (if t.2 || d3.fy.replace.drainAny then faultDrain d3 c cls unit else d3)

/-- Program faults, bound misses and fingerprint events are not judged (R604). -/
def unjudged (r : FaultRec) : Bool := r.cls == 0x90 || r.cls == 0xA0 || r.kind == 6

/-- A fault is recorded and judged (R604). -/
def judgeFault (d : Device) (c : Ch) (r : FaultRec) (survives : Bool) : Device :=
  if unjudged r then modChan d c fun x => record x r else
  let x := chanOf d c
  let ts := recentTimes x r.cls r.unit r.addr
  let perm := isPermanent x r.cls r.unit r.addr survives
  let d1 := modChan d c fun x =>
    record (noteTimes r.cls r.unit r.addr ts x) { r with judge := if perm then 1 else 0, count := BitVec.ofNat 16 ts.length }
  if perm then meetPermanent d1 c r.cls r.unit r.addr else d1

/-- A fault outside a response: ALERT_N and the power registers follow. -/
def withBoard (f : Device → Device) (s : State) : Out := onBoth (fun b d => let d1 := f d; (showPower b d1, d1)) s

end Sys2Proof.Machine
end

