-- ==== Sys2Proof/Machine/ArrayEvents.lean ====
section
/-! DEFINITION. Machine/ArrayEvents.lean: the check token, array faults and retries, the sampling unit's token, and the wait limit (R93 to R101, R115, R152). -/

namespace Sys2Proof.Machine

/-- The island's cycles have come to k: an event says so that names a moment of the island's clock. DESIGN CHOICE, log 47. -/
def cyclesTo (k : Nat) (x : Channel) : Channel := addCycles (k - x.island.cycle) x

/-! ## Outputs (R69, R119, R160) -/

/-- The slot as the array runs it: a retry loads image 0 from BADDR, as though PRE were 0 (R125). -/
def runSlot (a : ArrOp) : BitVec 128 := if a.phase = .retrying then a.slot &&& ~~~(BitVec.ofNat 128 (2 ^ 24)) else a.slot

def opBuf (a : ArrOp) : Memory := match a.buf with | some w => writeBytes [] 0 w.image | none => []
def opResidues (a : ArrOp) : List (BitVec 16) := match a.buf with | some w => w.residues | none => []

/-- Lines of the C tiles that the operation writes whole. -/
def arrFullLines (s : BitVec 128) (fo : Fmt) : List Nat :=
  (List.range (arNG s)).flatMap fun g => (List.range (32 * arNW s / 128)).flatMap fun nt => (List.range (arM s / 128)).flatMap fun mt =>
    linesOf (512 * (arC s + ((4 * g + nt) * rowTiles (arM s) + mt) * tileUnits fo), tileBytes fo)

/-- The outputs of the run lie in the C tiles, tagged. C is locked from issue to the check token, so that nothing reads them before. The array's
operands are those in WS with every earlier store landed. DESIGN CHOICE, log 108. -/
def writeOutputs (a : ArrOp) (x : Channel) : Channel :=
  let s := runSlot a
  match arFormats s, Fmt.ofCode (arOfmt s) with
  | some (fa, fb, r), some fo =>
    let room := roomOf x a.room
    let ws := arrOutputs x.ws s a.place fa fb fo r (opBuf a) a.tensor (srDraw (rngKey room.rng.seed room.rng.salt))
    { x with ws := ws, tags := tagOutputs x.tags ws s fo, wsPoison := dropAll x.wsPoison (arrFullLines s fo) }
  | _, _ => x

/-- What the comparisons of the run find, from the operands and their residues as they stand (R90 to R92). -/
def foundIn (a : ArrOp) (x : Channel) : BitVec 2 :=
  match arFormats (runSlot a) with
  | some (fa, fb, r) => arrFound x.ws x.tags (runSlot a) fa fb r (opBuf a) (opResidues a)
  | none => 0

/-! ## Check token (R93, R121) -/

/-- The token, or the end of the C and A locks, ends the hold in progress: a bound miss for a lock, and for a wait when the token was withheld
through a retry (R33, R99). -/
def arrayMiss (a : ArrOp) (x : Channel) : Channel :=
  match x.island.hold with
  | some (.lock rs ws) =>
    if rs.any (anyMeets (arrC a.slot)) || ws.any (anyMeets (arrAB a.slot ++ arrC a.slot)) then { x with island := { x.island with miss := some .bound } } else x
  | some (.token t _ _) =>
    if t = arCtok a.slot && a.phase = .retrying then { x with island := { x.island with miss := some .bound } } else x
  | _ => x

/-- The check token is released: the operation is over, its outputs lie in WS, and its locks clear. The token of a room that has left for good
is discarded (R150). -/
def releaseCheck (d : Device) (c : Ch) (a : ArrOp) : Device :=
  let d1 := modChan d c fun x =>
    let y := writeOutputs a (arrayMiss a (cyclesTo (a.lastOut + 64) x))
    { y with island := { y.island with arr := none } }
  if a.dead then d1 else postToken d1 c a.room (arCtok a.slot)

/-- ARRAY_CHECK_TOKEN: every comparison of the first run has passed. -/
def checkToken (c : Ch) (d : Device) : Device :=
  match (chanOf d c).island.arr with
  | some a => if a.phase = .running && foundIn a (chanOf d c) = 0 then releaseCheck d c a else d
  | none => d

def execArrayCheckToken (c : Ch) (s : State) : Out := onDev (checkToken c) s

/-! ## Faults and retries (R94 to R98) -/

/-- A spare column is free: not one that stands in for a failed column, nor one that a run-time steering of this context takes (R48, R95). -/
def spareColumn (x : Channel) : Bool :=
  decide (x.failedCols.length + (x.island.steered.filter fun k => !x.failedCols.contains k.toNat).length < 32)

/-- Counters and status of a mismatch: residue, adder, or both (Tables 2.9, 2.10); the history keeps the lifetime counts (R101). -/
def countMismatch (f : ArrFault) (x : Channel) : Channel :=
  let res := f.kind.getLsbD 0
  let add := f.kind.getLsbD 1
  { x with
    arrStatus := { x.arrStatus with lastKind := f.kind, lastPcol := f.pcol.getD 0x3FF, lastRetryOk := false },
    arrCount := { x.arrCount with
      resMismatch := if res then satInc x.arrCount.resMismatch else x.arrCount.resMismatch,
      addMismatch := if add then satInc x.arrCount.addMismatch else x.arrCount.addMismatch },
    hist := { x.hist with
      resMismatch := x.hist.resMismatch + (if res then 1 else 0), addMismatch := x.hist.addMismatch + (if add then 1 else 0) } }

/-- The operation runs once more, as though PRE were 0, and repeats each ARR.LDW issued since its passes ended (R95, R125). A localised column
is steered out while a spare is free. -/
def startRetry (a : ArrOp) (f : ArrFault) (x : Channel) : Channel :=
  match arFormats a.slot with
  | none => x
  | some (_, _, r) =>
    let op0 := { a with phase := .retrying }
    let s := runSlot op0
    let start := a.lastOut + 64
    let steer := if spareColumn x then f.pcol.toList else []
    let op := { op0 with passEnd := start + passCycles s r, lastOut := start + opCycles s r }
    let later := fun (b : Option WBuf) => b.map fun w => if a.passEnd ≤ w.issued then { w with ready := max w.ready (start + opCycles s r) } else w
    let y := countArray a.room (opCycles s r) x
    { y with
      arrStatus := { y.arrStatus with steered := y.arrStatus.steered || !steer.isEmpty },
      island := { y.island with
        arr := some op, steered := y.island.steered ++ steer.filter (fun k => !y.island.steered.contains k), wb0 := later y.island.wb0, wb1 := later y.island.wb1 } }

/-- ARRAY_FAULT: the token is withheld; the channel's interrupt controller is signalled, and the fault is recorded with its kind, column and room,
and judged (R94, R604). A mismatch that is not localised has no unit and is not judged. DEDUCED, log 48. -/
def arrayFault (c : Ch) (f : ArrFault) (d : Device) : Device :=
  match (chanOf d c).island.arr with
  | none => d
  | some a =>
    if a.phase != .running || f.kind = 0 then d else
    let d1 := modChan d c fun x => raiseIrq 2 (startRetry a f (countMismatch f (cyclesTo a.lastOut x)))
    let r : FaultRec := { cls := 0x20, unit := (f.pcol.getD 0x3FF).setWidth 16, kind := 2, room := BitVec.ofNat 6 a.room, detail := f.kind.setWidth 192 }
    if f.pcol.isSome then judgeFault d1 c r false else modChan d1 c fun x => record x r

def execArrayFault (c : Ch) (f : ArrFault) (s : State) : Out := withBoard (arrayFault c f) s

/-- Lines of the tiles that the operation writes. -/
def arrTileLines (s : BitVec 128) : List Nat :=
  match Fmt.ofCode (arOfmt s) with
  | some fo => (cTilesWritten s fo).flatMap fun a => linesOf (a, tileBytes fo)
  | none => []

/-- The first element of a list that p picks takes a new value. -/
def setFirst {α : Type} (p : α → Bool) (f : α → α) : List α → List α
  | [] => []
  | e :: l => if p e then f e :: l else e :: setFirst p f l

/-- The event of the array's newest fault in a room: retried, with no status yet. -/
def retriedEvent (n : Nat) (r : FaultRec) : Bool := r.cls == 0x20 && r.kind == 2 && r.room == BitVec.ofNat 6 n && r.status == .ok

/-- The event of a fault whose retry has passed is reported with ARRAY_FAULT_RETRIED (R96). -/
def reportRetried (n : Nat) (x : Channel) : Channel :=
  let on := fun (r : FaultRec) => { r with status := .arrayFaultRetried }
  if x.hist.buffer.any (retriedEvent n) then { x with hist := { x.hist with buffer := setFirst (retriedEvent n) on x.hist.buffer } }
  else { x with hist := { x.hist with flash := setFirst (retriedEvent n) on x.hist.flash } }

/-- A retry's outcome in the check registers and the lifetime counts. -/
def countRetry (ok : Bool) (x : Channel) : Channel :=
  { x with
    arrStatus := { x.arrStatus with lastRetryOk := ok },
    arrCount := { x.arrCount with
      retryOk := if ok then satInc x.arrCount.retryOk else x.arrCount.retryOk,
      retryFail := if ok then x.arrCount.retryFail else satInc x.arrCount.retryFail },
    hist := { x.hist with
      retryOk := x.hist.retryOk + (if ok then 1 else 0), retryFail := x.hist.retryFail + (if ok then 0 else 1) } }

/-- ARRAY_RETRY_DONE: f is what the retry's comparisons find, kind 0 when they pass. The retry's outputs overwrite the first ones; after a
second mismatch every output tile is poisoned. The token is released either way (R95, R96, R98). -/
def retryDone (c : Ch) (f : ArrFault) (d : Device) : Device :=
  match (chanOf d c).island.arr with
  | none => d
  | some a =>
    if a.phase != .retrying || (f.kind = 0 && foundIn a (chanOf d c) != 0) then d
    else if f.kind = 0 then
      releaseCheck (modChan d c fun x => reportRetried a.room (countRetry true x)) c a
    else
      let unit : BitVec 16 := (f.pcol.getD 0x3FF).setWidth 16
      let d1 := modChan d c fun x =>
        record (countRetry false (countMismatch f x)) { cls := 0x20, unit := unit, kind := 1, room := BitVec.ofNat 6 a.room, detail := f.kind.setWidth 192 }
      modChan (releaseCheck d1 c a) c (poisonWs a.room (arrTileLines a.slot) (some { cls := 0x20, unit := unit, addr := 0 }))

def execArrayRetryDone (c : Ch) (f : ArrFault) (s : State) : Out := onDev (retryDone c f) s

/-! ## Sampling token (R115) -/

/-- SAMPLING_TOKEN: the unit has written its records, and posts. A room off the islands has them among its arrivals; the token
of one that has left for good is discarded (R150). -/
def samplingToken (c : Ch) (d : Device) : Device :=
  match (chanOf d c).island.smp with
  | none => d
  | some m =>
    let bytes := m.records.flatMap id
    -- a draw is made for each row that samples: not greedy, no infinity, some token (R277, R278)
    let drawn := (m.records.filter fun r => !(r.getD 25 0).getLsbD 3 && !(r.getD 25 0).getLsbD 6 && (r.drop 8).take 4 != List.replicate 4 0xFF).length
    let d1 := modChan d c fun x =>
      let y := countDraws m.room drawn { cyclesTo m.due x with island := { (cyclesTo m.due x).island with smp := none } }
      if m.dead then (if y.island.room.isNone then writeWs y m.out bytes else y) else putRoomWs y m.room m.out bytes
    if m.dead then d1 else
    let d2 := match suiteOfChan d1 c with
      | some s => modLeadRoom d1 s m.room fun r => { r with serve := { r.serve with sampled := true } }
      | none => d1
    postToken d2 c m.room m.tok

def execSamplingToken (c : Ch) (s : State) : Out := onDev (samplingToken c) s

/-! ## Wait limit (R152) -/

/-- The rooms that wait for a token on a channel, with the microsecond at which each wait began: the island's, and those switched out at a
yielding wait. -/
def tokenWaits (x : Channel) : List (Nat × Nat) :=
  (match x.island.room, x.island.hold with
   | some n, some (.token _ _ _) => [(n, x.island.holdUs)]
   | _, _ => []) ++
  (roomIndexes.filter fun n => isStarted (roomOf x n) && x.island.room != some n && stillBlocked x n).map fun n => (n, (roomOf x n).yieldUs)

/-- WAIT_LIMIT_EXPIRY: the oldest of the channel's waits has lasted longer than CC_WAIT_LIMIT; time switched out counts. A limit of 0 is
none. -/
def waitLimit (c : Ch) (d : Device) : Device :=
  let x := chanOf d c
  let oldest := (tokenWaits x).foldl (fun (b : Option (Nat × Nat)) w => match b with
    | none => some w
    | some v => if w.2 < v.2 then some w else some v) none
  match oldest with
  | some w => if x.waitLimit.limitUs = 0 then d else streamFault d c w.1 0x0C 14
  | none => d

def execWaitLimitExpiry (c : Ch) (s : State) : Out := onDev (waitLimit c) s

end Sys2Proof.Machine
end

