-- ==== Sys2Proof/Machine/Boundary.lean ====
section
/-! DEFINITION. Machine/Boundary.lean: the step boundary of a serving or generator room: records, stops, budgets, selection, reservation and the
length table (R233 to R251, R261 to R270, R283 to R290, R295, R296, R441, R444, R746, R748). -/

namespace Sys2Proof.Machine

/-! ## States under HELD, STARVED and RING_WAIT -/

def outer (st : StreamState) : Bool := st == .held || st == .starved || st == .ringWait
/-- The state that says what a stream does next. -/
def under (c : StreamCtx) : StreamState := if outer c.state then c.under else c.state
/-- Sets that state, leaving HELD, STARVED or RING_WAIT as they are. -/
def setUnder (c : StreamCtx) (st : StreamState) : StreamCtx :=
  if outer c.state then { c with under := st } else { c with state := st, under := st }

/-! ## Token records of the ended step (R283 to R290) -/

/-- The accepted chain of a tree from a node: the lowest-indexed child whose draft token is the one sampled, and so on (R284). -/
def chainFrom (parents drafts sampled : List Nat) : Nat → Nat → List Nat
  | 0, i => [i]
  | fuel + 1, i =>
    match (List.range parents.length).find? fun j => i < j && parents.getD j 0xFF == i && drafts.getD j 0 == sampled.getD i 0xFFFFFFFF with
    | some j => i :: chainFrom parents drafts sampled fuel j
    | none => [i]

/-- STOP_TOK_i of a request header. -/
def stopToks (h : Nat) : List Nat := ((List.range 8).map fun i => bitsOf h (512 + 32 * i) 32).filter (· != 0xFFFFFFFF)
/-- The room's EOS tokens. -/
def eosToks (r : SrvRoom) : List Nat := ([r.eos0, r.eos1, r.eos2, r.eos3].filter (· != 0xFFFFFFFF)).map (·.toNat)
/-- Stop sequence i of a stream: its tokens. -/
def stopSeq (d : Device) (n : Nat) (q : SRef) (i : Nat) : List Nat :=
  let b := readRoomLe (chanOf d q.1) n ((strm d q).area + 128 + 64 * i) 64
  (List.range (bitsOf b 0 32)).map fun j => bitsOf b (64 + 32 * j) 32

/-- The last tokens generated equal a stop sequence, the token just sampled at the end (R285). -/
def endsWithSeq (d : Device) (n : Nat) (q : SRef) (pos tok : Nat) (sq : List Nat) : Bool :=
  let prompt := reqPrompt (reqHdr d n q)
  sq != [] && prompt + sq.length ≤ pos + 1 &&
  ((List.range (sq.length - 1)).map fun j => histTok d n q (pos + 1 - sq.length + j)) ++ [tok] == sq

/-- The first stop condition that a record meets; 0 when none (Table 6.13). -/
def stopOf (d : Device) (s : Ch) (n : Nat) (q : SRef) (t : TokRec) : Nat :=
  let r := leadRoom d s n
  let c := strm d q
  let h := reqHdr d n q
  if t.token = 0xFFFFFFFF then 8
  else if (eosToks r.srv ++ stopToks h).contains t.token.toNat then 1
  else if (List.range (reqNseq h)).any fun i => endsWithSeq d n q t.pos.toNat t.token.toNat (stopSeq d n q i) then 2
  else if c.maxNew ≤ c.generated + 1 then 3
  else if maxLen r - 1 ≤ t.pos.toNat then 4
  else 0

/-- One sampled record: history, stop test, delivery; whether the stream has stopped (R261 step 3, R285, R286, R290). -/
def takeRecord (d : Device) (s : Ch) (n : Nat) (q : SRef) (spec : Bool) (t : TokRec) : Device × Bool :=
  let stop := stopOf d s n q t
  let st : Status := if t.token = 0xFFFFFFFF then .nonFiniteStep else if (strm d q).recompNext then .kvRecompute else .ok
  let d1 := if t.token = 0xFFFFFFFF then d else writeArea d n q (2048 + 4 * t.pos.toNat) (leBytes 4 t.token.toNat)
  let d2 := queueRec d1 s n q { t with status := st.code, stop := stop, spec := spec, last := stop != 0 }
  if stop = 0 then (d2, false) else (release d2 s n q, true)

/-- Records of one entry in position order, until one stops the stream; the number that carried a token. -/
def takeRecords (s : Ch) (n : Nat) (q : SRef) (spec : Bool) : List TokRec → Device → Nat → Device × Nat
  | [], d, k => (d, k)
  | t :: ts, d, k =>
    let r := takeRecord d s n q spec t
    let k' := if t.token = 0xFFFFFFFF then k else k + 1
    if r.2 then (r.1, k') else takeRecords s n q spec ts r.1 k'

/-- Pages beyond a length go (R242). -/
def trimKv (d : Device) (s : Ch) (n : Nat) (q : SRef) : Device :=
  let k := (leadRoom d s n).kv
  let c := strm d q
  dropKv d s n q (c.cols.filter fun a => c.len ≤ a * kvP k) (c.strips.filter fun a => c.len * stripRow k ≤ a * pageBytes)

/-- What an entry's step did, once it has ended: positions, records, charges; first is the index of its first sampled record. -/
def endEntry (s : Ch) (n : Nat) (st : Device × Nat) (e : LtEntry) : Device × Nat :=
  let d := st.1
  let q : SRef := (Ch.ofNum e.ch, e.ctx)
  let r := leadRoom d s n
  let c := strm d q
  if c.state = .free || c.state = .ending || c.room ≠ n then (d, st.2 + e.sampled) else
  let recs := (List.range e.sampled).map fun i => readRec (roomWs (chanOf d (leadOf d s)) n) (r.srv.recAddr.toNat + 32 * (st.2 + i))
  let sampledToks := recs.map fun t => t.token.toNat
  let chain := if e.tree then chainFrom e.parents e.drafts sampledToks e.qn 0 else []
  let len := if e.recompute then c.len else if e.tree then e.ctxLen + chain.length else e.ctxLen + e.qn
  let prompt := reqPrompt (reqHdr d n q)
  let p := e.ctxLen + e.qn
  let recomp := if e.recompute then (if p < c.len then some p else none) else c.recomp
  let d1 := if e.tree then modChans d (suiteChans d s) fun _ x => relinkOn n e.slot e.ctxLen chain x else d
  let moved := ((List.range chain.length).zip chain).filter fun m => m.1 != m.2
  let d2 := modLeadRoom d1 s n fun m => { m with kv := { m.kv with relinks := satAdd m.kv.relinks (moved.length * kvRegions m.kv) } }
  let d3 := modStrm d2 q fun c => setUnder { c with len := len, recomp := recomp } (if recomp.isNone && prompt ≤ len then .decode else under c)
  let d4 := if e.tree then trimKv d3 s n q else d3
  let mine := if e.tree then chain.map fun i => recs.getD i (readRec [] 0) else recs
  let t := takeRecords s n q e.tree mine d4 0
  let outW := (budgetOf (chanOf d (leadOf d s)) c.customer.toNat).reg.outW.toNat
  let d5 := modLead t.1 s fun x => credit x c.customer.toNat (e.aside - t.2 * outW)
  (d5, st.2 + e.sampled)

/-- Step 3 of R261 over the table, and the table is done. -/
def endTable (d : Device) (s : Ch) (n : Nat) : Device :=
  let t := (leadRoom d s n).serve.table
  let d1 := (t.foldl (endEntry s n) (d, 0)).1
  modLeadRoom d1 s n fun r => takeLater { r with serve := { r.serve with table := [], inStep := false, sampled := false }, steps := r.steps + 1 }

/-! ## Ends that no token causes (R270, R288, R296) -/

/-- Whether a record carries a token, and its FIRST bit. -/
def recHasToken (b : List Byte) : Bool := (b.drop 8).take 4 != [0xFF, 0xFF, 0xFF, 0xFF]
def recIsFirst (b : List Byte) : Bool := (b.getD 29 0).getLsbD 0
def recHandle (b : List Byte) : Nat := leNat (b.take 4)

/-- Records of a stream that have not been delivered are discarded, those of the step that ended included (R288); a discarded FIRST is due again. -/
def dropOwed (d : Device) (s : Ch) (n : Nat) (q : SRef) : Device :=
  let c := strm d q
  let v := (leadRoom d s n).serve
  let mine := fun (o : Nat × Nat × List Byte) => o.1 == q.1.num && o.2.1 == q.2
  let mineF := fun (o : BitVec 18 × W32 × List Byte) => recHandle o.2.2 == c.handle.toNat
  let gone := (v.owed.filter mine).map (·.2.2) ++ (v.toFabric.filter mineF).map (·.2.2)
  let kept := if c.deliver.toNat = 2 then c.nrec - c.stepRecs else c.nrec - gone.length
  let toks := if c.deliver.toNat = 2 then c.stepRecs else (gone.filter recHasToken).length
  let d1 := modLeadRoom d s n fun m => { m with
    serve := { m.serve with owed := m.serve.owed.filter (fun o => !mine o), toFabric := m.serve.toFabric.filter fun o => !mineF o },
    acct := { m.acct with tokOut := m.acct.tokOut - BitVec.ofNat 64 toks } }
  modStrm d1 q fun c => { c with nrec := kept, firstDue := c.firstDue || kept == 0 || gone.any recIsFirst }

/-- A cancel takes effect: nothing when the last record is queued, else the undelivered records go and the terminal record follows. -/
def doCancel (d : Device) (s : Ch) (n : Nat) (q : SRef) : Device :=
  let c := strm d q
  if !c.cancel || c.state = .ending then d else endStream (dropOwed d s n q) s n q 5 .ok

/-- CANCEL_STREAM commands whose stream has had its last record queued complete (R673). -/
def finishCancels (d : Device) : Device :=
  completeWaits d fun w => match w.kind with
    | .cancel c i => if (strm d (c, i)).state = .ending || (strm d (c, i)).state = .free then some (.ok, []) else none
    | _ => none

/-- Deadlines that have passed. -/
def doDeadlines (d : Device) (s : Ch) (n : Nat) (q : SRef) : Device :=
  let c := strm d q
  let now := nowMs (chanOf d (leadOf d s))
  let past : Option Nat → Bool := fun o => match o with | some t => decide (t ≤ now) | none => false
  if c.state = .held && past c.holdDl then endStream d s n q 6 .budgetEmpty
  else if past c.pinDl then endStream d s n q 7 .staleWgen
  else d

/-! ## Weight pointers (R295, R441, R444, R746) -/

/-- The lowest model that a room's program uses, whose WGEN its streams carry. DESIGN CHOICE, log 27. -/
def mainModel (r : Room) : Option Nat := (modelsUsed r).head?

/-- Streams at a pointer move: those without a pin take the new WGEN; a pinned stream stays on its copy and its deadline is set once;
streams admitted without a pointer take this copy, and its pin. -/
def streamsMove (d : Device) (s : Ch) (n m : Nat) (first : Bool) (k : Nat) : Device :=
  let now := nowMs (chanOf d (leadOf d s))
  let w := wgenOf (chanOf d (leadOf d s)) k
  let main := mainModel (leadRoom d s n) = some m
  let hold := min 60000 (leadRoom d s n).srv.pinHoldMs.toNat
  (roomStreams d s n).foldl (fun d q =>
    let c := strm d q
    if c.state = .ending then d
    else if first then
      let d1 := if main then modStrm d q fun c => { c with wgen := w } else d
      if c.pin then modLead d1 s fun x => addPin x k (pinKey q.1.num q.2) else d1
    else if c.pin then (if c.pinDl.isNone then modStrm d q fun c => { c with pinDl := some (now + hold) } else d)
    else if main then modStrm d q fun c => { c with wgen := w } else d) d

/-- A copy that SWITCH_WEIGHTS may name: READY, CURRENT or RETIRING, of the model (R444). -/
def named (x : Channel) (m k : Nat) : Bool :=
  (copyState x k == csReady || copyState x k == csCurrent || copyState x k == csRetiring) && copyModel x k == m

/-- The copy to which the pointer for a model goes at this boundary: the one a SWITCH_WEIGHTS named, else the newest under AUTO. -/
def moveTarget (d : Device) (s : Ch) (n m : Nat) : Option Nat :=
  let x := chanOf d (leadOf d s)
  let r := leadRoom d s n
  match tget none r.switchTo m with
  | some k => if ptrOf r m = some k || !(named x m k) then none else some k
  | none => if (modelOf x m).auto && usesModel r m then newestCopy x m ((ptrOf r m).map (wgenOf x)) else none

def moveModel (d : Device) (s : Ch) (n m : Nat) : Device :=
  match moveTarget d s n m with
  | some k =>
    let first := (ptrOf (leadRoom d s n) m).isNone
    streamsMove (movePtr d s n m k) s n m first k
  | none => d

/-- Every pointer of a room at a boundary. -/
def movePointers (d : Device) (s : Ch) (n : Nat) : Device :=
  let d1 := [0, 1, 2, 3].foldl (fun d m => moveModel d s n m) d
  passSwitchWaits (modLeadRoom d1 s n fun r => { r with switchTo := [] }) s n

/-- A room that lacks a pointer for a model that its program uses selects nothing (R746). -/
def pointersHeld (r : Room) : Bool := (modelsUsed r).all fun m => (ptrOf r m).isSome

/-! ## Selection (R262, R263, R269, R340) -/

/-- A room's streams in selection order. -/
def selectionOrder (d : Device) (s : Ch) (n : Nat) : List SRef :=
  let before := fun (a b : SRef) =>
    let x := strm d a
    let y := strm d b
    let sx := b2n (x.state != .starved)
    let sy := b2n (y.state != .starved)
    y.priority < x.priority || (x.priority == y.priority && (sx < sy || (sx == sy && x.lastStep ≤ y.lastStep)))
  (roomStreams d s n).mergeSort before

/-- A shaped entry before its place in the table is known. -/
structure Shape where
  q : SRef
  ctxLen : Nat
  qn : Nat
  tree : Bool := false
  recompute : Bool := false
  sampled : Nat := 0
  tokens : Nat := 0
  aside : Nat := 0
  block : List Byte := []
  drafts : List Nat := []
  parents : List Nat := []
  depths : List Nat := []
  deriving DecidableEq, Repr

/-- A proposal in a request area: PQN, draft tokens, parents, depths and ancestor sets (Tables 5.8, 6.6). -/
def proposalN (d : Device) (n : Nat) (q : SRef) : Nat := readRoomLe (chanOf d q.1) n ((strm d q).area + 1920) 4
def proposalBlock (d : Device) (n : Nat) (q : SRef) : List Byte := readRoom (chanOf d q.1) n ((strm d q).area + 1024) 640
def proposalDrafts (d : Device) (n : Nat) (q : SRef) : List Nat :=
  (List.range 64).map fun i => readRoomLe (chanOf d q.1) n ((strm d q).area + 1664 + 4 * i) 4
def treeAnc (b : List Byte) (i : Nat) : Nat := leNat ((b.drop (8 * i)).take 8)
def treeParent (b : List Byte) (i : Nat) : Nat := (b.getD (512 + i) 0).toNat
def treeDepth (b : List Byte) (i : Nat) : Nat := (b.getD (576 + i) 0).toNat

/-- A tree block obeys R248 and Table 5.8 for its first qn nodes. -/
def treeLegal (b : List Byte) (qn : Nat) : Bool :=
  (List.range qn).all fun i =>
    if i = 0 then treeParent b 0 == 0xFF && treeDepth b 0 == 1 && treeAnc b 0 == 1
    else treeParent b i < i && treeDepth b i == treeDepth b (treeParent b i) + 1 &&
      treeAnc b i == treeAnc b (treeParent b i) + 2 ^ i

/-- QN of a tree after R250: in class S its positions span at most two pages. -/
def treeFit (k : KvRoom) (ctxLen qn : Nat) : Nat :=
  if k.cls = 0 then min qn ((ctxLen / kvP k + 2) * kvP k - ctxLen) else qn

/-- CHUNK as taken (Table 6.15). -/
def chunkOf (r : SrvRoom) : Nat := min 8192 (max 1 r.chunk.toNat)
def rowTarget (r : SrvRoom) : Nat := if r.rowTarget = 0 then 65536 else r.rowTarget.toNat

/-- The entry of a stream, with rows left under ROW_TARGET and up to 65,536 (Table 6.7); none ends the room: the proposal breaks R248. -/
def shapeOf (d : Device) (s : Ch) (n : Nat) (q : SRef) (rows : Nat) : Option Shape :=
  let r := leadRoom d s n
  let c := strm d q
  let left := rowTarget r.srv - rows
  match c.recomp with
  | some p => some { q := q, ctxLen := p, qn := min (min 8192 (c.len - p)) left, recompute := true }
  | none =>
    if under c = .decode then
      let pqn := proposalN d n q
      let qn := min (treeFit r.kv c.len pqn) (min (maxLen r - c.len) (65536 - rows))
      if 2 ≤ pqn && pqn ≤ 64 then
        let b := proposalBlock d n q
        if !treeLegal b pqn then none
        else if 2 ≤ qn then
          let deps := (List.range qn).map (treeDepth b)
          let pend := histTok d n q c.len
          some { q := q, ctxLen := c.len, qn := qn, tree := true, sampled := qn, tokens := deps.foldl max 0, block := b,
                 drafts := pend :: ((proposalDrafts d n q).take qn).drop 1, parents := (List.range qn).map (treeParent b), depths := deps }
        else some { q := q, ctxLen := c.len, qn := 1, sampled := 1, tokens := 1 }
      else some { q := q, ctxLen := c.len, qn := 1, sampled := 1, tokens := 1 }
    else
      let prompt := reqPrompt (reqHdr d n q)
      let qn := min (min (chunkOf r.srv) (prompt - c.len)) left
      let fin := c.len + qn = prompt
      some { q := q, ctxLen := c.len, qn := qn, sampled := b2n fin, tokens := b2n fin }

/-- The selection as it goes. -/
structure Sel where
  d : Device
  picked : List Shape := []
  rows : Nat := 0
  adps : List Nat := []
  merged : List Nat := []
  wanted : List Nat := []
  broken : Bool := false

/-- The lowest KV slot that no stream of the room holds. DESIGN CHOICE, log 28. -/
def freeKvSlot (d : Device) (s : Ch) (n : Nat) : Option Nat :=
  let used := (roomStreams d s n).filterMap fun q => (strm d q).slot
  (List.range (leadRoom d s n).kv.slots.toNat).find? fun k => !used.contains k

/-- The budget gate of an entry: its set-aside, or HELD (R269, R270). -/
def budgetGate (d : Device) (s : Ch) (n : Nat) (sh : Shape) : Device × Option Shape :=
  let c := strm d sh.q
  let cu := c.customer.toNat
  if sh.tokens = 0 then (d, some sh) else
  let d1 := modLead d s fun x => refill x cu
  let x := chanOf d1 (leadOf d s)
  let cost := sh.tokens * (budgetOf x cu).reg.outW.toNat
  if cost ≤ levelOf x cu then (modLead d1 s fun x => debit x cu cost, some { sh with aside := cost })
  else if c.state = .held then (d1, none)
  else
    let ms := (leadRoom d s n).srv.budgetHoldMs.toNat
    if ms = 0 then (endStream d1 s n sh.q 6 .budgetEmpty, none)
    else
      let d2 := modLead d1 s fun x => modBudget x cu fun b => { b with reg := { b.reg with holds := satInc b.reg.holds } }
      (modStrm d2 sh.q fun c => { c with state := .held, under := under c, holdDl := some (nowMs x + ms) }, none)

/-- One stream in selection order. -/
def selectOne (s : Ch) (n : Nat) (st : Sel) (q : SRef) : Sel :=
  let d := st.d
  let r := leadRoom d s n
  let c := strm d q
  if st.broken || 8192 ≤ st.picked.length || rowTarget r.srv ≤ st.rows then st
  else if c.state = .ringWait || c.state = .ending || c.state = .free then st
  else
    let sl := match c.slot with | some k => some k | none => freeKvSlot d s n
    match sl with
    | none => st
    | some k =>
      let x := chanOf d (leadOf d s)
      let missing := match c.bind with | .warm w => if (cacheSlot x n w).isNone then some w else none | _ => none
      match missing with
      | some w => { st with wanted := addAll st.wanted [w] }
      | none =>
        let a := entryAdp d s n q
        let adps := match a with | some (k, _) => addAll st.adps [k] | none => st.adps
        let merged := match a with | some (k, true) => addAll st.merged [k] | _ => st.merged
        if max 1 (min 1024 r.adp.stepMax.toNat) < adps.length || min 8 r.adp.mergedMax.toNat < merged.length then
          { st with d := modLeadRoom d s n fun m => { m with adp := { m.adp with deferred := satInc m.adp.deferred } } }
        else
          match shapeOf d s n q st.rows with
          | none => { st with broken := true }
          | some sh =>
            let g := budgetGate d s n sh
            match g.2 with
            | none => { st with d := g.1 }
            | some sh =>
              let d1 := modStrm g.1 q fun c => { c with
                slot := some k, holdDl := none,
                state := if under c = .pending then .prefill else under c, under := if under c = .pending then .prefill else under c }
              -- a proposal is used up by the decode entry it meets
              let d2 := if under c = .decode && c.recomp.isNone && proposalN d n q != 0 then writeArea d1 n q 1920 [0, 0, 0, 0] else d1
              { st with d := d2, picked := st.picked ++ [sh], rows := st.rows + sh.qn, adps := adps, merged := merged }

/-! ## Reservation (R237 to R240) -/

/-- One page pinned to T1 on a channel, where it is not there yet; it counts in KV_ROOM_n.PAGES. -/
def takeKvPage (n : Nat) (d : Device) (q : Ch × Nat) : Option Device :=
  let x := chanOf d q.1
  if hasPage x n q.2 then some d else
  (allocRoomPages x n 1 [q.2]).map fun y =>
    setChan d q.1 (modRoomC y n fun r => { r with kv := { r.kv with pages := r.kv.pages + 1 } })

/-- Pages on every channel of the suite, one by one until the account takes no more of them; whether all are there (R238). -/
def takeKv (d : Device) (s : Ch) (n : Nat) (pages : List Nat) : Device × Bool :=
  ((suiteChans d s).flatMap fun c => pages.map fun p => (c, p)).foldl (fun t q =>
    if t.2 then match takeKvPage n t.1 q with | some d => (d, true) | none => (t.1, false) else t) (d, true)

/-- A column (or, with strip set, a strip page) of a stream. -/
structure Need where
  strip : Bool
  ix : Nat
  deriving DecidableEq, Repr

/-- The pages of a need, in all the regions of the stream's slot. -/
def needPages (k : KvRoom) (c : StreamCtx) (need : Need) : List Nat :=
  if need.strip then stripPages k (c.slot.getD 0) need.ix else colPages k (c.slot.getD 0) need.ix

/-- What an entry still needs: columns and strip pages with a page that is not there on some channel. -/
def needsOf (d : Device) (s : Ch) (n : Nat) (sh : Shape) : List Need :=
  let k := (leadRoom d s n).kv
  (((colsFor k sh.ctxLen (sh.ctxLen + sh.qn)).map (Need.mk false)) ++ ((stripsFor k sh.ctxLen (sh.ctxLen + sh.qn)).map (Need.mk true))).filter
    fun need => (suiteChans d s).any fun c => (needPages k (strm d sh.q) need).any fun p => !hasPage (chanOf d c) n p

/-- A stream holds a column or a strip page once one of its pages is there. -/
def noteHeld (d : Device) (s : Ch) (n : Nat) (q : SRef) (need : Need) : Device :=
  let k := (leadRoom d s n).kv
  if (suiteChans d s).any fun c => (needPages k (strm d q) need).any fun p => hasPage (chanOf d c) n p then
    modStrm d q fun c =>
      if need.strip then { c with strips := addAll c.strips [need.ix] } else { c with cols := addAll c.cols [need.ix] }
  else d

/-- The victim to drop from next: ascending priority, last step, slot (R239). -/
def victimFor (d : Device) (s : Ch) (n : Nat) (safe : List SRef) : Option SRef :=
  ((roomStreams d s n).filter fun q => !safe.contains q && !(strm d q).cols.isEmpty).foldl (fun b q =>
    match b with
    | none => some q
    | some p =>
      let x := strm d q
      let y := strm d p
      let lt := x.priority < y.priority || (x.priority == y.priority &&
        (x.lastStep < y.lastStep || (x.lastStep == y.lastStep && x.slot.getD 0 < y.slot.getD 0)))
      if lt then some q else some p) none

/-- Drops page column a of a stream with every strip page wholly at or beyond it; the stream recomputes from there (R239, R240). -/
def dropColumn (d : Device) (s : Ch) (n : Nat) (q : SRef) (a : Nat) : Device :=
  let k := (leadRoom d s n).kv
  let c := strm d q
  let pos := a * kvP k
  let strips := c.strips.filter fun i => pos * stripRow k ≤ i * pageBytes
  let d1 := dropKv d s n q [a] strips
  let d2 := match c.slot with
    | some sl => modChans d1 (suiteChans d1 s) fun _ x => modRoomC x n fun r =>
        { r with staging := r.staging.filter fun g => !((slotRegions k sl).contains (g.key / 2) && g.page == a) }
    | none => d1
  let d3 := modStrm d2 q fun c =>
    let p := min (c.recomp.getD c.len) pos
    if p < c.len then { c with recomp := some p, recompNext := true } else c
  modLeadRoom d3 s n fun r => { r with kv := { r.kv with drops := satInc r.kv.drops } }

/-- The reservation as it goes: device, entries kept in order, streams already reserved. -/
structure Resv where
  d : Device
  lost : List SRef := []
  done : List SRef := []

/-- Meets one need of an entry page by page, dropping victims' columns as long as it takes; false when none is left, and the stream keeps what
it has obtained (R238). -/
def meetNeed (s : Ch) (n : Nat) (q : SRef) (need : Need) : Nat → Resv → Resv × Bool
  | 0, st => (st, false)
  | fuel + 1, st =>
    let got := takeKv st.d s n (needPages (leadRoom st.d s n).kv (strm st.d q) need)
    let st1 := { st with d := noteHeld got.1 s n q need }
    if got.2 then (st1, true) else
    match victimFor st1.d s n (q :: st.done) with
    | none => (st1, false)
    | some v => meetNeed s n q need fuel { st1 with
        d := dropColumn st1.d s n v ((strm st1.d v).cols.foldl max 0), lost := if st.lost.contains v then st.lost else st.lost ++ [v] }

def meetNeeds (s : Ch) (n : Nat) (q : SRef) (fuel : Nat) : List Need → Resv → Resv × Bool
  | [], st => (st, true)
  | x :: xs, st =>
    let r := meetNeed s n q x fuel st
    if r.2 then meetNeeds s n q fuel xs r.1 else r

/-- An entry that is not placed after all: its set-aside returns. -/
def returnAside (d : Device) (s : Ch) (sh : Shape) : Device :=
  modLead d s fun x => credit x (strm d sh.q).customer.toNat sh.aside

/-- Reserves for one entry, or removes it with KV_STARVED (R238). -/
def reserveOne (s : Ch) (n : Nat) (st : Resv) (sh : Shape) : Resv :=
  if st.lost.contains sh.q then st else
  let cols := ((roomStreams st.d s n).map fun q => (strm st.d q).cols.length).sum
  let r := meetNeeds s n sh.q (cols + 1) (needsOf st.d s n sh) st
  if r.2 then { r.1 with done := r.1.done ++ [sh.q] }
  else
    let d1 := modStrm r.1.d sh.q fun c => { c with state := .starved, under := under c }
    let d2 := modLeadRoom d1 s n fun m => { m with kv := { m.kv with starved := satInc m.kv.starved } }
    { r.1 with d := d2, lost := r.1.lost ++ [sh.q] }

/-- Reservation in descending priority, then table order; the entries left in the table. -/
def reserveAll (d : Device) (s : Ch) (n : Nat) (l : List Shape) : Device × List Shape :=
  let order := l.mergeSort fun a b => (strm d b.q).priority ≤ (strm d a.q).priority
  let r := order.foldl (reserveOne s n) { d := d }
  let gone := l.filter fun sh => !r.done.contains sh.q
  (gone.foldl (fun d sh => returnAside d s sh) r.d, l.filter fun sh => r.done.contains sh.q)

/-! ## Handover (R233, R264, R265, R273, R338) -/

/-- Gives the entries their rows, in table order. -/
def placeRows : Nat → List Shape → List (Shape × Nat)
  | _, [] => []
  | at_, sh :: r => (sh, at_) :: placeRows (at_ + sh.qn) r

/-- Tokens of an entry's rows (R264). -/
def rowTokens (d : Device) (n : Nat) (sh : Shape) : List Nat :=
  if sh.tree then sh.drafts else (List.range sh.qn).map fun j => histTok d n sh.q (sh.ctxLen + j)

/-- POS of each sampled row of an entry with its row (Table 6.11, R284). -/
def sampledRows (sh : Shape) : List (Nat × Nat) :=
  if sh.tree then (List.range sh.qn).map fun i => (sh.ctxLen + sh.depths.getD i 0, i)
  else if sh.sampled = 0 then [] else [(sh.ctxLen + sh.qn, sh.qn - 1)]

def smpEntryBytes (c : StreamCtx) (pos row : Nat) : List Byte :=
  leBytes 4 c.handle.toNat ++ leBytes 4 pos ++ leBytes 4 c.wgen.toNat ++ leBytes 4 c.temp.toNat ++ leBytes 4 c.topP.toNat ++
  leBytes 4 c.topK ++ leBytes 4 c.seed.toNat ++ leBytes 2 row ++ leBytes 2 0

/-- The length table with its token array and tree blocks, and where each tree block lies: behind the token array, 64 B aligned.
DESIGN CHOICE, log 29. -/
def tableBytes (d : Device) (r : Room) (n step : Nat) (es : List (Shape × Nat)) : List Byte × List Nat :=
  let ne := es.length
  let rows := (es.map fun e => e.1.qn).sum
  let treesAt := 64 * cdiv (r.kv.ltAddr.toNat + 64 + 32 * ne + 4 * rows) 64
  let ord := fun (i : Nat) => ((es.take i).filter fun e => e.1.tree).length
  let treeAddr := (List.range ne).map fun i => if (es.getD i ({ q := (.c0, 0), ctxLen := 0, qn := 0 }, 0)).1.tree then treesAt + 640 * ord i else 0
  let header := leBytes 4 ne ++ leBytes 4 rows ++ leBytes 8 step ++
    leBytes 4 ((es.map fun e => e.1.ctxLen + e.1.qn).foldl max 0) ++ List.replicate 44 0
  let entry := fun (t : (Shape × Nat) × Nat) =>
    let sh := t.1.1
    leBytes 4 ((strm d sh.q).slot.getD 0) ++ leBytes 4 sh.ctxLen ++ leBytes 4 t.1.2 ++
    leBytes 4 (sh.qn + 2 ^ 16 * b2n sh.tree + 2 ^ 17 * b2n sh.recompute) ++ leBytes 8 t.2 ++ List.replicate 8 0
  let toks := es.flatMap fun e => (rowTokens d n e.1).flatMap (leBytes 4)
  let body := header ++ (es.zip treeAddr).flatMap entry ++ toks
  let trees := es.flatMap fun e => e.1.block
  let gap := if trees.isEmpty then 0 else treesAt - (r.kv.ltAddr.toNat + body.length)
  (body ++ List.replicate gap 0 ++ trees, treeAddr)

/-- The sampling parameter block (Table 6.10); V, LFMT and LSTRIDE come from the program's metadata. DEDUCED, log 30. -/
def smpBytes (d : Device) (r : Room) (es : List (Shape × Nat)) : List Byte :=
  let info := match r.prog with | some p => p.info | none => {}
  let ns := (es.map fun e => e.1.sampled).sum
  leBytes 4 (info.vocab + 2 ^ 19 * b2n info.lfmt + 2 ^ 20 * b2n r.cfg.h1Mode) ++ leBytes 4 info.lstride ++ leBytes 8 r.srv.recAddr.toNat ++
  leBytes 4 ns ++ List.replicate 44 0 ++
  es.flatMap fun e => (sampledRows e.1).flatMap fun p => smpEntryBytes (strm d e.1.q) p.1 p.2

/-- The next table is handed over: its bytes, the parameter block and the adapter step block go through the controller queue of every
channel, and the streams have had their step. -/
def handOver (d : Device) (s : Ch) (n : Nat) (l : List Shape) : Device :=
  let r := leadRoom d s n
  let x := chanOf d (leadOf d s)
  let withAdp := l.map fun sh => (sh, entryAdp d s n sh.q)
  let mode := stepMode r.adp.forceRow (withAdp.map (·.2))
  let subs := subBatches mode withAdp
  let es := placeRows 0 (subs.flatMap (·.2))
  let step := r.serve.step + 1
  let lt := tableBytes d r n step es
  let blk := stepBlock x mode step (subs.map fun b => (b.1, b.2.map fun sh => (sh.qn, (entryAdp d s n sh.q).map (·.1))))
  let ws := [(r.kv.ltAddr.toNat, lt.1), (r.srv.smpAddr.toNat, smpBytes d r es), (r.adp.stepAddr.toNat, blk)]
  let item : CtrlItem := { room := n, tok := (Config.ctrlTok 0).toNat, writes := ws }
  let table := (es.zip lt.2).map fun t =>
    let sh := t.1.1
    ({ ch := sh.q.1.num, ctx := sh.q.2, slot := (strm d sh.q).slot.getD 0, ctxLen := sh.ctxLen, qoff := t.1.2, qn := sh.qn, tree := sh.tree,
       recompute := sh.recompute, sampled := sh.sampled, aside := sh.aside, treeAddr := t.2, drafts := sh.drafts, parents := sh.parents,
       depths := sh.depths } : LtEntry)
  let d1 := modChans d (suiteChans d s) fun _ x => { x with ctrlItems := x.ctrlItems ++ [item] }
  let d2 := modLeadRoom d1 s n fun r =>
    let rows := if mode = 2 then satInc r.adp.rowSteps else r.adp.rowSteps
    let sorted := if mode = 1 then satInc r.adp.sortedSteps else r.adp.sortedSteps
    { r with
      serve := { r.serve with step := step, table := table, inStep := true, sampled := false },
      adp := { r.adp with rowSteps := rows, sortedSteps := sorted } }
  let d3 := l.foldl (fun d sh => modStrm d sh.q fun c => { c with lastStep := BitVec.ofNat 32 step }) d2
  let used := withAdp.filterMap fun a => a.2.map (·.1)
  modChans d3 (suiteChans d3 s) fun _ x => used.foldl (fun x k => modAdp x k fun e => { e with stamp := step }) x

/-- Selects, reserves and hands over the next table; fetches of warm adapters start (R262, R337). A broken proposal ends the room (R283). -/
def nextTable (d : Device) (s : Ch) (n : Nat) : Device :=
  if !pointersHeld (leadRoom d s n) then showStreams d s n else
  let sel := (selectionOrder d s n).foldl (selectOne s n) { d := d }
  if sel.broken then faultRoom (sel.picked.foldl (fun d sh => returnAside d s sh) sel.d) s n .roomFault else
  let order := (subBatches (stepMode (leadRoom d s n).adp.forceRow (sel.picked.map fun sh => entryAdp sel.d s n sh.q))
    (sel.picked.map fun sh => (sh, entryAdp sel.d s n sh.q))).flatMap (·.2)
  let rv := reserveAll sel.d s n order
  -- entries keep their selection order within a sub-batch
  let keep := sel.picked.filter fun sh => rv.2.any fun t => t.q == sh.q
  let d1 := if keep.isEmpty then rv.1 else handOver rv.1 s n keep
  let inUse := tableSlots d1 s n (leadRoom d1 s n).serve.table
  showStreams (sel.wanted.foldl (fun d w => startFetch d s n inUse w) d1) s n

/-! ## The boundary -/

/-- Every append, flush and relink of the room's step has landed on every channel (R232). -/
def landed (d : Device) (s : Ch) (n : Nat) : Bool :=
  (suiteChans d s).all fun c =>
    let r := roomOf (chanOf d c) n
    r.appends == 0 && !(r.staging.any (·.flushing))

/-- KV pages in which the T1 patrol scrub found poison: the lowest such column of a stream, whose columns from there on are dropped
at this boundary (R596). -/
def poisonCols (d : Device) (s : Ch) (n : Nat) (q : SRef) : List Nat :=
  let k := (leadRoom d s n).kv
  match (strm d q).slot with
  | none => []
  | some sl => (strm d q).cols.filter fun a =>
      (suiteChans d s).any fun c => (colPages k sl a).any fun p =>
        let r := roomOf (chanOf d c) n
        r.poison.any fun l => l / 1024 == p

def stripCols (d : Device) (s : Ch) (n : Nat) (q : SRef) : List Nat :=
  let k := (leadRoom d s n).kv
  match (strm d q).slot with
  | none => []
  | some sl => ((strm d q).strips.filter fun i =>
      (suiteChans d s).any fun c => (stripPages k sl i).any fun p =>
        let r := roomOf (chanOf d c) n
        r.poison.any fun l => l / 1024 == p).map fun i => i * pageBytes / stripRow k / kvP k

/-- Pages of a stream's request area that hold poison. -/
def areaPoison (d : Device) (s : Ch) (n : Nat) (q : SRef) : List Nat :=
  let r := roomOf (chanOf d q.1) n
  ((List.range (areaPages (leadRoom d s n))).map ((strm d q).area / pageBytes + ·)).filter fun p =>
    r.poison.any fun l => l / 1024 == p

/-- Drops a stream's poisoned columns, highest first; poison in its request area drops them all and is masked. DESIGN CHOICE, log 31. -/
def dropPoison (d : Device) (s : Ch) (n : Nat) (q : SRef) : Device :=
  let area := areaPoison d s n q
  let bad := poisonCols d s n q ++ stripCols d s n q ++ (if area.isEmpty then [] else [0])
  if bad.isEmpty then d else
  let d := modRoom d q.1 n fun r => { r with
    poison := r.poison.filter fun l => !area.contains (l / 1024),
    pages := r.pages.map fun e => if area.contains e.1 then (e.1, { e.2 with poison := false }) else e }
  let low := bad.foldl min (bad.headD 0)
  let from_ := ((strm d q).cols.filter fun a => low ≤ a).mergeSort fun a b => b ≤ a
  from_.foldl (fun d a => dropColumn d s n q a) d

/-- A room that is short of a page for its streams ends (R203). DESIGN CHOICE, log 134. -/
def endShort (d : Device) (s : Ch) (n : Nat) : Device :=
  if (suiteChans d s).any fun c => (roomOf (chanOf d c) n).serve.short then
    let d1 := modChans d (suiteChans d s) fun _ x => modRoomC x n fun r => { r with serve := { r.serve with short := false } }
    faultRoom (modLead d1 s fun x => record x { cls := 0x90, kind := 7, room := BitVec.ofNat 6 n, status := .quotaExceeded }) s n .roomFault
  else d

/-- Steps 4 to 6 of R261 and what else belongs to a boundary, after the records of the ended step. -/
def boundaryTail (d0 : Device) (s : Ch) (n : Nat) : Device :=
  let d := endShort d0 s n
  if !isStarted (leadRoom d s n) then d else
  let d1 := (roomStreams d s n).foldl (fun d q => modStrm (doCancel d s n q) q fun c => if c.state = .free then c else { c with stepRecs := 0 }) d
  let d2 := (roomStreams d1 s n).foldl (fun d q => doDeadlines d s n q) d1
  let d3 := finishCancels (deliver d2 s n)
  let d4 := drainServe (attestMoment d3 s n) s n
  if !isStarted (leadRoom d4 s n) then d4 else
  let d5 := stepCut (modLeadRoom d4 s n fun r => { r with admBinds := r.binds }) s n
  let d6 := freeWarm (freeReleasing d5 s n) s n
  let d7 := armModels (movePointers d6 s n) s
  let d8 := (roomStreams d7 s n).foldl (fun d q => dropPoison d s n q) d7
  -- a stream that ended for want of credits has its terminal record made at this boundary (R270)
  finishCancels (deliver (nextTable d8 s n) s n)

/-- A boundary of a STARTED serving or generator room with no step in progress (R748). -/
def idleOnce (d : Device) (s : Ch) (n : Nat) : Device :=
  let r := leadRoom d s n
  if suiteExists d s && isStarted r && servesStreams r && !r.serve.inStep then boundaryTail (freeRetired d s) s n else d

/-- The models of the copies that are CURRENT now and were not before. -/
def newlyCurrent (d0 d : Device) (s : Ch) : List Nat :=
  let x0 := chanOf d0 (leadOf d0 s)
  let x := chanOf d (leadOf d s)
  (copyIxs.filter fun k => copyState x k == csCurrent && copyState x0 k != csCurrent).map (copyModel x)

/-- A copy that a boundary of room n has made CURRENT brings a boundary to the other idle rooms whose programs use its model, and so on while
copies become CURRENT, of which there are eight (R748). -/
def spread (s : Ch) (n : Nat) : Nat → Device → Device → Device
  | 0, _, d => d
  | fuel + 1, d0, d =>
    let ms := newlyCurrent d0 d s
    if ms.isEmpty then d else
    spread s n fuel d ((roomIndexes.filter (· != n)).foldl (fun d k => if ms.any (usesModel (leadRoom d s k)) then idleOnce d s k else d) d)

def idleBoundary (d : Device) (s : Ch) (n : Nat) : Device := spread s n 8 d (idleOnce d s n)

/-- STEP_BOUNDARY: the room's step has ended: its sampling token has posted and its appends have landed (R261). -/
def stepBoundary (s : Ch) (n : Nat) (d : Device) : Device :=
  let r := leadRoom d s n
  let ready := r.serve.sampled || r.serve.table.all fun e => e.sampled == 0
  if suiteExists d s && isStarted r && servesStreams r && r.serve.inStep && ready && landed d s n then
    let d1 := endTable (freeRetired (modLead d s takeSignal) s) s n
    spread s n 8 d (boundaryTail (stepTrigger d1 s n) s n)
  else d

def execStepBoundary (su : Ch) (room : BitVec 6) (s : State) : Out := onDev (stepBoundary su room.toNat) s

/-- Records owed to a ring that can take them again are written; an idle room for one of whose streams in RING_WAIT space has come free holds a
boundary (R292, R748). -/
def ringFreed (s : Ch) (n : Nat) (d : Device) : Device :=
  let d1 := finishCancels (deliver d s n)
  let owedTo := fun (d : Device) (q : SRef) => ((leadRoom d s n).serve.owed.filter fun o => o.1 == q.1.num && o.2.1 == q.2).length
  let freed := (roomStreams d s n).any fun q => (strm d q).state == .ringWait && owedTo d1 q < owedTo d q
  if freed then idleBoundary d1 s n else d1

/-- Boundaries of the idle rooms of a suite whose programs use a model (R748). -/
def modelBoundaries (d : Device) (s : Ch) (m : Nat) : Device :=
  roomIndexes.foldl (fun d n => if usesModel (leadRoom d s n) m then idleBoundary d s n else d) d

/-- What a step of Ballutos outside a boundary has made CURRENT brings a boundary to every idle room that uses it (R748). -/
def afterPointers (d0 d : Device) (s : Ch) : Device := spread s 64 8 d0 d

end Sys2Proof.Machine
end

