-- ==== Sys2Proof/Machine/Crypt.lean ====
section
/-! DEFINITION. Machine/Crypt.lean: what leaves the channel for T2 or an Attic: keys, tweaks and lines under AES-256-XTS (R181, R557, R559, R570, R571). -/

namespace Sys2Proof.Machine

/-! ## Keys (Table 14.2, R570) -/

/-- The room continuity key: two digests of the continuity secret. -/
def contKey (secret : BitVec 256) : BitVec 512 := sha3 (leBytes 32 secret.toNat ++ [2]) ++ sha3 (leBytes 32 secret.toNat ++ [1])

/-- The key of a page's lines: the room's on the channel, or the suite's (R557). -/
def pageKey (x : Channel) (r : PageRef) : Option (BitVec 512) :=
  match r with
  | .room n _ => (roomOf x n).memKey
  | .common _ => x.memKey

/-- The key of a room's checkpoint pages: its continuity key, or without a secret its memory key on the channel (R571). -/
def ckpKey (x : Channel) (n : Nat) (cont : Option (BitVec 256)) : Option (BitVec 512) :=
  match cont with
  | some c => some (contKey c)
  | none => (roomOf x n).memKey

/-! ## Tweaks (R557) -/

/-- The tweak of line j of a page: bits [47:6] of its room virtual address, or the line's number among the common pages with bit 127 set. -/
def pageTweak (r : PageRef) (j : Nat) : BitVec 128 :=
  match r with
  | .room _ p => BitVec.ofNat 128 (1024 * p + j)
  | .common i => BitVec.ofNat 128 (2 ^ 127 + 1024 * i + j)

/-- The tweaks of controller-owned T1 and of the fallback area, by T1 address (R557, R559). -/
def ctrlTweak (a : Nat) : BitVec 128 := BitVec.ofNat 128 (2 ^ 126 + a % 2 ^ 48 / 64)
def fallbackTweak (a : Nat) : BitVec 128 := BitVec.ofNat 128 (2 ^ 125 + a % 2 ^ 48 / 64)

/-! ## Lines -/

/-- A line of 64 B as it leaves the pump. -/
def cipherLine (key : BitVec 512) (tweak : BitVec 128) (line : List Byte) : List Byte := (List.range 64).map (Config.xtsByte key tweak line)

/-- The 1,024 lines of a page under a key. -/
def cipherPage (key : BitVec 512) (r : PageRef) (bytes : List Byte) : List Byte :=
  (List.range 1024).flatMap fun j => cipherLine key (pageTweak r j) ((bytes.drop (64 * j)).take 64)

/-- A page as it leaves the channel for T2 (R181). -/
def pageCipher (x : Channel) (r : PageRef) : List Byte :=
  match pageKey x r with
  | some k => cipherPage k r (pageContents x r)
  | none => []

end Sys2Proof.Machine
end

