-- ==== Sys2Proof/Machine/Attic.lean ====
section
/-! DEFINITION. Machine/Attic.lean: what a capture writes into its Attic slot: data pages, directory and commit record, encrypted (R632 to R635). -/

namespace Sys2Proof.Machine

/-! ## The pages of a slot (R632) -/

/-- Pages of controller-held state and register fields, in the reserved range, by the lead channel. -/
def ctrlKeys (c : Ch) (n : Nat) : List Nat := (List.range (Config.ctrlPages n)).map fun i => capKey c (0xFFFB00000000 / pageBytes + i)

/-- The bytes of the i-th of them in the room's capture of a number; the spec does not lay them out. -/
def ctrlPage (seq i : Nat) : List Byte := (List.range pageBytes).map fun j => Config.ctrlByte seq i j

def capChan (key : Nat) : Ch := Ch.ofNum (key / 2 ^ 32)
def capPage (key : Nat) : Nat := key % 2 ^ 32

/-- A page's contents at the cut: as copy-before-write staged them, or as they stand (R641). -/
def cutPage (d : Device) (n : Nat) (k : Capture) (key : Nat) : List Byte :=
  match k.staged.find? fun p => p.1 == key with
  | some (_, cells) => readBytes cells 0 pageBytes
  | none => pageContents (chanOf d (capChan key)) (.room n (capPage key))

def dirPages (k : Capture) : Nat := cdiv (k.dir.length + Config.ctrlPages k.dir.length) 4096

/-- The entries of the directory in order: the room's pages, and the pages of controller-held state. -/
def dirEntries (c : Ch) (seq : Nat) (k : Capture) : List (Nat × W64) :=
  k.dir ++ (ctrlKeys c k.dir.length).zipIdx.map fun p => (p.1, crc64 (ctrlPage seq p.2))

/-- A 16 B entry: the page in bits [31:0], the channel in [33:32], the fingerprint in [127:64]. -/
def dirEntry (e : Nat × W64) : List Byte := leBytes 4 (capPage e.1) ++ leBytes 4 (e.1 / 2 ^ 32) ++ leBytes 8 e.2.toNat

/-- The directory's plaintext, in whole pages. -/
def directory (c : Ch) (seq : Nat) (k : Capture) : List Byte :=
  let b := (dirEntries c seq k).flatMap dirEntry
  b ++ List.replicate (dirPages k * pageBytes - b.length) 0

/-! ## The commit record (Table 16.3) -/

/-- The key of the record's TAG (R635). -/
def tagKey (x : Channel) (n : Nat) (cont : Option (BitVec 256)) : BitVec 256 :=
  match cont, (roomOf x n).memKey with
  | some c, _ => sha3 (leBytes 32 c.toNat ++ [4])
  | none, some k => Config.tagKey k
  | none, none => 0

/-- Bytes 0 to 495 of the record of the running capture, as it is written. -/
def recordBody (d : Device) (s : Ch) (n : Nat) (k : Capture) : List Byte :=
  let r := leadRoom d s n
  let x := chanOf d (leadOf d s)
  let ms := match k.cut.head? with
    | some p => p.2.models
    | none => []
  let model := fun m => match ms[m]? with
    | some (some (g, w)) => leBytes 4 g.toNat ++ leBytes 32 w.toNat
    | _ => leBytes 36 0
  leBytes 4 0x434B5031 ++ [1, if k.point then 1 else 0, if r.cont.isSome then 1 else 0] ++ leBytes 1 r.cfg.kind.toNat ++
    leBytes 8 (r.ckp.seq.toNat + 1) ++ leBytes 8 k.step ++ leBytes 8 x.node.count.toNat ++ leBytes 4 (nodeOf x).toNat ++ leBytes 1 n ++
    leBytes 1 (suiteChans d s).length ++ leBytes 2 r.upd.shard.toNat ++ leBytes 2 r.upd.nshards1.toNat ++ leBytes 2 0 ++
    leBytes 4 (k.dir.length + Config.ctrlPages k.dir.length) ++ leBytes 4 (dirPages k) ++ leBytes 12 0 ++
    leBytes 32 ((r.prog.map Program.digest).getD 0).toNat ++ leBytes 32 (sha3 (directory (leadOf d s) (r.ckp.seq.toNat + 1) k)).toNat ++
    leBytes 32 ((r.cont.map fun c => sha3 (leBytes 32 c.toNat ++ [3])).getD 0).toNat ++
    (List.range 4).flatMap model ++ leBytes 192 0

/-- The record with its TAG. -/
def commitRecord (d : Device) (s : Ch) (n : Nat) (k : Capture) : List Byte :=
  let r := leadRoom d s n
  let b := recordBody d s n k
  b ++ (List.range 16).map (Config.gcmTag (tagKey (chanOf d (leadOf d s)) n r.cont) (r.ckp.seq.toNat + 1) b)

/-! ## What goes out, stage by stage (R634); takeCut writes stage 1 -/

/-- Bytes under the room's checkpoint key on a channel, at a page and line of the slot whose tweaks the spec does not give (R633). -/
def slotCipher (d : Device) (s : Ch) (n : Nat) (page : Nat) (bytes : List Byte) : List Byte :=
  match ckpKey (chanOf d (leadOf d s)) n (leadRoom d s n).cont with
  | some key => (List.range (bytes.length / 64)).flatMap fun j => cipherLine key (Config.slotTweak page j) ((bytes.drop (64 * j)).take 64)
  | none => []

/-- A page of the slot from its channel, encrypted by the room virtual address (R571). -/
def sendPage (s : Ch) (n : Nat) (k : Capture) (base : Nat) (d : Device) (e : (Nat × List Byte) × Nat) : Device :=
  let c := capChan e.1.1
  match ckpKey (chanOf d c) n (leadRoom d s n).cont with
  | some key => atticWrite d s n k.slotB c ((base + e.2) * pageBytes) (cipherPage key (.room n (capPage e.1.1)) e.1.2)
  | none => d

/-- Stage 2: the data pages of the capture set, each in its entry's place, staged pages ahead of the others (R641); and the pages of
controller-held state. -/
def sendPages (d : Device) (s : Ch) (n : Nat) (k : Capture) : Device :=
  let seq := (leadRoom d s n).ckp.seq.toNat + 1
  let set := k.dir.zipIdx.filter fun e => k.toSend.contains e.1.1
  let isStaged := fun (e : (Nat × W64) × Nat) => k.staged.any fun p => p.1 == e.1.1
  let ctrl := (ctrlKeys (leadOf d s) k.dir.length).zipIdx.map fun p => ((p.1, ctrlPage seq p.2), k.dir.length + p.2)
  let all := (set.filter isStaged ++ set.filter fun e => !isStaged e).map fun e => ((e.1.1, cutPage d n k e.1.1), e.2)
  (all ++ ctrl).foldl (sendPage s n k (1 + dirPages k)) d

/-- Stage 3: the complete directory. -/
def sendDirectory (d : Device) (s : Ch) (n : Nat) (k : Capture) : Device :=
  let c := leadOf d s
  let b := directory c ((leadRoom d s n).ckp.seq.toNat + 1) k
  (List.range (dirPages k)).foldl (fun d i =>
    atticWrite d s n k.slotB c ((1 + i) * pageBytes) (slotCipher d s n (1 + i) ((b.drop (i * pageBytes)).take pageBytes))) d

/-- Stage 4: the commit record, an event that the causal counter numbers (R511), and zeros in the rest of its page. -/
def sendRecord (d : Device) (s : Ch) (n : Nat) (k : Capture) : Device :=
  let d1 := modLead d s causalUp
  atticWrite d1 s n k.slotB (leadOf d s) 0 (slotCipher d1 s n 0 (commitRecord d1 s n k) ++ List.replicate (pageBytes - 512) 0)

end Sys2Proof.Machine
end

