-- ==== Sys2Proof/Machine/Weights.lean ====
section
/-! DEFINITION. Machine/Weights.lean: the arrival of a copy: announcements, fingerprint tables, replicas, settlement, repair and withdrawal (R438, R446 to R450). -/

namespace Sys2Proof.Machine

def leadCopy (d : Device) (s : Ch) (k : Nat) : WCopy := copyOf (chanOf d (leadOf d s)) k
def modLeadCopy (d : Device) (s : Ch) (k : Nat) (f : WCopy → WCopy) : Device := modLead d s fun x => modCopy x k f

/-! ## Tiles of a copy -/

/-- Marks or clears a tile as poisoned with its repair pending (R449). -/
def poisonTile (w : WCopy) (on : Bool) (x : Channel) (t : Nat) : Channel :=
  { x with commonPoison := if on then addAll x.commonPoison (linesOf (tileRun w t)) else dropAll x.commonPoison (linesOf (tileRun w t)) }

/-- A copy's own table, tile by tile. -/
def ownTable (w : WCopy) : List W64 := (List.range w.reg.tiles.toNat).map fun i => tget 0 w.fps i
/-- A list of fingerprints as a table. -/
def tableOf (l : List W64) : Tab W64 := ((List.range l.length).zip l).filter fun e => e.2 != 0

/-! ## The ends of a load -/

/-- The command that a load serves completes, and the load is over. -/
def endLoad (d : Device) (key : CmdKey) (st : Status) : Device :=
  completeWaits { d with fy := { d.fy with loads := d.fy.loads.filter fun l => l.key != key } } fun w =>
    match w.kind with
    | .load => if w.cmd.key = key then some (st, []) else none
    | _ => none

/-- The load that fills a copy. -/
def loadOfCopy (d : Device) (s : Ch) (k : Nat) : Option Load := d.fy.loads.find? fun l => l.target == .copy s k

def endCopyLoad (d : Device) (s : Ch) (k : Nat) (st : Status) : Device :=
  match loadOfCopy d s k with
  | some l => endLoad d l.key st
  | none => d

/-- Counts a broadcast or load that found no copy, or lost its copy; QUERY_FAULTS shows SWITCH_DEFERRED (R446, R450). -/
def countDefer (d : Device) (s : Ch) (m : Nat) (k : Option Nat) : Device :=
  modLead d s fun x =>
    let y := modModel x m fun q => { q with defers := satInc q.defers }
    let z := match k with
      | some j => modCopy y j fun w => { w with reg := { w.reg with deferred := true } }
      | none => y
    record z { cls := 0x90, kind := 7, status := .switchDeferred }

/-- The copy is READY, and rooms without a step in progress hold a boundary (R438, R748). -/
def becomeReady (d : Device) (s : Ch) (k : Nat) : Device :=
  let d1 := modLeadCopy d s k fun w => { w with reg := { w.reg with state := csReady, suspect := false } }
  modelBoundaries (endCopyLoad d1 s k .ok) s (leadCopy d s k).reg.model.toNat

/-- A VERIFYING copy with nothing left to compare or to repair becomes READY. -/
def finishVerify (d : Device) (s : Ch) (k : Nat) : Device :=
  let w := leadCopy d s k
  if w.reg.state = csVerifying && w.repairing.isEmpty && !w.comparing then becomeReady d s k else d

/-! ## Settlement (R448 to R450) -/

/-- Settled tiles enter the fault history and count in REPAIRS (R449). -/
def noteSettled (s : Ch) (k : Nat) (d : Device) (t : Nat) : Device :=
  let d1 := modLeadCopy d s k fun w => { w with reg := { w.reg with repairs := satInc w.reg.repairs } }
  judgeFault d1 (leadOf d s) { cls := 0xA0, unit := BitVec.ofNat 16 k, kind := 1, addr := BitVec.ofNat 64 t } false

/-- Tiles to be replaced: poisoned on every channel with their repair pending, the copy SUSPECT. -/
def replaceTiles (d : Device) (s : Ch) (k : Nat) (l : List Nat) : Device :=
  if l.isEmpty then d else
  let w := leadCopy d s k
  let d1 := modChans d (suiteChans d s) fun _ x => l.foldl (poisonTile w true) x
  modLeadCopy d1 s k fun w => { w with repairing := addAll w.repairing l, reg := { w.reg with suspect := true } }

/-- A copy without a source for a tile is withdrawn (R450). -/
def withdraw (d : Device) (s : Ch) (k : Nat) : Device :=
  let w := leadCopy d s k
  let d0 := modLeadCopy d s k fun w => { w with comparing := false, answers := [] }
  let d1 := if w.source = .broadcast then countDefer d0 s w.reg.model.toNat (some k) else d0
  if w.reg.state = csCurrent || w.reg.state = csRetiring then
    let d2 := modLeadCopy d1 s k fun w => { w with reg := { w.reg with suspect := true } }
    let d3 := w.pins.foldl (fun d p => modStrm d (Ch.ofNum (p / 65536), p % 65536) fun c => { c with pinDl := some 0 }) d2
    w.jobs.foldl (fun d n => faultRoom d s n .roomFault) d3
  else freeCopy (endCopyLoad d1 s k .attestFail) s k

/-- The value that a strict majority of three or more holders gives a tile (Table 11.5). -/
def majority (l : List W64) : Option W64 :=
  if l.length < 3 then none else l.find? fun v => l.length < 2 * l.count v

/-- How a tile is settled among the copy and the replicas that answered: none where they agree, else whether the copy's tile is replaced, and
whether the copy's source has to supply it. -/
def settleTile (own : W64) (others : List W64) : Option (Bool × Bool) :=
  if others.all (· == own) then none
  else match majority (own :: others) with
    | some v => some (v != own, false)
    | none => some (true, true)

/-- The fingerprints that the channels of the suite have of a tile (R752). -/
def tileFps (d : Device) (s : Ch) (k t : Nat) : List W64 := (suiteChans d s).map fun c => tget 0 (copyOf (chanOf d c) k).fps t

/-- How a tile is settled on all the channels of the suite: it is replaced where one of them has to be (R448, R752). -/
def settleOn (own others : List W64) : Option (Bool × Bool) :=
  let rs := own.filterMap fun v => settleTile v others
  if rs.isEmpty then none else some (rs.any (·.1), rs.any (·.2))

/-- The comparison with the replicas ends with those that have answered. -/
def settleReplicas (d : Device) (s : Ch) (k : Nat) (src : Bool) : Device :=
  let w := leadCopy d s k
  let marks := (List.range w.reg.tiles.toNat).filterMap fun i =>
    (settleOn (tileFps d s k i) (w.answers.map fun a => a.2.getD i 0)).map fun r => (i, r)
  let d1 := modLeadCopy d s k fun w => { w with comparing := false, answers := [] }
  let d2 := (marks.map (·.1)).foldl (noteSettled s k) d1
  if marks.any (fun m => m.2.2) && !src then withdraw d2 s k
  else finishVerify (replaceTiles d2 s k ((marks.filter fun m => m.2.1).map (·.1))) s k

/-! ## Loads (R438) -/

/-- A tile of a copy as it has been fetched again, on every channel of the suite. -/
def putTile (s : Ch) (k : Nat) (d : Device) (t : Nat × List Byte) : Device :=
  let w := leadCopy d s k
  if t.1 < w.reg.tiles.toNat && t.2.length == w.tileLen then modChans d (suiteChans d s) fun _ x => writeCommon x (tileRun w t.1).1 t.2 else d

/-- The tiles of a copy whose fingerprint on some channel of the suite is not the one expected (R438, R447, R752). -/
def mismatches (d : Device) (s : Ch) (k : Nat) (want : Tab W64) : List Nat :=
  (List.range (leadCopy d s k).reg.tiles.toNat).filter fun i => (tileFps d s k i).any (· != tget 0 want i)

/-- A load's tiles have been fetched, those that mismatched twice more: what came last stands, and every tile is checked against the image's
table. A tile that still mismatches fails the load, else the copy is compared with its replicas. -/
def copyFetched (d : Device) (s : Ch) (k : Nat) (l : Load) (again : List (Nat × List Byte)) : Device :=
  if (leadCopy d s k).reg.state != csLoading then d else
  let want := tableOf l.hdr.fps
  let d1 := rereadCopy (again.foldl (putTile s k) d) s k
  if !(mismatches d1 s k want).isEmpty then freeCopy (endLoad d1 l.key .attestFail) s k
  else
    let d2 := modLeadCopy d1 s k fun w => { w with refFps := want, reg := { w.reg with state := csVerifying } }
    finishVerify (startCompare d2 s k) s k

/-! ## Broadcasts (R446, R447) -/

/-- Every chunk of a broadcast has landed on every channel of the suite (R752). -/
def allLanded (d : Device) (s : Ch) (k : Nat) : Bool :=
  let w := leadCopy d s k
  (suiteChans d s).all fun c => cdiv (w.reg.tiles.toNat * w.tileLen) chunkBytes ≤ (copyOf (chanOf d c) k).chunks.length

/-- Compares a broadcast copy with the learner's table: the learner's fingerprint wins (Table 11.5). -/
def compareTable (d : Device) (s : Ch) (k : Nat) : Device :=
  let bad := mismatches d s k (leadCopy d s k).refFps
  finishVerify (replaceTiles (bad.foldl (noteSettled s k) d) s k bad) s k

/-- FINGERPRINT_TABLE_ARRIVAL: the learner's table comes after the last chunk. -/
def tableArrives (s : Ch) (k : Nat) (fps : List W64) (d : Device) : Device :=
  let w := leadCopy d s k
  let waits := w.reg.state == csLoading || (w.reg.state == csVerifying && w.repairing.isEmpty)
  if suiteExists d s && w.source == .broadcast && waits && allLanded d s k && fps.length == w.reg.tiles.toNat then
    compareTable (modLeadCopy d s k fun w => { w with refFps := tableOf fps, reg := { w.reg with state := csVerifying } }) s k
  else d

def execFingerprintTableArrival (su : Ch) (k : BitVec 3) (fps : List W64) (s : State) : Out := withBoard (tableArrives su k.toNat fps) s

/-- The collective entry that a target installs for a broadcast (R499, R506): into the copy's pages, or only forwarding. -/
def bcastEntry (t : BcastTree) (old : FabColl) (into : Option (Nat × Nat)) : FabColl :=
  let child := fun (i : Nat) => t.children.getD i 0
  { old with
    kind := 2, fmt := t.fmt, room := 0, contrib := false, deliver := into.isSome, fpw := into.isSome, hasPrev := true, hasNext := false,
    nchild := BitVec.ofNat 3 (min 4 t.children.length), common := into.isSome,
    bytes := match into with | some b => BitVec.ofNat 32 b.2 | none => 0,
    localVa := 0, destVa := match into with | some b => BitVec.ofNat 48 b.1 | none => 0, fpaddr := 0,
    prev := t.prev, next := 0, root := 0, child0 := child 0, child1 := child 1, child2 := child 2, child3 := child 3 }

/-- The copy that takes a broadcast: the ARMED one, or a READY one without referrers and with a lower WGEN, of matching PAGES (R446). -/
def bcastCopy (x : Channel) (m : Nat) (wgen pages : W32) : Option Nat :=
  let fits := fun (j : Nat) => (copyOf x j).reg.pages == pages && copyModel x j == m
  let q := modelOf x m
  let armed := q.arm.toNat < 8 && copyState x q.arm.toNat == csArmed && fits q.arm.toNat
  if armed then some q.arm.toNat
  else if q.source then
    copyIxs.find? fun j => copyState x j == csReady && refCount (copyOf x j) == 0 && fits j && decide ((copyOf x j).reg.wgen < wgen)
  else none

/-- BROADCAST_ANNOUNCE: the copy moves to LOADING, and each other channel of the suite takes its chunks from the lead channel (R752); or the
broadcast is discarded and counted. The copy's LAYERS and PPL are those of the copy
made current last, and the DEFERRED bit is that copy's where none is ARMED. DESIGN CHOICE, log 50. -/
def announce (c : Ch) (m : Nat) (wgen pages tiles : W32) (k : Nat) (t : BcastTree) (d : Device) : Device :=
  match suiteOfChan d c with
  | none => d
  | some s =>
    let x := chanOf d c
    if leadOf d s != c then d else
    let q := modelOf x m
    match bcastCopy x m wgen pages with
    | some j =>
      let len := match Fmt.ofCode t.fmt with | some f => tileBytes f | none => 0
      let old := copyOf x q.cur.toNat
      let into := some ((copyOf x j).reg.base.toNat * pageBytes, tiles.toNat * len)
      let d1 := modChans d (suiteChans d s) fun b y =>
        let z := modCopy y j fun w => { w with fps := [], refFps := [], chunks := [] }
        { z with insts := z.insts.filter (·.k != k), colls := tmod {} z.colls k fun e => bcastEntry (if b = c then t else { t with prev := nodeOf x, children := [] }) e into }
      modLead d1 s fun x =>
        let y := modCopy x j fun w => { w with
          layers := old.layers, ppl := old.ppl, source := .broadcast, repairing := [], tileLen := len,
          reg := { w.reg with state := csLoading, wgen := wgen, tiles := tiles, suspect := false, deferred := false } }
        modModel y m fun q => { q with arm := if q.arm.toNat = j then 0xF else q.arm }
    | none =>
      let mark := if q.arm.toNat < 8 then some q.arm.toNat else if q.cur.toNat < 8 then some q.cur.toNat else none
      modLead (countDefer d s m mark) s fun x => { x with colls := tmod {} x.colls k fun e => bcastEntry t e none }

def execBroadcastAnnounce (c : Ch) (node : BitVec 18) (model : BitVec 2) (wgen pages tiles : W32) (k : Byte) (t : BcastTree) (s : State) : Out :=
  onDev (fun d => consumed c node (announce c model.toNat wgen pages tiles k.toNat t d)) s

/-! ## Replicas (R447, R448) -/

/-- REPLICA_DIGEST_MESSAGE: the answer of a replica that this copy compares itself with; a digest from any other holder is answered with this
copy's digest when it is the same, and with its table when it differs. -/
def replicaDigest (s : Ch) (k : Nat) (node : BitVec 18) (digest : BitVec 256) (fps : List W64) (src : Bool) (d : Device) : Device :=
  let w := leadCopy d s k
  let rs := replicasOf (modelOf (chanOf d (leadOf d s)) w.reg.model.toNat)
  let same := digest == copyDigest w
  if !suiteExists d s || w.reg.state = csFree then d
  else if w.comparing && rs.contains node && !(w.answers.any fun a => a.1 == node) then
    let d1 := modLeadCopy d s k fun w => { w with answers := w.answers ++ [(node, if same then ownTable w else fps)] }
    if rs.all fun r => (leadCopy d1 s k).answers.any fun a => a.1 == r then settleReplicas d1 s k src else d1
  else
    let bytes := if same then leBytes 32 digest.toNat else (ownTable w).flatMap fun v => leBytes 8 v.toNat
    sendMsg d (leadOf d s) { node := node, queue := 1, reply := 0, bytes := bytes }

def execReplicaDigestMessage (su : Ch) (k : BitVec 3) (node : BitVec 18) (digest : BitVec 256) (fps : List W64) (src : Bool) (s : State) : Out :=
  withBoard (fun d => if suiteExists d su then consumed (leadOf d su) node (replicaDigest su k.toNat node digest fps src d) else d) s

/-- REPLICA_TIMEOUT: 100 ms have passed; replicas that have not answered are left out of the count. -/
def replicaTimeout (s : Ch) (k : Nat) (src : Bool) (d : Device) : Device :=
  if suiteExists d s && (leadCopy d s k).comparing then settleReplicas d s k src else d

def execReplicaTimeout (su : Ch) (k : BitVec 3) (src : Bool) (s : State) : Out := withBoard (replicaTimeout su k.toNat src) s

/-- TILE_REPAIR_LAND: the tile is written on every channel, its poison goes, and a copy without tiles to repair is SUSPECT no more (R449, R595). -/
def repairLands (s : Ch) (k t : Nat) (bytes : List Byte) (d : Device) : Device :=
  let w := leadCopy d s k
  if suiteExists d s && w.repairing.contains t && bytes.length == w.tileLen then
    let d1 := modChans d (suiteChans d s) fun _ x => poisonTile w false (writeCommon x (tileRun w t).1 bytes) t
    let rest := w.repairing.filter (· != t)
    let d2 := modChans d1 (suiteChans d s) fun _ x => modCopy x k fun v => { v with fps := tset 0 v.fps t (crc64 bytes) }
    let d3 := modLeadCopy d2 s k fun w => { w with repairing := rest, reg := { w.reg with suspect := !rest.isEmpty } }
    finishVerify d3 s k
  else d

def execTileRepairLand (su : Ch) (k : BitVec 3) (tile : Nat) (bytes : List Byte) (s : State) : Out := onDev (repairLands su k.toNat tile bytes) s

end Sys2Proof.Machine
end

