-- ==== Sys2Proof/Machine/FabricEvents.lean ====
section
/-! DEFINITION. Machine/FabricEvents.lean: chunks of collectives, acknowledgements, Cellar traffic and ERROR frames as they arrive (R474, R494, R495, R498 to R506, R752). -/

namespace Sys2Proof.Machine

/-- A chunk for a room counts in its registers and its account (Table 12.13, Table 13.9). -/
def countChunkIn (n bytes : Nat) (x : Channel) : Channel :=
  modRoomC x n fun r => { r with
    fab := { r.fab with xferIn := satInc r.fab.xferIn },
    acct := { r.acct with fabRxBytes := r.acct.fabRxBytes + BitVec.ofNat 64 bytes } }

def allBad (poison : Bool) (bytes : List Byte) : List Nat := if poison then List.range (cdiv bytes.length 64) else []

/-! ## Reduce (R500 to R505) -/

/-- A partial chunk takes 16 slots, or the fallback area; with neither, the router withholds credit and the chunk does not come in (R504). -/
def admitPartial (d : Device) (c : Ch) (k : Nat) (tag : W32) (chunk : Nat) (poison : Bool) (bytes : List Byte) : Device :=
  let x := chanOf d c
  let n := (collOf x k).room.toNat
  let put := fun (g : Bool) (red : FabRed) (x : Channel) =>
    countChunkIn n bytes.length { x with red := red, redChunks := x.redChunks ++ [{ k := k, tag := tag, chunk := chunk, granted := g, data := bytes, bad := poison }] }
  if 16 ≤ x.red.free.toNat then
    let d1 := modChan d c (put true { x.red with free := x.red.free - 16, grants := satInc x.red.grants })
    if (instOf x k tag).armed then
      match (chanOf d1 c).redChunks.find? (sameChunk k tag chunk) with
      | some r => addChunk c d1 r
      | none => d1
    else d1
  else if x.red.fbUsed.toNat + 16 ≤ x.red.fbPages.toNat then
    modChan d c fun x =>
      let y := put false { x.red with fbUsed := x.red.fbUsed + 16, fallbacks := satInc x.red.fallbacks } x
      modRoomC { y with colls := tmod {} y.colls k fun e => { e with fallbacks := satInc e.fallbacks } } n fun r =>
        { r with fab := { r.fab with redFb := satInc r.fab.redFb } }
  else d

/-- REDUCE_CHUNK_ARRIVAL: ROOT writes a FINAL chunk; a rank with HAS_PREV takes a partial one. -/
def reduceArrives (c : Ch) (k : Nat) (tag : W32) (chunk : Nat) (final poison : Bool) (bytes : List Byte) (d : Device) : Device :=
  let x := chanOf d c
  let e := collOf x k
  if e.kind != 1 || !isStarted (roomOf x e.room.toNat) || bytes.length != chunkLen e chunk || bytes.isEmpty then d
  else if final then deliverChunk (modChan d c (countChunkIn e.room.toNat bytes.length)) c k tag chunk bytes (allBad poison bytes)
  else if e.hasPrev && !(x.redChunks.any (sameChunk k tag chunk)) then admitPartial d c k tag chunk poison bytes
  else d

def execReduceChunkArrival (c : Ch) (k : Byte) (tag : W32) (chunk : Nat) (final poison : Bool) (bytes : List Byte) (s : State) : Out :=
  onDev (reduceArrives c k.toNat tag chunk final poison bytes) s

/-- FALLBACK_COMBINE_DONE: the combiner has added the local chunk, once the instance is armed, and its space is free (R503, R505). -/
def combineDone (c : Ch) (k : Nat) (tag : W32) (chunk : Nat) (d : Device) : Device :=
  let x := chanOf d c
  match x.redChunks.find? fun r => sameChunk k tag chunk r && !r.granted with
  | some r => if (instOf x k tag).armed then addChunk c d r else d
  | none => d

def execFallbackCombineDone (c : Ch) (k : Byte) (tag : W32) (chunk : Nat) (s : State) : Out := onDev (combineDone c k.toNat tag chunk) s

/-! ## Broadcast (R506, R752) -/

/-- The copy whose pages an entry's DEST_VA names. -/
def copyAt (x : Channel) (e : FabColl) : Option Nat :=
  copyIxs.find? fun j =>
    let w := copyOf x j
    w.reg.state == csLoading && w.source == .broadcast && w.reg.base.toNat * pageBytes == e.destVa.toNat

/-- A chunk of copy j comes to a channel: its own common pages take it, with the fingerprints of the tiles that it completes. -/
def chunkInto (w : WCopy) (e : FabColl) (j chunk : Nat) (poison : Bool) (bytes : List Byte) (x : Channel) : Channel :=
  let a := e.destVa.toNat + chunk * chunkBytes
  let y := writeCommon x a bytes
  let ls := linesOf (a, bytes.length)
  let z := { y with commonPoison := if poison then addAll y.commonPoison ls else dropAll y.commonPoison ls }
  modCopy z j fun v => { v with
    fps := (tilesEnding e w.tileLen v.chunks chunk).foldl (fun t i => tset 0 t i (crc64 (readBytes z.commonMem (tileRun w i).1 w.tileLen))) v.fps,
    chunks := addAll v.chunks [chunk] }

/-- A chunk of a copy at a channel of its suite: the lead channel forwards it to the others over the on-package links, and once every channel
holds every tile the copy is VERIFYING (R752). -/
def copyChunk (d : Device) (c s : Ch) (j k : Nat) (tag : W32) (chunk : Nat) (poison : Bool) (bytes : List Byte) : Device :=
  let land := fun (x : Channel) =>
    let y := chunkInto (leadCopy d s j) (collOf x k) j chunk poison bytes x
    setInst y { instOf y k tag with delivered := addAll (instOf y k tag).delivered [chunk] }
  let d1 := modChan d c land
  let d2 := if leadOf d s != c then d1 else
    ((suiteChans d s).filter (· != c)).foldl (fun d b =>
      sendColl d c k tag chunk (nodeOf (chanOf d b)) false .bcast bytes (allBad poison bytes)) d1
  let d2 := modChan d2 c countUses
  if allLanded d2 s j then modLeadCopy d2 s j fun w => { w with reg := { w.reg with state := csVerifying } } else d2

/-- BROADCAST_CHUNK_ARRIVAL: forwarded to each child, and delivered here where DELIVER is set. -/
def bcastArrives (c : Ch) (k : Nat) (tag : W32) (chunk : Nat) (poison : Bool) (bytes : List Byte) (d : Device) : Device :=
  let x := chanOf d c
  let e := collOf x k
  let n := e.room.toNat
  let fits := e.bytes = 0 || bytes.length == chunkLen e chunk
  if e.kind != 2 || !e.hasPrev || !fits || bytes.isEmpty || !(e.common || !e.deliver || isStarted (roomOf x n)) then d else
  let bad := allBad poison bytes
  let d1 := (childrenOf e).foldl (fun d node => sendColl d c k tag chunk node false .bcast bytes bad) d
  if !e.deliver then d1
  else if e.common then
    match suiteOfChan d c with
    | none => d1
    | some s =>
      match copyAt (chanOf d1 (leadOf d1 s)) e with
      | some j => if (copyOf (chanOf d1 c) j).chunks.contains chunk then d1 else copyChunk d1 c s j k tag chunk poison bytes
      | none => d1
  else deliverChunk (modChan d1 c (countChunkIn n bytes.length)) c k tag chunk bytes bad

def execBroadcastChunkArrival (c : Ch) (k : Byte) (tag : W32) (chunk : Nat) (poison : Bool) (bytes : List Byte) (s : State) : Out :=
  onDev (bcastArrives c k.toNat tag chunk poison bytes) s

/-! ## Acknowledgements -/

/-- FRAME_ACK_RECEIVE (R474, R499, R502). -/
def execFrameAckReceive (c : Ch) (l : Link) (seq : BitVec 12) (s : State) : Out :=
  onDev (fun d => modChan (frameAckReceive c l seq d) c settleAcks) s

/-! ## Cellar traffic (R498) -/

/-- A Cellar page as page table entries name it (Table 4.3). -/
def cellarPage (region page : Nat) : Nat := region * 2 ^ 28 + page

/-- The page that lies in a Cellar page. -/
def pageInCellar (x : Channel) (f : Nat) : Option PageRef :=
  let hit := fun (p : Pte) => p.valid && p.t2 && !p.shared && p.frame.toNat == f
  match x.commonPages.find? fun e => hit e.2 with
  | some e => some (.common e.1)
  | none => x.rooms.findSome? fun r => (r.2.pages.find? fun e => hit e.2).map fun e => .room r.1 e.1

/-- The region's FREE reads 0 until Ballutos re-enables it. -/
def disableRegion (region : Nat) (x : Channel) : Channel := showFree { x with disabled := addAll x.disabled [region] } region

/-- A MEMR has failed twice, or has been refused: the page that it was to fill is poisoned. -/
def readFails (region page : Nat) (x : Channel) : Channel :=
  match pageInCellar x (cellarPage region page) with
  | none => x
  | some r =>
    let y := { x with retried := x.retried.filter (· != cellarPage region page) }
    disableRegion region (if promoting x r then promotionFails y r else poisonPage none y r)

/-- A MEMW has been refused: the eviction is cancelled, and the page stays in T1. -/
def writeFails (region page : Nat) (x : Channel) : Channel :=
  match x.moves.find? fun m => !m.promote && m.place == cellarPage region page with
  | none => x
  | some m => disableRegion region (cancelEvict x m.page)

/-- MEMR_RESPONSE: the answer is no longer waited for; data that carries poison poisons its page (R592). -/
def memrAnswered (region page : Nat) (intact : Bool) (x : Channel) : Channel :=
  let y := { x with retried := x.retried.filter (· != cellarPage region page) }
  match pageInCellar x (cellarPage region page) with
  | some r => if intact then y else poisonPage none y r
  | none => y

def execMemrResponse (c : Ch) (region page : Nat) (intact : Bool) (s : State) : Out :=
  onDev (fun d => modChan d c (memrAnswered region page intact)) s

/-- A page of a Cellar region is read or written at its node: by MEMR or MEMW, or by RDMA where the node is an Ethernet peer (R498, R509). -/
def cellarAccess (x : Channel) (c : Ch) (write : Option (List Byte)) (region page : Nat) : OutMsg :=
  let g := regionOf x region
  let addr := g.base.toNat + page * pageBytes
  match ethWay x g.node, write with
  | some j, some bytes => .rdmaWrite c j addr bytes
  | some j, none => .rdmaRead c j addr
  | none, some bytes => .memw c region page bytes
  | none, none => .memr c region page

/-- PAGE_EVICTION_DONE (R195, R498): the page has been written to its Cellar page, encrypted (R181). -/
def pageEvicted (c : Ch) (r : PageRef) (d : Device) : Device :=
  let x := chanOf d c
  match x.moves.find? fun m => m.page == r && !m.promote with
  | none => d
  | some m => send (setChan d c (evictionDone x r)) (cellarAccess x c (some (pageCipher x r)) (m.place / 2 ^ 28) (m.place % 2 ^ 28))

def execPageEvictionDone (c : Ch) (p : PageRef) (s : State) : Out := onDev (pageEvicted c p) s

/-- MEMR_TIMEOUT: 1 ms without an answer: issued once more, and the second time it has failed. -/
def memrTimeout (c : Ch) (region page : Nat) (d : Device) : Device :=
  let x := chanOf d c
  if (pageInCellar x (cellarPage region page)).isNone then d
  else if x.retried.contains (cellarPage region page) then modChan d c (readFails region page)
  else send (modChan d c fun x => { x with retried := x.retried ++ [cellarPage region page] }) (cellarAccess x c none region page)

def execMemrTimeout (c : Ch) (region page : Nat) (s : State) : Out := withBoard (memrTimeout c region page) s

/-- An address range lies in the region reserved for peers. -/
def peerHolds (x : Channel) (addr : W64) (n : Nat) : Bool := addr.toNat + n ≤ Config.peerPages x.node.channel.toNat * pageBytes

/-- A Cellar request outside the region is answered with an ERROR frame of cause 3 (R494). -/
def refuseCellar (d : Device) (c : Ch) (node : BitVec 18) (op : ChunkOp) (addr : W64) : Device :=
  let k : ChunkDesc := { op := op, addr := addr }
  refuseFrame d c { src := node, dst := nodeOf (chanOf d c), first := true, last := true, desc := some k } 3

/-- MEMW_RECEIVE: a peer's page is stored as it comes (R181). -/
def memwReceive (c : Ch) (node : BitVec 18) (addr : W64) (bytes : List Byte) (d : Device) : Device :=
  if peerHolds (chanOf d c) addr bytes.length then modChan d c fun x => { x with peerMem := writeBytes x.peerMem addr.toNat bytes }
  else refuseCellar d c node .memw addr

def execMemwReceive (c : Ch) (node : BitVec 18) (addr : W64) (bytes : List Byte) (s : State) : Out := onDev (memwReceive c node addr bytes) s

/-- MEMR_RECEIVE: the bytes are answered. -/
def memrReceive (c : Ch) (node : BitVec 18) (addr : W64) (n : Nat) (d : Device) : Device :=
  if peerHolds (chanOf d c) addr n then send d (.memrAnswer c node (readBytes (chanOf d c).peerMem addr.toNat n))
  else refuseCellar d c node .memr addr

def execMemrReceive (c : Ch) (node : BitVec 18) (addr : W64) (n : Nat) (s : State) : Out := onDev (memrReceive c node addr n) s

/-! ## ERROR frames (R494, R495) -/

/-- ERROR_FRAME_RECEIVE: DATA, RED and BCAST end the sending room; MEMW and MEMR have the effects of R498. -/
def errorReceive (c : Ch) (e : ErrorInfo) (d : Device) : Device :=
  let d1 := modChan d c fun x => { x with red := { x.red with errors := satInc x.red.errors } }
  if e.op.toNat ≤ 2 then faultOn d1 c e.room.toNat .roomFault
  else if e.op = 4 then modChan d1 c (writeFails e.region e.page)
  else if e.op = 5 then modChan d1 c (readFails e.region e.page)
  else d1

def execErrorFrameReceive (c : Ch) (e : ErrorInfo) (s : State) : Out := withBoard (errorReceive c e) s

end Sys2Proof.Machine
end

