-- ==== Sys2Proof/Machine/Training.lean ====
section
/-! DEFINITION. Machine/Training.lean: micro-batches, version references and shadows (R355, R357, R387 to R393, R453). -/

namespace Sys2Proof.Machine

/-! ## References to versions: the owner -/

/-- References change; shadows without one are freed, pages and all (R393). -/
def setRefs (x : Channel) (n : Nat) (refs : List VerRef) : Channel :=
  let r := roomOf x n
  let keep := keptShadows refs r.train.shadows
  let gone := r.train.shadows.filter fun s => !keep.contains s
  let y := modRoomC x n fun r => { r with train := { r.train with refs := refs, shadows := keep } }
  showShadows (freeRoomPages y n (gone.map fun s => r.trn.shdBase.toNat / pageBytes + s.slot)) n

def sameRef (reader : W64) (wgen : W32) (r : VerRef) : Bool := r.reader == reader && r.wgen == wgen

/-- A reference with its lease, or its renewal; none where a page has moved beyond w without a shadow (R388, R389). -/
def registerRef (x : Channel) (n : Nat) (reader : W64) (wgen : W32) : Option Channel :=
  let r := roomOf x n
  if regRefused r.train r.trn.vwPages.toNat wgen then none else
  some (modRoomC x n fun r => { r with train := { r.train with
    refs := r.train.refs.filter (fun q => !sameRef reader wgen q) ++ [⟨reader, wgen, nowMs x + r.trn.leaseMs.toNat⟩] } })

/-- A registration reaches the owner by message; its answer names the reader and, where it is refused, the owner's WGEN, under which the reader
registers again (R453). -/
def registerMsg (c : Ch) (n : Nat) (reader : W64) (wgen : W32) (d : Device) : Device :=
  let r := roomOf (chanOf d c) n
  if !(isStarted r && trains r) then d else
  let answer := fun (w : W32) (d : Device) => sendMsg d c { node := reader.extractLsb' 0 18, queue := 1, reply := 0, bytes := leBytes 8 reader.toNat ++ leBytes 4 w.toNat }
  match registerRef (chanOf d c) n reader wgen with
  | some x => answer wgen (setChan d c x)
  | none => answer r.trn.wgen d

/-- VERSION_RELEASE and LEASE_LAPSE: the reference goes. -/
def dropRef (n : Nat) (reader : W64) (wgen : W32) (x : Channel) : Channel :=
  setRefs x n ((roomOf x n).train.refs.filter fun q => !sameRef reader wgen q)

def execVersionRelease (c : Ch) (room : BitVec 6) (reader : W64) (wgen : W32) (s : State) : Out :=
  onDev (fun d => consumed c (reader.extractLsb' 0 18) (modChan d c (dropRef room.toNat reader wgen))) s

def execLeaseLapse (c : Ch) (room : BitVec 6) (reader : W64) (wgen : W32) (s : State) : Out :=
  onDev (fun d => modChan d c (dropRef room.toNat reader wgen)) s

/-! ## References to versions: the reader (R388, R453) -/

/-- How a room's micro-batch is named to an owner: node, room and micro-batch. DESIGN CHOICE, log 130. -/
def readerId (x : Channel) (n : Nat) (mb : BitVec 12) : W64 :=
  BitVec.ofNat 64 ((nodeOf x).toNat + 2 ^ 18 * n + 2 ^ 24 * mb.toNat)

/-- A control message of a reader to an owner: the room meant, the reader and the version; a first byte tells registrations and releases apart. -/
def readerMsg (d : Device) (c : Ch) (n : Nat) (h : HeldRef) (release : Bool) : Device :=
  let bytes := leBytes 1 (b2n release) ++ leBytes 1 h.room.toNat ++ leBytes 8 (readerId (chanOf d c) n h.mb).toNat ++ leBytes 4 h.wgen.toNat
  sendMsg d c { node := h.node, queue := 1, reply := 0, bytes := bytes }

/-- A micro-batch registers for a version: with its own channel's Ballutos at once, with any other's by message. A reference that the owner
refuses is asked for again under the owner's WGEN, and that version is read throughout (R453). -/
def askRef (c : Ch) (n : Nat) (h : HeldRef) (d : Device) : Device :=
  let keep := fun (g : HeldRef) (d : Device) => modChan d c fun x => modRoomC x n fun r => { r with train := { r.train with
    held := r.train.held.filter (fun k => !(k.node == g.node && k.room == g.room && k.mb == g.mb)) ++ [g] } }
  let x := chanOf d c
  if h.node != nodeOf x then keep h (readerMsg d c n h false) else
  let id := readerId x n h.mb
  match registerRef x h.room.toNat id h.wgen with
  | some y => keep h (setChan d c y)
  | none =>
    let g := { h with wgen := (roomOf x h.room.toNat).trn.wgen }
    match registerRef x h.room.toNat id g.wgen with
    | some y => keep g (setChan d c y)
    | none => d

/-- Before its first read a micro-batch of the room registers for version w of an owner's weights; a micro-batch holds one version of them. -/
def firstRead (c : Ch) (n : Nat) (node : BitVec 18) (room : BitVec 6) (wgen : W32) (d : Device) : Device :=
  let r := roomOf (chanOf d c) n
  let mb := r.train.mb
  if !(isStarted r && trains r) || r.update.updating || r.train.held.any (fun h => h.node == node && h.room == room && h.mb == mb) then d
  else askRef c n ⟨node, room, wgen, mb⟩ d

/-- The owner's answer: a version other than the one asked for is that of a refusal. -/
def readAnswer (c : Ch) (n : Nat) (node : BitVec 18) (room : BitVec 6) (wgen : W32) (d : Device) : Device :=
  let r := roomOf (chanOf d c) n
  match r.train.held.find? fun h => h.node == node && h.room == room && h.mb == r.train.mb with
  | some h => if h.wgen = wgen then d else askRef c n { h with wgen := wgen } d
  | none => d

/-- VERSION_REGISTRATION: a micro-batch on this channel is about to read, or a message of a reader or of an owner has come. -/
def versionEvent (c : Ch) (n : Nat) (e : VersionEvent) (wgen : W32) (d : Device) : Device :=
  match e with
  | .firstRead node room => firstRead c n node room wgen d
  | .message reader => consumed c (reader.extractLsb' 0 18) (registerMsg c n reader wgen d)
  | .answer node room => consumed c node (readAnswer c n node room wgen d)

def execVersionRegistration (c : Ch) (room : BitVec 6) (e : VersionEvent) (wgen : W32) (s : State) : Out :=
  onDev (versionEvent c room.toNat e wgen) s

/-- A micro-batch that retires releases its references (R388). -/
def releaseHeldRefs (c : Ch) (n : Nat) (d : Device) : Device :=
  let x := chanOf d c
  let d1 := modChan d c fun x => modRoomC x n fun r => { r with train := { r.train with held := [] } }
  (roomOf x n).train.held.foldl (fun d h =>
    if h.node = nodeOf x then modChan d c (dropRef h.room.toNat (readerId x n h.mb) h.wgen) else readerMsg d c n h true) d1

/-- The references that a room holds at its step boundary are renewed (R388). -/
def renewRefs (c : Ch) (n : Nat) (d : Device) : Device := (roomOf (chanOf d c) n).train.held.foldl (fun d h => askRef c n h d) d

/-! ## Micro-batches -/

/-- Nothing of the micro-batch is outstanding: no frame on the Stairwell, no Cistern descriptor (R357). A VCIS lands with its bundle. -/
def mbDone (x : Channel) (n : Nat) : Bool := (roomOf x n).train.frames.isEmpty && (cisOutstanding x n).isEmpty

/-- The last micro-batch has retired (R355): nothing of one is left. -/
def mbRetired (x : Channel) (n : Nat) : Bool :=
  mbDone x n && (roomOf x n).train.droppedSegs.isEmpty && (roomOf x n).train.held.isEmpty

/-- MICROBATCH_RETIRE (R357). -/
def retireMb (c : Ch) (n : Nat) (d : Device) : Device :=
  let x := chanOf d c
  if isStarted (roomOf x n) && trains (roomOf x n) && mbDone x n then
    releaseHeldRefs c n (modChan d c fun x => modRoomC (takeSignal x) n fun r => { r with
      train := { r.train with mb := r.train.mb + 1, droppedSegs := [] }, trn := { r.trn with mbRetired := satInc r.trn.mbRetired } })
  else d

def execMicrobatchRetire (c : Ch) (room : BitVec 6) (s : State) : Out := onDev (retireMb c room.toNat) s

end Sys2Proof.Machine
end

