-- ==== Sys2Proof/Machine/Stores.lean ====
section
/-! DEFINITION. Machine/Stores.lean: experience stores: slots, commits, replacement, and the learner's boundary (R454 to R460). -/

namespace Sys2Proof.Machine

def storeOf (x : Channel) (j : Nat) : XStore := tget {} x.stores j
def modStore (x : Channel) (j : Nat) (f : XStore → XStore) : Channel := { x with stores := tmod {} x.stores j f }

/-! ## Places (R454) -/

def slotBase (g : TrnXs) (k : Nat) : Nat := g.xsBase.toNat + (1 + k * g.slotPages.toNat) * pageBytes
def logEntry (g : TrnXs) (n : Nat) : Nat := g.xsBase.toNat + 64 + 4 * (n % max 1 g.nslots.toNat)
/-- The word that a committed trajectory's header begins with (Table 11.6). -/
def commitWord : Nat := 0x54524A31

/-- The lowest slot without a trajectory. -/
def freeStoreSlot (t : XStore) : Option Nat := (List.range t.reg.nslots.toNat).find? fun k => (tget none t.slots k).isNone

/-- The oldest committed trajectory at or above the CLAIMED read at the learner's last boundary: its slot and its commit (R459). -/
def oldestUnclaimed (t : XStore) : Option (Nat × Nat) :=
  t.slots.foldl (fun b e => match e.2 with
    | none => b
    | some n => if n < t.reg.claimed.toNat then b else
      match b with
      | none => some (e.1, n)
      | some p => if n < p.2 then some (e.1, n) else b) none

/-! ## Commits (R456, R457) -/

/-- Body, then header with COMMIT and SEQ, then the log entry, then PRODUCED; none when the room cannot take the pages. The commit raises the
causal counter (R511). -/
def commitInto (d : Device) (c : Ch) (j k : Nat) (bytes : List Byte) : Option Device := do
  let t := storeOf (chanOf d c) j
  let n := t.reg.room.toNat
  let q := t.reg.produced.toNat
  let base := slotBase t.reg k
  let head := bytes.take 128
  let hdr := leBytes 4 commitWord ++ (head.drop 4).take 44 ++ leBytes 8 q ++ head.drop 56
  let d1 ← writeAlloc d c n (base + 128) (bytes.drop 128) 0
  let d2 ← writeAlloc d1 c n base hdr 0
  let d3 ← writeAlloc d2 c n (logEntry t.reg q) (leBytes 4 k) 0
  let d4 ← writeAlloc d3 c n t.reg.xsBase.toNat (leBytes 8 (q + 1)) 0
  pure (modChan d4 c fun x => modStore (causalUp x) j fun t =>
    { t with slots := tset none t.slots k (some q), reg := { t.reg with produced := t.reg.produced + 1 } })

/-- The trajectory in a slot is withdrawn: its log entry first, then the slot's COMMIT word (R459). -/
def withdrawSlot (d : Device) (c : Ch) (j k q : Nat) : Device :=
  let t := storeOf (chanOf d c) j
  let n := t.reg.room.toNat
  let d1 := writeMem (writeMem d c n (logEntry t.reg q) (leBytes 4 0xFFFFFFFF)) c n (slotBase t.reg k) (leBytes 4 0)
  modChan d1 c fun x => modStore x j fun t => { t with
    slots := tset none t.slots k none, withdrawn := t.withdrawn ++ [q], reg := { t.reg with replaced := satInc t.reg.replaced } }

/-! ## The generator's side, when it is on this device -/

/-- The generator's suite, when its lead channel is one of this device's. -/
def suiteOfNode (d : Device) (node : BitVec 18) : Option Ch :=
  (Ch.all.find? fun c => nodeOf (chanOf d c) == node).bind fun c => suiteOfChan d c

/-- The stream's trajectory is written or dropped: its context is freed, and a draining job may stop (R457, R610). -/
def trajectoryDone (d : Device) (t : TrajOffer) : Device :=
  match suiteOfNode d t.node with
  | none => d
  | some s =>
    let q := refOfHandle t.handle
    let n := t.room.toNat
    let c := strm d q
    if c.handle = t.handle && c.state = .ending && c.room = n && c.deliver = 2 then drainServe (freeCtx d s n q) s n else d

/-- A refused request is retried (R459). -/
def trajectoryWaits (d : Device) (t : TrajOffer) : Device :=
  match suiteOfNode d t.node with
  | none => d
  | some s =>
    let q := refOfHandle t.handle
    modLeadRoom d s t.room.toNat fun r =>
      if r.slotWaits.contains ⟨q.1.num, q.2⟩ then r else { r with slotWaits := r.slotWaits ++ [⟨q.1.num, q.2⟩] }

def refuseSlot (d : Device) (c : Ch) (j : Nat) (t : TrajOffer) : Device :=
  trajectoryWaits (modChan d c fun x => modStore x j fun e => { e with reg := { e.reg with waits := satInc e.reg.waits } }) t

/-- A stream's trajectory (Table 11.6): the header without COMMIT and SEQ, the prompt from its history, and the records of its buffer. -/
def trajectory (d : Device) (s : Ch) (n : Nat) (q : SRef) : List Byte :=
  let c := strm d q
  let len := reqPrompt (reqHdr d n q)
  let prompt := (List.range len).flatMap fun p => leBytes 4 (histTok d n q p)
  let body := prompt ++ List.replicate (32 * cdiv prompt.length 32 - prompt.length) 0 ++
    readRoom (chanOf d q.1) n (tbBase (leadRoom d s n) q.2) (32 * c.nrec)
  let place := (nodeOf (chanOf d (leadOf d s))).toNat + 2 ^ 18 * n + 2 ^ 24 * c.stop
  let head := leBytes 4 0 ++ leBytes 4 (128 + body.length) ++ leBytes 4 c.reqTag.toNat ++ leBytes 4 place ++ leBytes 4 len ++ leBytes 4 c.nrec ++
    leBytes 4 c.temp.toNat ++ leBytes 4 c.topP.toNat ++ leBytes 4 (c.topK % 2048) ++ leBytes 4 c.seed.toNat ++
    leBytes 4 c.wgenFirst.toNat ++ leBytes 4 c.wgenLast.toNat
  head ++ List.replicate (128 - head.length) 0 ++ body

/-- What a request offers: a stream of this device offers its own trajectory, and one of another device what the row carries. DEDUCED, log 133. -/
def offered (d : Device) (t : TrajOffer) : TrajOffer :=
  match suiteOfNode d t.node with
  | none => t
  | some s =>
    let q := refOfHandle t.handle
    let c := strm d q
    if c.handle = t.handle && c.state = .ending && c.room = t.room.toNat && c.deliver = 2 then
      { t with bytes := trajectory d s t.room.toNat q, wgenFirst := c.wgenFirst }
    else t

/-! ## The request -/

/-- TRAJECTORY_SLOT_REQUEST (R457 to R459). A slot whose pages the learner's account cannot take is refused. DESIGN CHOICE, log 55. -/
def slotRequest (c : Ch) (j : Nat) (t0 : TrajOffer) (d : Device) : Device :=
  let t := offered d t0
  let x := chanOf d c
  let e := storeOf x j
  let r := roomOf x e.reg.room.toNat
  let put := fun (d0 : Device) (k : Nat) => match commitInto d0 c j k t.bytes with
    | some d1 => trajectoryDone d1 t
    | none => refuseSlot d c j t
  if !e.reg.en || !isStarted r || t.bytes.length < 128 || e.reg.slotPages.toNat * pageBytes < t.bytes.length then d
  else if e.reg.maxLag != 0 && t.wgenFirst.toNat + e.reg.maxLag.toNat < r.trn.wgen.toNat then
    trajectoryDone (modChan d c fun x => modStore x j fun e => { e with reg := { e.reg with stale := satInc e.reg.stale } }) t
  else match freeStoreSlot e with
    | some k => put d k
    | none =>
      if e.reg.fullPolicy then
        match oldestUnclaimed e with
        | some (k, q) => put (withdrawSlot d c j k q) k
        | none => refuseSlot d c j t
      else refuseSlot d c j t

def execTrajectorySlotRequest (c : Ch) (j : BitVec 4) (t : TrajOffer) (s : State) : Out :=
  onDev (fun d => consumed c t.node (slotRequest c j.toNat t d)) s

/-- SLOT_REQUEST_RETRY: a stream whose request was refused asks again. -/
def slotRetry (c : Ch) (n i : Nat) (d : Device) : Device :=
  match suiteOfChan d c with
  | none => d
  | some s =>
    if (leadRoom d s n).slotWaits.contains ⟨c.num, i⟩ then
      let d1 := modLeadRoom d s n fun r => { r with slotWaits := r.slotWaits.filter (· != ⟨c.num, i⟩) }
      if (strm d (c, i)).state = .ending then askSlot d1 s n (c, i) else d1
    else d

def execSlotRequestRetry (c : Ch) (room : BitVec 6) (ctx : BitVec 16) (s : State) : Out := onDev (slotRetry c room.toNat ctx.toNat) s

/-! ## The learner's boundary (R460) -/

/-- CONSUMED and CLAIMED are read: slots of consumed commits come free; none when they break R460. -/
def readStore (x : Channel) (j : Nat) : Option Channel :=
  let e := storeOf x j
  let n := e.reg.room.toNat
  let a := readRoomLe x n (e.reg.xsBase.toNat + 8) 8
  let b := readRoomLe x n (e.reg.xsBase.toNat + 16) 8
  if a < e.reg.consumed.toNat || b < a || b < e.reg.claimed.toNat || e.reg.produced.toNat < b then none
  else some (modStore x j fun e => { e with
    slots := e.slots.filter (fun s => match s.2 with | some q => decide (a ≤ q) | none => false),
    withdrawn := e.withdrawn.filter (a ≤ ·), reg := { e.reg with consumed := BitVec.ofNat 64 a, claimed := BitVec.ofNat 64 b } })

def storesOf (x : Channel) (n : Nat) : List Nat := (x.stores.filter fun e => e.2.reg.en && e.2.reg.room.toNat == n).map (·.1)

/-- Every store of a learner room at its boundary; none when the room is to end. -/
def storeBoundary (x : Channel) (n : Nat) : Option Channel := (storesOf x n).foldlM readStore x

end Sys2Proof.Machine
end

