-- ==== Sys2Proof/Machine/Update.lean ====
section
/-! DEFINITION. Machine/Update.lean: the parameter update beside the program: norm record, cold state, the end of a step, broadcasts (R372, R381 to R387, R404 to R407, R423 to R429, R451, R507, R610, R626). -/

namespace Sys2Proof.Machine

/-! ## The global norm (R404 to R407) -/

/-- The sum of subtree (level, i) of the global tree, from the subtrees that the shards have summed; +0 where there is no page. -/
def treeSum (l : List SubSum) : Nat → Nat → W32
  | 0, i => match l.find? fun q => q.level == 0 && q.idx == i with | some q => q.sum | none => 0
  | k + 1, i =>
    match l.find? fun q => q.level == k + 1 && q.idx == i with
    | some q => q.sum
    | none =>
      if l.any fun q => q.level ≤ k && q.idx / 2 ^ (k + 1 - q.level) == i then fp32Add (treeSum l k (2 * i)) (treeSum l k (2 * i + 1)) else 0

/-- The level of the root: one more level pads with +0, which changes no sum of squares. -/
def rootLevel (l : List SubSum) : Nat := (l.map fun q => q.level + bitLen q.idx).foldl max 0

def normOf (l : List SubSum) : W32 := treeSum l (rootLevel l) 0

/-- The square root as R406 forms it. -/
def fsqrt (x : W32) : W32 := if x = 0 then 0 else fp32Mul x (sfuFp32 2 x)

def clipFactor (clip s : W32) : W32 :=
  let nrm := fsqrt s
  if clip = 0 || fp32Lt nrm clip || fp32Eq nrm clip then 0x3F800000 else fp32Mul clip (frecip nrm)

/-- The step's learning rate, from the root's LR and schedule. -/
def learnRate (x : Channel) (n : Nat) : W32 :=
  let u := (roomOf x n).upd
  if u.schedLen = 0 then u.lr
  else fp32Mul u.lr (BitVec.ofNat 32 (readRoomLe x n (u.schedBase.toNat + 4 * min u.step.toNat (u.schedLen.toNat - 1)) 4))

def formRecord (x : Channel) (n : Nat) (sums : List SubSum) : NormRec :=
  let s := normOf sums
  let u := (roomOf x n).upd
  { step := BitVec.ofNat 64 (u.step.toNat + 1), sumsq := s, kclip := clipFactor u.clip s, lr := learnRate x n, skip := !fp32Finite s }

/-- Table 10.4. -/
def recordBytes (r : NormRec) : List Byte :=
  leBytes 8 r.step.toNat ++ leBytes 4 r.sumsq.toNat ++ leBytes 4 r.kclip.toNat ++ leBytes 4 r.lr.toNat ++ leBytes 12 (b2n r.skip)

/-- The units of the shard on a channel, each with its state pages. -/
def unitsOf (r : Room) : List (List Nat) := match r.prog with | some p => shardUnits p.info | none => []

/-- The bitmap of the deferred units, one bit per unit, in whole 64 B lines. -/
def bitmapLines (r : Room) : Nat := cdiv (unitsOf r).length 512
def bitmapBytes (r : Room) (deferred : List Nat) : List Byte :=
  leBytes (64 * bitmapLines r) (deferred.foldl (fun b u => b ||| 2 ^ u) 0)

/-- Posts the next group: arrived units listed behind the bitmap, with one controller token (R426). Each unit takes a u32. DESIGN CHOICE, log 56. -/
def postGroup (n : Nat) (x : Channel) : Channel :=
  let r := roomOf x n
  let u := r.update
  if u.group || u.arrived.isEmpty || u.record.isNone then x else
  let now := u.arrived.take 4096
  let a := r.upd.recAddr.toNat + 64 + 64 * bitmapLines r + 4 * u.listed
  let item : CtrlItem := { room := n, tok := (Config.ctrlTok 1).toNat, writes := [(a, now.flatMap (leBytes 4))] }
  let y := modRoomC x n fun r => { r with update := { r.update with
    group := true, arrived := r.update.arrived.drop 4096, listed := r.update.listed + now.length } }
  { y with ctrlItems := y.ctrlItems ++ [item] }

/-- The record and the channel's bitmap go to a room through the controller queue (R405, R424), and the units that have arrived by then follow. -/
def placeRecord (nr : NormRec) (n : Nat) (x : Channel) : Channel :=
  let r := roomOf x n
  let a := r.upd.recAddr.toNat
  let all := r.update.deferred ++ r.update.arrived
  let item : CtrlItem := { room := n, tok := (Config.ctrlTok 1).toNat, writes := [(a, recordBytes nr), (a + 64, bitmapBytes r all)] }
  let y := modRoomC x n fun r => { r with update := { r.update with record := some nr }, upd := { r.upd with lastSumsq := nr.sumsq } }
  postGroup n { y with ctrlItems := y.ctrlItems ++ [item] }

/-- The record as a message to a node, for a room there. -/
def recordMsg (c : Ch) (nr : NormRec) (d : Device) (q : BitVec 18 × BitVec 6) : Device :=
  sendMsg d c { node := q.1, queue := 1, reply := 0, bytes := leBytes 1 q.2.toNat ++ recordBytes nr }

/-- The record at a channel: placed there, and sent on by the lead channel to the suite's other channels. -/
def handRecord (nr : NormRec) (c : Ch) (n : Nat) (d : Device) : Device :=
  let d1 := modChan d c (placeRecord nr n)
  match suiteOfChan d c with
  | some s =>
    if leadOf d s = c then
      ((suiteChans d s).filter (· != c)).foldl (fun d b => recordMsg c nr d (nodeOf (chanOf d b), BitVec.ofNat 6 n)) d1
    else d1
  | none => d1

/-- The root forms the record once every shard's sums are there, and broadcasts it (R405). -/
def tryNorm (d : Device) (c : Ch) (n : Nat) : Device :=
  let r := roomOf (chanOf d c) n
  if r.update.record.isNone && (List.range (r.upd.nshards1.toNat + 1)).all fun k => r.update.shards.contains k then
    let nr := formRecord (chanOf d c) n r.update.sums
    let d1 := modRoom d c n fun r => { r with update := { r.update with shards := [], sums := [] } }
    (r.update.nodes.map (·.2)).foldl (recordMsg c nr) (handRecord nr c n d1)
  else d

/-- A shard's subtree sums reach the root (R405). -/
def normSums (c : Ch) (n shard : Nat) (at_ : BitVec 18 × BitVec 6) (sums : List SubSum) (d : Device) : Device :=
  let r := roomOf (chanOf d c) n
  if r.upd.shard != 0 || r.upd.nshards1.toNat < shard || r.update.shards.contains shard then d else
  tryNorm (modRoom d c n fun r => { r with update := { r.update with
    shards := r.update.shards ++ [shard], sums := r.update.sums ++ sums,
    nodes := if shard = 0 then r.update.nodes else r.update.nodes.filter (·.1 != shard) ++ [(shard, at_)] } }) c n

/-- NORM_SUMS_MESSAGE: a shard's sums at the root's lead channel, or the record at a channel of the shard. -/
def normMessage (c : Ch) (n : Nat) (shard : BitVec 16) (m : NormMsg) (d : Device) : Device :=
  match suiteOfChan d c with
  | none => d
  | some s =>
    let r := roomOf (chanOf d c) n
    if !isStarted r || !trains r then d else
    match m with
    | .sums node home sums => if leadOf d s != c then d else normSums c n shard.toNat (node, home) sums d
    | .record nr => if r.upd.shard != shard || r.update.record.isSome then d else handRecord nr c n d

/-- Who has sent it: the shard's lead channel, the root's, or the lead channel of this suite. -/
def normSender (d : Device) (c : Ch) (n : Nat) (m : NormMsg) : BitVec 18 :=
  match m, suiteOfChan d c with
  | .sums node _ _, _ => node
  | .record _, some s => if leadOf d s = c then (roomOf (chanOf d c) n).upd.rootNode else nodeOf (chanOf d (leadOf d s))
  | .record _, none => nodeOf (chanOf d c)

def execNormSumsMessage (c : Ch) (room : BitVec 6) (shard : BitVec 16) (m : NormMsg) (s : State) : Out :=
  onDev (fun d => consumed c (normSender d c room.toNat m) (normMessage c room.toNat shard m d)) s

/-! ## Cold state (R424 to R426) -/

def pageInT2 (x : Channel) (n p : Nat) : Bool := let e := pteAt x (resolve x n p); e.valid && e.t2

/-- A state page of a deferred unit is promoted at once, outside MOVE_BUDGET, taking the coldest page that is not held. DEDUCED, log 54. -/
def fetchState (n : Nat) (x : Channel) (p : Nat) : Channel :=
  if x.chosen.any fun m => m.page == resolve x n p then x else windowPage n [] x p

def fetchDeferred (n : Nat) (x : Channel) : Channel :=
  ((roomOf x n).update.deferred.flatMap fun u => ((unitsOf (roomOf x n)).getD u []).filter (pageInT2 x n)).foldl (fetchState n) x

/-- Ballutos scans the shard's state pages: resident units are held, the others deferred. -/
def startUpdate (n : Nat) (x : Channel) : Channel :=
  let us := unitsOf (roomOf x n)
  let cold := (List.range us.length).filter fun u => (us.getD u []).any (pageInT2 x n)
  let warm := (List.range us.length).filter fun u => !cold.contains u && !(us.getD u []).isEmpty
  fetchDeferred n (modRoomC x n fun r => { r with
    update := { r.update with
      updating := true, held := false, deferred := cold, arrived := [], listed := 0, group := false, holds := warm.map fun u => (us.getD u [], us.getD u []) },
    upd := { r.upd with deferred := satAdd r.upd.deferred cold.length } })

/-- A STEP capture of the room has not committed (R643). -/
def stepCapture (r : Room) : Bool := match r.ckps.capture with | some k => !k.point | none => false

/-- UPDATE_START_SIGNAL: the scan, or a hold behind the capture of the last STEP cut (R424, R643); the signal waits until the step's last
micro-batch has retired (R355). -/
def updateStart (c : Ch) (n : Nat) (d : Device) : Device :=
  match suiteOfChan d c with
  | none => d
  | some s =>
    let r := roomOf (chanOf d c) n
    if !isStarted r || !trains r || r.update.updating || r.update.held || !mbRetired (chanOf d c) n then d
    else if stepCapture (leadRoom d s n) then
      modChan d c fun x => modRoomC (takeSignal x) n fun r => { r with update := { r.update with held := true } }
    else modChan d c fun x => startUpdate n (takeSignal x)

def execUpdateStartSignal (c : Ch) (room : BitVec 6) (s : State) : Out := onDev (updateStart c room.toNat) s

/-- DEFERRED_UNIT_ARRIVAL: the unit's last state page has landed in T1. -/
def unitArrives (n u : Nat) (x : Channel) : Channel :=
  let r := roomOf x n
  if r.update.deferred.contains u && !((unitsOf r).getD u []).any (pageInT2 x n) then
    postGroup n (fetchDeferred n (modRoomC x n fun r => { r with update := { r.update with
      deferred := r.update.deferred.filter (· != u), arrived := r.update.arrived ++ [u] } }))
  else fetchDeferred n x

def execDeferredUnitArrival (c : Ch) (room : BitVec 6) (unit : Nat) (s : State) : Out := onDev (fun d => modChan d c (unitArrives room.toNat unit)) s

/-- CONSUMED_GROUP_SIGNAL: the next group may be posted. -/
def groupConsumed (n : Nat) (x : Channel) : Channel :=
  if (roomOf x n).update.group then
    postGroup n (modRoomC (takeSignal x) n fun r => { r with update := { r.update with group := false } })
  else x

def execConsumedGroupSignal (c : Ch) (room : BitVec 6) (s : State) : Out := onDev (fun d => modChan d c (groupConsumed room.toNat)) s

/-! ## Gradient formats (R381 to R386) -/

def tensorCount (r : Room) : Nat := r.trn.glayers.toNat * r.trn.tpl.toNat

/-- The format of a tensor for the next step. -/
def nextFmt (r : Room) (t : Nat) (h : List W32) : BitVec 8 :=
  if r.cfg.h1Mode then (match r.prog with | some p => p.info.fixedFmt.getD (t / r.trn.tpl.toNat) 0 | none => 0) else gfmtChoice h

/-- Histories, GFMT bytes, and the count of those that changed. -/
def gradFormats (n : Nat) (x : Channel) : Channel :=
  let r := roomOf x n
  let ts := List.range (tensorCount r)
  let amax := ts.map fun t => BitVec.ofNat 32 (readLe (roomWs x n) (r.trn.amaxAddr.toNat + 4 * t) 4)
  let hist := fun (t : Nat) =>
    let h := tget [] r.train.hist t
    if amax.all fp32Finite then histAppend h (amax.getD t 0) else h
  let fmts := ts.map fun t => nextFmt r t (hist t)
  let changed := (ts.filter fun t => tget 0 r.train.gfmt t != fmts.getD t 0).length
  if ts.isEmpty then x else
  putRoomWs (modRoomC x n fun r => { r with
    train := { r.train with
      hist := ts.foldl (fun h t => tset [] h t (hist t)) r.train.hist, gfmt := ts.foldl (fun g t => tset 0 g t (fmts.getD t 0)) r.train.gfmt },
    trn := { r.trn with fmtChanges := satAdd r.trn.fmtChanges changed } }) n r.trn.gfmtAddr.toNat fmts

/-! ## The end of a step -/

/-- The step's outcome (R429). -/
def stepStatus (skip : Bool) (q : StepReport) : Status := if skip then .nonFiniteStep else if q.fallbacks != 0 then .singularFallback else .ok

/-- What the end of a step does to a room on one channel: formats, WGEN, STEP and the counters (R382, R387, R423, R429). -/
def endStepOn (n : Nat) (q : StepReport) (x : Channel) : Channel :=
  let nr := (roomOf x n).update.record
  let skip := match nr with | some k => k.skip | none => false
  let applied := match nr with | some k => !k.skip | none => false
  modRoomC (gradFormats n (takeSignal x)) n fun r => takeLater { r with
    trn := { r.trn with wgen := if applied then r.trn.wgen + 1 else r.trn.wgen, steps := satInc r.trn.steps },
    upd := { r.upd with
      step := if applied then r.upd.step + 1 else r.upd.step, skipped := if skip then satInc r.upd.skipped else r.upd.skipped,
      fallbacks := satAdd r.upd.fallbacks q.fallbacks, clamped := satAdd r.upd.clamped q.clamped, lastStatus := (stepStatus skip q).code,
      lastFbTensor := if q.fallbacks = 0 then r.upd.lastFbTensor else q.tensor, lastFbBlock := if q.fallbacks = 0 then r.upd.lastFbBlock else q.block },
    train := { r.train with mb := 0 },
    update := { r.update with
      updating := false, held := false, deferred := [], arrived := [], listed := 0, group := false, holds := [], record := none,
      sinceBcast := if applied then r.update.sinceBcast + 1 else r.update.sinceBcast } }

/-! ## Broadcasts (R451, R507) -/

/-- The target list. -/
def bcastTargets (x : Channel) (n : Nat) : List (BitVec 18) :=
  let b := (roomOf x n).bcast
  (List.range b.ntarget.toNat).map fun i => BitVec.ofNat 18 (readRoomLe x n (b.tgtVa.toNat + 4 * i) 4)

/-- The source's entries of a room take targets 0 to 3 as their children. -/
def setTree (n : Nat) (ts : List (BitVec 18)) (x : Channel) : Channel :=
  let child := fun (i : Nat) => ts.getD i 0
  { x with colls := x.colls.map fun e =>
      if e.2.kind = 2 && !e.2.hasPrev && e.2.room.toNat = n then
        (e.1, { e.2 with nchild := BitVec.ofNat 3 (min 4 ts.length), child0 := child 0, child1 := child 1, child2 := child 2, child3 := child 3 })
      else e }

/-- An applied step that is the EVERY-th: the root announces the copy to every target, and the broadcast counts. -/
def announceCopy (d : Device) (c : Ch) (n : Nat) : Device :=
  let x := chanOf d c
  let r := roomOf x n
  let b := r.bcast
  if !b.en || r.update.sinceBcast < max 1 b.every.toNat then d else
  let d1 := modChan d c fun x => modRoomC (setTree n (bcastTargets x n) x) n fun r => { r with
    bcast := { r.bcast with sent := satInc r.bcast.sent, lastWgen := r.trn.wgen }, update := { r.update with sinceBcast := 0 } }
  if r.upd.shard != 0 then d1 else
  let info := match r.prog with | some p => p.info | none => {}
  let bytes := leBytes 1 b.model.toNat ++ leBytes 4 r.trn.wgen.toNat ++ leBytes 4 info.bcastPages ++ leBytes 4 info.bcastTiles
  (bcastTargets x n).foldl (fun d t => sendMsg d c { node := t, queue := 1, reply := 0, bytes := bytes }) d1

/-! ## Boundaries of training rooms -/

/-- The job's cut: shard 0 names the next step, and a shard takes the cut that has been named for the step that ends (R626, R627). -/
def jobTrigger (d : Device) (s : Ch) (n : Nat) : Device :=
  let r := leadRoom d s n
  if r.upd.nshards1 = 0 then stepTrigger d s n else
  let k := r.ckp
  let counted := k.en && k.everySteps != 0 && k.everySteps.toNat ≤ r.steps - r.ckps.lastStep
  let fires := (counted || r.ckps.jobAsk) && hasAttic r && r.upd.shard == 0 && !r.ckps.jobRunning
  let d1 := if r.ckps.jobCut = some r.steps then
      askCut (modLeadRoom d s n fun r => { r with ckps := { r.ckps with jobCut := none } }) s n false else d
  if fires then nameCut d1 s n (r.steps + 1) else d1
where
  /-- Shard 0 names a step to every shard: its own at once, the others by a message to where their sums have come from. -/
  nameCut (d : Device) (s : Ch) (n step : Nat) : Device :=
    let d1 := modLeadRoom d s n fun r => { r with ckps := { r.ckps with jobRunning := true, jobAsk := false, reports := [], jobCut := some step } }
    (leadRoom d s n).update.nodes.foldl (fun d q => sendMsg d (leadOf d s)
      { node := q.2.1, queue := 1, reply := 0, bytes := leBytes 1 q.2.2.toNat ++ leBytes 8 step }) d1

def drainExpired (d : Device) (s : Ch) : Bool := (suiteChans d s).any fun c => match (chanOf d c).drain with | some k => k.expired | none => false

/-- Under a drain, a training room asks for a STEP cut at each boundary, and stops without one once the limit has passed (R610 step 4). -/
def drainTrain (d : Device) (s : Ch) (n : Nat) : Device :=
  let r := leadRoom d s n
  if !suiteDraining d s || !isStarted r then d
  else if drainExpired d s then markDrained (stopRoom d s n) s n .degraded
  else if hasAttic r && !r.ckps.drainDue && !(match r.ckps.capture with | some k => k.forDrain | none => false) then
    modLeadRoom (askCut d s n false) s n fun r => { r with ckps := { r.ckps with drainDue := true } }
  else d

/-- What the lead channel does at a training room's step boundary. -/
def trainBoundary (d : Device) (s : Ch) (n : Nat) : Device :=
  match storeBoundary (chanOf d (leadOf d s)) n with
  | none => faultRoom d s n .roomFault
  | some x =>
    let d1 := modLeadRoom (setChan d (leadOf d s) x) s n fun r => { r with steps := r.steps + 1 }
    let d2 := announceCopy d1 (leadOf d1 s) n
    let d3 := attestMoment (drainTrain (jobTrigger d2 s n) s n) s n
    let d4 := if isStarted (leadRoom d3 s n) then stepCut d3 s n else d3
    armModels (freeReleasing (freeRetired d4 s) s n) s

/-- END_OF_STEP_SIGNAL: the step ends on a channel, once every deferred unit has arrived; with frames left on the Stairwell the room ends (R372,
R382, R427). -/
def endOfStep (c : Ch) (n : Nat) (q : StepReport) (d : Device) : Device :=
  match suiteOfChan d c with
  | none => d
  | some s =>
    let r := roomOf (chanOf d c) n
    if !isStarted r || !trains r || !r.update.deferred.isEmpty then d
    else if !r.train.frames.isEmpty then faultRoom (modChan d c takeSignal) s n .roomFault
    else
      let d1 := renewRefs c n (modChan d c (endStepOn n q))
      if leadOf d s = c then trainBoundary d1 s n else d1

def execEndOfStepSignal (c : Ch) (room : BitVec 6) (r : StepReport) (s : State) : Out := withBoard (endOfStep c room.toNat r) s

end Sys2Proof.Machine
end

