-- ==== Sys2Proof/Machine/Captures.lean ====
section
/-! DEFINITION. Machine/Captures.lean: what the timer, other shards and the holder bring to a room's checkpoints (R626 to R628, R634, R636, R637, R643). -/

namespace Sys2Proof.Machine

/-- CHECKPOINT_TIMER: EVERY_MS have passed since the last commit; in a sharded job shard 0 names a cut at the end of its step (R626, R628). -/
def checkpointTimer (s : Ch) (n : Nat) (d : Device) : Device :=
  let r := leadRoom d s n
  if !suiteExists d s || !isStarted r || !r.ckp.en || r.ckp.everyMs = 0 || !hasAttic r then d
  else if r.upd.nshards1 = 0 then askCut d s n r.ckp.cut
  else if r.upd.shard = 0 then modLeadRoom d s n fun r => { r with ckps := { r.ckps with jobAsk := true } }
  else d

def execCheckpointTimer (su : Ch) (room : BitVec 6) (s : State) : Out := onDev (checkpointTimer su room.toNat) s

/-- JOB_CUT_MESSAGE: a shard takes a STEP cut at the end of the step that shard 0 has named (R626). -/
def jobCutMessage (s : Ch) (n step : Nat) (d : Device) : Device :=
  let r := leadRoom d s n
  if suiteExists d s && isStarted r && trains r && r.upd.nshards1 != 0 then
    modLeadRoom d s n fun r => { r with ckps := { r.ckps with jobCut := some step } }
  else d

def execJobCutMessage (su : Ch) (room : BitVec 6) (step : Nat) (s : State) : Out :=
  onDev (fun d => if suiteExists d su then consumed (leadOf d su) (leadRoom d su room.toNat).upd.rootNode (jobCutMessage su room.toNat step d) else d) s

/-- A shard's commit reaches shard 0: the job checkpoint is complete once every shard has reported (R627). -/
def shardReports (s : Ch) (n shard : Nat) (d : Device) : Device :=
  modLeadRoom d s n fun r =>
    if !r.ckps.jobRunning then r else
    let l := addAll r.ckps.reports [shard]
    let done := (List.range (r.upd.nshards1.toNat + 1)).all fun k => l.contains k
    { r with ckps := { r.ckps with reports := if done then [] else l, jobRunning := !done } }

def execShardCommitReport (su : Ch) (room : BitVec 6) (shard : BitVec 16) (s : State) : Out :=
  onDev (fun d =>
    let r := leadRoom d su room.toNat
    if suiteExists d su && r.upd.shard = 0 then
      let d1 := shardReports su room.toNat shard.toNat d
      match r.update.nodes.find? fun q => q.1 == shard.toNat with
      | some q => consumed (leadOf d su) q.2.1 d1
      | none => d1
    else d) s

/-- A capture has ended: updates that it held start (R643). -/
def startHeld (d : Device) (s : Ch) (n : Nat) : Device :=
  modChans d (suiteChans d s) fun _ x => if (roomOf x n).update.held then startUpdate n x else x

/-- A commit in a sharded job is reported to shard 0 (R626). -/
def reportCommit (d : Device) (s : Ch) (n step : Nat) : Device :=
  let u := (leadRoom d s n).upd
  if u.nshards1 = 0 then d
  else if u.shard = 0 then shardReports s n 0 d
  else sendMsg d (leadOf d s) { node := u.rootNode, queue := 1, reply := 0, bytes := leBytes 2 u.shard.toNat ++ leBytes 8 step }

/-- The commit record has been acknowledged: the slot counts, the Attic named before is released, the mirror copy starts (R634 to R638). -/
def commitCapture (d : Device) (s : Ch) (n : Nat) (k : Capture) : Device :=
  let r := leadRoom d s n
  let x := chanOf d (leadOf d s)
  let canMirror := r.ckp.mirror && (regionOf x r.ckp.mirrorRegion.toNat).kind == 1
  let st := if r.ckp.mirror && !canMirror then Status.degraded else .ok
  let d2 := modLeadRoom d s n fun r => { r with
    ckp := { r.ckp with
      seq := r.ckp.seq + 1, step := BitVec.ofNat 64 k.step, slot := k.slotB, busy := false,
      aValid := r.ckp.aValid || !k.slotB, bValid := r.ckp.bValid || k.slotB, lastStatus := st.code },
    ckps := { r.ckps with
      capture := none, lastStep := k.step, lastMs := nowMs x, oldAttic := none, mirroring := canMirror,
      stepA := if k.slotB then r.ckps.stepA else k.step, stepB := if k.slotB then k.step else r.ckps.stepB } }
  let d3 := match r.ckps.oldAttic with
    | some a => sendMsg d2 (leadOf d s) { node := a.1, queue := 1, reply := 0, bytes := leBytes 1 n }
    | none => d2
  let d4 := startHeld (reportCommit (ckpDone d3 s n false .ok) s n k.step) s n
  let r4 := leadRoom d4 s n
  if k.forDrain && isStarted r4 && trains r4 then markDrained (stopRoom d4 s n) s n .ok else d4

/-- A capture as it stands now. -/
def setCapture (d : Device) (s : Ch) (n : Nat) (k : Capture) : Device :=
  modLeadRoom d s n fun r => { r with ckps := { r.ckps with capture := some k } }

/-- CAPTURE_STAGE_ACK: every write of the stage is acknowledged, and the next stage starts with its writes; the pages have been read when
theirs ends, each as it was at the cut (R634, R641). -/
def stageAck (s : Ch) (n : Nat) (d : Device) : Device :=
  match (leadRoom d s n).ckps.capture with
  | none => d
  | some k =>
    match k.stage with
    | .zero => setCapture d s n { k with stage := .pages }
    | .pages =>
      sendDirectory (setCapture (sendPages d s n k) s n { k with stage := .directory, sent := k.toSend, toSend := [], staged := [] }) s n k
    | .directory => sendRecord (setCapture d s n { k with stage := .commit }) s n k
    | .commit => commitCapture d s n k

def execCaptureStageAck (su : Ch) (room : BitVec 6) (s : State) : Out :=
  withBoard (fun d => if suiteExists d su then stageAck su room.toNat d else d) s

/-- CAPTURE_ACK_TIMEOUT: the holder does not acknowledge within the retry of R498 (Table 16.4). -/
def ackTimeout (s : Ch) (n : Nat) (d : Device) : Device :=
  if suiteExists d s && (leadRoom d s n).ckps.capture.isSome then startHeld (captureFails d s n .degraded) s n else d

def execCaptureAckTimeout (su : Ch) (room : BitVec 6) (s : State) : Out := onDev (ackTimeout su room.toNat) s

/-- MIRROR_COPY_DONE: a mirror that fails leaves DEGRADED and the Attic's commit standing (R636). -/
def mirrorDone (s : Ch) (n : Nat) (ok : Bool) (d : Device) : Device :=
  if suiteExists d s && (leadRoom d s n).ckps.mirroring then
    modLeadRoom d s n fun r => { r with
      ckps := { r.ckps with mirroring := false },
      ckp := { r.ckp with lastStatus := if ok then r.ckp.lastStatus else Status.degraded.code } }
  else d

def execMirrorCopyDone (su : Ch) (room : BitVec 6) (ok : Bool) (s : State) : Out := onDev (mirrorDone su room.toNat ok) s

end Sys2Proof.Machine
end

