-- ==== Sys2Proof/Machine/LinkFaults.lean ====
section
/-! DEFINITION. Machine/LinkFaults.lean: links that fail: TAG failures, silent next hops, failed set-ups, and ports out of service with what Table
15.5 makes of them (R476, R477, R487, R562, R563). -/

namespace Sys2Proof.Machine

/-- A channel's ports that are out of service or without light. -/
def portsOut (x : Channel) : Nat := ((List.range 4).filter fun p => portOut (portOf x (BitVec.ofNat 2 p))).length

/-- A port goes out of service: its frames take another way, and a second port of the channel starts a drain (Table 15.5, class 0x41). -/
def portGone (d : Device) (c : Ch) (p : BitVec 2) (st : BitVec 3) : Device :=
  let d1 := portLeaves d c p st
  if portOut (portOf (chanOf d c) p) || portsOut (chanOf d1 c) < 2 then d1 else faultDrain d1 c 0x41 (p.setWidth 16)

/-- TAG_FRAME_RECEIVE (R477): a TAG that verifies lets the frames it covers be taken in order; one that fails discards them for replay, and ten
in succession take the port out of service and enter the fault history. -/
def tagFrameReceive (c : Ch) (p : BitVec 2) (ok : Bool) (d : Device) : Device :=
  let k := linkOf (chanOf d c) (.port p)
  if !linkCarries d c (.port p) then d
  else if ok then
    let d1 := modChan d c fun x => modLink x (.port p) fun k => tagPassed { k with unverified := [], tagFails := 0 }
    k.unverified.foldl (fun d f => takeFrame d c (.port p) f) d1
  else
    let back := match k.unverified with
      | f :: _ => f.seq
      | [] => k.expectSeq
    let d1 := modChan d c fun x =>
      modPort (modLink x (.port p) fun k => { k with unverified := [], tagFails := k.tagFails + 1, expectSeq := back }) p fun q =>
        { q with tagFail := satInc q.tagFail }
    let d2 := send d1 (.nak c (.port p) back)
    if k.tagFails + 1 = 10 then portGone (judgeFault d2 c { cls := 0x41, unit := p.setWidth 16, kind := 1 } false) c p 4
    else d2

def execTagFrameReceive (c : Ch) (p : BitVec 2) (ok : Bool) (s : State) : Out := withBoard (tagFrameReceive c p ok) s

/-- ACK_TIMEOUT (R476): a next hop silent for 20 µs has its frames re-sent over another port of the route. On an on-package link that is the loss
of the link (Table 15.1): it is recorded and judged, and traffic takes a detour through another channel. -/
def hopSilent (c : Ch) (l : Link) (d : Device) : Device :=
  if (linkOf (chanOf d c) l).held.isEmpty then d else
  match l with
  | .port _ => resend d c l
  | .pack o => resend (judgeFault d c { cls := 0x42, unit := BitVec.ofNat 16 (packUnit c o), kind := 2 } false) c l

def execAckTimeout (c : Ch) (l : Link) (s : State) : Out := withBoard (hopSilent c l) s

/-- LINK_SETUP_MESSAGE (R562, R563): certificates, the peer's SVN and its DEBUG flag are checked; a set-up that passes makes the session keys, one
that fails takes the port out of service and enters the fault history. -/
def linkSetupMessage (c : Ch) (p : BitVec 2) (m : SetupMsg) (d : Device) : Device :=
  let x := chanOf d c
  let q := portOf x p
  let k := linkOf x (.port p)
  if !((q.state = 2 ∨ q.state = 4) ∧ !q.pers) then d
  else if m.certOk && x.sec.minPeer ≤ m.svn && !m.debug && x.sec.trngOk && (m.first || k.setup == 1) then
    let d1 := modChan d c fun x =>
      countKeys (modLink (modPort x p fun q => { q with state := 2 }) (.port p) (openSession (nodeOf x < (portOf x p).peer) m.secret))
    refresh (if m.first then send d1 (.linkSetup c p 2) else d1)
  else
    portGone (modChan d c fun x => record x { cls := 0x41, unit := p.setWidth 16, kind := 12 }) c p 4

def execLinkSetupMessage (c : Ch) (p : BitVec 2) (m : SetupMsg) (s : State) : Out := withBoard (linkSetupMessage c p m) s

end Sys2Proof.Machine
end

