-- ==== Sys2Proof/Machine/Startup.lean ====
section
/-! DEFINITION. Machine/Startup.lean: the start-up sequence, reset and power-down, up to the end of the boot image (R708 to R731, R569, R602). -/

namespace Sys2Proof.Machine

/-! ## Alert pin -/

/-- ALERT_N is low (R709). -/
def alertLow (b : Board) (d : Device) : Bool :=
  b.faultStop || b.pmbAlert || d.fy.replace.isSet ||
  Ch.all.any fun c => !(chanOf d c).trips.isEmpty || (chanOf d c).flt.draining

/-! ## Losing power -/

/-- What stays of a channel when it loses VCORE or is reset: the Porch, the flash, the fuses (R17, R598, R693, R728). -/
def chanOff (x : Channel) (c : Ch) : Channel :=
  { Channel.reset c with
    porchUs := x.porchUs,
    fuseSvn := x.fuseSvn,
    hist := { x.hist with buffer := [], missSeen := 0 } }

/-- Every channel and the mailboxes lose power: contents, keys and rooms are lost (R555, R728). -/
def devOff (d : Device) : Device :=
  { d with
    chans := ⟨chanOff d.chans.c0 .c0, chanOff d.chans.c1 .c1, chanOff d.chans.c2 .c2, chanOff d.chans.c3 .c3⟩,
    suites := Quad.same {},
    fy := { dev := { compatH1 := d.fy.dev.compatH1 } } }

/-- Rails and the sequencer with every loop and enable off, at stage n (R728, R730). -/
def railsOff (b : Board) (n : BitVec 4) : Board :=
  { b with
    pwr := { b.pwr with seq := n, pg := 0, vstkOn := false, voptOn := false, bflBusy := false },
    loops := 0, foyerOn := false, firmware := false, released := 0, goPort := none, pairs := 0, trained := 0,
    readyOut := false }

/-! ## Stages 1 to 3 -/

/-- VAUX_RISE (R721 stage 1, R693, R733): the Porch counters start at 0, SYSCLK is measured, BOOTS is 0, and housekeeping waits at stage 2. -/
def vauxRise (ssc : Bool) (b : Board) (d : Device) : Board × Device :=
  if b.vaux then (b, d)
  else
    ({ vaux := true, pwr := { seq := 2, refSsc := ssc }, spread := !ssc },
     modChans d Ch.all fun _ x => { x with porchUs := 0, hist := { x.hist with lifeAtMs := 0 } })

def execVauxRise (ssc : Bool) (s : State) : Out := onBoth (vauxRise ssc) s

/-- SYS_RESET_N_RISE (R711, R714, R721 stages 2 and 3): the straps are sampled and OPERATION goes on for the five loops; a thermal trip holds the part off until VAUX is removed (R735). -/
def sysResetRise (compat : Bool) (bootSel : BitVec 2) (smbAddr : BitVec 3) (b : Board) (d : Device) : Board × Device :=
  if !b.vaux || b.resetHigh || b.thermtrip then (b, d)
  else
    ({ b with
        resetHigh := true,
        faultStop := false,
        pwr := { b.pwr with seq := 3, bflBusy := true },
        loops := 0b11111,
        riseMs := devMs d,
        boot := { b.boot with bootSel := bootSel, smbAddr := smbAddr } },
     { d with fy := { d.fy with dev := { d.fy.dev with compatH1 := compat } } })

def execSysResetNRise (compat : Bool) (bootSel : BitVec 2) (smbAddr : BitVec 3) (s : State) : Out :=
  onBoth (sysResetRise compat bootSel smbAddr) s

/-- SYS_RESET_N_FALL (R728, R729): READY_OUT falls, the rails go off, keys and contents are lost, and every register that SYS_RESET_N clears is at its reset value; BOOTS stays (Table 18.11). -/
def sysResetFall (b : Board) (d : Device) : Board × Device :=
  if !b.vaux || !b.resetHigh then (b, d)
  else
    ({ railsOff b 2 with
        resetHigh := false,
        faultStop := false,
        pmbAlert := false,
        pwr := { seq := 2, refSsc := b.pwr.refSsc },
        boot := { boots := b.boot.boots },
        energy := {},
        lasers := [] },
     devOff d)

def execSysResetNFall (s : State) : Out := onBoth sysResetFall s

/-- VCORE_PG_RISE (R721 stages 3 to 5): the foyer core and the host port logic start, and the controllers are about to be released. -/
def vcorePgRise (b : Board) : Board :=
  if b.pwr.seq = 3 then
    { b with pwr := { b.pwr with seq := 5, pg := b.pwr.pg ||| 1 }, foyerOn := true }
  else b

def execVcorePgRise (s : State) : Out := onBoth (fun b d => (vcorePgRise b, d)) s

/-- CHANNEL_CONTROLLER_RELEASE (R721 stage 5): the next controller, C0 first; one that fails its stage is out of service (R723). -/
def controllerRelease (ok : Bool) (b : Board) (d : Device) : Board × Device :=
  if b.pwr.seq = 5 ∧ b.released < 4 then
    ({ b with released := b.released + 1 },
     modChan d (Ch.ofNum b.released) fun x =>
       { x with released := ok, cmdCore := { x.cmdCore with up := ok }, hkCore := { x.hkCore with up := ok } })
  else (b, d)

def execChannelControllerRelease (ok : Bool) (s : State) : Out := onBoth (controllerRelease ok) s

/-- VCORE_PG_TIMEOUT (R723): every loop goes off, ALERT_N asserts, and the device stays at stage 2. -/
def vcorePgTimeout (b : Board) : Board :=
  if b.pwr.seq = 3 then { railsOff b 2 with faultStop := true } else b

def execVcorePgTimeout (s : State) : Out := onBoth (fun b d => (vcorePgTimeout b, d)) s

/-! ## Boot image and fault history -/

/-- The least SVN a channel accepts: the value fused in the part, raised under R569. -/
def leastSvn (x : Channel) (r : BootRead) : BitVec 8 := if x.fuseSvn < r.minSvn then r.minSvn else x.fuseSvn

/-- The boot ROM accepts a copy whose signature verifies and whose SVN is at least MIN_SVN (R569). -/
def acceptsFirst (x : Channel) (r : BootRead) : Bool := r.sig1 && leastSvn x r ≤ r.svn1
def acceptsSecond (x : Channel) (r : BootRead) : Bool := r.sig2 && leastSvn x r ≤ r.svn2

/-- The fault history store at boot (R602): blank, repaired from one header copy, or rebuilt with every count at 0. -/
def loadHistory (x : Channel) (r : BootRead) : Channel :=
  let bad := (!r.headerA && !r.headerB) || !r.table
  let h := x.hist
  let h1 : History :=
    { h with
      table := if bad then [] else h.table,
      buffer := [], missSeen := 0,
      lifeBase := h.headerMs, lifeAtMs := nowMs x,
      blank := false }
  let y : Channel :=
    { x with
      hist := h1,
      fltHist := { present := r.store, blank := r.store && h.blank, rebuilt := r.store && !h.blank && bad,
                   writeFail := false, records := h.records, lifeMs := BitVec.ofNat 64 h.headerMs },
      flt := { x.flt with cause := h.trigger, permanent := h.permanent, uncorr := h.uncorr } }
  if r.store && !h.blank && bad then record y { cls := 0x02, unit := 6, kind := 11 } else y

/-- Judged steering, remaps and retirements are reapplied before the channel enters service (R608). -/
def reapply (x : Channel) (p : PermUnit) : Channel :=
  if p.cls = 0x20 then showFailed { x with failedCols := (p.unit.toNat :: x.failedCols.filter (· != p.unit.toNat)) }
  else if p.cls = 0x21 then showFailed { x with failedRows := (p.unit.toNat :: x.failedRows.filter (· != p.unit.toNat)) }
  else if p.cls = 0x30 then
    let w := x.pumps.working &&& ~~~(1#16 <<< p.unit.toNat)
    if w = x.pumps.working then x else { x with pumps := { working := w, count := x.pumps.count - 1 } }
  else if p.cls = 0x01 then { x with bankSpares := tmod 0 x.bankSpares p.unit.toNat (· + 1) }
  else if p.cls = 0x02 then { x with storeSpares := tmod 0 x.storeSpares p.unit.toNat (· + 1) }
  else if p.cls = 0x40 then
    { x with ports := tmod {} x.ports (p.unit.toNat / 9) fun q => { q with spareUsed := true, spareFor := BitVec.ofNat 4 (p.unit.toNat % 9) } }
  else if p.cls = 0x41 then { x with ports := tmod {} x.ports p.unit.toNat fun q => { q with state := 4 } }
  else if p.cls = 0x50 then
    { x with hkCore := { x.hkCore with up := false }, flt := { x.flt with oneCore := true, cmdCore := p.unit = 0 } }
  else if p.cls = 0x10 then
    let s := Ch.ofNum (p.unit.toNat / 128)
    let k := x.memStacks.get s
    let v : BitVec 64 := BitVec.ofNat 64 (2 ^ 7 + p.unit.toNat % 128) <<< (8 * k.reg.sparesUsed.toNat)
    { x with memStacks := x.memStacks.set s { k with reg := { k.reg with sparesUsed := k.reg.sparesUsed + 1, spares := k.reg.spares ||| v } } }
  else x

/-- What the Porch latched goes into the fault history as records of KIND 5 (R694, R735). -/
def recordLatches (x : Channel) (l : List Nat) : Channel :=
  l.foldl (fun x t => record x { cls := 0x60, kind := 5, detail := BitVec.ofNat 192 t }) x

/-- One channel's boot: the image runs, keys are made, the history is loaded (R553, R555, R569, R579, R602, R608). -/
def chanBoot (r : BootRead) (latches : List Nat) (key : BitVec 256 × BitVec 512) (x : Channel) : Channel :=
  if !x.released || !(acceptsFirst x r || acceptsSecond x r) then x
  else
    let y : Channel :=
      { x with
        imageOk := true,
        bootKey := some key.1, ctrlKey := some key.2, trngFail := !r.trngOk,
        sec := { trngOk := r.trngOk, drbgReady := r.trngOk, debug := false, identOk := r.identOk,
                 svn := if acceptsFirst x r then r.svn1 else r.svn2,
                 minSvn := leastSvn x r, minPeer := r.minPeer } }
    let z := x.hist.perm.foldl reapply (loadHistory y r)
    recordLatches { z with hist := { z.hist with boots := x.hist.boots + 1 } } latches

/-- A drain trigger in a history boots the device with FLT_REPLACE.SET (R608). -/
def bootReplace (d : Device) : FltReplace :=
  let cs := Ch.all.filter fun c => (chanOf d c).imageOk && (chanOf d c).hist.trigger
  match cs with
  | [] => d.fy.replace
  | c :: _ =>
    match (chanOf d c).hist.perm with
    | [] => { d.fy.replace with isSet := true, ch := bitsFrom (cs.map Ch.num) }
    | p :: _ => { d.fy.replace with isSet := true, ch := bitsFrom (cs.map Ch.num), cls := p.cls, unit := p.unit }

/-- BOOT_IMAGE_READ_DONE (R569, R712, R714, R721, R724): each released channel tries the copies in order; with no image accepted the start-up stops with ALERT_N low, otherwise histories are loaded and VSTK_EN is asserted. -/
def bootImageReadDone (r : Quad BootRead) (b : Board) (d : Device) : Board × Device :=
  if b.pwr.seq = 5 ∧ b.released = 4 ∧ (b.boot.bootSel = 2 → b.goPort.isSome) then
    let rel := Ch.all.filter fun c => (chanOf d c).released
    let first := rel.filter fun c => acceptsFirst (chanOf d c) (r.get c)
    let second := rel.filter fun c => !acceptsFirst (chanOf d c) (r.get c) && acceptsSecond (chanOf d c) (r.get c)
    let refused1 := first.length < rel.length
    let refused2 := first.length + second.length < rel.length
    let host := b.boot.bootSel == 2
    let bFirst := b.boot.bootSel == 1
    let acc := first ++ second
    let lowest := Ch.all.find? fun c => acc.contains c
    match lowest with
    | none =>
      ({ b with
          pwr := { b.pwr with seq := 11, bflBusy := false }, faultStop := true,
          boot := { b.boot with aFail := true, bFail := true } }, d)
    | some c =>
      let fromFirst := first.contains c
      let boot := { b.boot with
        copy := if fromFirst then host || bFirst else !host && !bFirst,
        hostLoaded := host && fromFirst,
        aFail := if bFirst then refused2 else if host then refused1 || refused2 else refused1,
        bFail := if bFirst then refused1 else if host then false else refused2,
        boots := b.boot.boots + 1 }
      let d1 : Device := modChans d Ch.all fun c x => chanBoot (r.get c) b.latches (Config.freeKey (d.free + c.num), Config.xtsKey d.free c.num 0) x
      let d2 := { d1 with free := d1.free + 4 }
      ({ b with
          pwr := { b.pwr with seq := 6, bflBusy := false, vstkOn := true },
          boot := boot, firmware := true, latches := [] },
       refresh { d2 with fy := { d2.fy with replace := bootReplace d2 } })
  else (b, d)

def execBootImageReadDone (r : Quad BootRead) (s : State) : Out := onBoth (bootImageReadDone r) s

/-! ## Stages 6 to 8 -/

/-- Powers stack pair n: stacks 0 and 1, or 2 and 3, of channel n / 2 (R721 stage 7). -/
def powerPair (d : Device) (n : Nat) : Device :=
  modChan d (Ch.ofNum (n / 2)) fun x =>
    let p := fun (q : Quad Stack) (s : Ch) => q.set s { q.get s with powered := true }
    { x with memStacks := if n % 2 = 0 then p (p x.memStacks .c0) .c1 else p (p x.memStacks .c2) .c3 }

/-- VSTK_PG_RISE (R721 stages 6 and 7): the first stack pair is powered. -/
def vstkPgRise (b : Board) (d : Device) : Board × Device :=
  if b.pwr.seq = 6 then
    ({ b with pwr := { b.pwr with seq := 7, pg := b.pwr.pg ||| 2 }, pairs := 1 }, powerPair d 0)
  else (b, d)

def execVstkPgRise (s : State) : Out := onBoth vstkPgRise s

/-- VSTK_PG_TIMEOUT (R723): VSTK_EN is deasserted and start-up continues to stage 8 without stacks. -/
def vstkPgTimeout (b : Board) : Board :=
  if b.pwr.seq = 6 then { b with pwr := { b.pwr with seq := 8, vstkOn := false, voptOn := true } } else b

def execVstkPgTimeout (s : State) : Out := onBoth (fun b d => (vstkPgTimeout b, d)) s

/-- STACK_PAIR_POWER (R721 stage 7): the next pair. -/
def stackPairPower (b : Board) (d : Device) : Board × Device :=
  if b.pwr.seq = 7 ∧ b.pairs < 8 then ({ b with pairs := b.pairs + 1 }, powerPair d b.pairs) else (b, d)

def execStackPairPower (s : State) : Out := onBoth stackPairPower s

/-- STACK_TRAINED (R721 stage 7, R723): a powered stack ends its training; after the last of 16, VOPT_EN is asserted. -/
def stackTrained (c st : Ch) (ok : Bool) (b : Board) (d : Device) : Board × Device :=
  let k := (chanOf d c).memStacks.get st
  if b.pwr.seq = 7 ∧ k.powered ∧ !k.trained then
    let n := b.trained + 1
    ({ b with trained := n, pwr := if n = 16 then { b.pwr with seq := 8, voptOn := true } else b.pwr },
     modChan d c fun x =>
       { x with memStacks := x.memStacks.set st { k with trained := true, reg := { k.reg with up := ok } } })
  else (b, d)

def execStackTrained (c stack : Ch) (ok : Bool) (s : State) : Out := onBoth (stackTrained c stack ok) s

/-- The arrays of the channels that run an image are ungated (R721 stage 8). -/
def ungate (d : Device) : Device := modChans d Ch.all fun _ x => { x with arrayOn := x.imageOk }

/-- VOPT_PG_RISE (R721 stage 8, R481): the arrays are ungated and the on-package links train; the optical ports stay down until FABRIC_JOIN. -/
def voptPgRise (b : Board) (d : Device) : Board × Device :=
  if b.pwr.seq = 8 ∧ b.pwr.voptOn then ({ b with pwr := { b.pwr with pg := b.pwr.pg ||| 4 } }, ungate d) else (b, d)

def execVoptPgRise (s : State) : Out := onBoth voptPgRise s

/-- Every optical port of a channel at a STATE. -/
def allPorts (x : Channel) (st : BitVec 3) : Channel :=
  { x with ports := (List.range 4).foldl (fun t p => tmod {} t p fun q => { q with state := st }) x.ports }

/-- VOPT_PG_TIMEOUT (R723), while VOPT_PG has not risen: VOPT_EN is deasserted and every optical port reads no light; the arrays are still ungated for their self-test. -/
def voptPgTimeout (b : Board) (d : Device) : Board × Device :=
  if b.pwr.seq = 8 ∧ b.pwr.voptOn ∧ !b.pwr.pg.getLsbD 2 then
    ({ b with pwr := { b.pwr with voptOn := false } }, modChans (ungate d) Ch.all fun _ x => allPorts x 5)
  else (b, d)

def execVoptPgTimeout (s : State) : Out := onBoth voptPgTimeout s

/-- The state part of ARRAY_SELF_TEST_DONE (R721, R727): failing columns and rows are out, every channel has ended start-up, READY_OUT rises. -/
def selfTestEnd (r : Quad SelfTest) (b : Board) (d : Device) : Board × Device :=
  let d1 := modChans d Ch.all fun c x =>
    let t := r.get c
    showFailed { x with
      started := true, units := t.units,
      failedCols := x.failedCols ++ t.cols.filter (fun i => !x.failedCols.contains i),
      failedRows := x.failedRows ++ t.rows.filter (fun i => !x.failedRows.contains i) }
  ({ b with
      pwr := { b.pwr with seq := 9 }, readyOut := b.firmware,
      boot := { b.boot with bootMs := BitVec.ofNat 16 (devMs d - b.riseMs) } }, refresh d1)

/-! ## Losing a rail, VAUX, the trip -/

/-- VCORE_PG_FALL (R730, R694), after stage 3: every island stops at once, the Porch latches the event, the enables and loops go off. -/
def vcorePgFall (b : Board) (d : Device) : Board × Device :=
  if b.foyerOn then
    ({ railsOff b 11 with faultStop := true, latches := b.latches ++ [devUs d] }, devOff d)
  else (b, d)

def execVcorePgFall (s : State) : Out := onBoth vcorePgFall s

/-- THERMTRIP (R735): THERMTRIP_N falls, every island stops, the loops go off, and the Porch latches the event. -/
def thermTrip (b : Board) (d : Device) : Board × Device :=
  if b.vaux ∧ !b.thermtrip then
    ({ railsOff b 11 with thermtrip := true, latches := b.latches ++ [devUs d] }, devOff d)
  else (b, d)

def execThermtrip (s : State) : Out := onBoth thermTrip s

/-- VAUX_REMOVE (R731, R708): without VAUX nothing of the part runs; THERMTRIP_N is released, the Porch stops and every pin is passive. The flash and the fuses stay. -/
def vauxRemove (b : Board) (d : Device) : Board × Device :=
  if b.vaux then
    ({}, modChans (devOff { d with fy := {} }) Ch.all fun _ x => { x with porchUs := 0 })
  else (b, d)

def execVauxRemove (s : State) : Out := onBoth vauxRemove s

/-- FY_BOOT_GO (R744): accepted only with BOOT_SEL 2 at stage 5; the read goes through the port of the PF that writes. -/
def fyBootGo (portB : Bool) (b : Board) : Board :=
  if b.boot.bootSel = 2 ∧ b.pwr.seq = 5 then { b with goPort := some portB } else b

def execFyBootGo (portB : Bool) (s : State) : Out := onBoth (fun b d => (fyBootGo portB b, d)) s

end Sys2Proof.Machine
end

