-- ==== Sys2Proof/Machine/Power.lean ====
section
/-! DEFINITION. Machine/Power.lean: sensors, throttling, power limits, monitors, lasers, SMBus, JTAG and configuration accesses (chapter 18, R591, R725). -/

namespace Sys2Proof.Machine

/-! ## Temperature, throttling, energy (R736, R737, R544) -/

/-- A channel's temperature: the hottest reading of its die and its stacks. -/
def hottest (x : Channel) : Nat := max x.temp x.stackTemp

/-- The sample of one channel (R736): 105 °C or more takes step 16 at once, until T is below 100 °C. -/
def sampleChan (t : Temps) (x : Channel) : Channel :=
  let y := { x with temp := t.die.toNat, stackTemp := t.stack.toNat }
  if 105 ≤ hottest y then { y with tjHold := true, step := 16, stepCause := 1 }
  else if hottest y < 100 then { y with tjHold := false }
  else y

/-- SENSOR_SAMPLE (R736): every channel's sensors are sampled; a reading of 115 °C is the event THERMTRIP's. -/
def sensorSample (t : Quad Temps) (b : Board) (d : Device) : Board × Device :=
  if b.vaux then
    let d1 := modChans d Ch.all fun c x => sampleChan (t.get c) x
    (showPower b d1, d1)
  else (b, d)

def execSensorSample (t : Quad Temps) (s : State) : Out := onBoth (sensorSample t) s

/-- The step that one interval of the throttle control gives (R736, R737): down at 95 °C or under a power step-down, up below 92 °C, never below MIN_STEP. -/
def nextStep (minStep : Nat) (x : Channel) : Channel :=
  let lo := min 16 minStep
  if x.tjHold || x.trips.contains .vcore then { x with step := 16, stepCause := if x.tjHold then 1 else 4 }
  else if 95 ≤ hottest x then { x with step := min 16 (x.step + 1), stepCause := 1 }
  else if x.powerDown then { x with step := min 16 (x.step + 1), stepCause := if x.stepCause = 3 then 3 else 2 }
  else if x.step < lo then { x with step := lo, stepCause := 5 }
  else if hottest x < 92 ∧ lo < x.step then { x with step := x.step - 1 }
  else if x.step = lo ∧ lo ≠ 0 then { x with stepCause := 5 }
  else x

/-- THROTTLE_STEP_TIMER (R736, R738): a channel's step changes between two bundles. -/
def throttleTimer (c : Ch) (b : Board) (d : Device) : Board × Device :=
  let d1 := modChan d c (nextStep b.pwr.minStep.toNat)
  (showPower b d1, d1)

def execThrottleStepTimer (c : Ch) (s : State) : Out := onBoth (throttleTimer c) s

/-- Energy charged to the room on a suite's islands, on the lead channel (R544). -/
def chargeEnergy (d : Device) (s : Ch) (idle room : Nat) : Device :=
  let d1 := modSuite d s fun k => { k with idleUj := k.idleUj + BitVec.ofNat 64 idle }
  if (suiteOf d s).idle then d1
  else modLeadRoom d1 s (suiteOf d s).running.toNat fun r =>
    { r with acct := { r.acct with energyUj := r.acct.energyUj + BitVec.ofNat 64 room } }

/-- Energy that falls to the room on a suite's islands; a suite that is idle has none. -/
def roomShare (d : Device) (e : PowerEst) (s : Ch) : Nat := if (suiteOf d s).idle then 0 else e.roomUj.get s

/-- POWER_ESTIMATE (R737, R742, R744 to R544): a threatened channel inserts hold cycles and steps down, a clear one stops; TOTAL_UJ grows by the sum of what every other counter grows. -/
def powerEstimate (e : PowerEst) (b : Board) (d : Device) : Board × Device :=
  let d1 := modChans d Ch.all fun c x =>
    let p := e.power.getLsbD c.num
    let i := e.current.getLsbD c.num
    { x with
      island := { x.island with powerHold := p || i }, powerDown := p || i,
      stepCause := if p || i then (if i && !p then 3 else 2) else x.stepCause }
  let d2 := Ch.all.foldl (fun d s => chargeEnergy d s (e.idleUj.get s) (e.roomUj.get s)) d1
  let all := e.foyerUj + e.nosuiteUj + (Ch.all.map fun s => e.idleUj.get s + roomShare d e s).sum
  ({ b with energy := { b.energy with
      totalUj := b.energy.totalUj + BitVec.ofNat 64 all,
      foyerUj := b.energy.foyerUj + BitVec.ofNat 64 e.foyerUj,
      nosuiteUj := b.energy.nosuiteUj + BitVec.ofNat 64 e.nosuiteUj } }, d2)

def execPowerEstimate (e : PowerEst) (s : State) : Out := onBoth (powerEstimate e) s

/-- IOUT_CORRECTION (R737, Table 18.9): VCORE energy from regulator telemetry. -/
def execIoutCorrection (uj : Nat) (s : State) : Out :=
  onBoth (fun b d => ({ b with energy := { b.energy with vcoreMeasUj := b.energy.vcoreMeasUj + BitVec.ofNat 64 uj } }, d)) s

/-! ## Monitors (R591, Table 15.3) -/

/-- CLASS of a monitor's unit (Table 15.5): rail, PLL, temperature sensor. -/
def monitorClass : Monitor → Byte
  | .tjMax => 0x62
  | .vcore | .vstk | .vopt _ => 0x60
  | .pllCompute | .pllOther | .sysclk => 0x61

/-- UNIT of a monitor: rails in the order VCORE, VSTK, VOPT; PLLs compute, others, SYSCLK. -/
def monitorUnit : Monitor → BitVec 16
  | .tjMax | .vcore | .pllCompute => 0
  | .vstk | .pllOther => 1
  | .vopt _ | .sysclk => 2

/-- The action on the channel. -/
def tripChan (m : Monitor) (x : Channel) : Channel :=
  let y := { x with trips := if x.trips.contains m then x.trips else x.trips ++ [m] }
  match m with
  | .tjMax => { y with tjHold := true, step := 16, stepCause := 4 }
  | .vcore => { y with issueHold := true, step := 16, stepCause := 4 }
  | .pllCompute => { y with issueHold := true }
  | .vstk | .vopt _ | .pllOther | .sysclk => y

/-- A trip takes its action, and is recorded and judged as a KIND 5 event (R604); the event of code 0x05 is posted, and ALERT_N follows the
trips. A tripped port stops (Table 15.3). -/
def trip (d : Device) (c : Ch) (m : Monitor) : Device :=
  let d1 := modChan d c (tripChan m)
  let d2 := judgeFault d1 c { cls := monitorClass m, unit := monitorUnit m, kind := 5 } false
  let d3 := match m with
    | .vopt p => portGone d2 c (BitVec.ofNat 2 p) 5
    | _ => d2
  postAll d3 { code := 0x05, detail := (monitorUnit m ++ monitorClass m).setWidth 64 }

/-- MONITOR_TRIP. -/
def execMonitorTrip (c : Ch) (m : Monitor) (s : State) : Out :=
  onBoth (fun b d => let d1 := trip d c m; (showPower b d1, d1)) s

/-- A condition clears: the island issues again unless another trip holds it, and a stopped port retrains (R469). -/
def untrip (d : Device) (c : Ch) (m : Monitor) : Device :=
  modChan d c fun x =>
    let t := x.trips.filter (· != m)
    let y := { x with trips := t, issueHold := x.issueHold && (t.contains .vcore || t.contains .pllCompute || x.lost) }
    match m with
    | .vopt p => modPort y (BitVec.ofNat 2 p) fun q => if q.state = 5 then { q with state := 1 } else q
    | .tjMax => { y with tjHold := 100 ≤ hottest y }
    | _ => y

/-- MONITOR_RECOVERY: ALERT_N may release; PMB_ALERT_N is inactive once the regulator's faults are clear. -/
def execMonitorRecovery (c : Ch) (m : Monitor) (s : State) : Out :=
  onBoth (fun b d =>
    let d1 := if (chanOf d c).trips.contains m then untrip d c m else d
    ({ showPower b d1 with
        pmbAlert := b.pmbAlert && (m != .vcore || Ch.all.any fun o => (chanOf d1 o).trips.contains .vcore) }, d1)) s

/-- PMB_ALERT (R716, R709): STATUS_WORD of every page is read, and a fault bit of page n is a VCORE monitor trip of channel n; the foyer's page 4 has no channel, and is recorded on C0. -/
def pmbAlert (faults : BitVec 5) (b : Board) (d : Device) : Board × Device :=
  let cs := Ch.all.filter fun c => faults.getLsbD c.num
  let d1 := cs.foldl (fun d c => trip d c .vcore) d
  let d2 := if faults.getLsbD 4 then judgeFault d1 .c0 { cls := 0x60, unit := 4, kind := 5 } false else d1
  ({ showPower b d2 with pmbAlert := true }, d2)

def execPmbAlert (faults : BitVec 5) (s : State) : Out := onBoth (pmbAlert faults) s

/-! ## Lasers (R468, R469, R705) -/

/-- The two channels whose port i mod 4 a laser input feeds. -/
def laserChans (i : BitVec 3) : List Ch := [Ch.ofNum (2 * (i.toNat / 4)), Ch.ofNum (2 * (i.toNat / 4) + 1)]

/-- LASER_LIGHT_LOSS: the input's ports read no light, their traffic is rerouted, and the loss is counted. -/
def laserLoss (i : BitVec 3) (b : Board) (d : Device) : Board × Device :=
  ({ b with lasers := tmod {} b.lasers i.toNat fun l => { l with powerUw := 0, inWindow := false, losses := satInc l.losses } },
   (laserChans i).foldl (fun d c => trip d c (.vopt (i.toNat % 4))) d)

def execLaserLightLoss (i : BitVec 3) (s : State) : Out :=
  onBoth (fun b d => let r := laserLoss i b d; (showPower r.1 r.2, r.2)) s

/-- LASER_LIGHT_RETURN: the input is in its window and its ports retrain. -/
def laserReturn (i : BitVec 3) (uw : BitVec 20) (b : Board) (d : Device) : Board × Device :=
  ({ b with lasers := tmod {} b.lasers i.toNat fun l => { l with powerUw := uw, inWindow := true } },
   (laserChans i).foldl (fun d c => untrip d c (.vopt (i.toNat % 4))) d)

def execLaserLightReturn (i : BitVec 3) (uw : BitVec 20) (s : State) : Out := onBoth (laserReturn i uw) s

/-! ## Fuses, SMBus, JTAG, configuration space -/

/-- MIN_SVN_RAISE (R569): the fused value rises with the image's, and never falls. -/
def raiseSvn (v : BitVec 8) (x : Channel) : Channel :=
  if x.imageOk && x.sec.minSvn < v then { x with fuseSvn := v, sec := { x.sec with minSvn := v } } else x

def execMinSvnRaise (c : Ch) (v : BitVec 8) (s : State) : Out := onDev (fun d => modChan d c (raiseSvn v)) s

/-- PWR_LIMIT takes LIMIT_W and MIN_STEP (Table 18.8): LIMIT_W as written, clamped where it is used. -/
def writeLimit (b : Board) (v : W64) : Board :=
  { b with pwr := { b.pwr with limitW := v.extractLsb' 0 16, minStep := v.extractLsb' 16 5 } }

/-- LIMIT_W as the power controller takes it: from 1,000 to 2,100. -/
def limitW (b : Board) : Nat := min 2100 (max 1000 b.pwr.limitW.toNat)

/-- SMBUS_PWR_LIMIT_WRITE (R740). -/
def execSmbusPwrLimitWrite (v : W64) (s : State) : Out :=
  onBoth (fun b d => (if b.vaux then writeLimit b v else b, d)) s

end Sys2Proof.Machine
end

