-- ==== Sys2Proof/Machine/Faults.lean ====
section
/-! DEFINITION. Machine/Faults.lean: scrubs, lanes, controller cores, the fault history's writes, drains' ends and the loss of units (chapter 15,
R173 to R178, R470, R482, R554). -/

namespace Sys2Proof.Machine

/-! ## Scrubs (R178, R584, R592, R596, R604) -/

/-- The line that a finding names: bank b holds line L at row L div 1,024 (R156); none for a store whose words are no lines of rooms. -/
def foundLine (f : SramFinding) : Option (LineStore × Nat) :=
  if f.bank then some (.ws, f.row.toNat * 1024 + f.unit.toNat)
  else if f.unit = 0 then some (.sump, f.line)
  else if f.unit = 1 then some (.cistern, f.line)
  else none

/-- An entry of the Loop room that cannot be corrected is refetched from WS when it issues next (R144). -/
def dropLoopEntry (pc : Nat) (x : Channel) : Channel :=
  { x with island := { x.island with loopRoom := x.island.loopRoom.map fun l => { l with bundles := l.bundles.filter fun e => e.1 != pc } } }

/-- A chunk whose slots hold the word carries poison from then on; the finding numbers the chunks in slots. DEDUCED, log 136. -/
def poisonSlots (k : Nat) (x : Channel) : Channel :=
  match (x.redChunks.filter (·.granted))[k]? with
  | some r => { x with redChunks := x.redChunks.map fun q => if q.granted && sameChunk r.k r.tag r.chunk q then { q with bad := true } else q }
  | none => x

/-- An uncorrectable word of an on-die store: poison of its line where it holds data of rooms, in a WS bank, the Sump or the Cistern, and of its
chunk in the reduction store; a Loop room entry is refetched (R144), and a unit of WS whose residues are lost carries none. The other stores'
contents are masked by their second copy (R597). -/
def poisonSram (f : SramFinding) (x : Channel) : Channel :=
  let n := x.island.room.getD 0
  match foundLine f with
  | some (.ws, l) => poisonWs n [l] none x
  | some (.sump, l) => setArose (.sump n l) none { x with sumpPoison := addAll x.sumpPoison [l] }
  | some (.cistern, l) => setArose (.cistern n l) none { x with cisPoison := addAll x.cisPoison [l] }
  | none =>
    if f.unit = 2 then dropLoopEntry f.line x
    else if f.unit = 3 then poisonSlots f.line x
    else if f.unit = 4 then { x with tags := clearTags x.tags (512 * f.line) 512 }
    else x

/-- Picoseconds for which an access to a line holds: the write-back pair after a correction (R585), and the copy of a row to its spare (R606), take
1 µs each at most. DESIGN CHOICE, log 125: they take all of it. -/
def linePs : Nat := 1000000

/-- Compute accesses to the line of a finding hold: for its write-back when it was corrected, and for the remap when it is permanent. -/
def holdLine (f : SramFinding) (permanent : Bool) (x : Channel) : Channel :=
  let til := x.island.ps + (if f.double then 0 else linePs) + (if permanent then linePs else 0)
  match foundLine f with
  | none => x
  | some (s, l) =>
    let old := x.island.lineHolds.filter fun h => decide (x.island.ps < h.til)
    { x with island := { x.island with lineHolds := old ++ [{ store := s, line := l, til := til }] } }

/-- SRAM_PATROL_SCRUB: what the scrub finds is corrected or poisoned, and judged. -/
def sramScrub (c : Ch) (f : Option SramFinding) (d : Device) : Device :=
  match f with
  | none => d
  | some f =>
    let cls : Byte := if f.bank then 0x01 else 0x02
    let perm := isPermanent (chanOf d c) cls f.unit f.row f.survives
    let d1 := modChan d c fun x => holdLine f perm (if f.double then poisonSram f x else x)
    judgeFault d1 c { cls := cls, unit := f.unit, kind := if f.double then 1 else 0, addr := f.row } f.survives

def execSramPatrolScrub (c : Ch) (f : Option SramFinding) (s : State) : Out := withBoard (sramScrub c f) s

/-- Tiles of a copy that meet bytes a to b - 1 of the common pages. -/
def tilesIn (w : WCopy) (a b : Nat) : List Nat :=
  (List.range w.reg.tiles.toNat).filter fun t =>
    let r := tileRun w t
    decide (r.1 < b) && decide (a < r.1 + r.2)

/-- Tiles of a shared page whose bytes a to b - 1 are lost wait for their repair (R595). -/
def repairShared (d : Device) (c : Ch) (i a b : Nat) : Device :=
  match suiteOfChan d c with
  | none => d
  | some s =>
    copyIxs.foldl (fun d k =>
      let w := leadCopy d s k
      if w.reg.state != csFree && (copyPages w).contains i then replaceTiles d s k (tilesIn w a b) else d) d

/-- A page whose contents are lost: every line of it is poison, and tiles of a shared page wait for their repair (R592, R595). -/
def poisonData (o : Arose) (d : Device) (c : Ch) (r : PageRef) : Device :=
  match r with
  | .room _ _ => modChan d c fun x => poisonPage (some o) x r
  | .common i => repairShared d c i (i * pageBytes) ((i + 1) * pageBytes)

/-- One line of T1 that is uncorrectable, by the place of R172: poison in the page that lies there. Frames of the controller are held twice
(R597). -/
def loseLine (o : Arose) (d : Device) (c st : Ch) (chan byte : Nat) : Device :=
  match lineAt (chanOf d c) st chan byte with
  | none => d
  | some (f, l) =>
    match pageInFrame (chanOf d c) f with
    | none => d
    | some (.common i) => repairShared d c i (i * pageBytes + 64 * l) (i * pageBytes + 64 * l + 64)
    | some r => modChan d c fun x => poisonLines x r [l] (some o)

/-- The pages of a channel that lie in T1. -/
def t1Pages (x : Channel) : List PageRef :=
  (allAccts.flatMap fun a => (acctPages x a).filter fun e => e.2.valid && !e.2.t2).map (·.1)

/-- T1 is laid out anew for the stacks that remain: its pages, and then the promotions under way, take the frames from 0 on (R172, R173). -/
def relay (x : Channel) : Channel :=
  let y := (t1Pages x).foldl (fun (p : Nat × Channel) r => (p.1 + 1, modPte p.2 r fun e => { e with frame := BitVec.ofNat 32 p.1 })) (0, x)
  let z := y.2.moves.foldl (fun (p : Nat × List MoveJob) m =>
    if m.promote then (p.1 + 1, p.2 ++ [{ m with place := p.1 }]) else (p.1, p.2 ++ [m])) (y.1, [])
  { y.2 with moves := z.2, frames := { next := z.1 } }

/-- What the loss of T1's contents does to a room: a training room ends, and its T1 pages are given up until RESTORE brings them again; a serving
or generator room goes on, and its streams recompute (Table 1.8). -/
def loseT1Room (s : Ch) (c : Ch) (d : Device) (n : Nat) : Device :=
  let r := leadRoom d s n
  if !trains r || roomState r = rsFree then d else
  let d1 := if isStarted r then faultRoom d s n .roomFault else d
  modChan d1 c fun x => freeRoomPages x n ((t1Pages x).filterMap fun p => match p with | .room m k => if m = n then some k else none | .common _ => none)

/-- The loss of a stack: the channel's T1 contents are lost, and T1 is laid out anew (R173, Table 1.8). DEDUCED, log 59. -/
def loseStack (d : Device) (c st : Ch) : Device :=
  let x := chanOf d c
  if !(x.memStacks.get st).reg.up then d else
  let d1 := modChan d c fun x =>
    let k := x.memStacks.get st
    { x with memStacks := x.memStacks.set st { k with reg := { k.reg with up := false, migrating := false } } }
  let d2 := match suiteOfChan d1 c with
    | some s => roomIndexes.foldl (loseT1Room s c) d1
    | none => d1
  let d3 := (t1Pages (chanOf d2 c)).foldl (fun d r => poisonData { cls := 0x11, unit := BitVec.ofNat 16 st.num, addr := 0 } d c r) d2
  meetPermanent (modChan d3 c relay) c 0x11 (BitVec.ofNat 16 st.num) 0

/-- STACK_LOSS. -/
def execStackLoss (c : Ch) (stack : Ch) (s : State) : Out := withBoard (fun d => loseStack d c stack) s

/-- A word of a data channel is corrected or its line poisoned, and judged; a stack that needs a ninth steering goes out of service (R176). -/
def t1Word (d : Device) (c : Ch) (stack : BitVec 2) (chan : BitVec 7) (byte : W64) (double survives : Bool) : Device :=
  let st := Ch.ofNum stack.toNat
  let x := chanOf d c
  let unit := BitVec.ofNat 16 (128 * stack.toNat + chan.toNat)
  let ninth := isPermanent x 0x10 unit byte survives && (x.memStacks.get st).reg.sparesUsed.toNat == 8
  let d1 := if double then loseLine { cls := 0x10, unit := unit, addr := byte } d c st chan.toNat byte.toNat
    else modChan d c fun x =>
      let k := x.memStacks.get st
      { x with memStacks := x.memStacks.set st { k with reg := { k.reg with ceCount := satInc k.reg.ceCount } } }
  let d2 := judgeFault d1 c { cls := 0x10, unit := unit, kind := if double then 1 else 0, addr := byte } survives
  if ninth then loseStack d2 c st else d2

/-- T1_PATROL_SCRUB: a word, a fingerprinted tile whose source supplies it again (R448), or the end of a pass (Table 4.6). -/
def t1Scrub (c : Ch) (f : Option T1Finding) (d : Device) : Device :=
  match f with
  | none => modChan d c fun x => { x with scrub := { x.scrub with passes := x.scrub.passes + 1 } }
  | some (.word stack chan byte double survives) => t1Word d c stack chan byte double survives
  | some (.tile k t) =>
    match suiteOfChan d c with
    | none => d
    | some s =>
      let w := leadCopy d s k.toNat
      if w.reg.state = csFree || w.reg.tiles.toNat ≤ t || w.repairing.contains t then d
      else noteSettled s k.toNat (replaceTiles d s k.toNat [t]) t

def execT1PatrolScrub (c : Ch) (f : Option T1Finding) (s : State) : Out := withBoard (t1Scrub c f) s

/-- MIGRATION_DONE (R174): lines of the channel that read as uncorrectable on the way are poison on the spare (R175). -/
def migrationDone (c : Ch) (m : MigrationEnd) (d : Device) : Device :=
  let stack := m.stack
  let k := ((chanOf d c).memStacks.get stack).reg
  if !k.migrating then d else
  let d1 := m.bad.foldl (fun d b => t1Word d c (BitVec.ofNat 2 stack.num) k.migCh b true false) d
  modChan d1 c fun x =>
    let k := x.memStacks.get stack
    { x with memStacks := x.memStacks.set stack { k with reg := { k.reg with migrating := false } } }

def execMigrationDone (c : Ch) (m : MigrationEnd) (s : State) : Out := withBoard (migrationDone c m) s

/-- PUMP_CONTROL_MISMATCH: the pump's fault is judged; a permanent one retires it (R130, R584). -/
def execPumpControlMismatch (c : Ch) (pump : BitVec 4) (s : State) : Out :=
  withBoard (fun d =>
    if (chanOf d c).pumps.working.getLsbD pump.toNat then judgeFault d c { cls := 0x30, unit := pump.setWidth 16, kind := 2 } false else d) s

/-! ## Optical lanes and ports (R470, R482) -/

def laneUnit (p : BitVec 2) (lane : BitVec 4) : BitVec 16 := BitVec.ofNat 16 (9 * p.toNat + lane.toNat)

/-- A port goes out of service for its lanes, which starts a drain (Table 15.5, class 0x40). -/
def laneRetires (c : Ch) (p : BitVec 2) (unit : BitVec 16) (d : Device) : Device :=
  let d1 := portLeaves d c p 4
  let d2 := faultDrain (modChan d1 c fun x => record x { cls := 0x40, unit := unit, kind := 4 }) c 0x40 unit
  meetPermanent d2 c 0x41 (BitVec.ofNat 16 p.toNat) 0

/-- LANE_FAULT: lane 8 is steered in and the port retrains; a port that needs a second steering goes out of service (R470). A port of the Ethernet
personality leaves lane 8 unused, and goes out of service with its first lost lane (R508). -/
def laneFault (c : Ch) (p : BitVec 2) (lane : BitVec 4) (d : Device) : Device :=
  let q := portOf (chanOf d c) p
  let unit := laneUnit p lane
  if !(q.state = 2 || q.state = 3) || 8 < lane.toNat || (q.spareUsed && q.spareFor == lane) then d
  else if q.pers then (if lane = 8 then d else laneRetires c p unit d)
  else if !q.spareUsed && lane = 8 then judgeFault d c { cls := 0x40, unit := unit, kind := 0 } false
  else if !q.spareUsed then
    let d1 := modChan d c fun x => retrain (modPort x p fun q => { q with spareUsed := true, spareFor := lane }) p
    judgeFault d1 c { cls := 0x40, unit := unit, kind := 3 } false
  else laneRetires c p unit d

def execLaneFault (c : Ch) (p : BitVec 2) (lane : BitVec 4) (s : State) : Out := withBoard (laneFault c p lane) s

/-- The result words of FABRIC_JOIN: each device port's peer and STATE (R482). -/
def joinWords (d : Device) : List W32 :=
  (List.range 16).map fun q =>
    let p := portOf (chanOf d (Ch.ofNum (q / 4))) (BitVec.ofNat 2 q)
    p.peer.setWidth 32 ||| BitVec.shiftLeft (p.peerPort.setWidth 32) 18 ||| BitVec.shiftLeft (p.state.setWidth 32) 20

/-- Every port has trained. -/
def allTrained (d : Device) : Bool :=
  Ch.all.all fun c => (List.range 4).all fun p => (portOf (chanOf d c) (BitVec.ofNat 2 p)).state == 2

/-- JOINED once a FABRIC_JOIN has completed (R481). -/
def showJoined (d : Device) : Device := modChans d Ch.all fun _ x => { x with node := { x.node with joined := true } }

/-- Ports have ended training, or will not: a FABRIC_JOIN that waits for no other port completes (R482, R483). -/
def portsSettled (d : Device) (done : Ch × Nat → Bool) : Device :=
  let waits := d.fy.waits.map fun w => match w.kind with
    | .join l => { w with kind := .join (l.filter fun q => !done q) }
    | _ => w
  let d1 : Device := { d with fy := { d.fy with waits := waits } }
  let d2 := if waits.any fun w => w.kind == .join [] then showJoined d1 else d1
  completeWaits d2 fun w => match w.kind with
    | .join [] => some (if allTrained d then .ok else .degraded, joinWords d)
    | _ => none

/-- PORT_TRAINED: an optical port ends its training. -/
def portTrained (c : Ch) (p : BitVec 2) (ok : Bool) (d : Device) : Device :=
  if (portOf (chanOf d c) p).state != 1 then d else
  let d1 := refresh (modChan d c fun x => modPort x p fun q => { q with state := if ok then 2 else 4 })
  portsSettled d1 fun q => q == (c, p.toNat)

def execPortTrained (c : Ch) (p : BitVec 2) (ok : Bool) (s : State) : Out := onDev (portTrained c p ok) s

/-! ## The fault history's writes (R598 to R603) -/

def flashRecords : Nat := 262144

/-- The buffer's records reach the flash. -/
def flushBuffer (x : Channel) : Channel :=
  let n := x.hist.buffer.length
  { x with
    hist := { x.hist with flash := (x.hist.buffer ++ x.hist.flash).take flashRecords, buffer := [], records := satAdd x.hist.records n },
    fltHist := { x.fltHist with records := satAdd x.fltHist.records n, writeFail := false } }

/-- FAULT_HISTORY_FLUSH. -/
def historyFlush (ok : Bool) (x : Channel) : Channel :=
  if !x.imageOk || x.hist.buffer.isEmpty || x.fltHist.writeFail then x
  else if ok then flushBuffer x
  else { x with fltHist := { x.fltHist with writeFail := true } }

def execFaultHistoryFlush (c : Ch) (ok : Bool) (s : State) : Out := onDev (fun d => modChan d c (historyFlush ok)) s

/-- FLASH_WRITE_RETRY. -/
def execFlashWriteRetry (c : Ch) (ok : Bool) (s : State) : Out :=
  onDev (fun d => modChan d c fun x => if x.fltHist.writeFail && ok then flushBuffer x else x) s

/-- LIFE_CLOCK_WRITEBACK. -/
def execLifeClockWriteback (c : Ch) (s : State) : Out :=
  onDev (fun d => modChan d c fun x =>
    if x.imageOk then
      { x with hist := { x.hist with headerMs := lifeMs x }, fltHist := { x.fltHist with lifeMs := BitVec.ofNat 64 (lifeMs x) } }
    else x) s

/-- BOUND_MISS_RECORD: the bound misses of the second, in one record of KIND 6. -/
def boundMissRecord (x : Channel) : Channel :=
  let n := x.issueCount.boundMiss.toNat
  if n ≤ x.hist.missSeen then x else
  let y := record x { cls := 0x90, kind := 6, detail := BitVec.ofNat 192 (n - x.hist.missSeen) }
  { y with hist := { y.hist with missSeen := n } }

def execBoundMissRecord (c : Ch) (s : State) : Out := onDev (fun d => modChan d c boundMissRecord) s

/-! ## Drains (R610) -/

/-- DRAIN_LIMIT_EXPIRY: serving and generator jobs that still run are stopped; training jobs stop at their next step boundary. -/
def drainLimit (c : Ch) (d : Device) : Device :=
  match (chanOf d c).drain with
  | none => d
  | some k =>
    if k.expired then d else
    let d1 := modChan d c fun x => { x with drain := some { k with expired := true } }
    showDrained (match suiteOfChan d1 c with
      | none => d1
      | some s => roomIndexes.foldl (fun d n =>
          let r := leadRoom d s n
          if isStarted r && servesStreams r then markDrained (stopRoom d s n) s n .ok else d) d1)

def execDrainLimitExpiry (c : Ch) (s : State) : Out := withBoard (drainLimit c) s

/-- MODULE_MANAGEMENT_BLOCK_LOSS: a drain of the whole device (R28). -/
def execModuleManagementBlockLoss (s : State) : Out :=
  withBoard (fun d =>
    if d.fy.mgmtLost then d else
    let d1 := setReplace { d with fy := { d.fy with mgmtLost := true } } none
    refresh (startDrain d1 Ch.all false d1.fy.replace.drainLimitS.toNat)) s

/-! ## The loss of a channel (R7, R590, R753) -/

/-- What lies only in the lead's copy of a room goes to the next lead; the room key pair is lost with the channel that held it. -/
def leadPart (o r : Room) : Room :=
  { r with
    sch := o.sch, srv := o.srv, adp := o.adp, binds := o.binds, admBinds := o.admBinds, ckp := o.ckp, ckps := o.ckps, serve := o.serve, faultStatus := o.faultStatus,
    created := o.created, owner := o.owner, key := none, cont := o.cont, bcast := o.bcast,
    kv := { r.kv with slotsUsed := o.kv.slotsUsed, drops := o.kv.drops, starved := o.kv.starved, relinks := o.kv.relinks },
    acct := { r.acct with energyUj := o.acct.energyUj, tokOut := o.acct.tokOut },
    vtRem := o.vtRem, sinceUs := o.sinceUs, resumeUs := o.resumeUs, stopping := o.stopping, switchTo := o.switchTo, jobWgen := o.jobWgen,
    store := o.store, storeNode := o.storeNode, slotWaits := o.slotWaits, warm := o.warm, xexps := o.xexps, steps := o.steps }

def takeLead (o x : Channel) : Channel :=
  let y := roomIndexes.foldl (fun x n => if roomOf o n = {} then x else modRoomC x n (leadPart (roomOf o n))) x
  { y with budgets := o.budgets, slots := o.slots, copies := o.copies, models := o.models, stores := o.stores, suiteKey := none }

/-- Streams whose contexts lie on the lost channel end without a terminal record; what they hold elsewhere is given up. -/
def loseStreams (d : Device) (s c : Ch) : Device :=
  let d1 := roomIndexes.foldl (fun d n =>
    ((roomStreams d s n).filter fun q => q.1 == c).foldl (fun d q => release (modStrm d q fun k => { k with deliver := 0 }) s n q) d) d
  completeWaits d1 fun w => match w.kind with
    | .cancel k _ => if k = c then some (.ok, []) else none
    | _ => none

/-- What a lost channel leaves: its Porch, flash and fuses. -/
def chanLost (c : Ch) (x : Channel) : Channel := { chanOff x c with lost := true }

/-- CHANNEL_LOSS: the rooms that run on the channel fault, the suite goes on without it, and the lowest channel that remains leads. -/
def loseChannel (c : Ch) (d : Device) : Device :=
  let x := chanOf d c
  if !x.started || x.lost then d else
  let gone := fun (d : Device) => refresh (portsSettled (modChan d c (chanLost c)) fun q => q.1 == c)
  match suiteOfChan d c with
  | none => gone d
  | some s =>
    let d1 := loseStreams d s c
    let d2 := roomIndexes.foldl (fun d n =>
      if (leadRoom d s n).ckps.capture.isSome then captureFails d s n .roomFault else d) d1
    let rest := (suiteChans d2 s).filter (· != c)
    let fault := fun (d : Device) => roomIndexes.foldl (fun d n => faultRoom d s n .roomFault) d
    match rest with
    | [] =>
      let d3 := gone (fault d2)
      modSuite d3 s fun _ => {}
    | l :: _ =>
      let lead := leadOf d2 s
      let d3 := if lead = c then modChan d2 l (takeLead (chanOf d2 c)) else d2
      let d4 := modSuite d3 s fun u => { u with
        mask := bitsFrom (rest.map Ch.num), lead := BitVec.ofNat 2 (if lead = c then l.num else lead.num) }
      gone (fault d4)

def execChannelLoss (c : Ch) (s : State) : Out := withBoard (loseChannel c) s

/-! ## Controller cores (R587 to R590) -/

/-- The unit index of the core in a role. -/
def coreUnit (x : Channel) (hk : Bool) : BitVec 16 := if x.flt.cmdCore == hk then 0 else 1

/-- The core that failed leaves its role: the other one carries the channel, in the command role, with the sources that waited (R588, R589). -/
def takeOver (hk : Bool) (x : Channel) : Channel :=
  let failed := coreOf x hk
  let other := coreOf x (!hk)
  let heir : Core := { other with waiting := other.waiting ++ failed.waiting.filter (!other.waiting.contains ·) }
  deliverBoth { x with
    cmdCore := heir, hkCore := { testing := true },
    flt := { x.flt with oneCore := true, cmdCore := if hk then x.flt.cmdCore else !x.flt.cmdCore } }

/-- WATCHDOG_EXPIRY: the failed core is reset and tested; with both expired the channel controller is reset, which is the loss of the channel.
A core that fails for the third time in 24 h is judged permanent. -/
def watchdog (c : Ch) (hk : Bool) (d : Device) : Device :=
  let x := chanOf d c
  if !(coreOf x hk).up then d else
  let unit := coreUnit x hk
  let perm := isPermanent x 0x50 unit 0 false
  if !(coreOf x (!hk)).up then loseChannel c d else
  let d1 := judgeFault (modChan d c (takeOver hk)) c { cls := 0x50, unit := unit, kind := 5 } false
  refresh (if perm then modChan d1 c fun x => { x with hkCore := {} } else d1)

def execWatchdogExpiry (c : Ch) (hk : Bool) (s : State) : Out := withBoard (watchdog c hk) s

/-- CORE_SELF_TEST_DONE: the core returns in the housekeeping role, or is judged permanent. -/
def coreTested (c : Ch) (ok : Bool) (d : Device) : Device :=
  let x := chanOf d c
  if !x.hkCore.testing then d
  else if ok then refresh (modChan d c fun x => { x with hkCore := { up := true }, flt := { x.flt with oneCore := false } })
  else refresh (meetPermanent (modChan d c fun x => { x with hkCore := {} }) c 0x50 (coreUnit x true) 0)

def execCoreSelfTestDone (c : Ch) (ok : Bool) (s : State) : Out := withBoard (coreTested c ok) s

/-! ## The true random source (R553, R554) -/

/-- TRNG_HEALTH_FAIL: a health test fails, of a source that was well or of one that fails again. -/
def trngFails (c : Ch) (d : Device) : Device :=
  if !(chanOf d c).imageOk then d else
  let d1 := modChan d c fun x => { x with sec := { x.sec with trngOk := false, healthFail := satInc x.sec.healthFail }, trngFail := true }
  refresh (judgeFault d1 c { cls := 0x80, kind := 12 } false)

def execTrngHealthFail (c : Ch) (s : State) : Out := withBoard (trngFails c) s

/-- TRNG_RETEST: key generation resumes once the start-up tests pass; a repetition that fails counts in HEALTH_FAIL and is not
recorded again. DEDUCED, log 74. -/
def trngRetest (ok : Bool) (x : Channel) : Channel :=
  if !x.imageOk || x.sec.trngOk then x
  else if ok then { x with sec := { x.sec with trngOk := true, drbgReady := true }, trngFail := false }
  else { x with sec := { x.sec with healthFail := satInc x.sec.healthFail } }

def execTrngRetest (c : Ch) (ok : Bool) (s : State) : Out := onDev (fun d => refresh (modChan d c (trngRetest ok))) s

end Sys2Proof.Machine
end

