-- ==== Sys2Proof/Machine/Serve.lean ====
section
/-! DEFINITION. Machine/Serve.lean: admission of requests, and the events of serving rooms (R254 to R260, R270, R292, R296, R497, R748). -/

namespace Sys2Proof.Machine

/-! ## Requests (R254 to R258) -/

/-- A request as fetched: header, stop blocks and prompt, as numbers and bytes at an offset. -/
structure Request where
  hdr : Nat
  stops : List Nat
  body : Nat → Nat → List Byte
  /-- Stop sequences and prompt lie within the source. -/
  inside : Bool

def rqTag (h : Nat) : W32 := BitVec.ofNat 32 (bitsOf h 0 32)
def rqRoom (h : Nat) : Nat := bitsOf h 32 6
def rqDeliver (h : Nat) : Nat := bitsOf h 38 2
def rqPin (h : Nat) : Bool := bitsOf h 40 1 == 1
def rqPriority (h : Nat) : BitVec 8 := BitVec.ofNat 8 (bitsOf h 48 8)
def rqCustomer (h : Nat) : Nat := bitsOf h 56 12
def rqMaxNew (h : Nat) : Nat := bitsOf h 128 32
def rqTemp (h : Nat) : W32 := BitVec.ofNat 32 (bitsOf h 160 32)
def rqTopP (h : Nat) : W32 := BitVec.ofNat 32 (bitsOf h 192 32)
def rqTopK (h : Nat) : Nat := bitsOf h 224 11
def rqSeed (h : Nat) : W32 := BitVec.ofNat 32 (bitsOf h 256 32)
/-- The reserved fields of Table 6.1 are 0. -/
def rqReserved (h : Nat) : Bool :=
  [(41, 7), (68, 28), (235, 5), (243, 13), (306, 14), (352, 160), (768, 256)].all fun f => bitsOf h f.1 f.2 == 0

/-- A stop block's LEN is 1 to 8 and its reserved fields are 0 (Table 6.2). -/
def stopLegal (b : Nat) : Bool := 1 ≤ bitsOf b 0 32 && bitsOf b 0 32 ≤ 8 && bitsOf b 32 32 == 0 && bitsOf b 320 192 == 0

def tempLegal (t : W32) : Bool := !isNanW t && !fp32Lt t 0 && !fp32Lt 0x47800000 t
def topPLegal (p : W32) : Bool := !isNanW p && fp32Lt 0 p && !fp32Lt 0x3F800000 p

/-- Row 2 of Table 6.4. -/
def requestBad (d : Device) (s : Ch) (q : Request) : Bool :=
  let h := q.hdr
  let r := leadRoom d s (rqRoom h)
  let dl := rqDeliver h
  !(isStarted r && servesStreams r) || !rqReserved h || dl == 3 || (dl == 2 && r.cfg.kind != 1) ||
  (dl == 0 && !ringValid d s (rqRoom h)) || reqPrompt h == 0 || maxLen r ≤ reqPrompt h || rqMaxNew h == 0 ||
  !tempLegal (rqTemp h) || !topPLegal (rqTopP h) || 1024 < rqTopK h || 4 < reqNseq h || !(q.stops.all stopLegal) || !q.inside

/-- The lowest free context of the lowest channel of the suite that has one. -/
def freeContext (d : Device) (s : Ch) : Option SRef :=
  (suiteChans d s).findSome? fun c =>
    ((List.range 65536).find? fun i => (ctxOf (chanOf d c) i).state == .free).map fun i => (c, i)

/-- Pages of a request area that the request occupies (R260). -/
def requestPages (r : Room) (i nseq prompt : Nat) : List Nat :=
  (pagesOf (areaBase r i, 128 + 64 * nseq) ++ pagesOf (areaBase r i + 2048, 4 * prompt)).eraseDups

/-- Decides one request by the first row of Table 6.4 that applies; on OK it has its context, its area and its binding (R257, R332). -/
def admitOne (d : Device) (s : Ch) (q : Request) : Device × W32 × Status :=
  let none_ : W32 := 0xFFFFFFFF
  let h := q.hdr
  let n := rqRoom h
  if suiteDraining d s then (d, none_, .draining)
  else if requestBad d s q then (d, none_, .badCommand)
  else
    let r := leadRoom d s n
    let cu := rqCustomer h
    let d1 := modLead d s fun x => refill x cu
    let x := chanOf d1 (leadOf d s)
    let cost := reqPrompt h * (budgetOf x cu).reg.inW.toNat
    if levelOf x cu < cost then
      (modLead d1 s fun x => modBudget x cu fun b => { b with reg := { b.reg with refused := satInc b.reg.refused } }, none_, .budgetEmpty)
    else
      match freeContext d1 s with
      | none => (d1, none_, .quotaExceeded)
      | some p =>
        if r.srv.pendMax.toNat ≤ r.srv.pending.toNat then (d1, none_, .quotaExceeded) else
        match allocRoomPages (chanOf d1 p.1) n 0 (requestPages r p.2 (reqNseq h) (reqPrompt h)) with
        | none => (d1, none_, .quotaExceeded)
        | some y =>
          let d2 := modLead (setChan d1 p.1 y) s fun x => debit x cu cost
          let handle := handleOf (genOf (ctxOf y p.2).handle) p
          let b := bindFor r cu
          let w := match mainModel r with
            | some m => (match ptrOf r m with | some k => wgenOf x k | none => 0)
            | none => 0
          let c : StreamCtx :=
            { handle := handle, room := n, state := .pending, under := .pending, pin := rqPin h, priority := rqPriority h,
              customer := BitVec.ofNat 12 cu, deliver := BitVec.ofNat 2 (rqDeliver h), wgen := w, maxNew := rqMaxNew h, temp := rqTemp h,
              topP := rqTopP h, topK := rqTopK h, seed := rqSeed h, reqTag := rqTag h, lastStep := BitVec.ofNat 32 r.serve.step,
              area := areaBase r p.2, bind := b }
          let d3 := bindUp (modStrm d2 p fun _ => c) s b
          let d4 := if rqPin h then (modelsUsed r).foldl (fun d m => match ptrOf r m with
              | some k => modLead d s fun x => addPin x k (pinKey p.1.num p.2)
              | none => d) d3 else d3
          let d5 := writeArea d4 n p 0 (leBytes 128 h)
          let d6 := writeArea d5 n p 128 (q.stops.flatMap (leBytes 64))
          let d7 := writeArea d6 n p 2048 (q.body (128 + 64 * reqNseq h) (4 * reqPrompt h))
          let d8 := modLeadRoom d7 s n fun m => { m with acct := { m.acct with tokIn := m.acct.tokIn + BitVec.ofNat 64 (reqPrompt h) } }
          (showStreams d8 s n, handle, .ok)

/-- A request read from a byte source at an offset, within limit bytes. -/
def readRequest (rd : Nat → Nat → List Byte) (limit off : Nat) : Request :=
  let h := leNat (rd off 128)
  let k := reqNseq h
  { hdr := h, stops := (List.range k).map fun i => leNat (rd (off + 128 + 64 * i) 64),
    body := fun a n => rd (off + a) n, inside := off + 128 + 64 * k + 4 * reqPrompt h ≤ limit }

/-- Decides the requests of a block in order, then runs the boundaries of idle rooms that admitted one (R255, R748). -/
def admitAll (d : Device) (s : Ch) (qs : List Request) : Device × List (W32 × Status) :=
  let r := qs.foldl (fun (st : Device × List (W32 × Status)) q =>
    let a := admitOne st.1 s q
    (a.1, st.2 ++ [a.2])) (d, [])
  let rooms := ((qs.zip r.2).filter fun p => p.2.2 == .ok).map fun p => rqRoom p.1.hdr
  (rooms.eraseDups.foldl (fun d n => idleBoundary d s n) r.1, r.2)

/-- The bytes of outcomes (Table 6.3). -/
def outcomeBytes (l : List (W32 × Status)) : List Byte := l.flatMap fun o => leBytes 4 o.1.toNat ++ leBytes 4 o.2.code.toNat

def offsetsOf (p : BitVec 15872) (n : Nat) : List Nat := (List.range n).map fun i => par p (64 * i + 64) 64
/-- The parameter fields of SUBMIT_REQUESTS (Table 17.8). -/
def submitFields (n : Nat) : List (Nat × Nat) := [(0, 5), (8, 4)] ++ (List.range n).map fun i => (64 * i + 64, 64)

/-- FABRIC_REQUEST_MESSAGE: a front end's requests, answered by a message, and a credit returned (R255, R496, R497). A block that breaks
Table 17.8 is answered with BAD_COMMAND for each request that it could hold. DESIGN CHOICE, log 32. -/
def fabricRequest (c : Ch) (node : BitVec 18) (reply : W32) (su : Ch) (p : BitVec 15872) (mem : List (Nat × Byte)) (d : Device) : Device :=
  if !(chanOf d c).started then d else
  let n := par p 0 5
  let rd := fun (a k : Nat) => (List.range k).map fun i => match mem.find? (fun b => b.1 == a + i) with | some b => b.2 | none => 0
  let bad := n = 0 || 16 < n || !reservedClear p (submitFields n) || (offsetsOf p n).any (fun o => o % 64 != 0) || !suiteExists d su ||
    suiteOfChan d c != some su
  let r := if bad then (d, List.replicate (min n 16) ((0xFFFFFFFF : W32), Status.badCommand))
    else admitAll d su ((offsetsOf p n).map (readRequest rd (2 ^ 20)))
  send (sendMsg r.1 c { node := node, queue := reply, reply := 0, bytes := outcomeBytes r.2 }) (.credit c node 0)

def execFabricRequestMessage (c : Ch) (node : BitVec 18) (reply : W32) (suite : Ch) (params : BitVec 15872) (mem : List (Nat × Byte))
    (s : State) : Out :=
  onDev (fabricRequest c node reply suite params mem) s

/-! ## Events of streams -/

/-- HOLD_DL_EXPIRY: a held stream's deadline passes; it ends at this boundary, or at the next one of a room in a step (R270, R748). -/
def holdExpiry (c : Ch) (i : Nat) (d : Device) : Device :=
  let k := strm d (c, i)
  match suiteOfChan d c with
  | some s =>
    if k.state = .held && k.holdDl.isSome then idleBoundary (modStrm d (c, i) fun k => { k with holdDl := some 0 }) s k.room else d
  | none => d

def execHoldDlExpiry (c : Ch) (ctx : BitVec 16) (s : State) : Out := onDev (holdExpiry c ctx.toNat) s

/-- PIN_DL_EXPIRY: a pinned stream's deadline passes (R296, R748). -/
def pinExpiry (c : Ch) (i : Nat) (d : Device) : Device :=
  let k := strm d (c, i)
  match suiteOfChan d c with
  | some s =>
    if k.state != .free && k.state != .ending && k.pinDl.isSome then
      idleBoundary (modStrm d (c, i) fun k => { k with pinDl := some 0 }) s k.room
    else d
  | none => d

def execPinDlExpiry (c : Ch) (ctx : BitVec 16) (s : State) : Out := onDev (pinExpiry c ctx.toNat) s

/-- A refill would let the set-aside of a held stream succeed. -/
def heldCould (d : Device) (s : Ch) (n : Nat) : Bool :=
  (roomStreams d s n).any fun q =>
    let c := strm d q
    let x := refill (chanOf d (leadOf d s)) c.customer.toNat
    c.state == .held && (match shapeOf d s n q 0 with
      | some sh => decide (sh.tokens * (budgetOf x c.customer.toNat).reg.outW.toNat ≤ levelOf x c.customer.toNat)
      | none => true)

/-- BUDGET_RETEST_TIMER: idle rooms whose held streams could go on hold a boundary (R748). -/
def budgetRetest (su : Ch) (d : Device) : Device :=
  roomIndexes.foldl (fun d n =>
    if !(leadRoom d su n).serve.inStep && heldCould d su n then idleBoundary d su n else d) d

def execBudgetRetestTimer (su : Ch) (s : State) : Out := onDev (budgetRetest su) s

/-- RING_SPACE_FREE: the host has moved the consume index; waiting records are written, and an idle room whose stream leaves RING_WAIT
holds a boundary (R292, R748). An index that does not lie between the last one and the produce index changes nothing. DESIGN CHOICE, log 33. -/
def ringSpace (su : Ch) (n cons : Nat) (d : Device) : Device :=
  let v := (leadRoom d su n).serve
  if cons < v.ringCons || v.ringProd < cons || !suiteExists d su then d else
  let d2 := ringFreed su n (modLeadRoom d su n fun m => { m with serve := { m.serve with ringCons := cons } })
  if (leadRoom d2 su n).serve.inStep then d2 else drainServe d2 su n

def execRingSpaceFree (su : Ch) (room : BitVec 6) (cons : W64) (s : State) : Out := onDev (ringSpace su room.toNat cons.toNat) s

/-! ## The controller queue (R136) -/

/-- The queue from the controllers to the island: 64 items. Those behind them wait with the controllers, in order. DEDUCED, log 132. -/
def ctrlQueue (x : Channel) : List CtrlItem := x.ctrlItems.take 64

/-- CONTROLLER_QUEUE_ITEM: the oldest item of the queue reaches its room, on the island or in its save area, and posts its token. -/
def controllerItem (c : Ch) (d : Device) : Device :=
  match ctrlQueue (chanOf d c) with
  | [] => d
  | i :: _ =>
    let d1 := modChan d c fun x => { x with ctrlItems := x.ctrlItems.drop 1 }
    let d2 := modChan d1 c fun x => i.writes.foldl (fun x w => putRoomWs x i.room w.1 w.2) x
    postToken d2 c i.room i.tok

def execControllerQueueItem (c : Ch) (s : State) : Out := onDev (controllerItem c) s

end Sys2Proof.Machine
end

