-- ==== Sys2Proof/Machine/HostSuites.lean ====
section
/-! DEFINITION. Machine/HostSuites.lean: the commands of suites, rooms, budgets and streams: SUITE_SET, ROOM_CREATE, ROOM_DESTROY, SET_BUDGET,
SUBMIT_REQUESTS, CANCEL_STREAM and SWITCH_WEIGHTS (R255, R271, R288, R444, R521 to R529, R676, R677). -/

namespace Sys2Proof.Machine

/-! ## What a command names -/

/-- The room that a command names in a suite; in a suite that does not exist every room is FREE. -/
def namedRoom (d : Device) (s : Ch) (n : Nat) : Room := if suiteExists d s then leadRoom d s n else {}
/-- A VF may name only the rooms that it owns (R660). -/
def mayName (a : Accepted) (r : Room) : Bool := a.fn.isPF || r.owner == some a.fn
/-- The suites set for a VF (R660); a PF may name them all. -/
def maySuite (d : Device) (f : Fn) (s : Ch) : Bool := f.isPF || (tget {} d.fy.vfSuite f.key).suites.getLsbD s.num
/-- A command that is over at once with a status alone. -/
def only (d : Device) (st : Status) : Device × Reply := (d, .done st [])
/-- Commands whose loads fill something that goes: they cannot open any more (R567). DESIGN CHOICE, log 61. -/
def endLoads (d : Device) (p : LoadTarget → Bool) : Device :=
  (d.fy.loads.filter fun l => p l.target).foldl (fun d l => endLoad d l.key .attestFail) d

/-! ## SUITE_SET (R521 to R523) -/

/-- The suite's common account, its copies, budgets and key go (R523, R555). -/
def clearSuite (s : Ch) (d : Device) : Device :=
  let d0 := endLoads d fun t => match t with | .copy u _ => u == s | _ => false
  modChans d0 (suiteChans d0 s) fun _ x =>
    { freeCommonPages x (tkeys x.commonPages) with
      commonAcct := {}, commonEpochs := 0, copies := [], models := [], budgets := [], suiteKey := none, memKey := none, arrayOn := false,
      rooms := x.rooms.map fun r => (r.1, { r.2 with binds := [], admBinds := [] }) }

/-- The suite's new channels: the common account on each, the key pair on the lead (R523, R555). -/
def formSuite (s : Ch) (mask : BitVec 4) (slice t1min t1max t2max : Nat) (d : Device) : Device :=
  let cs := chansOf mask
  let lead := cs.headD .c0
  let key := drawFree d
  let d1 := modChans (if cs.isEmpty then d else key.2) cs fun c x =>
    { x with
      commonAcct := { t1min := BitVec.ofNat 32 t1min, t1max := BitVec.ofNat 32 t1max, t2max := BitVec.ofNat 32 t2max },
      commonEpochs := 0, copies := [], models := [], budgets := [], arrayOn := true,
      suiteKey := if c = lead then some (Config.freeKey key.1) else none, memKey := some (Config.xtsKey key.1 c.num 1) }
  modSuite d1 s fun u => { u with
    mask := mask, lead := if cs.isEmpty then 0 else BitVec.ofNat 2 lead.num, running := 0, idle := true,
    sliceUs := if slice = 0 then 0x7D0 else BitVec.ofNat 16 slice }

/-- SUITE_SET by the rows of Table 13.2. -/
def runSuiteSet (a : Accepted) (d : Device) : Device × Reply :=
  let p := a.params
  let s := Ch.ofNum (par p 0 2)
  let mask : BitVec 4 := BitVec.ofNat 4 (par p 2 4)
  let slice := par p 32 16
  let cs := chansOf mask
  let foreign := fun (c : Ch) => match suiteOfChan d c with | some u => u != s | none => false
  if (cs ++ suiteChans d s).any fun c => (chanOf d c).flt.draining then only d .draining
  else if !reservedClear p [(0, 2), (2, 4), (32, 16), (64, 32), (96, 32), (128, 32)] || cs.length == 3 ||
      cs.any (fun c => foreign c || !inService (chanOf d c)) || (1 ≤ slice && slice ≤ 99) || par p 96 32 < par p 64 32 ||
      (suiteExists d s && suiteHasRoom d s) then only d .badCommand
  else if cs.any fun c => !(chanOf d c).sec.trngOk then only d .attestFail
  else if cs.any fun c => !accountFits (chanOf d c) commonAcctIx (par p 64 32) then only d .quotaExceeded
  else only (formSuite s mask slice (par p 64 32) (par p 96 32) (par p 128 32) (clearSuite s d)) .ok

/-! ## ROOM_CREATE (R525, R526) -/

/-- A room as ROOM_CREATE makes it on a channel: everything of an earlier room of the index is gone, its counters included (R253, R354, R395,
R431, R465, R518, R543, R653). -/
def newRoom (p : BitVec 15872) (mask : BitVec 4) (suite : Ch) (seed : W64) (owner : Fn) (key : Option (BitVec 256)) : Room :=
  { cfg := { state := rsCreated, kind := BitVec.ofNat 2 (par p 9 2), h1Mode := parB p 11, suite := BitVec.ofNat 2 suite.num, span := mask },
    sch := { shares := BitVec.ofNat 16 (par p 16 16) },
    tier := { t1min := BitVec.ofNat 32 (par p 192 32), t1max := BitVec.ofNat 32 (par p 224 32), t2max := BitVec.ofNat 32 (par p 256 32),
              wsSize := BitVec.ofNat 12 (par p 288 12) },
    rng := { seed := seed, salt := BitVec.ofNat 64 (par p 128 64), seedSrc := parB p 12 },
    created := true, owner := some owner, key := key }

/-- The room index that a ROOM_CREATE takes: none when all are in use. -/
def createIndex (d : Device) (s : Ch) (p : BitVec 15872) : Option Nat :=
  if parB p 8 then roomIndexes.find? fun n => roomState (leadRoom d s n) == rsFree else some (par p 2 6)

/-- Counters of the experience stores of a room that is made anew (R465). -/
def clearStores (n : Nat) (x : Channel) : Channel :=
  { x with stores := x.stores.filter fun e => e.2.reg.room.toNat != n }

def makeRoom (a : Accepted) (s : Ch) (n : Nat) (d : Device) : Device × Reply :=
  let p := a.params
  let drawn := drawFree d
  let seed := if parB p 12 then Config.freeWord drawn.1 else BitVec.ofNat 64 (par p 64 64)
  let key := drawFree (if parB p 12 then drawn.2 else d)
  let lead := leadOf d s
  let d1 := modChans key.2 (suiteChans d s) fun c x =>
    let y := clearStores n x
    let r := { newRoom p (suiteOf d s).mask s seed a.fn (if c = lead then some (Config.freeKey key.1) else none) with
      memKey := some (Config.xtsKey key.1 c.num 2) }
    { setRoom y n r with sec := { y.sec with roomKeys := y.sec.roomKeys + 1 } }
  (d1, .done .ok [BitVec.ofNat 32 n, seed.setWidth 32, seed.extractLsb' 32 32])

/-- ROOM_CREATE by the rows of Table 13.5. -/
def runRoomCreate (a : Accepted) (d : Device) : Device × Reply :=
  let p := a.params
  let s := Ch.ofNum (par p 0 2)
  let cs := suiteChans d s
  if suiteDraining d s then only d .draining
  else if !reservedClear p [(0, 13), (16, 16), (64, 64), (128, 64), (192, 32), (224, 32), (256, 32), (288, 12)] || !suiteExists d s ||
      par p 16 16 = 0 || par p 288 12 = 0 || 0xBC0 < par p 288 12 || par p 224 32 < par p 192 32 || !maySuite d a.fn s then only d .badCommand
  else if d.fy.debugOpen || cs.any (fun c => !(chanOf d c).sec.trngOk) then only d .attestFail
  else if !parB p 8 && roomState (leadRoom d s (par p 2 6)) != rsFree then only d .slotBusy
  else
    match createIndex d s p with
    | none => only d .quotaExceeded
    | some n => if cs.any fun c => !accountFits (chanOf d c) n (par p 192 32) then only d .quotaExceeded else makeRoom a s n d

/-! ## ROOM_DESTROY (R529) -/

/-- What stays of a destroyed room: its counters (R529). -/
def goneRoom (r : Room) : Room :=
  { created := r.created, acct := r.acct,
    sch := { vt := r.sch.vt, lastSwitchNs := r.sch.lastSwitchNs, maxSwitchNs := r.sch.maxSwitchNs, liveUnits := r.sch.liveUnits },
    tier := { moves := r.tier.moves },
    kv := { drops := r.kv.drops, starved := r.kv.starved, saturated := r.kv.saturated, relinks := r.kv.relinks },
    rng := { draws := r.rng.draws },
    adp := { rowSteps := r.adp.rowSteps, sortedSteps := r.adp.sortedSteps, deferred := r.adp.deferred, warmLoads := r.adp.warmLoads },
    trn := { droppedSegs := r.trn.droppedSegs, shadowStalls := r.trn.shadowStalls, fmtChanges := r.trn.fmtChanges,
             mbRetired := r.trn.mbRetired, steps := r.trn.steps },
    upd := { step := r.upd.step, skipped := r.upd.skipped, fallbacks := r.upd.fallbacks, deferred := r.upd.deferred, clamped := r.upd.clamped,
             lastSumsq := r.upd.lastSumsq, lastStatus := r.upd.lastStatus, lastFbTensor := r.upd.lastFbTensor, lastFbBlock := r.upd.lastFbBlock },
    bcast := { sent := r.bcast.sent, lastWgen := r.bcast.lastWgen },
    fab := { xferOut := r.fab.xferOut, xferIn := r.fab.xferIn, early := r.fab.early, redFb := r.fab.redFb },
    ckp := { seq := r.ckp.seq, step := r.ckp.step, slot := r.ckp.slot, lastStatus := r.ckp.lastStatus, cbwCopies := r.ckp.cbwCopies,
             failed := r.ckp.failed, merged := r.ckp.merged } }

/-- One channel's part of a room goes: pages, slots, contexts, experience stores, collective entries and what is still outstanding for it. -/
def clearRoom (n : Nat) (x : Channel) : Channel :=
  let y := freeRoomPages x n (tkeys (roomOf x n).pages)
  let z := setRoom y n (goneRoom (roomOf y n))
  { z with
    arose := z.arose.filter (fun e => !ofRoom e.1),
    slots := z.slots.filter (fun e => e.2.reg.room.toNat != n || e.2.reg.state == asFree),
    stores := (tkeys z.stores).foldl (fun t j => tmod {} t j fun e => if e.reg.room.toNat = n then { reg := { e.reg with en := false } } else e) z.stores,
    colls := (tkeys z.colls).foldl (fun t k => tmod {} t k fun e =>
      if e.room.toNat = n && !e.common then { uses := e.uses, fallbacks := e.fallbacks } else e) z.colls,
    island := { z.island with pumps := (z.island.pumps.map fun q => (q.1, q.2.filter fun e => e.room != n)).filter fun q => !q.2.isEmpty },
    chosen := z.chosen.filter (fun m => match m.page with | .room k _ => k != n | .common _ => true),
    sec := { z.sec with roomKeys := z.sec.roomKeys - 1 } }
where
  /-- A place of the room. -/
  ofRoom : PoisonPlace → Bool
    | .ws m _ | .sump m _ | .cistern m _ | .mem m _ | .page (.room m _) => m == n
    | .common _ | .page (.common _) => false

def destroyRoom (d : Device) (s : Ch) (n : Nat) : Device :=
  let d0 := endLoads (endCapture d s n) fun t => match t with
    | .adapter u k _ => u == s && k == n
    | .masters u k => u == s && k == n
    | .copy _ _ => false
  let d1 := (roomStreams d0 s n).foldl (fun d q => freeCtx d s n q) d0
  let d2 := dropPtrs d1 s n
  modChans d2 (suiteChans d2 s) fun _ x => clearRoom n x

/-- ROOM_DESTROY of a room that is not STARTED; word 0 counts the records that its ring never received. -/
def runRoomDestroy (a : Accepted) (d : Device) : Device × Reply :=
  let s := a.suite
  let n := par a.params 0 6
  let r := namedRoom d s n
  if !reservedClear a.params [(0, 6)] || !mayName a r || roomState r = rsFree || isStarted r then only d .badCommand
  else (destroyRoom d s n, .done .ok [BitVec.ofNat 32 r.serve.owed.length])

/-! ## SET_BUDGET (R271, R677) -/

def putBudget (p : BitVec 15872) (x : Channel) : Channel :=
  let c := par p 0 12
  let burst := par p 128 48
  modBudget (refill x c) c fun b =>
    let level := min burst (if parB p 12 then par p 192 48 else b.reg.level.toNat)
    { b with reg := { b.reg with
        rate := BitVec.ofNat 32 (par p 32 32), inW := BitVec.ofNat 16 (par p 64 16), outW := BitVec.ofNat 16 (par p 80 16),
        burst := BitVec.ofNat 48 burst, level := BitVec.ofNat 48 level } }

def runSetBudget (a : Accepted) (d : Device) : Device × Reply :=
  if suiteDraining d a.suite then only d .draining
  else if !reservedClear a.params [(0, 13), (32, 64), (128, 48), (192, 48)] || !suiteExists d a.suite then only d .badCommand
  else only (modLead d a.suite (putBudget a.params)) .ok

/-! ## SUBMIT_REQUESTS (R255, R676) -/

/-- Bytes of the region that a command names. -/
def sourceBytes (a : Accepted) (off n : Nat) : List Byte :=
  (List.range n).map fun i => match a.data.mem.find? (fun b => b.1 == off + i) with | some b => b.2 | none => 0

def outcomeWords (l : List (W32 × Status)) : List W32 := l.flatMap fun o => [o.1, o.2.code.setWidth 32]

/-- A VF's request to a room that it does not own is refused as one that lies beyond its source is (R660). -/
def ownRequest (a : Accepted) (d : Device) (q : Request) : Request :=
  { q with inside := q.inside && mayName a (namedRoom d a.suite (rqRoom q.hdr)) }

def runSubmitRequests (a : Accepted) (d : Device) : Device × Reply :=
  let p := a.params
  let s := a.suite
  let n := par p 0 5
  let x := chanOf d (leadOf d s)
  let reg := par p 8 4
  let offs := offsetsOf p n
  if suiteDraining d s then only d .draining
  else if n = 0 || 16 < n || !reservedClear p (submitFields n) || !suiteExists d s || offs.any (fun o => !regionAllows x hostKinds 64 reg o 128) then
    only d .badCommand
  else if accessFails d x a.data reg then only d .degraded
  else
    let limit := (regionOf x reg).pages.toNat * pageBytes
    let r := admitAll d s (offs.map fun o => ownRequest a d (readRequest (sourceBytes a) limit o))
    (r.1, .done .ok (outcomeWords r.2))

/-! ## CANCEL_STREAM (R288, R673) -/

def runCancelStream (a : Accepted) (d : Device) : Device × Reply :=
  let h : W32 := BitVec.ofNat 32 (par a.params 0 32)
  let q := refOfHandle h
  let k := strm d q
  match suiteOfChan d q.1 with
  | none => only d .badCommand
  | some s =>
    if !reservedClear a.params [(0, 32)] || k.state = .free || k.handle != h || !mayName a (leadRoom d s k.room) then only d .badCommand
    else if k.state = .ending then only d .ok
    else
      let d1 := idleBoundary (modStrm d q fun k => { k with cancel := true }) s k.room
      let k1 := strm d1 q
      if k1.state = .ending || k1.state = .free || k1.handle != h then only d1 .ok else (d1, .wait (.cancel q.1 q.2))

/-! ## SWITCH_WEIGHTS (R444) -/

/-- Serving and generator rooms of a suite whose programs use a model. -/
def modelRooms (d : Device) (s : Ch) (m : Nat) : List Nat :=
  roomIndexes.filter fun n => let r := leadRoom d s n; roomState r != rsFree && servesStreams r && usesModel r m

def switchTo (d : Device) (s : Ch) (m k : Nat) : Device × Reply :=
  let all := modelRooms d s m
  let run := all.filter fun n => isStarted (leadRoom d s n)
  let d1 := run.foldl (fun d n => modLeadRoom d s n fun r => { r with switchTo := tset none r.switchTo m (some k) }) d
  let d2 := (all.filter fun n => !isStarted (leadRoom d s n)).foldl (fun d n =>
    if ptrOf (leadRoom d s n) m = some k then d else movePtr d s n m k) d1
  let d3 := run.foldl (fun d n => idleBoundary d s n) d2
  let left := run.filter fun n => (tget none (leadRoom d3 s n).switchTo m).isSome
  if left.isEmpty then only d3 .ok else (d3, .wait (.switchWeights s m left))

def runSwitchWeights (a : Accepted) (d : Device) : Device × Reply :=
  let s := a.suite
  let m := par a.params 0 2
  let w : W32 := BitVec.ofNat 32 (par a.params 32 32)
  let x := chanOf d (leadOf d s)
  if suiteDraining d s then only d .draining
  else if !reservedClear a.params [(0, 2), (32, 32)] || !suiteExists d s then only d .badCommand
  else match copyIxs.find? fun k => named x m k && wgenOf x k == w with
    | none => only d .badCommand
    | some k => if (copyOf x k).reg.suspect then only d .switchDeferred else switchTo d s m k

end Sys2Proof.Machine
end

