-- ==== Sys2Proof/Machine/HostJobs.lean ====
section
/-! DEFINITION. Machine/HostJobs.lean: LOAD_PROGRAM, START_JOB and STOP_JOB (R49, R371, R403, R428, R464, R493, R516, R527, R528, R531, R566 to R570, R674, R675, R746, R749). -/

namespace Sys2Proof.Machine

/-! ## Opening (R566 to R570) -/

/-- A sealed payload opens for a command of a KIND and TARGET, under a current key (R567). -/
def opens (p : SealInfo) (kind : BitVec 4) (target : Bool) (key : Option (BitVec 256)) : Bool :=
  p.parses && key == some p.rdig && p.kind == kind && p.target == target && p.reservedOk && p.tagsOk

/-- The digest that an operator root entry holds. -/
def rootDigest (r : SecProgRoot) : BitVec 256 := r.digest3 ++ r.digest2 ++ r.digest1 ++ r.digest0

/-- The signer's certificate chains to a root in force (R568). -/
def rootOk (d : Device) : CertRoot → Bool
  | .kenath => true
  | .operator g => [0, 1, 2, 3].any fun i => let r := tget {} d.fy.roots i; r.valid && rootDigest r == g
  | .nothing => false

def imageOk (d : Device) (p : ProgImage) : Bool := rootOk d p.root && p.sigOk && p.digestOk

/-- A payload's continuity secret fits the room's (R570). -/
def contOk (r : Room) (p : SealInfo) : Bool :=
  match p.cont, r.cont with
  | some c, some k => c == k
  | _, _ => true
def setCont (p : SealInfo) (r : Room) : Room :=
  match p.cont with
  | some c => { r with cont := some c }
  | none => r

/-! ## LOAD_PROGRAM -/

/-- The registers that Ballutos sets from the metadata: every field of SRV_ROOM_n (R298), the RW-L fields of the others; their RW fields
and all counters stay. -/
def loadRegs (i : ProgMeta) (r : Room) : Room :=
  { r with
    kv := { i.kv with pages := r.kv.pages, slotsUsed := r.kv.slotsUsed, drops := r.kv.drops, starved := r.kv.starved,
                      saturated := r.kv.saturated, relinks := r.kv.relinks },
    srv := { i.srv with pending := r.srv.pending, active := r.srv.active },
    rng := { r.rng with mode := i.rngMode, ngen := i.ngen },
    adp := { r.adp with
      points := BitVec.ofNat 11 i.widths.length, xexpN := i.adp.xexpN, pointSig := pointSig i, stepAddr := i.adp.stepAddr, warmBase := i.adp.warmBase,
      warmMax := i.adp.warmMax, xexpBase := i.adp.xexpBase, xexpMib := i.adp.xexpMib },
    trn := { i.trn with
      stwTop := 0, topMb := 0, cisLive := 0, wgen := r.trn.wgen, leaseMs := r.trn.leaseMs, droppedSegs := r.trn.droppedSegs,
      shadows := r.trn.shadows, shadowStalls := r.trn.shadowStalls, fmtChanges := r.trn.fmtChanges, mbRetired := r.trn.mbRetired,
      steps := r.trn.steps },
    upd := { i.upd with
      lr := r.upd.lr, clip := r.upd.clip, step := r.upd.step, skipped := r.upd.skipped, fallbacks := r.upd.fallbacks,
      deferred := r.upd.deferred, clamped := r.upd.clamped, lastSumsq := r.upd.lastSumsq, lastStatus := r.upd.lastStatus,
      lastFbTensor := r.upd.lastFbTensor, lastFbBlock := r.upd.lastFbBlock },
    bcast := { r.bcast with en := i.bcast.en, model := i.bcast.model, ntarget := i.bcast.ntarget, tgtVa := i.bcast.tgtVa },
    wmaps := i.wmaps,
    cfg := { r.cfg with tbBase := i.tbBase, saveBase := i.saveBase, savePages := BitVec.ofNat 32 i.liveUnits },
    ckp := { r.ckp with cbwPages := BitVec.ofNat 32 i.cbwPages, scratchPages := BitVec.ofNat 32 (i.scratch.map (·.2)).sum } }

/-- Pages that a list of bytes by address meets. -/
def cellPages (l : List (Nat × Byte)) : List Nat := (l.map fun c => c.1 / pageBytes).eraseDups

/-- The tensor table's bytes (R396). -/
def tableBytesOf (i : ProgMeta) : List Byte := i.tensors.flatMap fun e => leBytes 64 e.toNat

/-- Allocates what a program needs on a channel: the save area, pinned to T1, in place of the last program's, and the pages of its initial
contents and of its tensor table (R531, R749, R396). -/
def loadPages (i : ProgMeta) (img : ProgChan) (n : Nat) (x : Channel) : Option Channel :=
  let r := roomOf x n
  let old := (List.range r.cfg.savePages.toNat).map (r.cfg.saveBase.toNat / pageBytes + ·)
  let save := (List.range i.liveUnits).map (i.saveBase.toNat / pageBytes + ·)
  let table := if i.tensors.isEmpty then [] else pagesOf (i.upd.ttBase.toNat, 64 * i.tensors.length)
  (allocRoomPages (freeRoomPages x n old) n 1 save).bind fun y => allocRoomPages y n 0 (cellPages img.contents ++ table)

/-- Writes them. -/
def loadBytes (i : ProgMeta) (img : ProgChan) (n : Nat) (x : Channel) : Channel :=
  let y := img.contents.foldl (fun y c => writeRoom y n c.1 [c.2]) x
  if i.tensors.isEmpty then y else writeRoom y n i.upd.ttBase.toNat (tableBytesOf i)

/-- The pointers of a room that serves or fine-tunes are bound; a model without a copy leaves its window maps at PPL 0 (R746). -/
def bindModels (d : Device) (s : Ch) (n : Nat) : Device :=
  let d1 := dropPtrs d s n
  if (leadRoom d1 s n).cfg.kind = 2 then d1 else
  [0, 1, 2, 3].foldl (fun d m =>
    match (if usesModel (leadRoom d s n) m then bindChoice (chanOf d (leadOf d s)) m else none) with
    | some k => bindPtr d s n m k
    | none => showWindow d s n m none) d1

/-- The room holds the program (R568, R674). -/
def installProgram (a : Accepted) (sealedForm : Bool) (s : Ch) (n : Nat) (d : Device) : Device :=
  let g := a.data.prog
  let d1 := modChans d (suiteChans d s) fun c x =>
    modRoomC (loadBytes g.info (g.chans.get c) n x) n fun r =>
      let p : Program := { digest := g.digest, signer := g.signer, sealedForm := sealedForm, info := g.info,
                           stream := (g.chans.get c).stream, colls := (g.chans.get c).colls }
      let q := loadRegs g.info (if sealedForm then setCont a.data.payload r else r)
      { q with prog := some p, cfg := { q.cfg with state := rsLoaded } }
  afterPointers d (ringAdopt (bindModels d1 s n) s n) s

/-- A channel of the suite is too narrow for the program, or out of service (R49). -/
def tooNarrow (d : Device) (s : Ch) (i : ProgMeta) : Bool :=
  (suiteChans d s).any fun c => !inService (chanOf d c) || 32 * arrayWidth (chanOf d c) < i.width

def runLoadProgram (a : Accepted) (d : Device) : Device × Reply :=
  let p := a.params
  let s := a.suite
  let n := par p 0 6
  let form := par p 6 2
  let r := namedRoom d s n
  let x := chanOf d (leadOf d s)
  let reg := par p 64 4
  let g := a.data.prog
  let open1 := opens a.data.payload 0 false r.key
  let open3 := opens a.data.payload 3 false r.key
  -- what can be read of the image
  let readable := g.root != .nothing && (form == 0 || (form == 1 && open1))
  if suiteDraining d s then only d .draining
  else if !reservedClear p [(0, 8), (64, 4), (128, 64), (192, 64)] || form == 3 || roomState r == rsFree || isStarted r || !mayName a r ||
      (form == 2 && r.prog.isNone) || (readable && metaBad g.info r) ||
      !regionAllows x [1, 3, 4] 64 reg (par p 128 64) (par p 192 64) then only d .badCommand
  else if (readable && tooNarrow d s g.info) || ((suiteChans d s).any fun c => !inService (chanOf d c)) || accessFails d x a.data reg then
    only d .degraded
  else if form == 2 then
    if open3 && contOk r a.data.payload then only (modSuiteRoom d s n (setCont a.data.payload)) .ok else only d .attestFail
  else
    let room := if readable then
        (suiteChans d s).foldlM (fun d c => (loadPages g.info (g.chans.get c) n (chanOf d c)).map fun y => setChan d c y) d
      else some d
    match room with
    | none => only d .quotaExceeded
    | some d1 =>
      if !readable || !imageOk d g || (form == 1 && !contOk r a.data.payload) then only d .attestFail
      else only (installProgram a (form == 1) s n d1) .ok

/-! ## START_JOB -/

/-- The stores of a learner's program on its lead channel: the RW-L fields are set; a store of the same room and shape keeps what it holds
(R464). DEDUCED, log 62. -/
def installStores (n : Nat) (l : Tab TrnXs) (x : Channel) : Channel :=
  { x with stores := l.foldl (fun t e => tmod {} t e.1 fun (o : XStore) =>
      let same := o.reg.room.toNat == n && o.reg.xsBase == e.2.xsBase && o.reg.slotPages == e.2.slotPages && o.reg.nslots == e.2.nslots
      let g := { o.reg with room := BitVec.ofNat 6 n, en := e.2.en, xsBase := e.2.xsBase, slotPages := e.2.slotPages, nslots := e.2.nslots }
      if same then { o with reg := g } else { reg := { g with produced := 0, consumed := 0, claimed := 0 } }) x.stores }

/-- The collective entries of a program (R516). -/
def installColls (l : Tab FabColl) (x : Channel) : Channel :=
  { x with colls := l.foldl (fun t e => tmod {} t e.1 fun o => { e.2 with uses := o.uses, fallbacks := o.fallbacks }) x.colls }

/-- The format code with which each gradient tensor starts: BF16 with an empty history, or the layer's fixed one (R383, R385). -/
def firstFormats (r : Room) : List Byte :=
  (List.range (r.trn.glayers.toNat * r.trn.tpl.toNat)).map fun t =>
    if r.cfg.h1Mode then (match r.prog with | some p => p.info.fixedFmt.getD (t / r.trn.tpl.toNat) 0 | none => 0) else 8

/-- A room's training state when its job starts (R380, R382, R387). -/
def freshTrain (r : Room) : TrainState :=
  let f := firstFormats r
  { gfmt := (List.range f.length).foldl (fun g t => tset 0 g t (f.getD t 0)) [],
    verMap := (List.range r.trn.vwPages.toNat).foldl (fun m k => tset 0 m k r.trn.wgen) [] }

/-- One channel of a room whose job starts: everything of an earlier job is gone but memory, slots, bindings, counters and what the ring is
owed (R316, R380, R403, R493, R527). -/
def startChannel (n : Nat) (shares : Nat) (store : BitVec 4) (storeNode : BitVec 18) (x : Channel) : Channel :=
  let r0 := roomOf x n
  let info := match r0.prog with | some p => p.info | none => {}
  let r : Room := { r0 with
    cfg := { r0.cfg with state := rsStarted },
    sch := { r0.sch with shares := if shares = 0 then r0.sch.shares else BitVec.ofNat 16 shares },
    ctx := {}, saved := {}, fresh := true, yielded := none, arrivals := [], stopping := false, gens := [], appends := 0, staging := [],
    steps := 0, admBinds := r0.binds, update := {}, faultStatus := .ok, slotWaits := [], store := store, storeNode := storeNode, switchTo := [],
    train := if trains r0 then freshTrain r0 else {},
    trn := { r0.trn with stwTop := 0, topMb := 0, cisLive := 0, shadows := 0 },
    upd := { r0.upd with step := 0 },
    fab := { r0.fab with arrBase := info.arrBase, arrPages := BitVec.ofNat 32 (cdiv info.earlyBytes pageBytes), arrUsed := 0 },
    serve := { r0.serve with step := 0, table := [], inStep := false, sampled := false, toFabric := [] },
    ckps := { r0.ckps with due := none, lastStep := 0, lastMs := nowMs x, jobCut := none, reports := [], jobRunning := false, jobAsk := false,
                           drainDue := false } }
  let y := setRoom x n r
  let z := match r.prog with | some p => installColls p.colls y | none => y
  if trains r && !(firstFormats r).isEmpty then putRoomWs z n r.trn.gfmtAddr.toNat (firstFormats r) else z

/-- The tensors of a learner or fine-tune room, on every channel; none when a page of an average cannot be allocated. -/
def startTensors (d : Device) (s : Ch) (n : Nat) : Option Device :=
  let r := leadRoom d s n
  match r.prog with
  | none => some d
  | some p =>
    if !trains r then some d else
    (suiteChans d s).foldlM (fun d c => (freshTensors n r.upd.ttBase.toNat p.info.tensors (chanOf d c)).map fun y => setChan d c y) d

/-- A fine-tune job binds the copies of its base (R43). -/
def bindJob (d : Device) (s : Ch) (n : Nat) : Device :=
  let r := leadRoom d s n
  if r.cfg.kind != 3 then d else
  let d1 := (modelsUsed r).foldl (fun d m => match ptrOf r m with | some k => modLead d s fun x => addJob x k n | none => d) d
  let w := (mainModel r).bind fun m => (ptrOf r m).map (wgenOf (chanOf d (leadOf d s)))
  modLeadRoom d1 s n fun r => { r with jobWgen := w }

/-- A generator's largest trajectory does not fit its store's slots (R455); it is tested where the store's learner is on this device. -/
def tooLong (d : Device) (s : Ch) (n : Nat) (store : Nat) (node : BitVec 18) : Bool :=
  let m := maxLen (leadRoom d s n)
  Ch.all.any fun c => nodeOf (chanOf d c) == node && (chanOf d c).node.joined &&
    decide ((tget {} (chanOf d c).stores store).reg.slotPages.toNat * pageBytes < 128 + 32 * cdiv (4 * m) 32 + 32 * m)

def runStartJob (a : Accepted) (d : Device) : Device × Reply :=
  let p := a.params
  let s := a.suite
  let n := par p 0 6
  let r := namedRoom d s n
  let gen := r.cfg.kind == 1
  let fields := [(0, 6), (16, 16)] ++ (if gen then [(32, 4), (36, 18)] else [])
  let store : BitVec 4 := BitVec.ofNat 4 (par p 32 4)
  let node : BitVec 18 := BitVec.ofNat 18 (par p 36 18)
  let pages := match r.prog with | some q => ((shardUnits q.info).map List.length).foldl max 0 | none => 0
  if suiteDraining d s then only d .draining
  else if !reservedClear p fields || !mayName a r || !(roomState r == rsLoaded || roomState r == rsStopped) ||
      (r.cfg.kind == 3 && (modelsUsed r).any fun m => (ptrOf r m).isNone) || (gen && tooLong d s n store.toNat node) then only d .badCommand
  else if trains r && decide (r.trn.stwPages.toNat * pageBytes < 512 * r.trn.stwSeg.toNat + 512 * r.trn.stwKeep.toNat) then
    only d .stairwellFull
  else if trains r && ((suiteChans d s).any fun c => decide ((roomOf (chanOf d c) n).tier.t1max.toNat < pages)) then only d .quotaExceeded
  else match startTensors d s n with
    | none => only d .quotaExceeded
    | some d1 =>
      let d2 := modChans d1 (suiteChans d1 s) fun _ x =>
        startChannel n (par p 16 16) (if gen then store else 0) (if gen then node else 0) x
      let d3 := match r.prog with
        | some q => if r.cfg.kind = 2 then modLead d2 s (installStores n q.info.stores) else d2
        | none => d2
      only (makeEligible (bindJob d3 s n) s n) .ok

/-! ## STOP_JOB (R528) -/

def runStopJob (a : Accepted) (d : Device) : Device × Reply :=
  let s := a.suite
  let n := par a.params 0 6
  let r := namedRoom d s n
  if !reservedClear a.params [(0, 6)] || !mayName a r then only d .badCommand
  else if roomState r = rsStopped then only d .ok
  else if !isStarted r then only d .badCommand
  else if runningRoom d s = some n then (modLeadRoom d s n fun r => { r with stopping := true }, .wait (.stop s n))
  else only (stopRoom (endCapture d s n) s n) .ok

end Sys2Proof.Machine
end

