-- ==== Sys2Proof/Machine/HostLoads.lean ====
section
/-! DEFINITION. Machine/HostLoads.lean: PIN_ADAPTER, UNPIN_ADAPTER, LOAD_WEIGHTS and the sealed payloads that they open (R322, R326, R329 to R335, R343 to R345, R436 to R440, R566, R567, R750). -/

namespace Sys2Proof.Machine

/-! ## Where a payload's body goes -/

/-- A run of a payload's body: its byte offset in the body, its bytes, and where it goes. -/
structure BodyRun where
  off : Nat
  len : Nat
  va : Nat
  deriving DecidableEq, Repr

/-- The part of a segment, at an offset of the body, that a piece takes: where it goes, and the bytes. -/
def bodyPart (segOff : Nat) (bs : List Byte) (p : BodyRun) : Nat × List Byte :=
  let lo := max segOff p.off
  let hi := min (segOff + bs.length) (p.off + p.len)
  (p.va + (lo - p.off), (bs.drop (lo - segOff)).take (hi - lo))

def putRun (n segOff : Nat) (bs : List Byte) (x : Channel) (p : BodyRun) : Channel :=
  let t := bodyPart segOff bs p
  if t.2.isEmpty then x else writeRoom x n t.1 t.2

/-- An adapter's body: image, of at most the 4 MiB of its home, merged copy, then the regions of its extra experts in ascending order. DESIGN CHOICE, log 64. -/
def adapterPieces (r : Room) (home image merged : Nat) (mergeVa : Nat) (xexp : W64) : List BodyRun :=
  let es := expertsOf xexp
  let at_ := if home < 4096 then slotVa home else warmVa r (home - 4096)
  [⟨0, min image 0x400000, at_⟩, ⟨image, merged, mergeVa⟩] ++
  (es.zip (List.range es.length)).map fun e => ⟨image + merged + e.2 * (xexpRun r e.1).2, (xexpRun r e.1).2, (xexpRun r e.1).1⟩

/-- The pages of such a body outside the adapter's home. -/
def extraPages (r : Room) (merged mergeVa : Nat) (xexp : W64) : List Nat :=
  (pagesOf (mergeVa, merged) ++ (expertsOf xexp).flatMap fun i => pagesOf (xexpRun r i)).eraseDups

/-- The image's header, before its data (R436). -/
def imageHeader : Nat := 4096

/-- The shard's own ranges of an image of masters (R439). -/
def masterPieces (i : ProgMeta) : List BodyRun :=
  (jobTensors i).filterMap fun t =>
    let lo := max t.1 i.firstElem
    let hi := min (t.1 + teN t.2) i.lastElem
    if hi ≤ lo then none else some ⟨imageHeader + 4 * lo, 4 * (hi - lo), masterVa t.2 + 4 * (lo - t.1)⟩

/-! ## Ends of loads -/

/-- A load's command completes with a status and words. -/
def finishLoad (d : Device) (key : CmdKey) (st : Status) (ws : List W32) : Device :=
  completeWaits { d with fy := { d.fy with loads := d.fy.loads.filter fun l => l.key != key } } fun w =>
    match w.kind with
    | .load => if w.cmd.key = key then some (st, ws) else none
    | _ => none

/-- A warm index goes: its home, its merged copy and its extra experts (R326, R344). -/
def freeWarmIx (d : Device) (s : Ch) (n w : Nat) : Device :=
  let d1 := dropExperts d s n (4096 + w)
  modChans d1 (suiteChans d1 s) fun _ x =>
    let r := roomOf x n
    modRoomC (freeRoomPages x n (warmPages r w ++ (warmOf r w).pages)) n fun r => { r with warm := tset {} r.warm w {} }

/-- Shards of a learner job on this device: the room alone when the job has one. -/
def shardRooms (d : Device) (s : Ch) (n : Nat) : List (Ch × Nat) :=
  let u := (leadRoom d s n).upd
  if u.nshards1 = 0 then [(s, n)]
  else (Ch.all.filter (suiteExists d)).flatMap fun t => (roomIndexes.filter fun k =>
    let r := leadRoom d t k
    r.prog.isSome && r.cfg.kind == 2 && r.upd.nshards1 == u.nshards1 && r.upd.rootNode == u.rootNode).map fun k => (t, k)

def metaOf (r : Room) : ProgMeta := match r.prog with | some p => p.info | none => {}

/-- Masters that have not all come: the ranges are +0 again, and the pages that the load took are free (R440, R567). -/
def undoMasters (d : Device) (s : Ch) (n : Nat) (took : List (Ch × Nat × Nat)) : Device :=
  let d1 := (shardRooms d s n).foldl (fun d q => modChans d (suiteChans d q.1) fun _ x =>
    ((masterPieces (metaOf (roomOf x q.2))).map fun p => (p.va, p.len)).foldl (zeroRun q.2) x) d
  took.foldl (fun d t => modChan d t.1 fun x => freePage x (.room t.2.1 t.2.2)) d1

/-- A load fails: everything that it took is free, and no plaintext is left (R344, R440, R567). -/
def failLoad (d : Device) (l : Load) (st : Status) : Device :=
  let d1 := match l.target with
    | .adapter s n h => if h < 4096 then freeSlot d s n h else freeWarmIx d s n (h - 4096)
    | .copy s k => freeCopy d s k
    | .masters s n => undoMasters d s n l.took
  finishLoad d1 l.key st []

def loadOf (d : Device) (k : CmdKey) : Option Load := d.fy.loads.find? fun l => l.key == k
def modLoad (d : Device) (k : CmdKey) (f : Load → Load) : Device :=
  { d with fy := { d.fy with loads := d.fy.loads.map fun l => if l.key = k then f l else l } }

/-! ## SEALED_PAYLOAD_SEGMENT (R566) -/

def segBytes : Nat := 65536

/-- The plaintext of a segment goes to its pages on every channel (R566, R752). -/
def placeSegment (d : Device) (l : Load) (off : Nat) (bs : List Byte) : Device :=
  match l.target with
  | .adapter s n h => modChans d (suiteChans d s) fun _ x =>
      let r := roomOf x n
      let t := if h < 4096 then ((adpOf x h).reg.mergeVa, (adpOf x h).reg.xexp) else ((warmOf r (h - 4096)).mergeVa, (warmOf r (h - 4096)).xexp)
      (adapterPieces r h l.image l.merged t.1.toNat t.2).foldl (putRun n off bs) x
  | .copy s k =>
    let w := leadCopy d s k
    let t := bodyPart off bs ⟨imageHeader, w.reg.pages.toNat * pageBytes, w.reg.base.toNat * pageBytes⟩
    if t.2.isEmpty then d else modChans d (suiteChans d s) fun _ x => writeCommon x t.1 t.2
  | .masters s n => (shardRooms d s n).foldl (fun d q => modChans d (suiteChans d q.1) fun _ x =>
      (masterPieces (metaOf (roomOf x q.2))).foldl (putRun q.2 off bs) x) d

/-- The next segment of a payload: its tag is checked as it comes (R566, R567). -/
def segment (k : CmdKey) (seg : Nat) (bs : List Byte) (tagOk : Bool) (d : Device) : Device :=
  match loadOf d k with
  | none => d
  | some l =>
    let whole := if seg + 1 < l.segs then bs.length == segBytes else 1 ≤ bs.length && bs.length ≤ segBytes
    if seg != l.next || l.segs ≤ seg || !whole then d
    else if !tagOk then failLoad d l .attestFail
    else modLoad (placeSegment d l (segBytes * seg) bs) k fun l => { l with next := seg + 1 }

def execSealedPayloadSegment (k : CmdKey) (seg : Nat) (bytes : List Byte) (tagOk : Bool) (s : State) : Out := onDev (segment k seg bytes tagOk) s

/-- HOST_COMPLETION_TIMEOUT: a fetch of a load has timed out (R750). -/
def fetchTimeout (k : CmdKey) (d : Device) : Device :=
  match loadOf d k with
  | some l => failLoad d l .degraded
  | none => d

def execHostCompletionTimeout (k : CmdKey) (s : State) : Out := onDev (fetchTimeout k) s

/-! ## PIN_ADAPTER (R329, R343, R344) -/

/-- The oldest CACHE slot of a room to whose adapter no stream is bound. -/
def oldestCache (d : Device) (s : Ch) (n : Nat) : Option Nat :=
  ((roomSlots (chanOf d (leadOf d s)) n).filter fun e => e.2.reg.state == asCache && !warmStreams d s n e.2.reg.warm.toNat).foldl
    (fun (b : Option (Nat × Nat)) e => match b with
      | none => some (e.1, e.2.stamp)
      | some t => if e.2.stamp < t.2 then some (e.1, e.2.stamp) else b) none |>.map (·.1)

/-- The slot that a claim takes (R329): none when the claim fails. -/
def claimSlot (d : Device) (s : Ch) (n : Nat) (p : BitVec 15872) : Option Nat :=
  let x := chanOf d (leadOf d s)
  if parB p 10 then
    match slotIxs.find? fun k => (adpOf x k).reg.state == asFree with
    | some k => some k
    | none => oldestCache d s n
  else
    let k := par p 16 12
    let e := adpOf x k
    if e.reg.state = asFree || (e.reg.state = asCache && !warmStreams d s e.reg.room.toNat e.reg.warm.toNat) then some k else none

/-- A customer is bound, or a claim in progress is to bind it. -/
def customerTaken (d : Device) (s : Ch) (n c : Nat) : Bool :=
  (bindingOf (leadRoom d s n) c).kind != 0 ||
  (roomSlots (chanOf d (leadOf d s)) n).any (fun e => e.2.reg.state == asLoading && !e.2.fetching && e.2.reg.owner.toNat == c) ||
  (leadRoom d s n).warm.any fun e => e.2.loading && e.2.owner.toNat == c

/-- The home that a claim takes; none when the claim fails (R329). -/
def claimHome (d : Device) (s : Ch) (n : Nat) (p : BitVec 15872) : Option Nat :=
  let r := leadRoom d s n
  if (expertsOf (BitVec.ofNat 64 (par p 256 64))).any (fun i => (tget none r.xexps i).isSome) || (customerTaken d s n (par p 32 12) && !parB p 9) then none
  else if par p 6 2 = 1 then (if (warmOf r (par p 48 16)).held then none else some (4096 + par p 48 16))
  else claimSlot d s n p

/-- Pages of a claim on every channel of the suite; none when one lacks. -/
def claimPages (d : Device) (s : Ch) (n home : Nat) (extra : List Nat) : Option Device :=
  (suiteChans d s).foldlM (fun d c =>
    let r := roomOf (chanOf d c) n
    let got := if home < 4096 then allocRoomPages (chanOf d c) n 1 (slotPageList home)
      else allocRoomPages (chanOf d c) n 2 (warmPages r (home - 4096))
    (got.bind fun x => allocRoomPages x n 0 extra).map fun x => setChan d c x) d

/-- The entries of a claim: its home is LOADING, and its extra experts are claimed. -/
def claimEntries (a : Accepted) (s : Ch) (n home : Nat) (d : Device) : Device :=
  let p := a.params
  let xexp : W64 := BitVec.ofNat 64 (par p 256 64)
  let mergeVa : BitVec 48 := if parB p 8 then a.data.mergeVa else 0
  let mine := pagesOf (mergeVa.toNat, if parB p 8 then a.data.mergedBytes else 0)
  let owner : BitVec 12 := BitVec.ofNat 12 (par p 32 12)
  let d1 := modLeadRoom d s n fun r => { r with xexps := (expertsOf xexp).foldl (fun t i => tset none t i (some home)) r.xexps }
  let warm : WarmAdp :=
    { held := true, loading := true, owner := owner, xexp := xexp, merged := parB p 8, mergeVa := mergeVa, pages := mine }
  if home < 4096 then
    modAdps d1 s home fun _ =>
      { reg := { state := asLoading, room := BitVec.ofNat 6 n, owner := owner, merged := parB p 8, va := BitVec.ofNat 48 (slotVa home),
                 xexp := xexp, mergeVa := mergeVa },
        pages := slotPageList home ++ mine }
  else modSuiteRoom d1 s n fun r => { r with warm := tset {} r.warm (home - 4096) warm }

/-- The claim stands, and the payload is on its way. -/
def startAdapter (a : Accepted) (s : Ch) (n home : Nat) (d : Device) : Device × Reply :=
  let p := a.params
  let r := leadRoom d s n
  let merged := if parB p 8 then a.data.mergedBytes else 0
  let mergeVa : BitVec 48 := if parB p 8 then a.data.mergeVa else 0
  let extra := extraPages r merged mergeVa.toNat (BitVec.ofNat 64 (par p 256 64))
  let d2 := claimEntries a s n home d
  let l : Load := { key := a.key, target := .adapter s n home, segs := a.data.payload.segs, image := a.data.adapterBytes, merged := merged,
                    kind := par p 6 2 }
  match claimPages d2 s n home extra with
  | none => only (if home < 4096 then freeSlot d2 s n home else freeWarmIx d2 s n (home - 4096)) .quotaExceeded
  | some d3 =>
    let d4 := { d3 with fy := { d3.fy with loads := d3.fy.loads ++ [l] } }
    if accessFails d (chanOf d (leadOf d s)) a.data (par p 64 4) then only (failLoad d4 l .degraded) .degraded
    else if !opens a.data.payload 2 false r.key || !contOk r a.data.payload then only (failLoad d4 l .attestFail) .attestFail
    else (modSuiteRoom d4 s n (setCont a.data.payload), .wait .load)

/-- PIN_ADAPTER (Table 8.9). A fine-tune room holds adapters only in TRAIN slots, and takes no other KIND (R346). DEDUCED, log 129. -/
def runPinAdapter (a : Accepted) (d : Device) : Device × Reply :=
  let p := a.params
  let s := a.suite
  let n := par p 0 6
  let kind := par p 6 2
  let r := namedRoom d s n
  let x := chanOf d (leadOf d s)
  if suiteDraining d s then only d .draining
  else if !reservedClear p [(0, 11), (16, 12), (32, 12), (48, 16), (64, 4), (128, 64), (192, 64), (256, 64)] || !mayName a r || r.prog.isNone ||
      kind == 3 || (kind != 2 && r.cfg.kind == 3) || (expertsOf (BitVec.ofNat 64 (par p 256 64))).any (fun i => r.adp.xexpN.toNat ≤ i) ||
      (kind == 1 && decide (r.adp.warmMax.toNat ≤ par p 48 16)) || (kind == 2 && r.cfg.kind != 3) ||
      (parB p 8 && (kind == 2 || r.cfg.kind == 3)) || !regionAllows x [1, 3, 4] 64 (par p 64 4) (par p 128 64) (par p 192 64) then only d .badCommand
  else match claimHome d s n p with
    | none => only d .slotBusy
    | some home =>
      let e := adpOf x home
      let d1 := if home < 4096 && e.reg.state = asCache then freeSlot d s e.reg.room.toNat home else d
      startAdapter a s n home d1

/-- The home that a binding names is released (R334). -/
def releaseBinding (d : Device) (s : Ch) (n : Nat) (b : AdpBind) : Device :=
  if b.kind = 1 then releaseSlot d s b.slot.toNat
  else if b.kind = 2 then modSuiteRoom d s n fun r => { r with warm := tmod {} r.warm b.warm.toNat fun w => { w with unpinned := true } }
  else d

/-- The opened image at a room virtual address passes R322 (Table 8.1): its header fits the room and the claim, its data have their length, and
every scale and offset is finite. -/
def imagePasses (x : Channel) (n a bytes : Nat) (xexp : W64) : Bool :=
  let r := roomOf x n
  let i := metaOf r
  let u := fun (off len : Nat) => readRoomLe x n (a + off) len
  let h := u 0 8
  bytes == 4096 + pointBytes i && bitsOf h 0 8 == 1 && bitsOf h 8 11 == r.adp.points.toNat && bitsOf h 19 13 == 0 && bitsOf h 32 32 == pointBytes i &&
  u 8 8 == r.adp.pointSig.toNat && u 16 8 == xexp.toNat && ((expertsOf xexp).all fun e => e < r.adp.xexpN.toNat) &&
  ((readRoom x n (a + 24) 4072).all fun b => b == 0) &&
  (List.range (pointBytes i / 4)).all fun k => fp32Finite (BitVec.ofNat 32 (u (4096 + 4 * k) 4))

/-- The image that a load of an adapter has opened passes. -/
def loadPasses (d : Device) (s : Ch) (n h : Nat) (l : Load) : Bool :=
  let x := chanOf d (leadOf d s)
  if h < 4096 then imagePasses x n (slotVa h) l.image (adpOf x h).reg.xexp
  else imagePasses x n (warmVa (roomOf x n) (h - 4096)) l.image (warmOf (roomOf x n) (h - 4096)).xexp

/-- ADAPTER_LOAD_DONE, for the home that the command has claimed: the opened image is checked (R322), and with it its home is in service and its customer bound (R330, R334); the home keeps
the image's digest (R575). -/
def adapterDone (k : CmdKey) (home : Nat) (d : Device) : Device :=
  match loadOf d k with
  | none => d
  | some l =>
    match l.target with
    | .adapter s n h =>
      let x := chanOf d (leadOf d s)
      let digest := sha3 (readRoom x n (if h < 4096 then slotVa h else warmVa (roomOf x n) (h - 4096)) l.image)
      if l.next != l.segs || h != home then d
      else if !loadPasses d s n h l then failLoad d l .badCommand
      else if h < 4096 then
        let owner := (adpOf (chanOf d (leadOf d s)) h).reg.owner.toNat
        let old := bindingOf (leadRoom d s n) owner
        let d1 := modAdps d s h fun e => { e with digest := digest, reg := { e.reg with state := if l.kind = 2 then asTrain else asReady } }
        let d2 := setBinding (releaseBinding d1 s n old) s n owner { kind := 1, slot := BitVec.ofNat 12 h }
        finishLoad d2 k .ok [BitVec.ofNat 32 h]
      else
        let w := h - 4096
        let owner := (warmOf (leadRoom d s n) w).owner.toNat
        let old := bindingOf (leadRoom d s n) owner
        let d1 := modSuiteRoom d s n fun r => { r with warm := tmod {} r.warm w fun a => { a with loading := false, digest := digest } }
        let d2 := setBinding (releaseBinding d1 s n old) s n owner { kind := 2, warm := BitVec.ofNat 16 w }
        finishLoad d2 k .ok [0]
    | _ => d

def execAdapterLoadDone (k : CmdKey) (home : Nat) (s : State) : Out := onDev (adapterDone k home) s

/-! ## UNPIN_ADAPTER (R335, R345) -/

/-- A customer's binding goes when it names this home. -/
def dropBinding (d : Device) (s : Ch) (n c : Nat) (p : AdpBind → Bool) : Device :=
  if p (bindingOf (leadRoom d s n) c) then
    modLeadRoom d s n fun r => { r with binds := tset {} r.binds c {}, admBinds := tset {} r.admBinds c {} }
  else d

/-- UNPIN_ADAPTER. A CACHE slot that the room holds is one of its slots: its customer's binding, to the warm adapter, goes as any other, and the
slot is RELEASING. DEDUCED, log 129. -/
def runUnpinAdapter (a : Accepted) (d : Device) : Device × Reply :=
  let p := a.params
  let s := a.suite
  let n := par p 0 6
  let kind := par p 6 2
  let r := namedRoom d s n
  let fields := if kind = 1 then [(0, 8), (48, 16)] else [(0, 8), (16, 12)]
  if suiteDraining d s then only d .draining
  else if !reservedClear p fields || kind == 3 || roomState r == rsFree || !mayName a r then only d .badCommand
  else if kind == 1 then
    let w := par p 48 16
    let m := warmOf r w
    if !m.held then only d .badCommand
    else if m.loading then only d .slotBusy
    else
      let d1 := dropBinding d s n m.owner.toNat fun b => b.kind == 2 && b.warm.toNat == w
      only (releaseBinding d1 s n { kind := 2, warm := BitVec.ofNat 16 w }) .ok
  else
    let k := par p 16 12
    let e := adpOf (chanOf d (leadOf d s)) k
    if e.reg.state == asFree || e.reg.room.toNat != n then only d .badCommand
    else if e.reg.state == asLoading then only d .slotBusy
    else
      let d1 := dropBinding d s n e.reg.owner.toNat fun b =>
        (b.kind == 1 && b.slot.toNat == k) || (e.reg.state == asCache && b.kind == 2 && b.warm == e.reg.warm)
      only (releaseSlot d1 s k) .ok

/-! ## LOAD_WEIGHTS (R437 to R440) -/

/-- The fields of Table 11.3. -/
def loadFields : List (Nat × Nat) := [(0, 17), (32, 32), (64, 64), (128, 64)] ++ (List.range 7).map fun i => (32 * i + 192, 18)

/-- The replicas that the command lists for a model (R447). -/
def listReplicas (p : BitVec 15872) (q : SrvWmodel) : SrvWmodel :=
  let r := fun (i : Nat) => (BitVec.ofNat 18 (par p (32 * i + 192) 18))
  { q with replN := BitVec.ofNat 3 (par p 14 3), repl0 := r 0, repl1 := r 1, repl2 := r 2, repl3 := r 3, repl4 := r 4, repl5 := r 5, repl6 := r 6 }

/-- The header of the opened image agrees with the command. -/
def headerAgrees (h : WeightHdr) (p : BitVec 15872) : Bool :=
  h.ok && h.kind.toNat == par p 0 2 && (par p 0 2 != 0 || h.model.toNat == par p 2 2) && h.wgen.toNat == par p 32 32

/-- A serving copy: the entry and its pages are taken before the first data byte is read (R438). -/
def loadCopy (a : Accepted) (s : Ch) (d : Device) : Device × Reply :=
  let p := a.params
  let m := par p 2 2
  let h := a.data.weights
  match claimCopy d s m h.pages.toNat csLoading with
  | none => only (countDefer d s m none) .switchDeferred
  | some (k, d1) =>
    let d2 := modLead d1 s fun x => modModel (modCopy x k fun w =>
      { w with layers := h.layers, ppl := h.ppl, source := .image, tileLen := h.tileLen,
               reg := { w.reg with wgen := h.wgen, tiles := h.tiles, deferred := false } }) m (listReplicas p)
    let l : Load := { key := a.key, target := .copy s k, segs := a.data.payload.segs, hdr := h }
    ({ d2 with fy := { d2.fy with loads := d2.fy.loads ++ [l] } }, .wait .load)

/-- Pages for the masters and copies of every shard on this device, with those that were not there; none when an account cannot take them. -/
def takeMasters (d : Device) (s : Ch) (n : Nat) : Option (Device × List (Ch × Nat × Nat)) :=
  (shardRooms d s n).foldlM (fun (t : Device × List (Ch × Nat × Nat)) q =>
    (suiteChans t.1 q.1).foldlM (fun (t : Device × List (Ch × Nat × Nat)) c =>
      let x := chanOf t.1 c
      let pages := masterPages (metaOf (roomOf x q.2))
      let new := pages.filter fun k => !(tget {} (roomOf x q.2).pages k).valid
      (allocRoomPages x q.2 0 pages).map fun y => (setChan t.1 c y, t.2 ++ new.map fun k => (c, q.2, k))) t) (d, [])

/-- Training masters (R439); the accounts are asked before the image is opened (Table 11.4). -/
def loadMasters (a : Accepted) (s : Ch) (n : Nat) (opened : Bool) (d : Device) : Device × Reply :=
  match takeMasters d s n with
  | none => only d .quotaExceeded
  | some t =>
    if !opened then only d .attestFail else
    let l : Load := { key := a.key, target := .masters s n, segs := a.data.payload.segs, hdr := a.data.weights, took := t.2 }
    (modSuiteRoom { t.1 with fy := { t.1.fy with loads := t.1.fy.loads ++ [l] } } s n (setCont a.data.payload), .wait .load)

def runLoadWeights (a : Accepted) (d : Device) : Device × Reply :=
  let p := a.params
  let s := a.suite
  let kind := par p 0 2
  let m := par p 2 2
  let n := par p 4 6
  let r := namedRoom d s n
  let x := chanOf d (leadOf d s)
  let reg := par p 10 4
  let key := if kind = 0 then x.suiteKey else r.key
  let opened := opens a.data.payload 1 (kind == 0) key
  let old := copyIxs.any fun k => copyState x k != csFree && copyModel x k == m && decide (par p 32 32 ≤ (wgenOf x k).toNat)
  if suiteDraining d s then only d .draining
  else if !reservedClear p loadFields || !suiteExists d s || 2 ≤ kind || (kind == 1 && (r.cfg.kind != 2 || r.prog.isNone || !mayName a r)) ||
      (kind == 0 && old) || (opened && !headerAgrees a.data.weights p) ||
      !regionAllows x [1, 3, 4] 65536 reg (par p 64 64) (par p 128 64) then only d .badCommand
  else if accessFails d x a.data reg then only d .degraded
  else if kind == 0 then
    -- of an image that does not open, the pages are not known
    if opened then loadCopy a s d else if (freeCopyIx x).isNone then only (countDefer d s m none) .switchDeferred else only d .attestFail
  else loadMasters a s n (opened && contOk r a.data.payload) d

/-- Both copies of the masters that have come, on every channel of a shard (R439, R421). -/
def deriveCopies (d : Device) (q : Ch × Nat) (wgen : W32) : Device :=
  modChans d (suiteChans d q.1) fun _ x =>
    let i := metaOf (roomOf x q.2)
    let y := (jobTensors i).foldl (fun x t =>
      let lo := max t.1 i.firstElem
      let hi := min (t.1 + teN t.2) i.lastElem
      if hi ≤ lo then x else (writeCopies q.2 t.2 (lo - t.1) (hi - t.1) x).getD x) x
    modRoomC y q.2 fun r => { r with
      trn := { r.trn with wgen := wgen },
      train := { r.train with verMap := (List.range r.trn.vwPages.toNat).foldl (fun v k => tset 0 v k wgen) r.train.verMap } }

/-- WEIGHT_LOAD_FETCH_DONE: every tile has been fetched, and again where it mismatched (R438); a copy goes on to its comparison, and masters
are complete (R439, R440). -/
def weightsDone (k : CmdKey) (c : WeightCheck) (d : Device) : Device :=
  match loadOf d k with
  | none => d
  | some l =>
    if l.next != l.segs then d else
    match l.target with
    | .copy s j => copyFetched d s j l c.again
    | .masters s n =>
      if !c.bad.isEmpty then failLoad d l .attestFail
      else finishLoad ((shardRooms d s n).foldl (fun d q => deriveCopies d q l.hdr.wgen) d) k .ok []
    | .adapter _ _ _ => d

def execWeightLoadFetchDone (k : CmdKey) (r : WeightCheck) (s : State) : Out := withBoard (weightsDone k r) s

end Sys2Proof.Machine
end

