-- ==== Sys2Proof/Machine/HostCkp.lean ====
section
/-! DEFINITION. Machine/HostCkp.lean: CHECKPOINT_NOW, CHECKPOINT_POLICY, RESTORE and SHRINK_JOB (R49, R571, R622, R625 to R631, R638, R644 to R650). -/

namespace Sys2Proof.Machine

/-! ## CHECKPOINT_NOW (R628 to R630) -/

/-- CHECKPOINT_NOW refuses the room (R625, R630). -/
def cutRefused (r : Room) (cut : Bool) : Bool := !isStarted r || !hasAttic r || (cut && r.upd.nshards1 != 0)

/-- What has become of a room's cut: the capture to wait for, with true for the cut behind a running capture, or the outcome. -/
def cutAsked (d : Device) (s : Ch) (n : Nat) (later : Bool) : Option (Ch × Nat × Bool) × Status :=
  let r := leadRoom d s n
  if !isStarted r then (none, .badCommand)
  else if r.ckps.capture.isSome || r.ckps.due.isSome then (some (s, n, later), .ok)
  else (none, .quotaExceeded)

/-- A room takes the command's cut; in a sharded job shard 0 names the step, and the other shards start no capture of their own (R626). -/
def nowCut (d : Device) (s : Ch) (n : Nat) (cut : Bool) : Device × Option (Ch × Nat × Bool) × Status :=
  let r := leadRoom d s n
  let later := r.ckps.capture.isSome
  if r.upd.nshards1 != 0 then
    if r.upd.shard = 0 then
      (modLeadRoom d s n fun r => { r with ckps := { r.ckps with jobAsk := true } }, some (s, n, later), .ok)
    else (d, none, .ok)
  else
    let d1 := idleBoundary (askCut d s n cut) s n
    (d1, cutAsked d1 s n later)

/-- SCOPE 1: every STARTED room of the device, each with its own cut. -/
def startedRooms (d : Device) : List (Ch × Nat) :=
  (Ch.all.filter (suiteExists d)).flatMap fun s => (roomIndexes.filter fun n => isStarted (leadRoom d s n)).map fun n => (s, n)

/-- What a command with SCOPE 1 has gathered: the rooms to wait for, the first failing status, and the rooms that failed. -/
structure CutTally where
  rooms : List (Ch × Nat × Bool) := []
  first : Status := .ok
  failed : List Nat := []

def tallyCut (t : CutTally) (n : Nat) (o : Option (Ch × Nat × Bool) × Status) : CutTally :=
  { rooms := t.rooms ++ o.1.toList, first := if t.first = .ok then o.2 else t.first, failed := if o.2 = .ok then t.failed else t.failed ++ [n] }

def nowAll (d : Device) : Device × CutTally :=
  (startedRooms d).foldl (fun t q =>
    let r := leadRoom t.1 q.1 q.2
    if cutRefused r r.ckp.cut then (t.1, tallyCut t.2 q.2 (none, .badCommand))
    else let o := nowCut t.1 q.1 q.2 r.ckp.cut; (o.1, tallyCut t.2 q.2 o.2)) (d, {})

def runCheckpointNow (a : Accepted) (d : Device) : Device × Reply :=
  let p := a.params
  let s := a.suite
  let n := par p 0 6
  let all := parB p 6
  let r := namedRoom d s n
  if !reservedClear p [(0, 8)] || (all && !a.fn.isPF) || (!all && (!mayName a r || cutRefused r (parB p 7))) then only d .badCommand
  else if all then
    let t := nowAll d
    if t.2.rooms.isEmpty then
      let b := roomBits t.2.failed
      (t.1, .done t.2.first [0, b.setWidth 32, b.extractLsb' 32 32])
    else (t.1, .wait (.checkpoint t.2.rooms t.2.first t.2.failed true))
  else
    let o := nowCut d s n (parB p 7)
    match o.2.1 with
    | some w => (o.1, .wait (.checkpoint [w] .ok [] false))
    | none => only o.1 o.2.2

/-! ## CHECKPOINT_POLICY and ATTIC_RELEASE (R631, R638) -/

/-- The words +0x00, +0x08 and +0x10 of CKP_ROOM_n that the command carries. -/
def policyWords (p : BitVec 15872) (k : CkpRoom) : CkpRoom :=
  putCkpRoom (putCkpRoom (putCkpRoom k 0 (BitVec.ofNat 64 (par p 64 64))) 1 (BitVec.ofNat 64 (par p 128 64))) 2 (BitVec.ofNat 64 (par p 192 64))

def policyFields : List (Nat × Nat) := [(0, 7), (64, 3), (72, 4), (80, 16), (96, 32), (128, 18), (160, 32), (192, 64)]

/-- A node lies on the device of a channel of the room. -/
def onOwnDevice (d : Device) (s : Ch) (node : BitVec 18) : Bool :=
  (suiteChans d s).any fun c => (chanOf d c).node.device == node.extractLsb' 2 16

/-- Tells a holder that an Attic is released; one that a channel of this device hosts goes at once. -/
def releaseAttic (d : Device) (s : Ch) (n : Nat) (node : BitVec 18) : Device :=
  let mine := nodeOf (chanOf d (leadOf d s))
  let d1 := modChans d Ch.all fun _ x =>
    if nodeOf x = node then { x with attics := x.attics.filter fun k => !(k.node == mine && k.room == n) } else x
  sendMsg d1 (leadOf d s) { node := node, queue := 1, reply := 0, bytes := leBytes 1 n }

/-- The Attic that an earlier commit may lie in stays until the first commit in the new one; one without a commit is released (R638). -/
def leaveAttic (d : Device) (s : Ch) (n : Nat) : Device :=
  let r := leadRoom d s n
  if !hasAttic r then d
  else if r.ckps.oldAttic.isSome then releaseAttic d s n r.ckp.atticNode
  else modLeadRoom d s n fun r => { r with ckps := { r.ckps with oldAttic := some (r.ckp.atticNode, r.ckp.atticPages.toNat) } }

/-- Both slots of a room count as empty. -/
def emptySlots (r : Room) : Room :=
  { r with ckps := { r.ckps with mapA := [], mapB := [] }, ckp := { r.ckp with aValid := false, bValid := false } }

def setPolicy (a : Accepted) (s : Ch) (n : Nat) (release changed : Bool) (d : Device) : Device :=
  let r := leadRoom d s n
  if release then
    let d1 := if hasAttic r then releaseAttic d s n r.ckp.atticNode else d
    modLeadRoom d1 s n fun r => emptySlots { r with ckp := { policyWords a.params r.ckp with atticNode := 0, atticPages := 0 } }
  else
    let d1 := if changed then modLeadRoom (leaveAttic d s n) s n emptySlots else d
    let d2 := modLeadRoom d1 s n fun r => { r with ckp := policyWords a.params r.ckp }
    let k := (leadRoom d2 s n).ckp
    if changed && k.atticPages != 0 then
      sendMsg d2 (leadOf d2 s) { node := k.atticNode, queue := 1, reply := 0, bytes := leBytes 1 n ++ leBytes 4 k.atticPages.toNat }
    else d2

def runCheckpointPolicy (a : Accepted) (d : Device) : Device × Reply :=
  let p := a.params
  let s := a.suite
  let n := par p 0 6
  let release := parB p 6
  let r := namedRoom d s n
  let node : BitVec 18 := BitVec.ofNat 18 (par p 128 18)
  let pages := par p 160 32
  let changed := node != r.ckp.atticNode || pages != r.ckp.atticPages.toNat
  let moves := release || node != r.ckp.atticNode
  if !reservedClear p policyFields || par p 192 64 % 65536 != 0 || roomState r = rsFree || !mayName a r ||
      (!release && pages != 0 && onOwnDevice d s node) || (parB p 65 && r.upd.nshards1 != 0) ||
      (r.ckps.capture.isSome && moves) then only d .badCommand
  else if !release && changed && pages != 0 && !a.data.holderOk then only d .quotaExceeded
  else only (setPolicy a s n release changed d) .ok

/-! ## What a slot gives back (R645, Table 16.1) -/

/-- A register word as a restore leaves it: its RW and RW-L fields from the slot. -/
def mixWord (w : RegWord) (img cur : W64) : W64 :=
  let m := (wordMask w).rw ||| (wordMask w).rwl
  (img &&& m) ||| (cur &&& ~~~m)

def mixWords {α : Type} (get : α → Nat → W64) (put : α → Nat → W64 → α) (ws : List RegWord) (img cur : α) : α :=
  ((List.range ws.length).zip ws).foldl (fun c w => put c w.1 (mixWord w.2 (get img w.1) (get c w.1))) cur

/-- The registers of Table 16.1; the Attic that the room names is that of the command (R638). -/
def restoreRegs (img r : Room) : Room :=
  let ckp := mixWords getCkpRoom putCkpRoom [.ckpRoom0, .ckpRoom1, .ckpRoom2] img.ckp r.ckp
  { r with
    cfg := mixWords getRoomCfg putRoomCfg [.roomCfg0, .roomCfg1, .roomCfg2, .roomCfg3] img.cfg r.cfg,
    rng := mixWords getRngRoom putRngRoom [.rngRoom0, .rngRoom1, .rngRoom2] img.rng r.rng,
    kv := mixWords getKvRoom putKvRoom [.kvRoom0, .kvRoom1, .kvRoom2, .kvRoom3, .kvRoom4] img.kv r.kv,
    srv := mixWords getSrvRoom putSrvRoom [.srvRoom0, .srvRoom1, .srvRoom2, .srvRoom3, .srvRoom4, .srvRoom5, .srvRoom6] img.srv r.srv,
    adp := mixWords getAdpRoom putAdpRoom [.adpRoom0, .adpRoom1, .adpRoom2, .adpRoom3, .adpRoom4, .adpRoom5] img.adp r.adp,
    trn := mixWords getTrnRoom putTrnRoom
      [.trnRoom0, .trnRoom1, .trnRoom2, .trnRoom3, .trnRoom4, .trnRoom5, .trnRoom6, .trnRoom7, .trnRoom8, .trnRoom9, .trnRoom10, .trnRoom11]
      img.trn r.trn,
    bcast := mixWords getTrnBcast putTrnBcast [.trnBcast0, .trnBcast1, .trnBcast2] img.bcast r.bcast,
    upd := mixWords getUpdRoom putUpdRoom
      [.updRoom0, .updRoom1, .updRoom2, .updRoom3, .updRoom4, .updRoom5, .updRoom6, .updRoom7, .updRoom8, .updRoom9, .updRoom10]
      img.upd r.upd,
    fab := mixWords getFabRoom putFabRoom [.fabRoom0, .fabRoom1] img.fab r.fab,
    tier := mixWords getTierAcct putTierAcct [.tierAcct0, .tierAcct1] img.tier r.tier,
    sch := mixWords getSchRoom putSchRoom [.schRoom0] img.sch r.sch,
    ckp := { ckp with atticNode := r.ckp.atticNode, atticPages := r.ckp.atticPages } }

/-- The room's training state as the slot holds it; frames and dropped segments are live state (R316, R386, Table 16.1). -/
def restoreTrain (point : Bool) (img : Room) : TrainState :=
  let t := img.train
  if point then { t with refs := [], shadows := [] } else { hist := t.hist, gfmt := t.gfmt, verMap := t.verMap }

/-- The slot's contents in a room whose registers and pages have been written; from a POINT cut with the live state (R645). -/
def restoreState (k : SlotImage) (img r : Room) : Room :=
  let pt := k.point
  { r with
    ctx := if pt then img.ctx else {}, saved := if pt then img.saved else {}, fresh := !pt || img.fresh,
    yielded := if pt then img.yielded else none, arrivals := if pt then img.arrivals else [],
    stopping := false, staging := if pt then img.staging else [], appends := 0, slotWaits := [], switchTo := [], faultStatus := .ok, jobWgen := none,
    binds := img.binds, admBinds := img.binds, warm := img.warm.filter (fun w => !w.2.loading), xexps := img.xexps,
    gens := img.gens, train := restoreTrain pt img, update := if pt then img.update else {},
    store := img.store, storeNode := img.storeNode, steps := k.step,
    serve := { r.serve with step := img.serve.step, table := [], inStep := pt && img.serve.inStep, sampled := pt && img.serve.sampled,
                            toFabric := [] },
    trn := { r.trn with
      wgen := img.trn.wgen, stwTop := if pt then img.trn.stwTop else 0, topMb := if pt then img.trn.topMb else 0,
      cisLive := if pt then img.trn.cisLive else 0, shadows := 0 },
    upd := { r.upd with step := img.upd.step },
    fab := { r.fab with arrUsed := 0 } }

/-- Adapter slot entries of the room, as captured; every REFS is 0 (R336, R622). -/
def restoreSlots (k : SlotImage) (n : Nat) (x : Channel) : Channel :=
  let others := x.slots.filter fun e => e.2.reg.state == asFree || e.2.reg.room.toNat != n
  let mine := k.slots.filter fun e => e.2.reg.state != asFree && e.2.reg.state != asLoading
  { x with slots := mine.foldl (fun t e =>
      tset {} t e.1 { e.2 with fetching := false, reg := { e.2.reg with room := BitVec.ofNat 6 n, refs := 0 } }) others }

/-- A slot of the image is held by another room here. -/
def slotTaken (k : SlotImage) (n : Nat) (x : Channel) : Bool :=
  k.slots.any fun e => (adpOf x e.1).reg.state != asFree && (adpOf x e.1).reg.room.toNat != n

/-- A page comes back with its bytes. -/
def restorePage (n : Nat) (img : Room) (x : Channel) (e : Nat × Pte) : Option Channel :=
  (allocRoomPage e.2.place n x e.1).map fun y => writePage y n e.1 (e.1 * pageBytes) (readBytes img.mem (e.1 * pageBytes) pageBytes)

/-- Ballutos has the GFMT bytes of the step that follows a STEP cut ready in WS, as the interrupted job had them (R384, R386); a POINT cut's live
state holds them. -/
def putFormats (point : Bool) (n : Nat) (x : Channel) : Channel :=
  let r := roomOf x n
  if point || !trains r || r.train.gfmt.isEmpty then x
  else putRoomWs x n r.trn.gfmtAddr.toNat ((List.range (r.trn.glayers.toNat * r.trn.tpl.toNat)).map fun t => tget 0 r.train.gfmt t)

/-- A room's registers, pages and state on one channel; none when its account cannot take the pages (Table 16.6 row 3). Pages that no cut
of this kind captures because they are scratch stay as they are. -/
def restoreChan (k : SlotImage) (n : Nat) (c : Ch) (x : Channel) : Option Channel :=
  let img := k.rooms.get c
  let old := (tkeys (roomOf x n).pages).filter fun p => k.point || !((scratchRanges (roomOf x n)).any (inRange p))
  let y := modRoomC (freeRoomPages x n old) n (restoreRegs img)
  let pages := capturedPages img k.point
  if slotTaken k n x || !accountFits y n (roomOf y n).tier.t1min.toNat then none else
  (pages.foldlM (restorePage n img) { y with arose := y.arose.filter fun e => match e.1 with | .mem m _ => m != n | _ => true }).map fun z =>
    restoreSlots k n (putFormats k.point n (modRoomC z n fun r =>
      { restoreState k img r with
        pages := r.pages.map fun e => (e.1, { e.2 with dirty := false, poison := img.poison.any fun l => l / 1024 == e.1 }),
        poison := img.poison.filter fun l => pages.any fun e => e.1 == l / 1024 }))

def restoreChans (k : SlotImage) (d : Device) (s : Ch) (n : Nat) : Option Device :=
  (suiteChans d s).foldlM (fun d c => (restoreChan k n c (chanOf d c)).map fun y => setChan d c y) d

/-- The copy of the suite with a digest that a pointer may name. -/
def copyWith (d : Device) (s : Ch) (m : Nat) (g : BitVec 256) : Option Nat :=
  let x := chanOf d (leadOf d s)
  copyIxs.find? fun k =>
    let st := copyState x k
    (st == csReady || st == csCurrent || st == csRetiring) && copyModel x k == m && copyDigest (copyOf x k) == g

def modelEntries (k : SlotImage) : List (Nat × BitVec 256) :=
  ((List.range 4).zip k.models).filterMap fun e => e.2.map fun g => (e.1, g)

def bindEntries (k : SlotImage) (d : Device) (s : Ch) (n : Nat) : Device :=
  (modelEntries k).foldl (fun d e => match copyWith d s e.1 e.2 with
    | some c => bindPtr d s n e.1 c
    | none => d) (dropPtrs d s n)

/-- The slots as the room's next captures find them: the slot restored stands when its Attic is the room's own, and the other is written in
full (R645). -/
def restoreCkp (k : SlotImage) (own : Bool) (now : Nat) (r : Room) : Room :=
  let g := emptySlots r
  { g with
    ckps := { g.ckps with due := none, lastStep := k.step, lastMs := now, jobCut := none, reports := [], jobRunning := false, jobAsk := false,
                          drainDue := false, stepA := if own && !k.slotB then k.step else g.ckps.stepA,
                          stepB := if own && k.slotB then k.step else g.ckps.stepB },
    ckp := if own then { g.ckp with seq := BitVec.ofNat 64 k.seq, step := BitVec.ofNat 64 k.step, slot := k.slotB, aValid := !k.slotB, bValid := k.slotB }
           else g.ckp }

/-- The job goes on from the cut: the entries that START_JOB installs, and a place in the schedule (R516, R534). -/
def startRestored (d : Device) (s : Ch) (n : Nat) : Device :=
  let d1 := modChans d (suiteChans d s) fun _ x =>
    let y := modRoomC x n fun r => { r with cfg := { r.cfg with state := rsStarted } }
    match (roomOf x n).prog with | some q => installColls q.colls y | none => y
  let r := leadRoom d1 s n
  let d2 := match r.prog with
    | some q => if r.cfg.kind = 2 then modLead d1 s (installStores n q.info.stores) else d1
    | none => d1
  makeEligible (bindJob d2 s n) s n

/-! ## RESTORE (R644 to R646) -/

/-- The slot matches the command and the room (Table 16.6 row 2). -/
def slotMatches (d : Device) (s : Ch) (n : Nat) (k : SlotImage) (step : Nat) : Bool :=
  let r := leadRoom d s n
  k.verifies && (step == 0 || k.step == step) && (match r.prog with | some p => p.digest == k.progDigest | none => false) &&
  k.span == (suiteChans d s).length && (modelEntries k).all fun e => (copyWith d s e.1 e.2).isSome

/-- The continuity check of R571: without a secret, the pages lie under the memory key of the room that wrote them. -/
def contMatches (d : Device) (s : Ch) (n : Nat) (k : SlotImage) : Bool :=
  let r := leadRoom d s n
  match k.cont with
  | some c => r.cont == some c
  | none => r.key.isSome && r.key == (k.rooms.get (leadOf d s)).key

/-- The pages arrive whole (Table 16.6 row 4). -/
def attested (d : Device) (s : Ch) (n : Nat) (k : SlotImage) : Bool := contMatches d s n k && k.dirOk && k.fpsOk

/-- A POINT cut needs the width that the program was compiled for (R49, R645). -/
def tooNarrowFor (d : Device) (s : Ch) (n : Nat) (k : SlotImage) : Bool := k.point && tooNarrow d s (metaOf (leadRoom d s n))

/-- A failing restore leaves the room LOADED (R644). -/
def restoreFails (d : Device) (s : Ch) (n : Nat) (st : Status) : Device × Reply :=
  only (modSuiteRoom d s n fun r => { r with cfg := { r.cfg with state := rsLoaded } }) st

/-- The Attic changes hands: the holder is told, and an Attic that the room had before is left (R638). -/
def adoptAttic (a : Accepted) (s : Ch) (n : Nat) (d : Device) : Device :=
  let p := a.params
  let node : BitVec 18 := BitVec.ofNat 18 (par p 128 18)
  let pages := (a.data.slot.rooms.get (leadOf d s)).ckp.atticPages
  let r := leadRoom d s n
  let d1 := if node = r.ckp.atticNode then d else leaveAttic d s n
  let d2 := modLeadRoom d1 s n fun r => { r with ckp := { r.ckp with atticNode := node, atticPages := pages } }
  let mine := nodeOf (chanOf d2 (leadOf d2 s))
  let d3 := modChans d2 Ch.all fun _ x =>
    if nodeOf x = node then
      { x with attics := x.attics.map fun k =>
          if k.node.toNat = par p 32 18 && k.room = par p 16 6 then { k with node := mine, room := n } else k }
    else x
  sendMsg d3 (leadOf d3 s) { node := node, queue := 1, reply := 0, bytes := leBytes 1 n ++ leBytes 1 (par p 16 6) ++ leBytes 4 (par p 32 18) }

/-- The source is the room's own Attic. -/
def ownAttic (a : Accepted) (d : Device) (s : Ch) (n : Nat) : Bool :=
  let p := a.params
  let r := leadRoom d s n
  !parB p 6 && hasAttic r && r.ckp.atticNode.toNat == par p 128 18 && (nodeOf (chanOf d (leadOf d s))).toNat == par p 32 18 && n == par p 16 6

def restoreDone (a : Accepted) (s : Ch) (n : Nat) (d0 d : Device) : Device :=
  let k := a.data.slot
  let own := ownAttic a d0 s n || parB a.params 7
  let d1 := if parB a.params 7 then adoptAttic a s n d else d
  let d2 := modLeadRoom (bindEntries k d1 s n) s n (restoreCkp k own (nowMs (chanOf d1 (leadOf d1 s))))
  let d3 := if parB a.params 8 then startRestored d2 s n
    else modSuiteRoom d2 s n fun r => { r with cfg := { r.cfg with state := rsStopped } }
  afterPointers d0 d3 s

def restoreFields : List (Nat × Nat) := [(0, 9), (16, 6), (32, 18), (64, 64), (128, 18), (146, 4), (192, 64)]

def runRestore (a : Accepted) (d : Device) : Device × Reply :=
  let p := a.params
  let s := a.suite
  let n := par p 0 6
  let r := namedRoom d s n
  let k := a.data.slot
  let x := chanOf d (leadOf d s)
  let st := roomState r
  if suiteDraining d s then only d .draining
  else if !reservedClear p restoreFields || !(st == rsLoaded || st == rsStopped || st == rsFaulted) || !mayName a r ||
      (parB p 6 && !regionAllows x [1] 65536 (par p 146 4) (par p 192 64) 0) || (a.data.reached && !slotMatches d s n k (par p 64 64)) then
    only d .badCommand
  else
    let d0 := endCapture d s n
    if !a.data.reached then restoreFails d0 s n .degraded
    else match restoreChans k d0 s n with
      | none => restoreFails d0 s n .quotaExceeded
      | some d1 =>
        if !attested d s n k then restoreFails d0 s n .attestFail
        else if a.data.fails || tooNarrowFor d s n k then restoreFails d0 s n .degraded
        else only (restoreDone a s n d0 d1) .ok

/-! ## SHRINK_JOB (R648 to R650) -/

/-- An entry of the map, as a number. -/
def mapWord (a : Accepted) (off n : Nat) : Nat := leNat (sourceBytes a off n)

/-- The map at an offset of host memory: the new shards' nodes and first elements, and the old shards' first elements (R648). -/
structure ShardMap where
  root : BitVec 18
  firsts : List Nat
  olds : List Nat

def readMap (a : Accepted) (new old : Nat) : ShardMap :=
  let off := par a.params 192 64
  { root := BitVec.ofNat 18 (bitsOf (mapWord a off 16) 0 18),
    firsts := (List.range new).map fun i => bitsOf (mapWord a (off + 16 * i) 16) 64 64,
    olds := (List.range old).map fun i => bitsOf (mapWord a (off + 16 * new + 32 * i) 32) 0 64 }

/-- Elements of a job. -/
def jobSize (i : ProgMeta) : Nat := ((jobTensors i).map fun t => teN t.2).sum

/-- A shard boundary lies between tensors, or at an offset that R400 allows. -/
def boundaryOk (i : ProgMeta) (f : Nat) : Bool :=
  (jobTensors i).all fun t =>
    let off := f - t.1
    if f ≤ t.1 || t.1 + teN t.2 ≤ f then true
    else off % 16384 == 0 && ((teRule t.2 != 2 && teRule t.2 != 3) || off % (teSide t.2 * teCols t.2) == 0) &&
      (teRule t.2 != 4 || off % teCols t.2 == 0)

/-- First elements that rise from 0 and cover the job. -/
def firstsOk (i : ProgMeta) (l : List Nat) : Bool :=
  l.head? == some 0 && (l.zip (l.drop 1)).all (fun p => p.1 < p.2) && l.all fun f => f < jobSize i && boundaryOk i f

/-- The range of shard j. -/
def shardRange (i : ProgMeta) (l : List Nat) (j : Nat) : Nat × Nat := (l.getD j 0, l.getD (j + 1) (jobSize i))

/-- The parts of a new range that the shard did not own. -/
def newParts (old new : Nat × Nat) : List (Nat × Nat) :=
  [(new.1, min new.2 old.1), (max new.1 old.2, new.2)].filter fun p => p.1 < p.2

/-- Each tensor's part of a range of the job's elements. -/
def tensorParts (i : ProgMeta) (p : Nat × Nat) : List (BitVec 512 × Nat × Nat) :=
  (jobTensors i).filterMap fun t =>
    let lo := max t.1 p.1
    let hi := min (t.1 + teN t.2) p.2
    if lo < hi then some (t.2, lo - t.1, hi - t.1) else none

/-- The bits of a tensor's touch map that a range of its elements has (R410, R411). -/
def touchBits (e : BitVec 512) (a b : Nat) : Option (Nat × Nat × Nat) :=
  (touchRun e).map fun r =>
    let per := if teRule e = 4 then teCols e else 32
    (r.1, a / per, cdiv b per)

def touchPages (e : BitVec 512) (a b : Nat) : List Nat :=
  match touchBits e a b with
  | some t => pagesOf (t.1 + t.2.1 / 8, cdiv t.2.2 8 - t.2.1 / 8)
  | none => []

/-- Pages of a copy's tiles that hold an element of the range (R421). -/
def tilePages (e : BitVec 512) (a b : Nat) : List Nat :=
  match Fmt.ofCode (teSfmt e) with
  | none => []
  | some f =>
    if teWhole e then [] else
    let ti := cdiv (teRows e) 128
    let tj := cdiv (teCols e) 128
    let tiles := ((List.range ti).flatMap fun i => (List.range tj).map fun j => (i, j)).filter fun t => tileMeets e a b t.1 t.2
    let len := tileBytes f + (match f with | .mx _ => 512 | _ => 0)
    runPages ([(true, teFwd e), (false, teBwd e)].flatMap fun c =>
      tiles.map fun t => (c.2 + tileBytes f * (Config.copyTile c.1 ti tj t.1 t.2 % (ti * tj)), len))

/-- All pages of a range: masters, state, touch map and copies. -/
def rangePages (i : ProgMeta) (p : Nat × Nat) : List Nat :=
  ((tensorParts i p).flatMap fun t => runPages (stateRuns t.1 t.2.1 t.2.2) ++ touchPages t.1 t.2.1 t.2.2 ++ tilePages t.1 t.2.1 t.2.2).eraseDups

/-- A byte of a touch map with the bits from lo to before hi of the map taken from another. -/
def mixBits (old new : Byte) (byteIx lo hi : Nat) : Byte :=
  (List.range 8).foldl (fun (b : Byte) i =>
    let k := 8 * byteIx + i
    if (if lo ≤ k && k < hi then new.getLsbD i else old.getLsbD i) then b ||| BitVec.shiftLeft 1 i else b) 0

/-- A tensor's part of what a former owner holds: the room's own elements only are kept of a page (R649). -/
def takePart (n : Nat) (src : Memory) (t : BitVec 512 × Nat × Nat) (x : Channel) : Option Channel :=
  let runs := stateRuns t.1 t.2.1 t.2.2
  (allocRoomPages x n 0 (runPages runs ++ touchPages t.1 t.2.1 t.2.2)).bind fun y =>
    let z := runs.foldl (fun x r => writeRoom x n r.1 (readBytes src r.1 r.2)) y
    let w := match touchBits t.1 t.2.1 t.2.2 with
      | some b => (List.range (cdiv b.2.2 8 - b.2.1 / 8)).foldl (fun x i =>
          let k := b.2.1 / 8 + i
          writeRoom x n (b.1 + k) [mixBits (roomByte x n (b.1 + k)) (readByte src (b.1 + k)) k b.2.1 b.2.2]) z
      | none => z
    writeCopies n t.1 t.2.1 t.2.2 w

/-- The parts of the new range come to a channel. -/
def takeParts (n : Nat) (i : ProgMeta) (src : Memory) (ps : List (Nat × Nat)) (x : Channel) : Option Channel :=
  (ps.flatMap (tensorParts i)).foldlM (fun x t => takePart n src t x) x

/-- Pages that a rollback to a step has to fetch: those written since the slot at STEP was (R646). -/
def staleKeys (d : Device) (s : Ch) (n step : Nat) : List Nat :=
  let r := leadRoom d s n
  let inA := r.ckp.aValid && r.ckps.stepA == step
  let inB := r.ckp.bValid && r.ckps.stepB == step
  let map := if inB then r.ckps.mapB else r.ckps.mapA
  ((capturedAll d s n false).filter fun p => !(inA || inB) || p.2 || map.contains p.1).map (·.1)

/-- The rollback of R649 step 1: to the slot at STEP; where nothing has been written since, the pages already hold it. -/
def rollBack (a : Accepted) (d : Device) (s : Ch) (n step : Nat) : Except Status Device :=
  let k := { a.data.slot with point := false }
  let usable := a.data.reached && k.verifies && k.step == step
  let idle := modSuiteRoom (dropLive d s n) s n fun r =>
    { r with steps := step, update := {}, train := { hist := r.train.hist, gfmt := r.train.gfmt, verMap := r.train.verMap } }
  if usable then
    if !attested d s n k then .error .attestFail
    else match restoreChans k d s n with
      | none => .error .quotaExceeded
      | some d1 => .ok (modLeadRoom d1 s n (restoreCkp k (ownAttic a d s n || hasAttic (leadRoom d s n)) (nowMs (chanOf d1 (leadOf d1 s)))))
  else if (staleKeys d s n step).isEmpty then .ok idle
  else .error .degraded

/-- The shard's new place in the job (R649 step 5). -/
def reshard (d : Device) (s : Ch) (n : Nat) (new : Nat × Nat) (shard nshards1 : Nat) (root : BitVec 18) : Device :=
  modSuiteRoom d s n fun r => { r with
    upd := { r.upd with shard := BitVec.ofNat 16 shard, nshards1 := BitVec.ofNat 16 nshards1, rootNode := root },
    prog := r.prog.map fun p => { p with info := { p.info with firstElem := new.1, lastElem := new.2 } } }

/-- A failing room is left STOPPED (R650). -/
def shrinkFails (d : Device) (s : Ch) (n : Nat) (st : Status) : Device × Reply :=
  only (modSuiteRoom d s n fun r => { r with cfg := { r.cfg with state := rsStopped } }) st

def shrink (a : Accepted) (s : Ch) (n : Nat) (m : ShardMap) (d : Device) : Device × Reply :=
  let p := a.params
  let i := metaOf (leadRoom d s n)
  let old := (i.firstElem, i.lastElem)
  let new := shardRange i m.firsts (par p 32 16)
  let parts := newParts old new
  let k := a.data.parts
  match rollBack a (endCapture d s n) s n (par p 64 64) with
  | .error st => shrinkFails (endCapture d s n) s n st
  | .ok d1 =>
    let secret := match k.cont with | some c => (leadRoom d1 s n).cont == some c | none => true
    if parts.isEmpty == false && a.data.partsReached && !(secret && k.dirOk && k.fpsOk) then shrinkFails d1 s n .attestFail
    else if parts.isEmpty == false && !a.data.partsReached then shrinkFails d1 s n .degraded
    else match (suiteChans d1 s).foldlM (fun d c => (takeParts n i (k.rooms.get c).mem parts (chanOf d c)).map fun y => setChan d c y) d1 with
      | none => shrinkFails d1 s n .quotaExceeded
      | some d2 =>
        let keep := rangePages i new
        let gone := (rangePages i old).filter fun q => !keep.contains q
        let d3 := modChans d2 (suiteChans d2 s) fun _ x => freeRoomPages x n gone
        only (startRestored (reshard d3 s n new (par p 32 16) (par p 16 16) m.root) s n) .ok

def runShrinkJob (a : Accepted) (d : Device) : Device × Reply :=
  let p := a.params
  let s := a.suite
  let n := par p 0 6
  let r := namedRoom d s n
  let x := chanOf d (leadOf d s)
  let i := metaOf r
  let new := par p 16 16 + 1
  let old := r.upd.nshards1.toNat + 1
  let m := readMap a new old
  let reg := par p 128 4
  if suiteDraining d s then only d .draining
  else if !reservedClear p [(0, 6), (16, 16), (32, 16), (64, 64), (128, 4), (192, 64)] || !mayName a r || r.cfg.kind != 2 ||
      !(roomState r == rsStopped || roomState r == rsFaulted) || r.prog.isNone ||
      !regionAllows x hostKinds 4096 reg (par p 192 64) (16 * new + 32 * old) || old ≤ new || new ≤ par p 32 16 ||
      (!accessFails d x a.data reg && (!firstsOk i m.firsts || !firstsOk i m.olds)) then only d .badCommand
  else if accessFails d x a.data reg then shrinkFails d s n .degraded
  else shrink a s n m d

end Sys2Proof.Machine
end

