-- ==== Sys2Proof/Machine/HostQuery.lean ====
section
/-! DEFINITION. Machine/HostQuery.lean: ATTEST, QUERY_ACCOUNTING, QUERY_FAULTS, FABRIC_JOIN, FABRIC_LEAVE, DRAIN_DEVICE and DRAIN_CANCEL (R481 to R485, R545, R572 to R575, R609 to R616, R678, R747, R750). -/

namespace Sys2Proof.Machine

/-! ## ATTEST (R572, R573) -/

/-- The rooms that a report covers: suite and room. -/
def attestRooms (d : Device) (p : BitVec 15872) : List (Ch × Nat) :=
  let s := Ch.ofNum (par p 9 2)
  if par p 6 2 = 1 then [(s, par p 0 6)]
  else if par p 6 2 = 2 then (roomIndexes.filter fun n => roomState (leadRoom d s n) != rsFree).map fun n => (s, n)
  else []

/-- A SUITE or ROOM that names nothing, or that a VF may not name. -/
def attestNothing (a : Accepted) (d : Device) : Bool :=
  let p := a.params
  let s := Ch.ofNum (par p 9 2)
  let r := namedRoom d s (par p 0 6)
  match par p 6 2 with
  | 0 => false
  | 1 => !suiteExists d s || roomState r == rsFree || !mayName a r
  | 2 => !suiteExists d s || !maySuite d a.fn s
  | _ => true

def attestFields : List (Nat × Nat) := [(0, 11), (64, 4), (128, 64), (192, 64), (256, 256)]

def runAttest (a : Accepted) (d : Device) : Device × Reply :=
  let p := a.params
  let s := Ch.ofNum (par p 9 2)
  if !reservedClear p attestFields || attestNothing a d then only d .badCommand
  else match signerOf d (par p 6 2) s with
    | none => only d .attestFail
    | some sg =>
      if !regionAllows (chanOf d sg) hostKinds 4096 (par p 64 4) (par p 128 64) (par p 192 64) then only d .badCommand
      else
        let rooms := attestRooms d p
        let later := rooms.filter fun q => isStarted (leadRoom d q.1 q.2)
        let taken := (rooms.filter fun q => !isStarted (leadRoom d q.1 q.2)).map fun q => (64 * q.1.num + q.2, attestEntry d q.1 q.2 (parB p 8))
        if later.isEmpty then
          let r := finishReport d a taken
          (r.1, .done r.2.1 r.2.2)
        else (d, .wait (.attest later taken))

/-! ## QUERY_ACCOUNTING (R545, R678) -/

/-- Bytes of words, each 8 B, lowest first. -/
def wordsBytes (l : List W64) : List Byte := l.flatMap fun w => leBytes 8 w.toNat
def wordsOf (f : Nat → W64) (lo n : Nat) : List W64 := (List.range n).map fun i => f (lo + i)
/-- A block padded with zeros to its size. -/
def padTo (n : Nat) (l : List Byte) : List Byte := l ++ List.replicate (n - l.length) 0

/-- The suite block (Table 17.11). -/
def suiteBlock (d : Device) (s : Ch) : List Byte :=
  let x := chanOf d (leadOf d s)
  padTo 1024 (padTo 8 [BitVec.ofNat 8 s.num] ++ wordsBytes (wordsOf (getSchSuite (suiteOf d s)) 0 3) ++
    copyIxs.flatMap (fun k => wordsBytes (wordsOf (getSrvWcopy (copyOf x k).reg) 0 4)) ++
    [0, 1, 2, 3].flatMap (fun m => wordsBytes (wordsOf (getSrvWmodel (modelOf x m)) 0 2)) ++
    (List.range 16).flatMap fun j => wordsBytes (wordsOf (getTrnXs (tget {} x.stores j).reg) 3 4))

/-- The counters of another channel's copy of a room are added (R545). -/
def addCounters (r o : Room) : Room :=
  let a := r.acct
  let b := o.acct
  { r with
    acct := { a with
      arrayCyc := a.arrayCyc + b.arrayCyc, vuCyc := a.vuCyc + b.vuCyc, t0Bytes := a.t0Bytes + b.t0Bytes, t1Bytes := a.t1Bytes + b.t1Bytes,
      t2Bytes := a.t2Bytes + b.t2Bytes, fabTxBytes := a.fabTxBytes + b.fabTxBytes, fabRxBytes := a.fabRxBytes + b.fabRxBytes,
      energyUj := a.energyUj + b.energyUj, runNs := a.runNs + b.runNs, switchNs := a.switchNs + b.switchNs, waitNs := a.waitNs + b.waitNs,
      preempts := a.preempts + b.preempts, switches := a.switches + b.switches, tokIn := a.tokIn + b.tokIn, tokOut := a.tokOut + b.tokOut },
    kv := { r.kv with
      drops := satAdd r.kv.drops o.kv.drops.toNat, starved := satAdd r.kv.starved o.kv.starved.toNat,
      saturated := satAdd r.kv.saturated o.kv.saturated.toNat, relinks := satAdd r.kv.relinks o.kv.relinks.toNat },
    trn := { r.trn with
      droppedSegs := satAdd r.trn.droppedSegs o.trn.droppedSegs.toNat, shadowStalls := satAdd r.trn.shadowStalls o.trn.shadowStalls.toNat,
      fmtChanges := satAdd r.trn.fmtChanges o.trn.fmtChanges.toNat, mbRetired := satAdd r.trn.mbRetired o.trn.mbRetired.toNat,
      steps := satAdd r.trn.steps o.trn.steps.toNat },
    upd := { r.upd with
      skipped := satAdd r.upd.skipped o.upd.skipped.toNat, fallbacks := satAdd r.upd.fallbacks o.upd.fallbacks.toNat,
      deferred := satAdd r.upd.deferred o.upd.deferred.toNat, clamped := satAdd r.upd.clamped o.upd.clamped.toNat },
    fab := { r.fab with
      xferOut := satAdd r.fab.xferOut o.fab.xferOut.toNat, xferIn := satAdd r.fab.xferIn o.fab.xferIn.toNat,
      early := satAdd r.fab.early o.fab.early.toNat, redFb := satAdd r.fab.redFb o.fab.redFb.toNat },
    rng := { r.rng with draws := satAdd r.rng.draws o.rng.draws.toNat } }

/-- A room with its counters summed over the channels of its suite. -/
def summedRoom (d : Device) (s : Ch) (n : Nat) : Room :=
  let lead := leadOf d s
  ((suiteChans d s).filter (· != lead)).foldl (fun r c => addCounters r (roomOf (chanOf d c) n)) (leadRoom d s n)

/-- The room block (Table 17.12). -/
def roomBlock (d : Device) (s : Ch) (n : Nat) : List Byte :=
  let r := summedRoom d s n
  padTo 512 (padTo 8 [BitVec.ofNat 8 n, BitVec.ofNat 8 s.num] ++ wordsBytes (
    wordsOf (getRoomCfg r.cfg) 0 1 ++ wordsOf (getSchRoom r.sch) 1 3 ++ wordsOf (getSchAcct r.acct) 0 15 ++ wordsOf (getKvRoom r.kv) 5 3 ++
    wordsOf (getAdpRoom r.adp) 6 2 ++ wordsOf (getTrnRoom r.trn) 11 4 ++ wordsOf (getUpdRoom r.upd) 11 4 ++ wordsOf (getTrnBcast r.bcast) 1 1 ++
    wordsOf (getFabRoom r.fab) 1 3 ++ wordsOf (getCkpRoom r.ckp) 4 4 ++ wordsOf (getRngRoom r.rng) 3 1))

/-- Rooms of a suite that are not FREE. -/
def heldRooms (d : Device) (s : Ch) : List (Ch × Nat) :=
  (roomIndexes.filter fun n => roomState (leadRoom d s n) != rsFree).map fun n => (s, n)

/-- The report by scope: the suites' blocks, then the rooms'. -/
def accountReport (a : Accepted) (d : Device) : List Byte :=
  let p := a.params
  if par p 6 2 = 0 then roomBlock d a.suite (par p 0 6) else
  let suites := if par p 6 2 = 1 then [a.suite] else Ch.all.filter (suiteExists d)
  suites.flatMap (suiteBlock d) ++ (suites.flatMap (heldRooms d)).flatMap fun q => roomBlock d q.1 q.2

/-- The channel whose Cellar region a query of a scope writes through. -/
def queryChan (a : Accepted) (d : Device) (device : Bool) : Channel :=
  if device then chanOf d ((signerOf d 0 a.suite).getD .c0) else chanOf d (leadOf d a.suite)

def runQueryAccounting (a : Accepted) (d : Device) : Device × Reply :=
  let p := a.params
  let scope := par p 6 2
  let r := namedRoom d a.suite (par p 0 6)
  let x := queryChan a d (scope == 2)
  let reg := par p 128 4
  let off := par p 192 64
  if !reservedClear p [(0, 8), (128, 4), (192, 64), (256, 64)] || scope == 3 || (scope != 2 && !suiteExists d a.suite) ||
      (scope == 0 && (!r.created || !mayName a r)) || !regionAllows x hostKinds 4096 reg off (par p 256 64) then only d .badCommand
  else
    let bytes := accountReport a d
    if par p 256 64 < bytes.length then only d .badCommand
    else if accessFails d x a.data reg then only d .degraded
    else (send d (.regionWrite a.fn reg off bytes), .done .ok [BitVec.ofNat 32 bytes.length])

/-! ## QUERY_FAULTS (R616) -/

/-- The 64 bytes of a fault history record (Table 15.4). -/
def faultBytes (r : FaultRec) : List Byte :=
  let body := leBytes 8 r.causal.toNat ++
    leBytes 8 (r.node.toNat + 2 ^ 18 * r.room.toNat + 2 ^ 24 * r.cls.toNat + 2 ^ 32 * r.unit.toNat + 2 ^ 48 * r.kind.toNat + 2 ^ 52 * r.judge.toNat) ++
    leBytes 8 r.addr.toNat ++ leBytes 8 r.lifeMs.toNat ++ leBytes 2 r.status.code.toNat ++ leBytes 2 r.count.toNat ++ leBytes 24 r.detail.toNat
  body ++ leBytes 4 (crc32 body).toNat

/-- The snapshot block of a channel (Table 15.9). -/
def snapshot (x : Channel) : List Byte :=
  padTo 1024 (wordsBytes (
    [getFltStatus x.flt 0, getFltHist x.fltHist 0, BitVec.ofNat 64 (lifeMs x), getArrChkStatus x.arrStatus 0, getArrChkCount x.arrCount 0,
     getCcStreamFault x.streamFault 0, getCcIssueCount x.issueCount 0, getSecStatus x.sec 0, getPmpStatus x.pumps 0, getStkScrub x.scrub 0] ++
    Ch.all.flatMap (fun s => wordsOf (getStkState (x.memStacks.get s).reg) 0 2) ++
    (List.range 4).flatMap (fun p => wordsOf (getFabPort (tget {} x.ports p)) 0 3) ++
    wordsOf (getFabRed x.red) 0 4 ++ [getFltStatus x.flt 1]))

/-- Channels that the command covers: for a VF only those of its suites (R672). -/
def faultChans (a : Accepted) (d : Device) : List Ch :=
  let named := if par a.params 0 4 = 0 then Ch.all.filter (fun c => inService (chanOf d c)) else chansOf (BitVec.ofNat 4 (par a.params 0 4))
  named.filter fun c => a.fn.isPF || (match suiteOfChan d c with | some s => maySuite d a.fn s | none => false)

/-- Records from a causal counter onward, in causal order. -/
def recordsFrom (d : Device) (cs : List Ch) (since : Nat) : List FaultRec :=
  ((cs.flatMap fun c => (allRecords (chanOf d c)).reverse).filter fun r => since ≤ r.causal.toNat).mergeSort fun a b => a.causal ≤ b.causal

/-- As many whole pieces as fit a space. -/
def fitPieces (room : Nat) : List (List Byte) → List Byte
  | [] => []
  | b :: bs => if b.length ≤ room then b ++ fitPieces (room - b.length) bs else []

def faultReport (a : Accepted) (d : Device) : List Byte :=
  let cs := faultChans a d
  fitPieces (par a.params 256 64)
    (cs.map (fun c => snapshot (chanOf d c)) ++
     (if parB a.params 4 then (recordsFrom d cs (par a.params 64 64)).map faultBytes else []))

/-- The summary as result words 1 to 14. -/
def summaryWords (d : Device) : List W32 :=
  let b := faultSummary d
  (List.range 14).map fun i => BitVec.ofNat 32 (leNat ((b.drop (4 * i)).take 4))

def runQueryFaults (a : Accepted) (d : Device) : Device × Reply :=
  let p := a.params
  let x := queryChan a d true
  let reg := par p 128 4
  let off := par p 192 64
  let n := par p 256 64
  if !reservedClear p [(0, 5), (64, 64), (128, 4), (192, 64), (256, 64)] || (n != 0 && !regionAllows x hostKinds 4096 reg off n) then
    only d .badCommand
  else if n = 0 then (d, .done .ok (0 :: summaryWords d))
  else if accessFails d x a.data reg then (d, .done .degraded (0 :: summaryWords d))
  else
    let bytes := faultReport a d
    (if bytes.isEmpty then d else send d (.regionWrite a.fn reg off bytes), .done .ok (BitVec.ofNat 32 bytes.length :: summaryWords d))

/-! ## FABRIC_JOIN (R482, R483) -/

/-- An 8-byte word of the image. -/
def imageWord (a : Accepted) (off : Nat) : W64 := BitVec.ofNat 64 (leNat (sourceBytes a (par a.params 64 64 + off) 8))

/-- The routing table of a channel. -/
def imageRoutes (a : Accepted) (c : Ch) : Tab FabRt :=
  (List.range 4096).foldl (fun t i => tset {} t i (putFabRt {} 0 (imageWord a (32768 * c.num + 8 * i)))) []

/-- The Ethernet peer table of a channel. -/
def imagePeers (a : Accepted) (c : Ch) : Tab FabEthPeer :=
  (List.range 1024).foldl (fun t j =>
    let w := fun (k : Nat) => imageWord a (131072 + 32768 * c.num + 32 * j + 8 * k)
    tset {} t j (putFabEthPeer (putFabEthPeer (putFabEthPeer {} 0 (w 0)) 1 (w 1)) 2 (w 2))) []

def joinBytes : Nat := 262144

/-- A port carries traffic: it is up or retraining, with frames that its next hop has not acknowledged. -/
def carries (x : Channel) (p : BitVec 2) : Bool :=
  ((portOf x p).state == 2 || (portOf x p).state == 3) && !((linkOf x (.port p)).held.isEmpty && (linkOf x (.port p)).waiting.isEmpty)

/-- A port that was judged permanently out of service. -/
def portJudged (x : Channel) (p : BitVec 2) : Bool := x.hist.perm.any fun u => u.cls == 0x41 && u.unit == p.setWidth 16

/-- A port as a join leaves it: one that works as asked, or carries traffic, stays as it is; any other trains, unless it is out of service or
without light. The Ethernet addresses of a port are values whose place in the image is not stated. DESIGN CHOICE, log 71. -/
def joinPort (pers : Bool) (p : BitVec 2) (free : Nat) (x : Channel) : Channel :=
  let q := portOf x p
  let works := (q.state == 2 || q.state == 3) && (q.pers == pers || carries x p)
  if works then x
  else
    let st : BitVec 3 := if portJudged x p || !inService x then 4 else if q.state = 5 then 5 else 1
    let y := countKeys (modLink x (.port p) closeSession)
    modPort y p fun q => { q with
      pers := pers, state := st, ethMac := if pers then (Config.freeWord free).setWidth 48 else 0,
      ethIpv4 := if pers then (Config.freeWord (free + 1)).setWidth 32 else 0 }

/-- A channel's part of a join. -/
def joinChan (a : Accepted) (c : Ch) (free : Nat) (x : Channel) : Channel :=
  let y := (List.range 4).foldl (fun x p => joinPort (parB a.params (16 + 4 * c.num + p)) (BitVec.ofNat 2 p) (free + 8 * c.num + 2 * p) x) x
  { y with node := { y.node with device := BitVec.ofNat 16 (par a.params 0 16) }, routes := imageRoutes a c, peers := imagePeers a c }

/-- Ports that train: channel and port. -/
def trainingPorts (d : Device) : List (Ch × Nat) :=
  Ch.all.flatMap fun c => ((List.range 4).filter fun p => (portOf (chanOf d c) (BitVec.ofNat 2 p)).state == 1).map fun p => (c, p)

def runFabricJoin (a : Accepted) (d : Device) : Device × Reply :=
  let p := a.params
  let x := queryChan a d true
  let reg := par p 32 4
  let other := Ch.all.any fun c => (chanOf d c).node.joined && (chanOf d c).node.device.toNat != par p 0 16
  if anyDraining d then only d .draining
  else if !reservedClear p [(0, 36), (64, 64)] || other || !regionAllows x hostKinds 4096 reg (par p 64 64) joinBytes then only d .badCommand
  else if accessFails d x a.data reg then only d .degraded
  else
    let d1 := refresh (modChans { d with free := d.free + 32 } Ch.all fun c x => joinChan a c d.free x)
    let l := trainingPorts d1
    if l.isEmpty then (showJoined d1, .done (if allTrained d1 then .ok else .degraded) (joinWords d1)) else (d1, .wait (.join l))

/-! ## FABRIC_LEAVE (R485) -/

/-- Every optical port goes down, and its frames find no other. -/
def leaveFabric (d : Device) : Device :=
  let d1 := Ch.all.foldl (fun d c => (List.range 4).foldl (fun d p => portLeaves d c (BitVec.ofNat 2 p) 0) d) d
  modChans (portsSettled d1 fun _ => true) Ch.all fun _ x => { x with node := { x.node with joined := false } }

def runFabricLeave (a : Accepted) (d : Device) : Device × Reply :=
  if anyDraining d then only d .draining
  else if !reservedClear a.params [] || !(startedRooms d).isEmpty then only d .badCommand
  else only (leaveFabric d) .ok

/-! ## DRAIN_DEVICE (R609, R613, R614) -/

/-- Channels that MASK names; 0 names every channel. -/
def drainMask (p : BitVec 15872) : List Ch := if par p 0 4 = 0 then Ch.all else chansOf (BitVec.ofNat 4 (par p 0 4))

/-- A drain ends on a channel: admissions resume (R613). -/
def undrain (x : Channel) : Channel := { x with drain := none, flt := { x.flt with draining := false, drainDone := false } }

def drainDevice (p : BitVec 15872) (d : Device) : Device :=
  let replace := parB p 4
  let d1 := if replace then setReplace d none else d
  startDrain d1 (drainMask p) (!replace) (if par p 16 16 = 0 then d.fy.replace.drainLimitS.toNat else par p 16 16)

def runDrainDevice (a : Accepted) (d : Device) : Device × Reply :=
  let p := a.params
  let cs := drainMask p
  if !reservedClear p [(0, 6), (16, 16)] then only d .badCommand
  else if parB p 5 then
    if cs.any fun c => match (chanOf d c).drain with | some k => !k.cancellable | none => false then only d .badCommand
    else only (refresh (modChans d cs fun _ x => undrain x)) .ok
  else only (drainDevice p d) .ok

end Sys2Proof.Machine
end

