-- ==== Sys2Proof/Machine/HostPost.lean ====
section
/-! DEFINITION. Machine/HostPost.lean: posts, the header check, held posts, and the end of start-up (R660, R663 to R666, R671, R672, R680, R681, R721, R726, R727). -/

namespace Sys2Proof.Machine

/-- The effect of an accepted command (Table 17.6). -/
def runOp : HostOp → Accepted → Device → Device × Reply
  | .roomCreate => runRoomCreate
  | .roomDestroy => runRoomDestroy
  | .suiteSet => runSuiteSet
  | .loadProgram => runLoadProgram
  | .loadWeights => runLoadWeights
  | .switchWeights => runSwitchWeights
  | .pinAdapter => runPinAdapter
  | .unpinAdapter => runUnpinAdapter
  | .submitRequests => runSubmitRequests
  | .cancelStream => runCancelStream
  | .setBudget => runSetBudget
  | .startJob => runStartJob
  | .stopJob => runStopJob
  | .checkpointNow => runCheckpointNow
  | .checkpointPolicy => runCheckpointPolicy
  | .restore => runRestore
  | .shrinkJob => runShrinkJob
  | .attest => runAttest
  | .queryAccounting => runQueryAccounting
  | .fabricJoin => runFabricJoin
  | .fabricLeave => runFabricLeave
  | .drainDevice => runDrainDevice
  | .queryFaults => runQueryFaults

/-- A command runs: its result is posted, or it waits. -/
def startCommand (op : HostOp) (a : Accepted) (d : Device) : Device :=
  let r := runOp op a d
  match r.2 with
  | .done st ws => postResult r.1 a.key st ws
  | .wait k => { r.1 with fy := { r.1.fy with waits := r.1.fy.waits ++ [{ cmd := a, op := op, kind := k }] } }

/-! ## The header (Table 17.4) -/

def hdrCode (h : BitVec 512) : Byte := h.extractLsb' 0 8
def hdrSlot (h : BitVec 512) : BitVec 3 := h.extractLsb' 8 3
def hdrSuite (h : BitVec 512) : Ch := Ch.ofNum (h.extractLsb' 12 2).toNat
def hdrExt (h : BitVec 512) : Byte := h.extractLsb' 16 8
def hdrSeq (h : BitVec 512) : W32 := h.extractLsb' 32 32
def hdrPlen (h : BitVec 512) : Nat := (h.extractLsb' 64 16).toNat

/-- The reserved bits of the header are 0. -/
def hdrReserved (h : BitVec 512) : Bool :=
  !h.getLsbD 11 && h.extractLsb' 14 2 == 0 && h.extractLsb' 24 8 == 0 && h.extractLsb' 80 432 == 0

/-- The command that a header names: by OPCODE, or under COMPAT_H1 by the HX1 numbering and its escape (R681). -/
def hdrOp (compat : Bool) (h : BitVec 512) : Option HostOp :=
  if !compat then HostOp.all.find? fun o => o.code == hdrCode h
  else if hdrCode h = 0xFF then HostOp.all.find? fun o => o.code == hdrExt h
  else HostOp.all.find? fun o => o.codeH1 == some (hdrCode h)

/-- A header that names a command: as it stands where it does so already, and otherwise with its OPCODE, or under COMPAT_H1 with the escape
where the HX1 numbering lacks it. -/
def namedHeader (compat : Bool) (op : HostOp) (h : BitVec 512) : BitVec 512 :=
  if hdrOp compat h = some op then h else
  let put := fun (code : Byte) => (h >>> 8 <<< 8) ||| code.setWidth 512
  if !compat then put op.code
  else match op.codeH1 with
    | some c => put c
    | none => (put 0xFF &&& ~~~(0xFF0000 : BitVec 512)) ||| (op.code.setWidth 512 <<< 16)

/-- EXT is 0 unless the header is the escape. -/
def hdrExtOk (compat : Bool) (h : BitVec 512) : Bool := hdrExt h == 0 || (compat && hdrCode h == 0xFF)

/-- The outcome of the header check (R664, R680). -/
def headerStatus (d : Device) (f : Fn) (m : BitVec 4) (h : BitVec 512) : Status :=
  let compat := d.fy.dev.compatH1
  let inRange := decide ((hdrSlot h).toNat < slotCount d)
  let st := (slotOf d f m (hdrSlot h)).state
  if inRange && (st == .pending || st == .ready) then .slotBusy
  else match hdrOp compat h with
    | none => .badCommand
    | some op =>
      if !inRange || !hdrReserved h || !hdrExtOk compat h || 1984 < hdrPlen h || (!f.isPF && !op.forVf) then .badCommand else .ok

/-- The parameters, of which those beyond PLEN read as 0. -/
def hdrParams (h : BitVec 512) (p : BitVec 15872) : BitVec 15872 := p &&& ((1 <<< (8 * hdrPlen h)) - 1)

/-! ## Posting (R663 to R666) -/

/-- The foyer takes posts from the functions of a port that is up once its firmware runs (R688, R725). -/
def takesPosts (b : Board) (d : Device) (f : Fn) : Bool := b.firmware && portUp d f.portB

/-- An accepted post: its slot is PENDING; before start-up has ended it is held (R726). -/
def acceptPost (b : Board) (p : HostPost) (op : HostOp) (d : Device) : Device :=
  let h := p.header
  let d1 := setSlot d p.fn p.mbx (hdrSlot h) { state := .pending, status := .pending, seq := hdrSeq h, opcode := hdrCode h }
  let a : Accepted := { fn := p.fn, key := { fn := p.fn.key, mbx := p.mbx, slot := hdrSlot h }, suite := hdrSuite h, params := hdrParams h p.params, data := p.data }
  if b.pwr.seq = 9 then startCommand op a d1
  else { d1 with fy := { d1.fy with held := d1.fy.held ++ [(op, a)] } }

/-- A post: OVERRUN while the command area is being copied, otherwise the header check and its outcome in MBX_POST_STATUS. -/
def post (b : Board) (p : HostPost) (d : Device) : Device :=
  if !takesPosts b d p.fn then d else
  let m := mbxOf d p.fn p.mbx
  if m.words.cmdBusy then modMbx d p.fn p.mbx fun m => { m with words := { m.words with overrun := satInc m.words.overrun } }
  else
    let st := headerStatus d p.fn p.mbx p.header
    let d1 := modMbx d p.fn p.mbx fun m =>
      { m with header := p.header, params := p.params, words := { m.words with postStatus := st.code, postSeq := hdrSeq p.header } }
    if st = .ok then (match hdrOp d.fy.dev.compatH1 p.header with
      | some op => acceptPost b p op d1
      | none => d1)
    else d1

/-- A row that posts a command. -/
def postRow (op : HostOp) (p : HostPost) (s : State) : Out :=
  onBoth (fun b d =>
    let d1 := post b { p with header := namedHeader d.fy.dev.compatH1 op p.header } d
    (showPower b d1, d1)) s

def execRoomCreate (p : HostPost) (s : State) : Out := postRow .roomCreate p s
def execRoomDestroy (p : HostPost) (s : State) : Out := postRow .roomDestroy p s
def execSuiteSet (p : HostPost) (s : State) : Out := postRow .suiteSet p s
def execLoadProgram (p : HostPost) (s : State) : Out := postRow .loadProgram p s
def execLoadWeights (p : HostPost) (s : State) : Out := postRow .loadWeights p s
def execSwitchWeights (p : HostPost) (s : State) : Out := postRow .switchWeights p s
def execPinAdapter (p : HostPost) (s : State) : Out := postRow .pinAdapter p s
def execUnpinAdapter (p : HostPost) (s : State) : Out := postRow .unpinAdapter p s
def execSubmitRequests (p : HostPost) (s : State) : Out := postRow .submitRequests p s
def execCancelStream (p : HostPost) (s : State) : Out := postRow .cancelStream p s
def execSetBudget (p : HostPost) (s : State) : Out := postRow .setBudget p s
def execStartJob (p : HostPost) (s : State) : Out := postRow .startJob p s
def execStopJob (p : HostPost) (s : State) : Out := postRow .stopJob p s
def execCheckpointNow (p : HostPost) (s : State) : Out := postRow .checkpointNow p s
def execCheckpointPolicy (p : HostPost) (s : State) : Out := postRow .checkpointPolicy p s
/-- ATTIC_RELEASE: CHECKPOINT_POLICY with RELEASE set (R638). -/
def execAtticRelease (p : HostPost) (s : State) : Out := postRow .checkpointPolicy { p with params := p.params ||| (1 <<< 6) } s
def execRestore (p : HostPost) (s : State) : Out := postRow .restore p s
def execShrinkJob (p : HostPost) (s : State) : Out := postRow .shrinkJob p s
def execAttest (p : HostPost) (s : State) : Out := postRow .attest p s
def execQueryAccounting (p : HostPost) (s : State) : Out := postRow .queryAccounting p s
def execFabricJoin (p : HostPost) (s : State) : Out := postRow .fabricJoin p s
def execFabricLeave (p : HostPost) (s : State) : Out := postRow .fabricLeave p s
def execDrainDevice (p : HostPost) (s : State) : Out := postRow .drainDevice p s
/-- DRAIN_CANCEL: DRAIN_DEVICE with CANCEL set (R613). -/
def execDrainCancel (p : HostPost) (s : State) : Out := postRow .drainDevice { p with params := p.params ||| (1 <<< 5) } s
def execQueryFaults (p : HostPost) (s : State) : Out := postRow .queryFaults p s

/-! ## The end of start-up (R721, R726) -/

/-- The channels that a command names. -/
def namedChans (op : HostOp) (a : Accepted) (d : Device) : List Ch :=
  let mask := fun (n : Nat) => if n = 0 then Ch.all else chansOf (BitVec.ofNat 4 n)
  match op with
  | .suiteSet => chansOf (BitVec.ofNat 4 (par a.params 2 4))
  | .roomCreate => suiteChans d (Ch.ofNum (par a.params 0 2))
  | .attest => if par a.params 6 2 = 0 then Ch.all else suiteChans d (Ch.ofNum (par a.params 9 2))
  | .fabricJoin | .fabricLeave => Ch.all
  | .drainDevice | .queryFaults => mask (par a.params 0 4)
  | _ => suiteChans d a.suite

/-- A held post runs, or completes with DEGRADED when no channel that it names is in service (R726). -/
def runHeld (d : Device) (h : HostOp × Accepted) : Device :=
  let cs := namedChans h.1 h.2 d
  if !cs.isEmpty && cs.all fun c => !inService (chanOf d c) then postResult d h.2.key .degraded []
  else startCommand h.1 h.2 d

/-- ARRAY_SELF_TEST_DONE: start-up ends, READY_OUT rises, and the posts held run in their order (R721, R726, R727). -/
def arraySelfTestDone (r : Quad SelfTest) (b : Board) (d : Device) : Board × Device :=
  if b.pwr.seq = 8 then
    let t := selfTestEnd r b d
    let d1 := t.2.fy.held.foldl runHeld { t.2 with fy := { t.2.fy with held := [] } }
    (showPower t.1 d1, d1)
  else (b, d)

def execArraySelfTestDone (r : Quad SelfTest) (s : State) : Out := onBoth (arraySelfTestDone r) s

end Sys2Proof.Machine
end

