-- ==== Sys2Proof/Machine/HostPorts.lean ====
section
/-! DEFINITION. Machine/HostPorts.lean: result slots, acknowledgements, moderation timers, host ports and their resets, configuration, JTAG, SMBus, the rails beside VCORE, debug, Cellar regions and hosted Attics (R576 to R578, R638, R665 to R670, R685 to R689, R725, R730, R740, R751). -/

namespace Sys2Proof.Machine

/-! ## Result slots (R665 to R670) -/

/-- The bytes of a result slot (Table 17.5). -/
def slotBytes (r : ResultSlot) : List Byte :=
  leBytes 2 (if r.state = .free then 0 else r.status.code.toNat) ++ [r.reread, r.state.code.setWidth 8] ++ leBytes 4 r.seq.toNat ++
  [r.opcode, BitVec.ofNat 8 r.words.length] ++ List.replicate 6 0 ++ r.words.flatMap fun w => leBytes 4 w.toNat

/-- RESULT_SLOT_READ: the slot is answered as it stands; a read of a READY slot that covers byte 0 advances REREAD (R668). -/
def slotRead (f : Fn) (m : BitVec 4) (k : BitVec 3) (covers0 : Bool) (b : Board) (d : Device) : Device :=
  if !takesPosts b d f || slotCount d ≤ k.toNat then d else
  let r := slotOf d f m k
  let d1 := send d (.answer (leNat (slotBytes r)))
  if r.state = .ready && covers0 then setSlot d1 f m k { r with reread := satInc r.reread } else d1

def execResultSlotRead (f : Fn) (mbx : BitVec 4) (slot : BitVec 3) (covers0 : Bool) (s : State) : Out :=
  onDevB (slotRead f mbx slot covers0) s

/-- MBX_ACK: a READY or EXPIRED slot whose SEQ matches is freed; any other acknowledgement is counted (R669). -/
def ackSlot (f : Fn) (m : BitVec 4) (v : W64) (b : Board) (d : Device) : Device :=
  if !takesPosts b d f then d else
  let k : BitVec 3 := v.extractLsb' 0 3
  let r := slotOf d f m k
  if decide (k.toNat < slotCount d) && (r.state = .ready || r.state = .expired) && r.seq = v.extractLsb' 32 32 then setSlot d f m k {}
  else modMbx d f m fun x => { x with words := { x.words with ackMismatch := satInc x.words.ackMismatch } }

def execMbxAck (f : Fn) (mbx : BitVec 4) (v : W64) (s : State) : Out := onDevB (ackSlot f mbx v) s

/-- MBX_RESULT_EXPIRED: a READY slot has stood for HOLD_MS (R670). -/
def slotExpires (f : Fn) (m : BitVec 4) (k : BitVec 3) (d : Device) : Device :=
  let r := slotOf d f m k
  if r.state != .ready then d else
  let d1 := setSlot d f m k { r with state := .expired, status := .mbxResultExpired, words := [] }
  let d2 := modMbx d1 f m fun x => { x with words := { x.words with expired := satInc x.words.expired } }
  postEvent d2 f { code := 0x01, mbx := m, slot := k, seq := r.seq }

def execMbxResultExpired (f : Fn) (mbx : BitVec 4) (slot : BitVec 3) (s : State) : Out := onDev (slotExpires f mbx slot) s

/-- IRQ_MOD_TIMER: TIME_US have passed since the first unannounced unit (R685). -/
def modTimer (f : Fn) (v : Nat) (d : Device) : Device := if (vecOf (fnOf d f) v).units = 0 then d else fireVec d f v

def execIrqModTimer (f : Fn) (v : Nat) (s : State) : Out := onDev (modTimer f v) s

/-! ## Host ports (R688, R689, Table 1.8) -/

def setPort (d : Device) (portB up : Bool) : Device :=
  { d with fy := if portB then { d.fy with linkB := up } else { d.fy with linkA := up } }

/-- The region that holds a load's payload, on its suite's lead channel. -/
def loadRegion (d : Device) (l : Load) : Option (Ch × Nat) :=
  (d.fy.waits.find? fun w => w.cmd.key == l.key).map fun w =>
    (leadOf d w.cmd.suite, if w.op == .pinAdapter then par w.cmd.params 64 4 else par w.cmd.params 10 4)

/-- A load's payload lies in host memory of a port. -/
def loadFrom (d : Device) (portB : Bool) (l : Load) : Bool :=
  match loadRegion d l with
  | some r => (regionOf (chanOf d r.1) r.2).kind == (if portB then 4 else 3)
  | none => false

/-- Commands of functions that are reset hold no slot any more: they run to completion, and their results are discarded. -/
def orphan (p : Nat → Bool) (d : Device) : Device :=
  let key := fun (k : CmdKey) => if p k.fn then { k with fn := k.fn + 512 } else k
  { d with fy := { d.fy with
      waits := d.fy.waits.map (fun w => { w with cmd := { w.cmd with key := key w.cmd.key } }),
      held := d.fy.held.map (fun h => (h.1, { h.2 with key := key h.2.key })),
      loads := d.fy.loads.map fun l => { l with key := key l.key } } }

/-- Fetches from host memory fail: the loads that need them complete with DEGRADED. -/
def failFetches (p : Load → Bool) (d : Device) : Device :=
  (d.fy.loads.filter p).foldl (fun d l => failLoad d l .degraded) d

/-- What the foyer holds for a function is as after its reset: every slot FREE, every vector masked (R688, R696). -/
def eraseFns (p : Nat → Bool) (d : Device) : Device := { d with fy := { d.fy with fns := d.fy.fns.filter fun e => !p e.1 } }

def ofPort (portB : Bool) (k : Nat) : Bool := (if portB then 256 ≤ k else k < 256) && k < 512

/-- Both host ports are lost: the device is below its smallest working set and drains (R47, Table 1.8). -/
def drainWithoutHost (b : Board) (d : Device) : Device :=
  if b.pwr.seq = 9 && !d.fy.linkA && !d.fy.linkB then
    startDrain (setReplace d none) Ch.all false d.fy.replace.drainLimitS.toNat
  else d

/-- HOST_PERST_ASSERT (R688). -/
def perstAssert (portB : Bool) (b : Board) (d : Device) : Device :=
  if !portUp d portB then d else
  let key := ofPort portB
  let lost := d.fy.loads.filter (loadFrom d portB)
  let d1 := eraseFns key (orphan key (failFetches (fun l => lost.contains l && !key l.key.fn) d))
  let d2 := failFetches (fun l => lost.any fun k => k.target == l.target) (setPort d1 portB false)
  refresh (drainWithoutHost b d2)

def execHostPerstAssert (portB : Bool) (s : State) : Out :=
  onBoth (fun b d => let d1 := perstAssert portB b d; (showPower b d1, d1)) s

/-- Records that are owed reach their rings (R292). -/
def deliverAll (d : Device) : Device :=
  (Ch.all.filter (suiteExists d)).foldl (fun d s =>
    roomIndexes.foldl (fun d n => if (leadRoom d s n).serve.owed.isEmpty then d else ringFreed s n d) d) d

/-- HOST_LINK_RETURN: from stage 4 the port is in service again (R52, R688). -/
def linkReturn (portB : Bool) (b : Board) (d : Device) : Device :=
  if !b.foyerOn || portUp d portB then d else refresh (deliverAll (setPort d portB true))

def execHostLinkReturn (portB : Bool) (s : State) : Out := onDevB (linkReturn portB) s

/-- FUNCTION_LEVEL_RESET: as R688, for one function (R689). -/
def flr (f : Fn) (d : Device) : Device :=
  let key := fun (k : Nat) => k == f.key
  let lost := d.fy.loads.filter fun l => key l.key.fn && loadFrom d f.portB l
  failFetches (fun l => lost.any fun k => k.target == l.target) (eraseFns key (orphan key d))

def execFunctionLevelReset (f : Fn) (s : State) : Out :=
  withBoard (fun d => if portUp d f.portB then flr f d else d) s

/-- Messages and records that waited for Bus Master Enable and D0 go out (R683, R685, R689). -/
def releaseFn (f : Fn) (d : Device) : Device :=
  let vs := (fnOf d f).vectors.filter fun e => e.2.pend && !e.2.masked
  let d1 := if mayDma (fnOf d f) then vs.foldl (fun d e => fireVec d f e.1) d else d
  deliverAll (lostRecord d1 f)

/-- Four bytes of a function's configuration space: the fields of Table 17.1 (R1) at the places of a PCI type 0 header, and free values
elsewhere. PRESUMED, log 81. -/
def configWord (f : Fn) (off : BitVec 12) (free : W32) : W32 :=
  match off.toNat / 4 with
  | 0 => (if f.isPF then 0x0402#16 else 0x0403#16) ++ Config.vendorId
  | 2 => 0x120000#24 ++ 0xA0#8
  | 11 => 0x4016#16 ++ Config.vendorId
  | _ => free

/-- A configuration request as its function answers it. -/
def configServed (f : Fn) (a : CfgAccess) (d : Device) : Device :=
  match a with
  | .read off => let t := drawFree d; send t.2 (.answer (configWord f off ((Config.freeWord t.1).setWidth 32)).toNat)
  | .busMaster on => releaseFn f (modFn d f fun x => { x with busMaster := on })
  | .power d3 => releaseFn f (modFn d f fun x => { x with d3hot := d3 })

/-- CONFIG_REQUEST: Request Retry Status until the foyer firmware runs; with BOOT_SEL 2 the PFs are answered from stage 4 (R725). -/
def configRequest (f : Fn) (a : CfgAccess) (b : Board) (d : Device) : Device :=
  if !b.foyerOn || !portUp d f.portB then d
  else if b.firmware || (b.boot.bootSel == 2 && f.isPF) then configServed f a d
  else send d .retry

def execConfigRequest (f : Fn) (a : CfgAccess) (s : State) : Out := onDevB (configRequest f a) s

/-! ## JTAG and SMBus (R576, R740) -/

/-- JTAG_INSTRUCTION: until debug opens, all but BYPASS and IDCODE act as BYPASS. -/
def jtag (i : JtagInsn) (d : Device) : Device :=
  send d (.jtag (i == .bypass || (i != .idcode && !d.fy.debugOpen)))

def execJtagInstruction (i : JtagInsn) (s : State) : Out := onDev (jtag i) s

/-- The block of a command code of Table 18.7; before stage 4 the device's status and energy read their reset values. -/
def smbusBlock (code : Byte) (b : Board) (d : Device) : Option W64 :=
  let live := fun (v : W64) => if b.foyerOn then v else 0
  let n := code.toNat
  if n = 0 then some (live (getFyDevStatus d.fy.dev 0 ||| (getFyArrWidth d.fy.width 0 <<< 32)))
  else if n = 1 then some (getFltReplace d.fy.replace 0)
  else if n = 2 then some (getPwrStatus b.pwr 0)
  else if n = 3 then some (getPwrStatus b.pwr 1)
  else if 4 ≤ n && n ≤ 8 then some (live (getPwrEnergy b.energy (n - 4)))
  else if 0x10 ≤ n && n ≤ 0x17 then some (getPwrLaser (tget {} b.lasers (n - 0x10)) 0)
  else if n = 0x20 then some (getFyBoot b.boot 0)
  else none

def smbusRead (code : Byte) (b : Board) (d : Device) : Device :=
  if !b.vaux then d else
  match smbusBlock code b d with
  | some v => send d (.answer v.toNat)
  | none => send d .smbusNack

def execSmbusBlockRead (code : Byte) (s : State) : Out := onDevB (smbusRead code) s

/-! ## VSTK and VOPT (R730, Table 1.8) -/

/-- Every optical port loses its light. -/
def loseOptics (d : Device) : Device :=
  let ports := Ch.all.flatMap fun c => (List.range 4).map fun p => (c, p)
  portsSettled (ports.foldl (fun d q => portGone d q.1 (BitVec.ofNat 2 q.2) 5) d) fun _ => true

def loseStacks (d : Device) : Device :=
  (Ch.all.flatMap fun c => Ch.all.map fun st => (c, st)).foldl (fun d q => loseStack d q.1 q.2) d

/-- RAIL_PG_FALL of VOPT, or of VSTK, once it has been good. -/
def railPgFall (opt : Bool) (b : Board) (d : Device) : Board × Device :=
  if opt then
    if !b.pwr.voptOn || !b.pwr.pg.getLsbD 2 then (b, d) else
    let d1 := refresh (loseOptics d)
    ({ showPower b d1 with pwr := { (showPower b d1).pwr with voptOn := false, pg := b.pwr.pg &&& 3 } }, d1)
  else
    if !b.pwr.vstkOn || !b.pwr.pg.getLsbD 1 then (b, d) else
    let d1 := refresh (loseStacks d)
    ({ showPower b d1 with pwr := { (showPower b d1).pwr with vstkOn := false, pg := b.pwr.pg &&& 5 } }, d1)

def execRailPgFall (opt : Bool) (s : State) : Out := onBoth (railPgFall opt) s

/-! ## SEC_DEBUG_REQ (R577) -/

/-- A channel as debug opens: keys erased, a new per-boot key, and a security event. -/
def debugChan (key : BitVec 256) (x : Channel) : Channel :=
  if !x.imageOk then x else
  record { x with
    bootKey := some key, suiteKey := none, ctrlKey := none, memKey := none, debugBoot := true,
    links := x.links.map (fun l => (l.1, closeSession l.2)),
    sec := { x.sec with debug := true, linkKeys := 0 } } { cls := 0x02, unit := 5, kind := 12 }

def openDebug (d : Device) : Device :=
  let d1 := modChans { d with free := d.free + 4 } Ch.all fun c x => debugChan (Config.freeKey (d.free + c.num)) x
  { d1 with fy := { d1.fy with secDebug := { d1.fy.secDebug with opened := true }, debugOpen := true, roots := [] } }

/-- Why a request is refused: 1 a room exists, 2 a ROOM_CREATE is in progress, 3 a drain is in progress. -/
def debugRefusal (d : Device) : BitVec 3 :=
  if anyRoom d then 1 else if d.fy.held.any (fun h => h.1 == .roomCreate) then 2 else if anyDraining d then 3 else 0

def debugReq (v : W64) (b : Board) (d : Device) : Device :=
  if !b.firmware || !v.getLsbD 0 then d
  else if debugRefusal d != 0 then
    { d with fy := { d.fy with secDebug := { d.fy.secDebug with reason := debugRefusal d, refused := satInc d.fy.secDebug.refused } } }
  else openDebug d

def execSecDebugReq (v : W64) (s : State) : Out := onDevB (debugReq v) s

/-! ## FY_CELLAR_APPLY (R686) -/

/-- Cellar regions that a command in progress names: channel and region. -/
def namedRegions (d : Device) (w : Waiting) : List (Ch × Nat) :=
  let p := w.cmd.params
  match w.kind with
  | .load => [(leadOf d w.cmd.suite, if w.op == .pinAdapter then par p 64 4 else par p 10 4)]
  | .attest _ _ => ((signerOf d (par p 6 2) (Ch.ofNum (par p 9 2))).map fun c => (c, par p 64 4)).toList
  | .join _ => Ch.all.map fun c => (c, par p 32 4)
  | _ => []

/-- A room's ring names the region; RING_REGION counts while RING_EN is 1. DEDUCED, log 72. -/
def ringNames (d : Device) (c : Ch) (r : Nat) : Bool :=
  match suiteOfChan d c with
  | some s => leadOf d s == c && roomIndexes.any fun n =>
      let m := leadRoom d s n
      roomState m != rsFree && m.srv.ringEn && m.srv.ringRegion.toNat == r
  | none => false

def applyRefused (portB : Bool) (d : Device) (r : Nat) (e : FyCellar) : Bool :=
  (e.kind == 3 && portB) || (e.kind == 4 && !portB) || e.kind == 0 || 4 < e.kind.toNat ||
  (chansOf e.ch).any fun c =>
    poolUsed (tget {} (chanOf d c).regionPools r) != 0 || (d.fy.waits.any fun w => (namedRegions d w).contains (c, r)) || ringNames d c r

/-- A region takes the fields of a register, is enabled again, and shows its free pages. -/
def setRegion (r : Nat) (e : TierT2Region) (x : Channel) : Channel :=
  showFree { x with regions := tset {} x.regions r e, regionPools := tset {} x.regionPools r {}, disabled := x.disabled.filter (· != r) } r

def applyRegion (r : Nat) (e : FyCellar) (x : Channel) : Channel :=
  setRegion r { regionOf x r with node := e.node, kind := e.kind, base := e.base, pages := e.pages } x

def cellarApply (portB : Bool) (r : Nat) (b : Board) (d : Device) : Device :=
  if !b.firmware || !portUp d portB then d else
  let e := tget {} d.fy.cellar r
  let no := applyRefused portB d r e
  let d1 : Device := { d with fy := { d.fy with cellar := tmod {} d.fy.cellar r fun e => { e with refused := no } } }
  if no then d1 else modChans d1 (chansOf e.ch) fun _ x => applyRegion r e x

def execFyCellarApply (portB : Bool) (r : BitVec 4) (s : State) : Out := onDevB (cellarApply portB r.toNat) s

/-! ## CKP_HOST_FREE_ALL (R638, R652) -/

/-- Every Attic that a channel hosts is released. -/
def freeAttics (c : Ch) (d : Device) : Device :=
  let d1 := modChan d c fun x => { x with attics := [] }
  { d1 with fy := { d1.fy with ckpHost := d1.fy.ckpHost.set c { d1.fy.ckpHost.get c with used := 0, hosted := 0 } } }

def execCkpHostFreeAll (c : Ch) (s : State) : Out := onDevB (fun b d => if b.firmware then freeAttics c d else d) s

end Sys2Proof.Machine
end

