-- ==== Sys2Proof/Machine/HostRegs.lean ====
section
/-! DEFINITION. Machine/HostRegs.lean: a write to a register field with no row of its own (R15, R16): channel control space by Ballutos, BAR2
by the PFs, and the mailbox, function and moderation words by each function. -/

namespace Sys2Proof.Machine

/-! ## Channel control space -/

/-- A field that its table bounds keeps its value when a write names a larger one: WS_SIZE, up to 0xBC0, and CIS_SIZE, up to 768 (Tables 4.14,
9.7). DESIGN CHOICE, log 124. -/
def boundWs (old new : TierAcct) : TierAcct := { new with wsSize := if 0xBC0 < new.wsSize.toNat then old.wsSize else new.wsSize }
def boundCis (old new : TrnRoom) : TrnRoom := { new with cisSize := if 768 < new.cisSize.toNat then old.cisSize else new.cisSize }

/-- Words of a room's registers on one channel. RW-L fields keep their values while the room is STARTED (R15). -/
def roomWord (w : RegWord) (j : Nat) (v : W64) (r : Room) : Room :=
  let lk := isStarted r
  let tier := fun k => { r with tier := boundWs r.tier (putWord getTierAcct putTierAcct w k lk r.tier v) }
  let kv := fun k => { r with kv := putWord getKvRoom putKvRoom w k lk r.kv v }
  let rng := fun k => { r with rng := putWord getRngRoom putRngRoom w k lk r.rng v }
  let trn := fun k => { r with trn := boundCis r.trn (putWord getTrnRoom putTrnRoom w k lk r.trn v) }
  let bcast := fun k => { r with bcast := putWord getTrnBcast putTrnBcast w k lk r.bcast v }
  let fab := fun k => { r with fab := putWord getFabRoom putFabRoom w k lk r.fab v }
  let cfg := fun k => { r with cfg := putWord getRoomCfg putRoomCfg w k lk r.cfg v }
  let ckp := fun k => { r with ckp := putWord getCkpRoom putCkpRoom w k lk r.ckp v }
  match w with
  | .tierAcct0 => tier 0 | .tierAcct1 => tier 1
  | .tierWmap0 => { r with wmaps := tmod {} r.wmaps j fun m => putWord getTierWmap putTierWmap w 0 lk m v }
  | .kvRoom0 => kv 0 | .kvRoom1 => kv 1 | .kvRoom2 => kv 2 | .kvRoom3 => kv 3 | .kvRoom4 => kv 4
  | .rngRoom0 => rng 0 | .rngRoom1 => rng 1 | .rngRoom2 => rng 2
  | .trnRoom0 => trn 0 | .trnRoom1 => trn 1 | .trnRoom2 => trn 2 | .trnRoom4 => trn 4 | .trnRoom5 => trn 5 | .trnRoom6 => trn 6
  | .trnRoom7 => trn 7 | .trnRoom8 => trn 8 | .trnRoom9 => trn 9 | .trnRoom10 => trn 10 | .trnRoom11 => trn 11
  | .trnBcast0 => bcast 0 | .trnBcast2 => bcast 2
  | .fabRoom0 => fab 0 | .fabRoom1 => fab 1
  | .roomCfg0 => cfg 0 | .roomCfg3 => cfg 3
  | .schRoom0 => { r with sch := putWord getSchRoom putSchRoom w 0 lk r.sch v }
  | .ckpRoom0 => ckp 0 | .ckpRoom1 => ckp 1 | .ckpRoom2 => ckp 2
  | _ => stepWord w lk v r

/-- The registers whose words belong to a room. -/
def isRoomWord (w : RegWord) : Bool :=
  (regBounds w).1 == 64 && w != .adpBind0

/-- A Cellar region whose registers are written is enabled again (R498). -/
def enableRegion (x : Channel) (r : Nat) : Channel := showFree { x with disabled := x.disabled.filter (· != r) } r

/-- Words of a channel's own registers, by index. -/
def ownWord (w : RegWord) (i : Nat) (v : W64) (x : Channel) : Channel :=
  let region := fun k => enableRegion { x with regions := tmod {} x.regions i fun g => putWord getTierT2Region putTierT2Region w k false g v } i
  let acct := fun k => shed { x with commonAcct := { putWord getTierAcct putTierAcct w k false x.commonAcct v with wsSize := 0 } } 64
  let budget := fun k => modBudget (refill x i) i fun b => { b with reg := putWord getSrvBudget putSrvBudget w k false b.reg v }
  let model := fun k => modModel x i fun m => putWord getSrvWmodel putSrvWmodel w k false m v
  let xs := fun k =>
    let f : XStore → XStore := fun e => { e with reg := putWord getTrnXs putTrnXs w k (isStarted (roomOf x e.reg.room.toNat)) e.reg v }
    { x with stores := tmod {} x.stores i f }
  let peer := fun k => { x with peers := tmod {} x.peers i fun p => putWord getFabEthPeer putFabEthPeer w k false p v }
  let coll := fun k =>
    let f : FabColl → FabColl := fun e => putWord getFabColl putFabColl w k (isStarted (roomOf x e.room.toNat)) e v
    { x with colls := tmod {} x.colls i f }
  match w with
  | .ccStreamFault0 => { x with streamFault := putWord getCcStreamFault putCcStreamFault w 0 false x.streamFault v }
  | .ccWaitLimit0 => { x with waitLimit := putWord getCcWaitLimit putCcWaitLimit w 0 false x.waitLimit v }
  | .stkScrub0 => { x with scrub := putWord getStkScrub putStkScrub w 0 false x.scrub v }
  | .tierT2Region0 => region 0 | .tierT2Region1 => region 1 | .tierT2Region2 => region 2
  | .tierAcct0 => acct 0 | .tierAcct1 => acct 1
  | .tierCtl0 => { x with tierCtl := putWord getTierCtl putTierCtl w 0 false x.tierCtl v }
  | .srvBudget0 => budget 0 | .srvBudget1 => budget 1
  | .srvWmodel0 => model 0 | .srvWmodel1 => model 1
  | .trnXs0 => xs 0 | .trnXs1 => xs 1 | .trnXs2 => xs 2
  | .fabRt0 => { x with routes := tmod {} x.routes i fun r => putWord getFabRt putFabRt w 0 false r v }
  | .fabEthPeer0 => peer 0 | .fabEthPeer1 => peer 1 | .fabEthPeer2 => peer 2
  | .fabColl0 => coll 0 | .fabColl1 => coll 1 | .fabColl2 => coll 2 | .fabColl3 => coll 3 | .fabColl4 => coll 4 | .fabColl5 => coll 5
  | .fabColl6 => coll 6
  | .irqChan0 => deliverBoth { x with irq := putWord getIrqChan putIrqChan w 0 false x.irq v }
  | _ => x

/-- A word of a channel's control space. -/
def ccsWord (w : RegWord) (i j : Nat) (v : W64) (x : Channel) : Channel :=
  if isRoomWord w || (i < 64 && (w == .tierAcct0 || w == .tierAcct1)) then
    let y := modRoomC x i (roomWord w j v)
    if w == .tierAcct0 || w == .tierAcct1 then shed y i else y
  else ownWord w i v x

/-- The rooms whose rings are valid in the second state and were not in the first hold a boundary, when they are idle (R748, R751). -/
def ringsValid (d0 d : Device) (s : Ch) : Device :=
  roomIndexes.foldl (fun d n => if ringValid d s n && !ringValid d0 s n then idleBoundary (deliver d s n) s n else d) d

/-- What Ballutos does as a register changes: a model whose SOURCE is 1 keeps a copy ARMED (R446); a room's ring takes the records it is owed
(R291, R300), and a ring that has become valid ends the wait of an idle room's streams (R292, R748). -/
def ccsAfter (w : RegWord) (c : Ch) (i : Nat) (d0 d : Device) : Device :=
  match (suiteOfChan d c).filter fun s => leadOf d s == c with
  | none => d
  | some s =>
    match w with
    | .srvWmodel0 => armModel d s i
    | .srvRoom5 | .srvRoom6 => ringsValid d0 (deliver d s i) s
    | .tierT2Region0 => ringsValid d0 d s
    | _ => d

/-- Ballutos of a channel that runs writes a word of its control space; a word of SRV_ROOM_n, ADP_ROOM_n or UPD_ROOM_n only between two of the
room's steps (R299, R351, R430). -/
def writeCcs (w : RegWord) (c : Ch) (i j : Nat) (v : W64) (d : Device) : Device :=
  let x := chanOf d c
  if !x.imageOk || x.lost then d
  else if isStepWord w && inStep (roomOf x i) then modRoom d c i fun r => { r with later := r.later ++ [(w, v)] }
  else ccsAfter w c i d (modChan d c (ccsWord w i j v))

/-! ## BAR2 of the PFs -/

def bar2Word (w : RegWord) (p : Bool) (i j : Nat) (v : W64) (b : Board) (d : Device) : Board × Device :=
  let root := fun k => if anyRoom d then d else
    { d with fy := { d.fy with roots := tmod {} d.fy.roots i fun r => putWord getSecProgRoot putSecProgRoot w k false r v } }
  let cellar := fun k =>
    { d with fy := { d.fy with cellar := tmod {} d.fy.cellar i fun e => putWord getFyCellar putFyCellar w k false e v } }
  match w with
  | .secDebug0 => (b, debugReq v b d)
  | .secProgRoot0 => (b, root 0) | .secProgRoot1 => (b, root 1) | .secProgRoot2 => (b, root 2) | .secProgRoot3 => (b, root 3)
  | .secProgRoot4 => (b, root 4)
  | .fltReplace1 => (b, { d with fy := { d.fy with replace := putWord getFltReplace putFltReplace w 1 false d.fy.replace v } })
  | .ckpHost0 =>
    let c := Ch.ofNum i
    (b, { d with fy := { d.fy with ckpHost := d.fy.ckpHost.set c (putWord getCkpHost putCkpHost w 0 false (d.fy.ckpHost.get c) v) } })
  | .ckpHost1 => (b, if v.getLsbD 8 then freeAttics (Ch.ofNum i) d else d)
  | .fyCellar0 => (b, cellar 0) | .fyCellar1 => (b, cellar 1) | .fyCellar2 => (b, cellar 2)
  | .fyCellar3 => (b, if v.getLsbD 0 then cellarApply p i b d else d)
  | .fyVfSuite0 =>
    (b, if i = b2n p then
      { d with fy := { d.fy with vfSuite := tmod {} d.fy.vfSuite (256 * i + j) fun e => putWord getFyVfSuite putFyVfSuite w 0 false e v } }
      else d)
  | .pwrStatus1 => (writeLimit b (writtenWord (wordMask w) false (getPwrStatus b.pwr 1) v), d)
  | .fyBoot1 => ({ b with boot := putWord getFyBoot putFyBoot w 1 false b.boot v }, d)
  | .fyBoot2 => (if v.getLsbD 0 then fyBootGo p b else b, d)
  | _ => (b, d)

/-- BAR2 answers its port's PF from the end of stage 5; FY_BOOT does so from stage 4 with BOOT_SEL 2 (R725). -/
def bar2Open (w : RegWord) (f : Fn) (b : Board) (d : Device) : Bool :=
  f.isPF && portUp d f.portB &&
  (b.firmware || (b.foyerOn && b.boot.bootSel == 2 && (w == .fyBoot1 || w == .fyBoot2)))

/-! ## The words of a function -/

/-- GO posts the command area as it stands. A write carries no data that the command finds outside: DESIGN CHOICE, log 65. -/
def writeGo (f : Fn) (m : BitVec 4) (b : Board) (d : Device) : Device :=
  let x := mbxOf d f m
  post b { fn := f, mbx := m, header := x.header, params := x.params, data := {} } d

def fnWord (w : RegWord) (f : Fn) (i : Nat) (v : W64) (b : Board) (d : Device) : Device :=
  let m : BitVec 4 := BitVec.ofNat 4 i
  let words := fun k => lostRecord (modFn d f fun x => { x with words := putWord getFnWords putFnWords w k false x.words v }) f
  match w with
  | .mbxWords0 => if v.getLsbD 0 then writeGo f m b d else d
  | .mbxWords2 => ackSlot f m v b d
  | .mbxWords4 => modMbx d f m fun x => { x with words := putWord getMbxWords putMbxWords w 4 false x.words v }
  | .fnWords0 => words 0 | .fnWords1 => words 1 | .fnWords3 => words 3
  | .irqMod0 =>
    let d1 := modFn d f fun x =>
      { x with vectors := tmod {} x.vectors i fun k => { k with mod := putWord getIrqMod putIrqMod w 0 false k.mod v } }
    let k := vecOf (fnOf d1 f) i
    if k.units != 0 && vecLimit k ≤ k.units then fireVec d1 f i else d1
  | _ => d

/-- The mask bit of an MSI-X vector; a pending message goes out as it is cleared (R685). -/
def writeMask (f : Fn) (n : Nat) (v : W64) (d : Device) : Device :=
  let d1 := modFn d f fun x => { x with vectors := tmod {} x.vectors n fun k => { k with masked := v.getLsbD 0 } }
  let k := vecOf (fnOf d1 f) n
  if k.pend && !k.masked && mayDma (fnOf d1 f) then fireVec d1 f n else d1

/-- Replaces 64 bits of a wide value from a bit on. -/
def put64 {w : Nat} (x : BitVec w) (lo : Nat) (v : W64) : BitVec w :=
  (x &&& ~~~(((0xFFFFFFFFFFFFFFFF : BitVec 64).setWidth w) <<< lo)) ||| (v.setWidth w <<< lo)

/-- Eight bytes of a mailbox's command area: the 64 B header, then the parameters (Table 17.3). -/
def writeArea8 (f : Fn) (m : BitVec 4) (off : BitVec 11) (v : W64) (d : Device) : Device :=
  let o := off.toNat / 8 * 8
  if (mbxOf d f m).words.cmdBusy then d else
  modMbx d f m fun x =>
    if o < 64 then { x with header := put64 x.header (8 * o) v } else { x with params := put64 x.params (8 * (o - 64)) v }

/-! ## REGISTER_WRITE -/

/-- Where a register word lies. -/
inductive RegSpace where
  | ccs | bar2 | fn
  deriving DecidableEq, Repr

def spaceOf : RegWord → RegSpace
  | .secDebug0 | .secProgRoot0 | .secProgRoot1 | .secProgRoot2 | .secProgRoot3 | .secProgRoot4 | .fltReplace0 | .fltReplace1
  | .ckpHost0 | .ckpHost1 | .fyCellar0 | .fyCellar1 | .fyCellar2 | .fyCellar3 | .fyVfSuite0 | .pwrStatus0 | .pwrStatus1
  | .pwrEnergy0 | .pwrEnergy1 | .pwrEnergy2 | .pwrEnergy3 | .pwrLaser0 | .fyBoot0 | .fyBoot1 | .fyBoot2
  | .fyDevStatus0 | .fyArrWidth0 => .bar2
  | .mbxWords0 | .mbxWords1 | .mbxWords2 | .mbxWords3 | .mbxWords4 | .mbxWords5 | .fnWords0 | .fnWords1 | .fnWords2 | .fnWords3
  | .fnWords4 | .irqMod0 => .fn
  | _ => .ccs

/-- The register, the vector or the bytes exist. -/
def targetExists : RegTarget → Bool
  | .word w _ _ i j => regExists w i j
  | .msixMask _ v => v < 288
  | .cmdArea _ _ _ => true

def writeTarget (t : RegTarget) (v : W64) (b : Board) (d : Device) : Board × Device :=
  match t with
  | .word w f c i j => (match spaceOf w with
    | .ccs => (b, writeCcs w c i j v d)
    | .bar2 => if bar2Open w f b d then bar2Word w f.portB i j v b d else (b, d)
    | .fn => (b, if takesPosts b d f then fnWord w f i v b d else d))
  | .msixMask f n => (b, if takesPosts b d f then writeMask f n v d else d)
  | .cmdArea f m off => (b, if takesPosts b d f then writeArea8 f m off v d else d)

/-- REGISTER_WRITE (R15, R16). A register that does not exist cannot be written. -/
def execRegisterWrite (t : RegTarget) (v : W64) (s : State) : Out :=
  if targetExists t then onBoth (fun b d => let r := writeTarget t v b d; (showPower r.1 r.2, r.2)) s
  else .fault .noSuchRegister

end Sys2Proof.Machine
end

