-- ==== Sys2Proof/Machine/Dispatch.lean ====
section
/-! DEFINITION. Machine/Dispatch.lean: one arm per constructor of Instr. -/

namespace Sys2Proof.Machine

/-- The effect of a command on everything but the queue. -/
def exec (i : Instr) (s : State) : Host.Outcome State Fault Refusal :=
  match i with
  | .vauxRise ssc => Sys2Proof.Machine.execVauxRise ssc s
  | .sysResetNRise compat bootSel smbAddr => Sys2Proof.Machine.execSysResetNRise compat bootSel smbAddr s
  | .sysResetNFall => Sys2Proof.Machine.execSysResetNFall s
  | .vcorePgRise => Sys2Proof.Machine.execVcorePgRise s
  | .channelControllerRelease ok => Sys2Proof.Machine.execChannelControllerRelease ok s
  | .vcorePgTimeout => Sys2Proof.Machine.execVcorePgTimeout s
  | .bootImageReadDone r => Sys2Proof.Machine.execBootImageReadDone r s
  | .vstkPgRise => Sys2Proof.Machine.execVstkPgRise s
  | .vstkPgTimeout => Sys2Proof.Machine.execVstkPgTimeout s
  | .stackPairPower => Sys2Proof.Machine.execStackPairPower s
  | .stackTrained c stack ok => Sys2Proof.Machine.execStackTrained c stack ok s
  | .voptPgRise => Sys2Proof.Machine.execVoptPgRise s
  | .voptPgTimeout => Sys2Proof.Machine.execVoptPgTimeout s
  | .arraySelfTestDone r => Sys2Proof.Machine.execArraySelfTestDone r s
  | .vcorePgFall => Sys2Proof.Machine.execVcorePgFall s
  | .railPgFall opt => Sys2Proof.Machine.execRailPgFall opt s
  | .thermtrip => Sys2Proof.Machine.execThermtrip s
  | .sensorSample t => Sys2Proof.Machine.execSensorSample t s
  | .throttleStepTimer c => Sys2Proof.Machine.execThrottleStepTimer c s
  | .powerEstimate e => Sys2Proof.Machine.execPowerEstimate e s
  | .ioutCorrection uj => Sys2Proof.Machine.execIoutCorrection uj s
  | .pmbAlert faults => Sys2Proof.Machine.execPmbAlert faults s
  | .monitorTrip c m => Sys2Proof.Machine.execMonitorTrip c m s
  | .monitorRecovery c m => Sys2Proof.Machine.execMonitorRecovery c m s
  | .laserLightLoss ix => Sys2Proof.Machine.execLaserLightLoss ix s
  | .laserLightReturn ix uw => Sys2Proof.Machine.execLaserLightReturn ix uw s
  | .minSvnRaise c v => Sys2Proof.Machine.execMinSvnRaise c v s
  | .hostPerstAssert portB => Sys2Proof.Machine.execHostPerstAssert portB s
  | .hostLinkReturn portB => Sys2Proof.Machine.execHostLinkReturn portB s
  | .functionLevelReset f => Sys2Proof.Machine.execFunctionLevelReset f s
  | .configRequest f a => Sys2Proof.Machine.execConfigRequest f a s
  | .jtagInstruction ix => Sys2Proof.Machine.execJtagInstruction ix s
  | .smbusBlockRead code => Sys2Proof.Machine.execSmbusBlockRead code s
  | .smbusPwrLimitWrite v => Sys2Proof.Machine.execSmbusPwrLimitWrite v s
  | .fyBootGo portB => Sys2Proof.Machine.execFyBootGo portB s
  | .registerWrite t v => Sys2Proof.Machine.execRegisterWrite t v s
  | .resultSlotRead f mbx slot covers0 => Sys2Proof.Machine.execResultSlotRead f mbx slot covers0 s
  | .mbxAck f mbx v => Sys2Proof.Machine.execMbxAck f mbx v s
  | .mbxResultExpired f mbx slot => Sys2Proof.Machine.execMbxResultExpired f mbx slot s
  | .secDebugReq v => Sys2Proof.Machine.execSecDebugReq v s
  | .fyCellarApply portB r => Sys2Proof.Machine.execFyCellarApply portB r s
  | .ckpHostFreeAll c => Sys2Proof.Machine.execCkpHostFreeAll c s
  | .irqModTimer f v => Sys2Proof.Machine.execIrqModTimer f v s
  | .roomCreate p => Sys2Proof.Machine.execRoomCreate p s
  | .roomDestroy p => Sys2Proof.Machine.execRoomDestroy p s
  | .suiteSet p => Sys2Proof.Machine.execSuiteSet p s
  | .loadProgram p => Sys2Proof.Machine.execLoadProgram p s
  | .loadWeights p => Sys2Proof.Machine.execLoadWeights p s
  | .switchWeights p => Sys2Proof.Machine.execSwitchWeights p s
  | .pinAdapter p => Sys2Proof.Machine.execPinAdapter p s
  | .unpinAdapter p => Sys2Proof.Machine.execUnpinAdapter p s
  | .submitRequests p => Sys2Proof.Machine.execSubmitRequests p s
  | .cancelStream p => Sys2Proof.Machine.execCancelStream p s
  | .setBudget p => Sys2Proof.Machine.execSetBudget p s
  | .startJob p => Sys2Proof.Machine.execStartJob p s
  | .stopJob p => Sys2Proof.Machine.execStopJob p s
  | .checkpointNow p => Sys2Proof.Machine.execCheckpointNow p s
  | .checkpointPolicy p => Sys2Proof.Machine.execCheckpointPolicy p s
  | .atticRelease p => Sys2Proof.Machine.execAtticRelease p s
  | .restore p => Sys2Proof.Machine.execRestore p s
  | .shrinkJob p => Sys2Proof.Machine.execShrinkJob p s
  | .attest p => Sys2Proof.Machine.execAttest p s
  | .queryAccounting p => Sys2Proof.Machine.execQueryAccounting p s
  | .fabricJoin p => Sys2Proof.Machine.execFabricJoin p s
  | .fabricLeave p => Sys2Proof.Machine.execFabricLeave p s
  | .drainDevice p => Sys2Proof.Machine.execDrainDevice p s
  | .drainCancel p => Sys2Proof.Machine.execDrainCancel p s
  | .queryFaults p => Sys2Proof.Machine.execQueryFaults p s
  | .sealedPayloadSegment k seg bytes tagOk => Sys2Proof.Machine.execSealedPayloadSegment k seg bytes tagOk s
  | .adapterLoadDone k home => Sys2Proof.Machine.execAdapterLoadDone k home s
  | .weightLoadFetchDone k r => Sys2Proof.Machine.execWeightLoadFetchDone k r s
  | .bundleIssue c => Sys2Proof.Machine.execBundleIssue c s
  | .pumpDescriptorComplete c q => Sys2Proof.Machine.execPumpDescriptorComplete c q s
  | .arrayCheckToken c => Sys2Proof.Machine.execArrayCheckToken c s
  | .arrayFault c f => Sys2Proof.Machine.execArrayFault c f s
  | .arrayRetryDone c f => Sys2Proof.Machine.execArrayRetryDone c f s
  | .samplingToken c => Sys2Proof.Machine.execSamplingToken c s
  | .controllerQueueItem c => Sys2Proof.Machine.execControllerQueueItem c s
  | .waitLimitExpiry c => Sys2Proof.Machine.execWaitLimitExpiry c s
  | .sumpPageFlush c room key => Sys2Proof.Machine.execSumpPageFlush c room key s
  | .roomSwitch su => Sys2Proof.Machine.execRoomSwitch su s
  | .heatEpoch c => Sys2Proof.Machine.execHeatEpoch c s
  | .pagePromotionDone c p back => Sys2Proof.Machine.execPagePromotionDone c p back s
  | .pageEvictionDone c p => Sys2Proof.Machine.execPageEvictionDone c p s
  | .memrResponse c region page intact => Sys2Proof.Machine.execMemrResponse c region page intact s
  | .memrTimeout c region page => Sys2Proof.Machine.execMemrTimeout c region page s
  | .memwReceive c node addr bytes => Sys2Proof.Machine.execMemwReceive c node addr bytes s
  | .memrReceive c node addr n => Sys2Proof.Machine.execMemrReceive c node addr n s
  | .stepBoundary su room => Sys2Proof.Machine.execStepBoundary su room s
  | .holdDlExpiry c ctx => Sys2Proof.Machine.execHoldDlExpiry c ctx s
  | .pinDlExpiry c ctx => Sys2Proof.Machine.execPinDlExpiry c ctx s
  | .budgetRetestTimer su => Sys2Proof.Machine.execBudgetRetestTimer su s
  | .ringSpaceFree su room cons => Sys2Proof.Machine.execRingSpaceFree su room cons s
  | .warmAdapterFetchDone su slot back => Sys2Proof.Machine.execWarmAdapterFetchDone su slot back s
  | .fabricRequestMessage c node reply suite params mem => Sys2Proof.Machine.execFabricRequestMessage c node reply suite params mem s
  | .broadcastAnnounce c node model wgen pages tiles k t => Sys2Proof.Machine.execBroadcastAnnounce c node model wgen pages tiles k t s
  | .broadcastChunkArrival c k tag chunk poison bytes => Sys2Proof.Machine.execBroadcastChunkArrival c k tag chunk poison bytes s
  | .fingerprintTableArrival su k fps => Sys2Proof.Machine.execFingerprintTableArrival su k fps s
  | .replicaDigestMessage su k node digest fps src => Sys2Proof.Machine.execReplicaDigestMessage su k node digest fps src s
  | .replicaTimeout su k src => Sys2Proof.Machine.execReplicaTimeout su k src s
  | .tileRepairLand su k tile bytes => Sys2Proof.Machine.execTileRepairLand su k tile bytes s
  | .updateStartSignal c room => Sys2Proof.Machine.execUpdateStartSignal c room s
  | .deferredUnitArrival c room unit => Sys2Proof.Machine.execDeferredUnitArrival c room unit s
  | .consumedGroupSignal c room => Sys2Proof.Machine.execConsumedGroupSignal c room s
  | .endOfStepSignal c room r => Sys2Proof.Machine.execEndOfStepSignal c room r s
  | .microbatchRetire c room => Sys2Proof.Machine.execMicrobatchRetire c room s
  | .normSumsMessage c room shard m => Sys2Proof.Machine.execNormSumsMessage c room shard m s
  | .versionRegistration c room e wgen => Sys2Proof.Machine.execVersionRegistration c room e wgen s
  | .versionRelease c room reader wgen => Sys2Proof.Machine.execVersionRelease c room reader wgen s
  | .leaseLapse c room reader wgen => Sys2Proof.Machine.execLeaseLapse c room reader wgen s
  | .trajectorySlotRequest c j t => Sys2Proof.Machine.execTrajectorySlotRequest c j t s
  | .slotRequestRetry c room ctx => Sys2Proof.Machine.execSlotRequestRetry c room ctx s
  | .frameReceive c l hdr payload crc => Sys2Proof.Machine.execFrameReceive c l hdr payload crc s
  | .nakReceive c l seq => Sys2Proof.Machine.execNakReceive c l seq s
  | .tagFrameReceive c p ok => Sys2Proof.Machine.execTagFrameReceive c p ok s
  | .frameAckReceive c l seq => Sys2Proof.Machine.execFrameAckReceive c l seq s
  | .ackTimeout c l => Sys2Proof.Machine.execAckTimeout c l s
  | .helloTimer c p => Sys2Proof.Machine.execHelloTimer c p s
  | .helloReceive c p node port => Sys2Proof.Machine.execHelloReceive c p node port s
  | .laneFault c p lane => Sys2Proof.Machine.execLaneFault c p lane s
  | .portRetrainDone c p => Sys2Proof.Machine.execPortRetrainDone c p s
  | .portTrained c p ok => Sys2Proof.Machine.execPortTrained c p ok s
  | .linkSetupMessage c p m => Sys2Proof.Machine.execLinkSetupMessage c p m s
  | .linkSetupRetryTimer c p => Sys2Proof.Machine.execLinkSetupRetryTimer c p s
  | .linkRekey c p => Sys2Proof.Machine.execLinkRekey c p s
  | .errorFrameReceive c e => Sys2Proof.Machine.execErrorFrameReceive c e s
  | .msgCreditReturn c node queue => Sys2Proof.Machine.execMsgCreditReturn c node queue s
  | .dataChunkArrival c node sroom droom tag chunk last poison bytes => Sys2Proof.Machine.execDataChunkArrival c node sroom droom tag chunk last poison bytes s
  | .reduceChunkArrival c k tag chunk final poison bytes => Sys2Proof.Machine.execReduceChunkArrival c k tag chunk final poison bytes s
  | .fallbackCombineDone c k tag chunk => Sys2Proof.Machine.execFallbackCombineDone c k tag chunk s
  | .ethCnpReceive c peer => Sys2Proof.Machine.execEthCnpReceive c peer s
  | .ethRateRecovery c peer => Sys2Proof.Machine.execEthRateRecovery c peer s
  | .checkpointTimer su room => Sys2Proof.Machine.execCheckpointTimer su room s
  | .jobCutMessage su room step => Sys2Proof.Machine.execJobCutMessage su room step s
  | .shardCommitReport su room shard => Sys2Proof.Machine.execShardCommitReport su room shard s
  | .captureStageAck su room => Sys2Proof.Machine.execCaptureStageAck su room s
  | .captureAckTimeout su room => Sys2Proof.Machine.execCaptureAckTimeout su room s
  | .mirrorCopyDone su room ok => Sys2Proof.Machine.execMirrorCopyDone su room ok s
  | .sramPatrolScrub c f => Sys2Proof.Machine.execSramPatrolScrub c f s
  | .t1PatrolScrub c f => Sys2Proof.Machine.execT1PatrolScrub c f s
  | .migrationDone c m => Sys2Proof.Machine.execMigrationDone c m s
  | .watchdogExpiry c hk => Sys2Proof.Machine.execWatchdogExpiry c hk s
  | .coreSelfTestDone c ok => Sys2Proof.Machine.execCoreSelfTestDone c ok s
  | .faultHistoryFlush c ok => Sys2Proof.Machine.execFaultHistoryFlush c ok s
  | .flashWriteRetry c ok => Sys2Proof.Machine.execFlashWriteRetry c ok s
  | .lifeClockWriteback c => Sys2Proof.Machine.execLifeClockWriteback c s
  | .boundMissRecord c => Sys2Proof.Machine.execBoundMissRecord c s
  | .drainLimitExpiry c => Sys2Proof.Machine.execDrainLimitExpiry c s
  | .channelLoss c => Sys2Proof.Machine.execChannelLoss c s
  | .stackLoss c stack => Sys2Proof.Machine.execStackLoss c stack s
  | .trngHealthFail c => Sys2Proof.Machine.execTrngHealthFail c s
  | .trngRetest c ok => Sys2Proof.Machine.execTrngRetest c ok s
  | .irqSourceSignal c level => Sys2Proof.Machine.execIrqSourceSignal c level s
  | .handlerReturn c hk => Sys2Proof.Machine.execHandlerReturn c hk s
  | .millisecondTick c => Sys2Proof.Machine.execMillisecondTick c s
  | .vauxRemove => Sys2Proof.Machine.execVauxRemove s
  | .moduleManagementBlockLoss => Sys2Proof.Machine.execModuleManagementBlockLoss s
  | .pumpControlMismatch c pump => Sys2Proof.Machine.execPumpControlMismatch c pump s
  | .hostCompletionTimeout k => Sys2Proof.Machine.execHostCompletionTimeout k s
  | .writeThroughAppendLand c room => Sys2Proof.Machine.execWriteThroughAppendLand c room s

end Sys2Proof.Machine
end

