-- ==== Sys2Proof/Machine/Idle.lean ====
section
/-! DEFINITION. Machine/Idle.lean: what the block does on an empty queue. -/

namespace Sys2Proof.Machine

/-- A microsecond of the Porch of every channel passes, while VAUX is in range (R693). DESIGN CHOICE, log 1. -/
def idleStep (s : State) : State :=
  if s.board.vaux then { s with dev := modChans s.dev Ch.all fun _ x => { x with porchUs := x.porchUs + 1 } } else s

/-- A command put at the front of the queue. -/
def State.withFront (s : State) : Option Instr → State
  | some i => { s with pending := i :: s.pending }
  | none => s

end Sys2Proof.Machine
end

