-- ==== Sys2Proof/Safety.lean ====
section
/-! DEFINITION. Safety.lean: the words that statements use: what a safe answer is, the sequencer's legal states, which commands reach the board,
what a command leaves alone, and when a host command is accepted. -/

namespace Sys2Proof.Machine

/-! ## Outcomes -/

/-- A command goes on: it answers a next state. -/
def Goes (i : Instr) (s : State) : Prop := ∃ t, exec i s = .next t

/-- A safe command goes on, or names a register that does not exist. -/
def SafeOutcome : Out → Prop
  | .next _ => True
  | .fault r => r = .noSuchRegister
  | .refused _ => False

/-! ## The start-up sequencer (R721 to R735) -/

/-- The sequencer and the rails fit together: SEQ names a stage; rails are on only from the stage that turns them on; READY_OUT is high in
stage 9 alone; after a thermal trip every rail is off; counts of controllers, stack pairs and stacks stay in range. -/
def legalBoard (b : Board) : Bool :=
  let q := b.pwr.seq.toNat
  [0, 2, 3, 5, 6, 7, 8, 9, 11].contains q &&
  ((q == 0) == !b.vaux) &&
  (!decide (3 ≤ q ∧ q ≤ 9) || (b.resetHigh && b.loops == 0b11111 && !b.thermtrip)) &&
  (!(q == 0 || q == 2) || b.loops == 0) &&
  (!b.thermtrip || ((q == 2 || q == 11) && b.loops == 0)) &&
  (!(q == 11) || b.thermtrip || b.resetHigh) &&
  (b.foyerOn == decide (5 ≤ q ∧ q ≤ 9) || q == 11) &&
  (b.firmware == decide (6 ≤ q ∧ q ≤ 9)) &&
  (b.readyOut == (q == 9)) &&
  (!b.pwr.vstkOn || decide (6 ≤ q ∧ q ≤ 9)) && (!(q == 6) || b.pwr.vstkOn) &&
  (!b.pwr.voptOn || decide (8 ≤ q ∧ q ≤ 9)) &&
  (!b.pwr.pg.getLsbD 0 || decide (5 ≤ q ∧ q ≤ 9) || q == 11) &&
  (!b.pwr.pg.getLsbD 1 || (b.pwr.vstkOn && decide (7 ≤ q))) &&
  (!b.pwr.pg.getLsbD 2 || b.pwr.voptOn) &&
  decide (b.released ≤ 4) && decide (b.pairs ≤ 8)

/-- The board but for what PWR_STATUS shows of the channels: STEP, TMAX, TSTACK and LIMITER. -/
def unshown (b : Board) : Board := { b with pwr := { b.pwr with step := 0, tmax := 0, tstack := 0, limiter := 0 } }

/-- Commands whose effect reaches the rails, the sequencer, the board's registers or its pins. -/
def reachesBoard : Instr → Bool
  | .vauxRise _ | .sysResetNRise _ _ _ | .sysResetNFall | .vcorePgRise | .channelControllerRelease _ | .vcorePgTimeout
  | .bootImageReadDone _ | .vstkPgRise | .vstkPgTimeout | .stackPairPower | .stackTrained _ _ _ | .voptPgRise | .voptPgTimeout
  | .arraySelfTestDone _ | .vcorePgFall | .railPgFall _ | .thermtrip | .vauxRemove | .fyBootGo _
  | .powerEstimate _ | .ioutCorrection _ | .pmbAlert _ | .monitorRecovery _ _ | .laserLightLoss _ | .laserLightReturn _ _
  | .smbusPwrLimitWrite _ | .registerWrite _ _ => true
  | _ => false

/-! ## What a command leaves alone -/

/-- The queue, the board, the foyer, the suites, what has been sent, the free values, and every channel but c are as before. -/
def OnlyChannel (c : Ch) (s t : State) : Prop :=
  t.pending = s.pending ∧ t.board = s.board ∧ t.dev.fy = s.dev.fy ∧ t.dev.suites = s.dev.suites ∧ t.dev.out = s.dev.out ∧
  t.dev.free = s.dev.free ∧ ∀ o, o ≠ c → chanOf t.dev o = chanOf s.dev o

/-- The queue, the board, the foyer, the suites, the free values and every channel outside l are as before; msgs are sent. -/
def OnlyChannels (l : List Ch) (msgs : List OutMsg) (s t : State) : Prop :=
  t.pending = s.pending ∧ t.board = s.board ∧ t.dev.fy = s.dev.fy ∧ t.dev.suites = s.dev.suites ∧ t.dev.free = s.dev.free ∧
  t.dev.out = msgs ++ s.dev.out ∧ ∀ o, o ∉ l → chanOf t.dev o = chanOf s.dev o

/-- The credit that channel c returns to the sender of a consumed message (R496). -/
def creditOf (d : Device) (c : Ch) (node : BitVec 18) : List OutMsg :=
  if (chanOf d c).started = true ∧ node ≠ nodeOf (chanOf d c) then [.credit c node 1] else []

/-- A message of a channel as it leaves: on an Orzer link, or by RDMA to an Ethernet peer (R509). -/
def msgOf (d : Device) (c : Ch) (node : BitVec 18) (queue : W32) (bytes : List Byte) : OutMsg :=
  match ethWay (chanOf d c) node with
  | some j => .rdmaSend c j queue bytes
  | none => .message c node queue bytes

/-! ## Energy (R742) -/

/-- The energy of every room of the device, as their counters show it. -/
def roomsEnergy (d : Device) : W64 :=
  (Ch.all.map fun c => (roomIndexes.map fun n => (roomOf (chanOf d c) n).acct.energyUj).sum).sum
/-- The idle energy of every suite. -/
def suitesIdle (d : Device) : W64 := (Ch.all.map fun s => (suiteOf d s).idleUj).sum

/-! ## Host functions -/

/-- No room of any suite owes a record to its delivery ring. -/
def NothingOwed (d : Device) : Prop := ∀ s n, (leadRoom d s n).serve.owed = []

/-- Everything but the mailboxes, words and vectors of the functions, and the messages sent, is as before. -/
def OnlyFunctions (s t : State) : Prop :=
  t.pending = s.pending ∧ t.board = s.board ∧ t.dev.chans = s.dev.chans ∧ t.dev.suites = s.dev.suites ∧ t.dev.free = s.dev.free ∧
  t.dev.fy = { s.dev.fy with fns := t.dev.fy.fns }

/-- Everything but the functions is as before, and so is the board but for what PWR_STATUS shows. -/
def OnlyPosts (s t : State) : Prop :=
  t.pending = s.pending ∧ unshown t.board = unshown s.board ∧ t.dev.chans = s.dev.chans ∧ t.dev.suites = s.dev.suites ∧
  t.dev.free = s.dev.free ∧ t.dev.out = s.dev.out ∧ t.dev.fy = { s.dev.fy with fns := t.dev.fy.fns }

/-! ## Posts (R663 to R667) -/

/-- The rows that post a command: its command, and the post with the parameter bit that the row sets. -/
def rowPost : Instr → Option (HostOp × HostPost)
  | .roomCreate p => some (.roomCreate, p)
  | .roomDestroy p => some (.roomDestroy, p)
  | .suiteSet p => some (.suiteSet, p)
  | .loadProgram p => some (.loadProgram, p)
  | .loadWeights p => some (.loadWeights, p)
  | .switchWeights p => some (.switchWeights, p)
  | .pinAdapter p => some (.pinAdapter, p)
  | .unpinAdapter p => some (.unpinAdapter, p)
  | .submitRequests p => some (.submitRequests, p)
  | .cancelStream p => some (.cancelStream, p)
  | .setBudget p => some (.setBudget, p)
  | .startJob p => some (.startJob, p)
  | .stopJob p => some (.stopJob, p)
  | .checkpointNow p => some (.checkpointNow, p)
  | .checkpointPolicy p => some (.checkpointPolicy, p)
  | .atticRelease p => some (.checkpointPolicy, { p with params := p.params ||| (1 <<< 6) })
  | .restore p => some (.restore, p)
  | .shrinkJob p => some (.shrinkJob, p)
  | .attest p => some (.attest, p)
  | .queryAccounting p => some (.queryAccounting, p)
  | .fabricJoin p => some (.fabricJoin, p)
  | .fabricLeave p => some (.fabricLeave, p)
  | .drainDevice p => some (.drainDevice, p)
  | .drainCancel p => some (.drainDevice, { p with params := p.params ||| (1 <<< 5) })
  | .queryFaults p => some (.queryFaults, p)
  | _ => none

/-- The header of a post of a command: its OPCODE names the command. -/
def postedHeader (op : HostOp) (p : HostPost) (d : Device) : BitVec 512 := namedHeader d.fy.dev.compatH1 op p.header
/-- The outcome of the header check of such a post. -/
def postCheck (op : HostOp) (p : HostPost) (s : State) : Status := headerStatus s.dev p.fn p.mbx (postedHeader op p s.dev)

/-- The post is accepted, and start-up has ended. -/
def Accepts (op : HostOp) (p : HostPost) (s : State) : Prop :=
  takesPosts s.board s.dev p.fn = true ∧ (mbxOf s.dev p.fn p.mbx).words.cmdBusy = false ∧ s.board.pwr.seq = 9 ∧ postCheck op p s = .ok

/-- The command as the foyer takes it. -/
def commandOf (op : HostOp) (p : HostPost) (d : Device) : Accepted :=
  let h := postedHeader op p d
  { fn := p.fn, key := { fn := p.fn.key, mbx := p.mbx, slot := hdrSlot h }, suite := hdrSuite h, params := hdrParams h p.params, data := p.data }

/-- The device as the command finds it: the command area holds the post, MBX_POST_STATUS shows OK, and the slot is PENDING. -/
def pendingDev (op : HostOp) (p : HostPost) (d : Device) : Device :=
  let h := postedHeader op p d
  setSlot (modMbx d p.fn p.mbx fun m => { m with
      header := h, params := p.params, words := { m.words with postStatus := Status.ok.code, postSeq := hdrSeq h } })
    p.fn p.mbx (hdrSlot h) { state := .pending, status := .pending, seq := hdrSeq h, opcode := hdrCode h }

/-- The result slot that a post names. -/
def postSlot (op : HostOp) (p : HostPost) (d d' : Device) : ResultSlot := slotOf d' p.fn p.mbx (hdrSlot (postedHeader op p d))

/-- The command has completed: its slot is READY with its SEQ, its OPCODE, a status and result words (R667). -/
def Answers (op : HostOp) (p : HostPost) (s t : State) (st : Status) (ws : List W32) : Prop :=
  let r := postSlot op p s.dev t.dev
  r.state = .ready ∧ r.status = resultStatus t.dev st ∧ r.words = ws.take (slotWords t.dev) ∧ r.seq = hdrSeq (postedHeader op p s.dev) ∧
  r.opcode = hdrCode (postedHeader op p s.dev)

/-- The command is in progress: its slot is PENDING, and the foyer holds it with what it waits for. -/
def Waits (op : HostOp) (p : HostPost) (s t : State) (k : WaitKind) : Prop :=
  (postSlot op p s.dev t.dev).state = .pending ∧ { cmd := commandOf op p s.dev, op := op, kind := k } ∈ t.dev.fy.waits

/-! ## Bundles and tokens -/

/-- The channel at the moment a bundle of room n issues or holds: due results have landed, after the bank delay of a bundle that would issue. -/
def bundleMoment (x : Channel) (n : Nat) : Channel :=
  match verdict (landDue x) n with
  | .issue b => if bankDelay (landDue x) b = 0 then landDue x else landDue (addCycles (bankDelay (landDue x) b) (landDue x))
  | _ => landDue x

/-- A channel once the array, vector and scalar slots of a bundle have acted. -/
def actedChan (n stream : Nat) (b : BitVec 1024) (x : Channel) : Channel :=
  actArr n stream (bArr b) (actSlots n b (countVector n b { countHold x with island := keepDecoded b (countHold x).island }))

/-- A bundle is no switch point: neither SWITCH nor a yielding wait that acts (R535). -/
def noPoint (c : Ctx) (s : BitVec 32) : Bool := !(ctActs c s && (ctOp s == 0x04 || (ctOp s == 0x03 && ctYield s)))

/-- Room n's token counter t went up by one on a channel (R132). -/
def TokenPosted (n t : Nat) (x y : Channel) : Prop :=
  (ctxOn y n).tk = (incTk (ctxOn x n) t).tk ∧ (ctxOn y n).tkOver = (incTk (ctxOn x n) t).tkOver

/-- A stream fault of room n has been recorded on a channel that was y: CC_STREAM_FAULT names its kind, slot, room and bundle, and the newest record
the room (R150). -/
def FaultNoted (y : Channel) (n kind slot : Nat) (x : Channel) : Prop :=
  x.streamFault = { kind := BitVec.ofNat 8 kind, slot := BitVec.ofNat 4 slot, room := BitVec.ofNat 6 n, pc := BitVec.ofNat 24 (ctxOn y n).pc, valid := true } ∧
  ∃ r l, x.hist.buffer = r :: l ∧ r.cls = 0x90 ∧ r.kind = 7 ∧ r.room = BitVec.ofNat 6 n

/-! ## Faults -/

/-- A fault has been judged on channel c of a device: the newest record is r with its judgement and what r's channel held before follows it, rooms and the
other channels are as before; a permanent one has then been met (R604). -/
def Judged (c : Ch) (r : FaultRec) (survives : Bool) (d d' : Device) : Prop :=
  let perm := isPermanent (chanOf d c) r.cls r.unit r.addr survives
  ∃ d1 e, (chanOf d1 c).hist.buffer = e :: (chanOf d c).hist.buffer ∧ e.cls = r.cls ∧ e.unit = r.unit ∧ e.addr = r.addr ∧ e.kind = r.kind ∧
    e.judge = (if perm then 1 else 0) ∧ (chanOf d1 c).rooms = (chanOf d c).rooms ∧ (∀ o, o ≠ c → chanOf d1 o = chanOf d o) ∧
    d' = if perm then meetPermanent d1 c r.cls r.unit r.addr else d1

/-- A monitor has tripped on channel c of a device: the channel has taken the monitor's action, the fault of KIND 5 is judged, a tripped port has lost
its light, and the event of code 0x05 is posted (R591, R604). -/
def Tripped (c : Ch) (m : Monitor) (d d' : Device) : Prop :=
  ∃ d1, Judged c { cls := monitorClass m, unit := monitorUnit m, kind := 5 } false (modChan d c (tripChan m)) d1 ∧
    d' = postAll (match m with | .vopt p => portGone d1 c (BitVec.ofNat 2 p) 5 | _ => d1)
      { code := 0x05, detail := (monitorUnit m ++ monitorClass m).setWidth 64 }

/-- What one interrupt source of a level leaves of a core that could deliver nothing before (R690, R691): it is delivered where its level is above the
running one and not masked, waking the core, and waits otherwise. -/
def Delivered (x : Channel) (hk : Bool) (l : Nat) (k : Core) : Prop :=
  let old := coreOf x hk
  if l < topLevel old ∧ levelMasked x hk l = false then k = { old with stack := l :: old.stack, asleep := false }
  else k = { old with waiting := old.waiting ++ [l] }

/-! ## Weight copies -/

/-- No room of a suite that uses a model is STARTED and between steps, so that a copy made READY runs no boundary at once (R748). -/
def NoIdleUser (d : Device) (u : Ch) (m : Nat) : Prop :=
  ∀ n, usesModel (leadRoom d u n) m = true →
    (suiteExists d u && isStarted (leadRoom d u n) && servesStreams (leadRoom d u n) && !(leadRoom d u n).serve.inStep) = false

/-- Copy k of a suite changes as f says, and no other copy; of the channels only the lead changes, and of it nothing beside its copies. -/
def OnlyCopy (u : Ch) (k : Nat) (f : WCopy → WCopy) (s t : State) : Prop :=
  leadCopy t.dev u k = f (leadCopy s.dev u k) ∧ (∀ j, j ≠ k → leadCopy t.dev u j = leadCopy s.dev u j) ∧
  (∀ o, o ≠ leadOf s.dev u → chanOf t.dev o = chanOf s.dev o) ∧
  chanOf t.dev (leadOf s.dev u) = { chanOf s.dev (leadOf s.dev u) with copies := (chanOf t.dev (leadOf s.dev u)).copies }

end Sys2Proof.Machine
end

