-- ==== Sys2Proof/Certificates/Slice0/Obligations.lean ====
section
/-! DEFINITION. Certificates/Slice0/Obligations.lean: the statements for the provers. -/

open Sys2Proof Sys2Proof.Machine

/-! ## Steps, reset, the queue -/

/-- A step takes the command at the front of the queue and carries it out with the queue's rest. -/
def Obligations.StepRunsFrontCommand : Prop :=
  ∀ (c : Instr) (rest : List Instr) (s : State), s.pending = c :: rest → step s = exec c { s with pending := rest }

/-- On an empty queue the block idles: with VAUX in range a microsecond of every Porch passes and nothing else changes; without VAUX nothing
changes. The model's choice (log 1). -/
def Obligations.EmptyQueueIdles : Prop :=
  ∀ s : State, s.pending = [] → ∃ t, step s = .next t ∧ t.pending = [] ∧ t.board = s.board ∧ t.dev.fy = s.dev.fy ∧
    t.dev.suites = s.dev.suites ∧ t.dev.out = s.dev.out ∧ t.dev.free = s.dev.free ∧
    ∀ c, chanOf t.dev c = { chanOf s.dev c with porchUs := (chanOf s.dev c).porchUs + (if s.board.vaux then 1 else 0) }

/-- No command touches the commands behind it in the queue. -/
def Obligations.CommandsKeepTheQueue : Prop :=
  ∀ (i : Instr) (s t : State), exec i s = .next t → t.pending = s.pending

/-- Every command but a REGISTER_WRITE goes on from every state; a REGISTER_WRITE goes on when the register exists and faults with
noSuchRegister when it does not. -/
def Obligations.OnlyMissingRegistersFault : Prop :=
  ∀ (i : Instr) (s : State), (∃ t, exec i s = .next t) ∨
    (exec i s = .fault .noSuchRegister ∧ ∃ g v, i = .registerWrite g v ∧ targetExists g = false)

/-- What reset leaves: every word of every register reads as its table gives it (the fuses as in a part without a failed unit, the model's choice,
log 5); no command waits, no room exists, no key is held, and every memory is empty. -/
def Obligations.ResetRegistersHoldTheirValues : Prop :=
  let d := State.reset.dev
  let b := State.reset.board
  let reads := fun (f : Nat → W64) (words : List (Nat × W64)) => ∀ j, f j = tget 0 words j
  State.reset.pending = [] ∧ b.vaux = false ∧ b.readyOut = false ∧ b.thermtrip = false ∧ d.out = [] ∧
  (reads (getPwrStatus b.pwr) [(1, 0x0834)] ∧ reads (getPwrEnergy b.energy) [] ∧ reads (getFyBoot b.boot) [] ∧
    ∀ i, reads (getPwrLaser (tget {} b.lasers i)) []) ∧
  (reads (getFyDevStatus d.fy.dev) [] ∧ reads (getFyArrWidth d.fy.width) [] ∧ reads (getSecDebug d.fy.secDebug) [] ∧
    reads (getFltReplace d.fy.replace) [(1, 0x003C0000)]) ∧
  (∀ i, reads (getFyCellar (tget {} d.fy.cellar i)) [] ∧ reads (getFyVfSuite (tget {} d.fy.vfSuite i)) [] ∧
    reads (getSecProgRoot (tget {} d.fy.roots i)) []) ∧
  (∀ u, reads (getSchSuite (suiteOf d u)) [(0, 0x07D000001000)] ∧ reads (getCkpHost (d.fy.ckpHost.get u)) []) ∧
  (∀ f v m, reads (getFnWords (fnOf d f).words) [(1, 0x0C), (4, BitVec.ofNat 64 (2 * f.num.toNat + f.portB.toNat))] ∧
    reads (getIrqMod (vecOf (fnOf d f) v).mod) [(0, 1)] ∧ (vecOf (fnOf d f) v).masked = true ∧
    reads (getMbxWords (mbxOf d f m).words) [(4, 0x2710)] ∧ (fnOf d f).busMaster = false ∧ (fnOf d f).d3hot = false) ∧
  ∀ (c : Ch),
    let x := chanOf d c
    (reads (getArrChkStatus x.arrStatus) [] ∧ reads (getArrChkCount x.arrCount) [] ∧ reads (getCcStreamFault x.streamFault) [] ∧
      reads (getCcIssueCount x.issueCount) [] ∧ reads (getCcWaitLimit x.waitLimit) [(0, 0x000F4240)] ∧ reads (getStkScrub x.scrub) [(0, 0x18)] ∧
      (∀ k, reads (getStkState (x.memStacks.get k).reg) []) ∧ reads (getPmpStatus x.pumps) [(0, 0x0010FFFF)] ∧
      reads (getTierCtl x.tierCtl) [(0, 0x04000408)] ∧ reads (getTierAcct x.commonAcct) [] ∧
      reads (getFabNode x.node) [(0, BitVec.ofNat 64 (2 ^ 16 * c.num))] ∧ reads (getFabRed x.red) [(0, 0x0100), (2, 0x0800)] ∧
      reads (getIrqChan x.irq) [(0, 0x00860000)] ∧ reads (getSecStatus x.sec) [] ∧ reads (getFltStatus x.flt) [] ∧ reads (getFltHist x.fltHist) []) ∧
    (∀ i, reads (getTierT2Region (regionOf x i)) [] ∧ reads (getSrvBudget (budgetOf x i).reg) [(0, 0x0100010000000000)] ∧
      reads (getAdpSlot (adpOf x i).reg) [] ∧ reads (getSrvWcopy (copyOf x i).reg) [] ∧ reads (getSrvWmodel (modelOf x i)) [(0, 0x03FD)] ∧
      reads (getTrnXs (storeOf x i).reg) [] ∧ reads (getFabPort (tget {} x.ports i)) [] ∧ reads (getFabRt (tget {} x.routes i)) [] ∧
      reads (getFabEthPeer (tget {} x.peers i)) [] ∧ reads (getFabColl (collOf x i)) []) ∧
    (∀ n i, let r := roomOf x n
      roomState r = rsFree ∧ r.key = none ∧ r.memKey = none ∧ r.mem = [] ∧ reads (getRoomCfg r.cfg) [] ∧ reads (getSchRoom r.sch) [(0, 1)] ∧
      reads (getSchAcct r.acct) [] ∧ reads (getTierAcct r.tier) [] ∧ reads (getTierWmap (tget {} r.wmaps i)) [] ∧ reads (getKvRoom r.kv) [] ∧
      reads (getSrvRoom r.srv) [(1, 0x07D0271008000000), (2, 0xFFFFFFFFFFFFFFFF), (3, 0xFFFFFFFFFFFFFFFF), (5, 0x0000100000000140)] ∧
      reads (getRngRoom r.rng) [] ∧ reads (getAdpRoom r.adp) [(0, 0x0000000104000000)] ∧ reads (getAdpBind (bindingOf r i)) [] ∧
      reads (getTrnRoom r.trn) [(11, 0x0000138800000000)] ∧
      reads (getUpdRoom r.upd) [(1, 0x3F7FBE773F666666), (2, 0x358637BD322BCC77), (3, 0x3F7FBE773F000000), (4, 0xBFA000003FF00000),
        (5, 0x000A0A063EC00000), (6, 0x0000000A3F7FBE77)] ∧
      reads (getTrnBcast r.bcast) [(0, 0x00010000)] ∧ reads (getFabRoom r.fab) [] ∧ reads (getCkpRoom r.ckp) []) ∧
    x.ws = [] ∧ x.sump = [] ∧ x.cistern = [] ∧ x.commonMem = [] ∧ x.peerMem = [] ∧ x.attics = [] ∧ x.bootKey = none ∧ x.suiteKey = none ∧
    x.ctrlKey = none ∧ x.memKey = none

/-- At reset the sequencer's state is legal. -/
def Obligations.ResetSequencerLegal : Prop := legalBoard State.reset.board = true

/-- No step, idle or commanded, takes the sequencer and the rails out of their legal states. -/
def Obligations.StepsKeepSequencerLegal : Prop :=
  ∀ s t : State, legalBoard s.board = true → step s = .next t → legalBoard t.board = true

/-- Commands other than those of the sequencer, the rails, power and the registers leave the board as it was, but for the throttle steps,
temperatures and limiter that PWR_STATUS shows. -/
def Obligations.OtherCommandsKeepBoard : Prop :=
  ∀ (i : Instr) (s t : State), reachesBoard i = false → exec i s = .next t → unshown t.board = unshown s.board

/-- Once THERMTRIP_N has fallen, no command but the removal of VAUX releases it, turns a loop on or lets READY_OUT rise (R735); the sequencer's
state is a legal one. -/
def Obligations.ThermtripHoldsUntilVauxRemoved : Prop :=
  ∀ (i : Instr) (s t : State), i ≠ .vauxRemove → legalBoard s.board = true → s.board.thermtrip = true → exec i s = .next t →
    t.board.thermtrip = true ∧ t.board.loops = 0 ∧ t.board.readyOut = false

/-! ## Start-up, power-down and the rails -/

/-- Stages 1 to 5: VAUX starts the Porch counters at 0 and measures SYSCLK; SYS_RESET_N samples the straps and turns OPERATION on for the five
loops; VCORE_PG starts the foyer core; the controllers are released one by one; the time-out turns every loop off and asserts ALERT_N; GO starts the host-loaded read. -/
def Obligations.StartUpFirstStages : Prop :=
  ∀ s : State,
    (s.board.vaux = false → ∀ ssc, ∃ t, exec (.vauxRise ssc) s = .next t ∧ t.board.vaux = true ∧ t.board.pwr.seq = 2 ∧
      t.board.pwr.refSsc = ssc ∧ t.board.boot.boots = 0 ∧ t.board.loops = 0 ∧ ∀ c, (chanOf t.dev c).porchUs = 0) ∧
    (s.board.vaux = true → s.board.resetHigh = false → s.board.thermtrip = false → ∀ compat sel adr,
      ∃ t, exec (.sysResetNRise compat sel adr) s = .next t ∧ t.board.resetHigh = true ∧ t.board.pwr.seq = 3 ∧ t.board.loops = 0b11111 ∧
        t.board.pwr.bflBusy = true ∧ t.board.boot.bootSel = sel ∧ t.board.boot.smbAddr = adr ∧ t.dev.fy.dev.compatH1 = compat ∧
        t.dev.chans = s.dev.chans) ∧
    (s.board.pwr.seq = 3 → ∃ t, exec .vcorePgRise s = .next t ∧ t.board.pwr.seq = 5 ∧ t.board.pwr.pg.getLsbD 0 = true ∧
      t.board.foyerOn = true ∧ t.dev = s.dev) ∧
    (s.board.pwr.seq = 3 → ∃ t, exec .vcorePgTimeout s = .next t ∧ t.board.pwr.seq = 2 ∧ t.board.loops = 0 ∧ t.board.faultStop = true ∧
      alertLow t.board t.dev = true ∧ t.dev = s.dev) ∧
    (s.board.pwr.seq = 5 → s.board.released < 4 → ∀ ok, ∃ t, exec (.channelControllerRelease ok) s = .next t ∧
      t.board.released = s.board.released + 1 ∧ (chanOf t.dev (Ch.ofNum s.board.released)).released = ok ∧
      ∀ o, o ≠ Ch.ofNum s.board.released → chanOf t.dev o = chanOf s.dev o) ∧
    (s.board.pwr.seq = 5 → s.board.boot.bootSel = 2 → ∀ b, ∃ t, exec (.fyBootGo b) s = .next t ∧ t.board.goPort = some b ∧ t.dev = s.dev)

/-- The end of the boot image read, which a host-loaded boot has asked for by GO. With an image accepted, SEQ is 6, the foyer firmware runs, VSTK_EN is asserted and the boots counter
advances; a channel whose copies are both refused does not run. With none accepted, READY_OUT stays low, ALERT_N is low, A_FAIL and B_FAIL are
set, and VSTK and VOPT stay off (R724). -/
def Obligations.BootImageDecides : Prop :=
  ∀ (s : State) (r : Quad BootRead), s.board.pwr.seq = 5 → s.board.released = 4 →
    (s.board.boot.bootSel = 2 → s.board.goPort.isSome = true) →
    let runs := fun c => (chanOf s.dev c).released && (acceptsFirst (chanOf s.dev c) (r.get c) || acceptsSecond (chanOf s.dev c) (r.get c))
    ((∃ c, runs c = true) → ∃ t, exec (.bootImageReadDone r) s = .next t ∧ t.board.pwr.seq = 6 ∧ t.board.firmware = true ∧
      t.board.pwr.vstkOn = true ∧ t.board.pwr.bflBusy = false ∧ t.board.boot.boots = s.board.boot.boots + 1 ∧
      ∀ c, (runs c = true → (chanOf t.dev c).imageOk = true ∧
          (chanOf t.dev c).hist.boots = (chanOf s.dev c).hist.boots + 1) ∧
        (runs c = false → chanOf t.dev c = chanOf s.dev c)) ∧
    ((∀ c, runs c = false) → legalBoard s.board = true → ∃ t, exec (.bootImageReadDone r) s = .next t ∧ t.board.pwr.seq = 11 ∧
      t.board.readyOut = false ∧ alertLow t.board t.dev = true ∧ t.board.boot.aFail = true ∧ t.board.boot.bFail = true ∧
      t.board.pwr.vstkOn = false ∧ t.board.pwr.voptOn = false ∧ t.dev = s.dev)

/-- Stages 6 to 8: VSTK_PG powers stacks 0 and 1 of C0; each later pair follows in the order of R721; the last of 16 stacks to train asserts
VOPT_EN; VOPT_PG ungates the arrays of the channels that run; and the time-outs of R723. -/
def Obligations.StartUpStacksAndOptics : Prop :=
  ∀ s : State,
    (s.board.pwr.seq = 6 → ∃ t, exec .vstkPgRise s = .next t ∧ t.board.pwr.seq = 7 ∧ t.board.pwr.pg.getLsbD 1 = true ∧
      ((chanOf t.dev .c0).memStacks.get .c0).powered = true ∧ ((chanOf t.dev .c0).memStacks.get .c1).powered = true ∧
      ∀ o, o ≠ .c0 → chanOf t.dev o = chanOf s.dev o) ∧
    (s.board.pwr.seq = 6 → ∃ t, exec .vstkPgTimeout s = .next t ∧ t.board.pwr.seq = 8 ∧ t.board.pwr.vstkOn = false ∧
      t.board.pwr.voptOn = true ∧ t.dev = s.dev) ∧
    (s.board.pwr.seq = 7 → s.board.pairs < 8 → ∃ t, exec .stackPairPower s = .next t ∧ t.board.pairs = s.board.pairs + 1 ∧
      ∀ k : Ch, k.num / 2 = s.board.pairs % 2 → ((chanOf t.dev (Ch.ofNum (s.board.pairs / 2))).memStacks.get k).powered = true) ∧
    (∀ c st ok, s.board.pwr.seq = 7 → ((chanOf s.dev c).memStacks.get st).powered = true → ((chanOf s.dev c).memStacks.get st).trained = false →
      ∃ t, exec (.stackTrained c st ok) s = .next t ∧ t.board.trained = s.board.trained + 1 ∧
        ((chanOf t.dev c).memStacks.get st).trained = true ∧ ((chanOf t.dev c).memStacks.get st).reg.up = ok ∧
        (s.board.trained = 15 → t.board.pwr.seq = 8 ∧ t.board.pwr.voptOn = true) ∧ (s.board.trained ≠ 15 → t.board.pwr = s.board.pwr)) ∧
    (s.board.pwr.seq = 8 → s.board.pwr.voptOn = true → ∃ t, exec .voptPgRise s = .next t ∧ t.board.pwr.pg.getLsbD 2 = true ∧
      ∀ c, (chanOf t.dev c).arrayOn = (chanOf s.dev c).imageOk) ∧
    (s.board.pwr.seq = 8 → s.board.pwr.voptOn = true → s.board.pwr.pg.getLsbD 2 = false → ∃ t, exec .voptPgTimeout s = .next t ∧ t.board.pwr.voptOn = false ∧
      ∀ c p, p < 4 → (tget {} (chanOf t.dev c).ports p).state = 5)

/-- The end of the array self-tests ends start-up: SEQ is 9, READY_OUT rises with the foyer firmware running, BOOT_MS is the time since SYS_RESET_N rose, and every
channel has ended start-up with the units that the self-test found; its columns and rows out of service are those that were and those that
fail now, and ARR_CHK_STATUS counts them. The posts that waited for this then run in their order, and none is held any longer (R721, R726, R727). -/
def Obligations.StartUpEnds : Prop :=
  ∀ (s : State) (r : Quad SelfTest), s.board.pwr.seq = 8 → s.board.firmware = true →
    ∃ t d, exec (.arraySelfTestDone r) s = .next t ∧ t.board.pwr.seq = 9 ∧ t.board.readyOut = true ∧
      t.board.boot = { s.board.boot with bootMs := BitVec.ofNat 16 (devMs s.dev - s.board.riseMs) } ∧
      t.dev = s.dev.fy.held.foldl runHeld d ∧ d.fy.held = [] ∧ d.suites = s.dev.suites ∧
      (s.dev.fy.held = [] → t.dev.fy.held = []) ∧
      ∀ c,
        let x := chanOf s.dev c
        let y := chanOf d c
        y = { x with started := true, units := (r.get c).units, failedCols := y.failedCols, failedRows := y.failedRows, arrStatus :=
          { x.arrStatus with failedCols := BitVec.ofNat 7 y.failedCols.length, failedRows := BitVec.ofNat 6 y.failedRows.length } } ∧
        (∀ k, k ∈ y.failedCols ↔ k ∈ x.failedCols ∨ k ∈ (r.get c).cols) ∧ ∀ k, k ∈ y.failedRows ↔ k ∈ x.failedRows ∨ k ∈ (r.get c).rows

/-- Losing power. A fall of SYS_RESET_N lowers READY_OUT, turns every loop, rail and enable off and clears the registers of the board but BOOTS, with
VAUX still in range (R728, R729); a fall of VCORE_PG while the foyer runs leaves stage 11 with ALERT_N low and the event latched in the Porch (R730, R694); a thermal trip does so with
THERMTRIP_N low (R735); the removal of VAUX leaves every rail, the Porch and every pin off (R731). In each, every channel goes back to its reset values, but for
the Porch's counter, the fuse of MIN_SVN and the flash of the fault history: keys, rooms, suites, mailboxes and every memory are lost. -/
def Obligations.PowerDownLosesContents : Prop :=
  ∀ s : State,
    let lost := fun (t : State) (porch : Ch → Nat) (compat : Bool) =>
      t.dev.suites = Quad.same {} ∧ t.dev.fy = { dev := { compatH1 := compat } } ∧ t.dev.out = s.dev.out ∧
      ∀ c, let x := chanOf s.dev c
        let y := chanOf t.dev c
        y = { Channel.reset c with porchUs := porch c, fuseSvn := x.fuseSvn, hist := { x.hist with buffer := [], missSeen := 0 } } ∧
        y.rooms = [] ∧ y.island = {} ∧ y.ws = [] ∧ y.sump = [] ∧ y.cistern = [] ∧ y.commonMem = [] ∧ y.commonPages = [] ∧ y.peerMem = [] ∧ y.attics = [] ∧ y.links = [] ∧
        y.bootKey = none ∧ y.ctrlKey = none ∧ y.suiteKey = none ∧ y.memKey = none ∧ y.started = false ∧ y.imageOk = false
    let off := fun (t : State) => t.board.loops = 0 ∧ t.board.readyOut = false ∧ t.board.pwr.vstkOn = false ∧ t.board.pwr.voptOn = false ∧
      t.board.pwr.pg = 0 ∧ t.board.foyerOn = false ∧ t.board.firmware = false ∧ t.board.released = 0 ∧ t.board.pairs = 0 ∧ t.board.trained = 0
    let porch := fun c => (chanOf s.dev c).porchUs
    let compat := s.dev.fy.dev.compatH1
    (s.board.vaux = true → s.board.resetHigh = true → ∃ t, exec .sysResetNFall s = .next t ∧ off t ∧ lost t porch compat ∧
      t.board.resetHigh = false ∧ t.board.vaux = true ∧ t.board.pwr = { seq := 2, refSsc := s.board.pwr.refSsc } ∧
      t.board.boot = { boots := s.board.boot.boots } ∧ t.board.energy = {} ∧ t.board.lasers = [] ∧ alertLow t.board t.dev = false ∧
      t.board.thermtrip = s.board.thermtrip ∧ t.board.latches = s.board.latches) ∧
    (s.board.foyerOn = true → ∃ t, exec .vcorePgFall s = .next t ∧ off t ∧ lost t porch compat ∧ t.board.pwr.seq = 11 ∧
      t.board.vaux = s.board.vaux ∧ t.board.resetHigh = s.board.resetHigh ∧ t.board.boot = s.board.boot ∧
      t.board.thermtrip = s.board.thermtrip ∧ alertLow t.board t.dev = true ∧ t.board.latches = s.board.latches ++ [devUs s.dev]) ∧
    (s.board.vaux = true → s.board.thermtrip = false → ∃ t, exec .thermtrip s = .next t ∧ off t ∧ lost t porch compat ∧ t.board.pwr.seq = 11 ∧
      t.board.vaux = true ∧ t.board.resetHigh = s.board.resetHigh ∧ t.board.boot = s.board.boot ∧
      t.board.thermtrip = true ∧ t.board.latches = s.board.latches ++ [devUs s.dev]) ∧
    (s.board.vaux = true → ∃ t, exec .vauxRemove s = .next t ∧ off t ∧ lost t (fun _ => 0) false ∧ t.board = {})

/-- A fall of VSTK_PG or VOPT_PG that has been good deasserts the rail's enable alone (R730). With VSTK every stack that works is lost, in order, as its
own STACK_LOSS loses it, and none works where no room is STARTED; with VOPT every optical port goes without light, in order, and all are in state 5
where no room is STARTED. -/
def Obligations.RailLossDeassertsEnable : Prop :=
  ∀ s : State,
    let idle := ∀ u n, isStarted (leadRoom s.dev u n) = false
    let both := Ch.all.flatMap fun c => Ch.all.map fun k => (c, k)
    let ports := Ch.all.flatMap fun c => (List.range 4).map fun p => (c, p)
    (s.board.pwr.vstkOn = true → s.board.pwr.pg.getLsbD 1 = true → ∃ t, exec (.railPgFall false) s = .next t ∧
      t.board.pwr.vstkOn = false ∧ t.board.pwr.pg = s.board.pwr.pg &&& 5 ∧ t.board.pwr.voptOn = s.board.pwr.voptOn ∧
      t.board.pwr.seq = s.board.pwr.seq ∧ t.board.loops = s.board.loops ∧ t.board.readyOut = s.board.readyOut ∧
      t.dev = refresh (both.foldl (fun d q => loseStack d q.1 q.2) s.dev) ∧
      (idle → ∀ c k, ((chanOf t.dev c).memStacks.get k).reg.up = false)) ∧
    (s.board.pwr.voptOn = true → s.board.pwr.pg.getLsbD 2 = true → ∃ t, exec (.railPgFall true) s = .next t ∧
      t.board.pwr.voptOn = false ∧ t.board.pwr.pg = s.board.pwr.pg &&& 3 ∧ t.board.pwr.vstkOn = s.board.pwr.vstkOn ∧
      t.board.pwr.seq = s.board.pwr.seq ∧ t.board.loops = s.board.loops ∧ t.board.readyOut = s.board.readyOut ∧
      t.dev = refresh (portsSettled (ports.foldl (fun d q => portGone d q.1 (BitVec.ofNat 2 q.2) 5) s.dev) fun _ => true) ∧
      (idle → ∀ c p, (portOf (chanOf t.dev c) p).state = 5))

/-! ## Power, temperature and monitors -/

/-- SENSOR_SAMPLE, which VAUX enables, takes every channel's temperatures; at 105 °C or more the channel takes step 16 and holds it until a sample below 100 °C.
THROTTLE_STEP_TIMER leaves step 16 while that or a VCORE trip holds, takes one step down at 95 °C or under a power step-down, goes to MIN_STEP where the
step is below it, and else takes one step up below 92 °C (R736, R737). Neither changes anything else of a channel, nor of the device, and of the board only
what PWR_STATUS shows of the channels (R738). -/
def Obligations.TemperatureSetsTheStep : Prop :=
  ∀ (s : State) (q : Quad Temps) (c : Ch),
    (s.board.vaux = false → exec (.sensorSample q) s = .next s) ∧
    (s.board.vaux = true → ∃ t, exec (.sensorSample q) s = .next t ∧ t.board = showPower s.board t.dev ∧ unshown t.board = unshown s.board ∧
      t.dev.fy = s.dev.fy ∧ t.dev.suites = s.dev.suites ∧ t.dev.out = s.dev.out ∧ t.dev.free = s.dev.free ∧ ∀ o,
      let x := chanOf s.dev o
      let y := chanOf t.dev o
      let T := max (q.get o).die.toNat (q.get o).stack.toNat
      y = { x with temp := (q.get o).die.toNat, stackTemp := (q.get o).stack.toNat, tjHold := y.tjHold, step := y.step, stepCause := y.stepCause } ∧
      (105 ≤ T → y.tjHold = true ∧ y.step = 16 ∧ y.stepCause = 1) ∧
      (T < 105 → y.step = x.step ∧ y.stepCause = x.stepCause ∧ y.tjHold = (x.tjHold && decide (100 ≤ T)))) ∧
    (∃ t, exec (.throttleStepTimer c) s = .next t ∧ t.board = showPower s.board t.dev ∧ unshown t.board = unshown s.board ∧
      t.dev = setChan s.dev c { chanOf s.dev c with step := (chanOf t.dev c).step, stepCause := (chanOf t.dev c).stepCause } ∧
      let x := chanOf s.dev c
      let free := x.tjHold = false ∧ x.trips.contains .vcore = false
      let low := min 16 s.board.pwr.minStep.toNat
      ((x.tjHold = true ∨ x.trips.contains .vcore = true) → (chanOf t.dev c).step = 16) ∧
      (free → 95 ≤ hottest x → (chanOf t.dev c).step = min 16 (x.step + 1)) ∧
      (free → hottest x < 95 → x.powerDown = true → (chanOf t.dev c).step = min 16 (x.step + 1)) ∧
      (free → hottest x < 95 → x.powerDown = false → x.step < low → (chanOf t.dev c).step = low) ∧
      (free → hottest x < 92 → x.powerDown = false → low < x.step → (chanOf t.dev c).step = x.step - 1) ∧
      (free → hottest x < 92 → x.powerDown = false → x.step = low → (chanOf t.dev c).step = low) ∧
      (free → 92 ≤ hottest x → hottest x < 95 → x.powerDown = false → low ≤ x.step → (chanOf t.dev c).step = x.step))

/-- POWER_ESTIMATE: FOYER_UJ, NOSUITE_UJ and every suite's IDLE_UJ grow by what the estimate gives them, no room's counter but ENERGY_UJ changes, and
the growth of TOTAL_UJ is the sum of the growths of every room's ENERGY_UJ, every suite's IDLE_UJ, FOYER_UJ and NOSUITE_UJ, modulo 2^64 (R742). Channels
that threaten a limit insert hold cycles and step down, with the limit's cause; the others stop (R737). Nothing else changes. IOUT_CORRECTION adds
to VCORE_MEAS_UJ and changes nothing else. -/
def Obligations.EnergyGrowthsAddUp : Prop :=
  ∀ (s : State) (e : PowerEst) (uj : Nat),
    (∃ t, exec (.powerEstimate e) s = .next t ∧ t.pending = s.pending ∧ t.board = { s.board with energy := t.board.energy } ∧
      t.board.energy.foyerUj = s.board.energy.foyerUj + BitVec.ofNat 64 e.foyerUj ∧
      t.board.energy.nosuiteUj = s.board.energy.nosuiteUj + BitVec.ofNat 64 e.nosuiteUj ∧
      t.board.energy.vcoreMeasUj = s.board.energy.vcoreMeasUj ∧
      t.board.energy.totalUj - s.board.energy.totalUj =
        (t.board.energy.foyerUj - s.board.energy.foyerUj) + (t.board.energy.nosuiteUj - s.board.energy.nosuiteUj) +
        (suitesIdle t.dev - suitesIdle s.dev) + (roomsEnergy t.dev - roomsEnergy s.dev) ∧
      t.dev.fy = s.dev.fy ∧ t.dev.out = s.dev.out ∧ t.dev.free = s.dev.free ∧
      (∀ u, suiteOf t.dev u = { suiteOf s.dev u with idleUj := (suiteOf s.dev u).idleUj + BitVec.ofNat 64 (e.idleUj.get u) }) ∧
      ∀ c,
        let x := chanOf s.dev c
        let y := chanOf t.dev c
        let p := e.power.getLsbD c.num
        let i := e.current.getLsbD c.num
        y = { x with island := { x.island with powerHold := p || i }, powerDown := p || i,
                     stepCause := (if p = true then 2 else if i = true then 3 else x.stepCause), rooms := y.rooms } ∧
        ∀ n, roomOf y n = { roomOf x n with acct := { (roomOf x n).acct with energyUj := (roomOf y n).acct.energyUj } }) ∧
    (∃ t, exec (.ioutCorrection uj) s = .next t ∧ t.dev = s.dev ∧
      t.board = { s.board with energy := { s.board.energy with vcoreMeasUj := s.board.energy.vcoreMeasUj + BitVec.ofNat 64 uj } })

/-- A monitor's trip takes its action on the channel, is judged as a fault of KIND 5 of the monitor's unit, and takes the light of a tripped port (R591, R604).
Where it is not judged permanent and no other port of the channel is out, the trip stands in the channel's trips and its history and holds ALERT_N low; a junction
or VCORE trip takes throttle step 16, a VCORE or compute PLL trip stops issue, a VOPT trip leaves the port in state 5, and no room changes. A
recovery takes the trip back, with the hold of issue and the step hold that nothing else keeps, and lets a port that has no light retrain. PMB_ALERT is a
VCORE trip of every channel whose page reports a fault, and a fault of the foyer's page is recorded on C0 (R716). A laser's loss of light trips its port
on both channels and counts; its return puts the input in its window and takes the trips back (R468, R469). -/
def Obligations.MonitorsTripAndRecover : Prop :=
  ∀ (s : State) (c : Ch) (m : Monitor) (f : BitVec 5) (i : BitVec 3) (uw : BitVec 20),
    let calm := fun (o : Ch) (k : Monitor) => isPermanent (chanOf s.dev o) (monitorClass k) (monitorUnit k) 0 false = false ∧
      ∀ p, k = .vopt p → portsOut (chanOf s.dev o) = 0
    let seen := fun (o : Ch) (k : Monitor) (t : State) =>
      let x := chanOf s.dev o
      let y := chanOf t.dev o
      k ∈ y.trips ∧ (∀ n, n ≠ k → (n ∈ y.trips ↔ n ∈ x.trips)) ∧ y.hist.buffer.length = x.hist.buffer.length + 1 ∧ y.rooms = x.rooms ∧
      (k = .tjMax ∨ k = .vcore → y.step = 16) ∧ y.tjHold = (x.tjHold || decide (k = .tjMax)) ∧
      y.issueHold = (x.issueHold || decide (k = .vcore ∨ k = .pllCompute)) ∧ ∀ p, k = .vopt p → (portOf y (BitVec.ofNat 2 p)).state = 5
    let lasers := fun (l : PwrLaser) (t : State) => unshown t.board = { unshown s.board with lasers := tset {} s.board.lasers i.toNat l }
    (∃ t, exec (.monitorTrip c m) s = .next t ∧ t.board = showPower s.board t.dev ∧ Tripped c m s.dev t.dev ∧
      (calm c m → seen c m t ∧ alertLow t.board t.dev = true ∧ ∀ o, o ≠ c → (chanOf t.dev o).rooms = (chanOf s.dev o).rooms ∧
        (chanOf t.dev o).trips = (chanOf s.dev o).trips)) ∧
    (∃ t, exec (.monitorRecovery c m) s = .next t ∧ unshown t.board = { unshown s.board with pmbAlert := s.board.pmbAlert &&
        (m != .vcore || Ch.all.any fun o => (chanOf t.dev o).trips.contains .vcore) } ∧
      (m ∉ (chanOf s.dev c).trips → t.dev = s.dev) ∧
      (m ∈ (chanOf s.dev c).trips → (∀ o, o ≠ c → chanOf t.dev o = chanOf s.dev o) ∧
        let x := chanOf s.dev c
        let y := chanOf t.dev c
        y = { x with trips := x.trips.filter (· != m), issueHold := x.issueHold && (y.trips.contains .vcore || y.trips.contains .pllCompute || x.lost),
                     tjHold := (if m = .tjMax then decide (100 ≤ hottest x) else x.tjHold), ports := y.ports } ∧
        ∀ p, (((∃ n, m = .vopt n ∧ p = BitVec.ofNat 2 n) ∧ (portOf x p).state = 5) → portOf y p = { portOf x p with state := 1 }) ∧
          (¬ ((∃ n, m = .vopt n ∧ p = BitVec.ofNat 2 n) ∧ (portOf x p).state = 5) → portOf y p = portOf x p))) ∧
    (∃ t, exec (.pmbAlert f) s = .next t ∧ t.board = { showPower s.board t.dev with pmbAlert := true } ∧ alertLow t.board t.dev = true ∧
      (let d := (Ch.all.filter fun o => f.getLsbD o.num).foldl (fun d o => trip d o .vcore) s.dev
       if f.getLsbD 4 = true then Judged .c0 { cls := 0x60, unit := 4, kind := 5 } false d t.dev else t.dev = d) ∧
      (f.getLsbD 4 = false → (∀ o, calm o .vcore) → ∀ o, (f.getLsbD o.num = true → seen o .vcore t) ∧
        (f.getLsbD o.num = false → chanOf t.dev o = chanOf s.dev o))) ∧
    (∃ t, exec (.laserLightLoss i) s = .next t ∧
      (let l := tget {} s.board.lasers i.toNat
       lasers { l with powerUw := 0, inWindow := false, losses := satInc l.losses } t) ∧
      t.dev = (laserChans i).foldl (fun d o => trip d o (.vopt (i.toNat % 4))) s.dev ∧
      ((∀ o, calm o (.vopt (i.toNat % 4))) → ∀ o ∈ laserChans i, seen o (.vopt (i.toNat % 4)) t)) ∧
    (∃ t, exec (.laserLightReturn i uw) s = .next t ∧
      lasers { tget {} s.board.lasers i.toNat with powerUw := uw, inWindow := true } t ∧ (∀ o, o ∉ laserChans i → chanOf t.dev o = chanOf s.dev o) ∧
      ∀ o ∈ laserChans i, (chanOf t.dev o).trips = (chanOf s.dev o).trips.filter (· != .vopt (i.toNat % 4)) ∧ (chanOf t.dev o).rooms = (chanOf s.dev o).rooms ∧
        (portOf (chanOf t.dev o) (BitVec.ofNat 2 (i.toNat % 4))).state =
          (if (portOf (chanOf s.dev o) (BitVec.ofNat 2 (i.toNat % 4))).state = 5 then 1 else (portOf (chanOf s.dev o) (BitVec.ofNat 2 (i.toNat % 4))).state))

/-- The write of PWR_LIMIT over SMBus sets LIMIT_W and MIN_STEP while VAUX is in range and nothing else, and the power controller takes LIMIT_W as no less than
1,000 and no more than 2,100 (R740); without VAUX it changes nothing. MIN_SVN_RAISE raises the fused MIN_SVN of a channel that runs its image to a larger value and
changes nothing else; another value, or a channel that runs none, leaves everything as it was, so that no value lowers it (R569). -/
def Obligations.LimitsAndFuses : Prop :=
  ∀ (s : State) (v : W64) (c : Ch) (n : BitVec 8),
    (s.board.vaux = false → exec (.smbusPwrLimitWrite v) s = .next s) ∧
    (s.board.vaux = true → ∃ t, exec (.smbusPwrLimitWrite v) s = .next t ∧ t.dev = s.dev ∧ t.pending = s.pending ∧
      t.board = { s.board with pwr := { s.board.pwr with limitW := v.extractLsb' 0 16, minStep := v.extractLsb' 16 5 } } ∧
      limitW t.board = min 2100 (max 1000 (v.extractLsb' 0 16).toNat)) ∧
    ((chanOf s.dev c).imageOk = true → (chanOf s.dev c).sec.minSvn < n → ∃ t, exec (.minSvnRaise c n) s = .next t ∧ OnlyChannel c s t ∧
      chanOf t.dev c = { chanOf s.dev c with fuseSvn := n, sec := { (chanOf s.dev c).sec with minSvn := n } }) ∧
    (((chanOf s.dev c).imageOk = false ∨ n ≤ (chanOf s.dev c).sec.minSvn) → exec (.minSvnRaise c n) s = .next s)

/-! ## Registers, result slots, ports -/

/-- What a register word holds after a write: RO and reserved bits keep their value, RW bits take the value written, RW-L bits take it unless
their room is STARTED, and a 1 clears a W1C bit (Table 0.10, R16). -/
def Obligations.AccessCodesDecideWrites : Prop :=
  ∀ (w : RegWord) (locked : Bool) (old v : W64) (k : Nat), k < 64 →
    let m := wordMask w
    ((m.rw ||| m.rwl ||| m.w1c).getLsbD k = false → (writtenWord m locked old v).getLsbD k = old.getLsbD k) ∧
    (m.w1c.getLsbD k = false → m.rw.getLsbD k = true → (writtenWord m locked old v).getLsbD k = v.getLsbD k) ∧
    (m.w1c.getLsbD k = false → m.rw.getLsbD k = false → m.rwl.getLsbD k = true →
      (writtenWord m locked old v).getLsbD k = if locked then old.getLsbD k else v.getLsbD k) ∧
    (m.w1c.getLsbD k = true → v.getLsbD k = true → (writtenWord m locked old v).getLsbD k = false)

/-- REGISTER_WRITE on a channel that runs: the RW field of CC_WAIT_LIMIT takes the value; the W1C bit of CC_STREAM_FAULT is cleared by a 1 and kept by
a 0; the RO counts of CC_ISSUE_COUNT stay; the RW-L fields of KV_ROOM take the value while the room is not STARTED and stay while it is; a
write of a mailbox's hold time and of a vector's mask reach their function alone; a write of a word of SRV_ROOM, ADP_ROOM
or UPD_ROOM during a step of its room waits for the step's end (R299, R351, R430); on a channel that runs no image a write changes nothing; a register
that does not exist is a fault. -/
def Obligations.RegisterWritesReachTheirField : Prop :=
  ∀ (s : State) (f : Fn) (c : Ch) (v : W64) (i j : Nat),
    let x := chanOf s.dev c
    (x.imageOk = true → x.lost = false →
      (∃ t, exec (.registerWrite (.word .ccWaitLimit0 f c 0 0) v) s = .next t ∧
        chanOf t.dev c = { x with waitLimit := { limitUs := v.extractLsb' 0 32 } } ∧ t.dev = setChan s.dev c (chanOf t.dev c)) ∧
      (∃ t, exec (.registerWrite (.word .ccStreamFault0 f c 0 0) v) s = .next t ∧
        chanOf t.dev c = { x with streamFault := { x.streamFault with valid := x.streamFault.valid && !v.getLsbD 63 } } ∧
        t.dev = setChan s.dev c (chanOf t.dev c)) ∧
      (∃ t, exec (.registerWrite (.word .ccIssueCount0 f c 0 0) v) s = .next t ∧ t.dev = s.dev) ∧
      (i < 64 → roomState (roomOf x i) ≠ rsStarted → ∃ t, exec (.registerWrite (.word .kvRoom1 f c i 0) v) s = .next t ∧
        roomOf (chanOf t.dev c) i = { roomOf x i with kv := { (roomOf x i).kv with maxlen := v.extractLsb' 0 14, sumpSize := v.extractLsb' 14 8 } } ∧
        t.dev = setChan s.dev c (setRoom x i (roomOf (chanOf t.dev c) i))) ∧
      (i < 64 → roomState (roomOf x i) = rsStarted → ∃ t, exec (.registerWrite (.word .kvRoom1 f c i 0) v) s = .next t ∧
        roomOf (chanOf t.dev c) i = roomOf x i)) ∧
    (takesPosts s.board s.dev f = true →
      (i < 16 → ∃ t, exec (.registerWrite (.word .mbxWords4 f c i 0) v) s = .next t ∧
        (mbxOf t.dev f (BitVec.ofNat 4 i)).words.holdMs = v.extractLsb' 0 16 ∧ t.dev.chans = s.dev.chans) ∧
      (i < 288 → ∃ t, exec (.registerWrite (.msixMask f i) v) s = .next t ∧ (vecOf (fnOf t.dev f) i).masked = v.getLsbD 0 ∧
        t.dev.chans = s.dev.chans)) ∧
    (∀ w, regExists w i j = true → spaceOf w = .ccs →
      ((x.imageOk = false ∨ x.lost = true) → ∃ t, exec (.registerWrite (.word w f c i j) v) s = .next t ∧ t.dev = s.dev) ∧
      (x.imageOk = true → x.lost = false → isStepWord w = true → inStep (roomOf x i) = true →
        ∃ t, exec (.registerWrite (.word w f c i j) v) s = .next t ∧
          t.dev = setChan s.dev c (setRoom x i { roomOf x i with later := (roomOf x i).later ++ [(w, v)] }))) ∧
    (∀ w, regExists w i j = false → exec (.registerWrite (.word w f c i j) v) s = .fault .noSuchRegister)

/-- Result slots: a read answers the slot's bytes and advances REREAD only where the slot is READY and the read covers byte 0 (R668); an
acknowledgement with the slot's SEQ frees a READY or EXPIRED slot, and any other is ignored and counted (R669); a READY slot that expires
loses its words, keeps SEQ and OPCODE, and is counted (R670). Only the foyer's functions change. -/
def Obligations.ResultSlotsReadAckExpire : Prop :=
  ∀ (s : State) (f : Fn) (m : BitVec 4) (k : BitVec 3) (v : W64),
    (takesPosts s.board s.dev f = true → k.toNat < slotCount s.dev →
      (∀ covers0, ∃ t, exec (.resultSlotRead f m k covers0) s = .next t ∧ t.dev.out = .answer (leNat (slotBytes (slotOf s.dev f m k))) :: s.dev.out ∧
        OnlyFunctions s t ∧
        slotOf t.dev f m k = if (slotOf s.dev f m k).state = .ready ∧ covers0 = true
          then { slotOf s.dev f m k with reread := satInc (slotOf s.dev f m k).reread } else slotOf s.dev f m k)) ∧
    (takesPosts s.board s.dev f = true → k = v.extractLsb' 0 3 → k.toNat < slotCount s.dev →
      ((slotOf s.dev f m k).state = .ready ∨ (slotOf s.dev f m k).state = .expired) → (slotOf s.dev f m k).seq = v.extractLsb' 32 32 →
      ∃ t, exec (.mbxAck f m v) s = .next t ∧ slotOf t.dev f m k = {} ∧ leNat (slotBytes (slotOf t.dev f m k)) = 0 ∧ OnlyFunctions s t ∧
        (mbxOf t.dev f m).words.ackMismatch = (mbxOf s.dev f m).words.ackMismatch) ∧
    (takesPosts s.board s.dev f = true → k = v.extractLsb' 0 3 →
      (slotCount s.dev ≤ k.toNat ∨ (slotOf s.dev f m k).state = .free ∨ (slotOf s.dev f m k).state = .pending ∨
        (slotOf s.dev f m k).seq ≠ v.extractLsb' 32 32) →
      ∃ t, exec (.mbxAck f m v) s = .next t ∧ slotOf t.dev f m k = slotOf s.dev f m k ∧ OnlyFunctions s t ∧
        (mbxOf t.dev f m).words.ackMismatch = satInc (mbxOf s.dev f m).words.ackMismatch) ∧
    ((slotOf s.dev f m k).state = .ready → ∃ t, exec (.mbxResultExpired f m k) s = .next t ∧ OnlyFunctions s t ∧
      slotOf t.dev f m k = { slotOf s.dev f m k with state := .expired, status := .mbxResultExpired, words := [] } ∧
      (mbxOf t.dev f m).words.expired = satInc (mbxOf s.dev f m).words.expired)

/-- Ports and functions. With no load in progress and a host left, PERST of a port that is up takes it out of service and every slot and vector of its functions is as
after reset, while the rooms run on (R688); the link's return puts it in service again; a Function Level Reset does so for its function alone
(R689). A configuration request is answered with a retry until the firmware runs, and then a read answers, of the PF with Device ID 0x0402 and of each function
with Revision ID 0xA0 (R1) at the places of log 81, and Bus Master Enable and the power state take the value given (R725). -/
def Obligations.PortsAndFunctionsReset : Prop :=
  ∀ (s : State) (p : Bool) (f : Fn), s.dev.fy.loads = [] →
    (portUp s.dev p = true → (portUp s.dev (!p) = true ∨ s.board.pwr.seq ≠ 9) → ∃ t, exec (.hostPerstAssert p) s = .next t ∧
      portUp t.dev p = false ∧ portUp t.dev (!p) = portUp s.dev (!p) ∧ t.dev.chans = s.dev.chans ∧ t.dev.suites = s.dev.suites ∧
      ∀ g : Fn, g.portB = p → (fnOf t.dev g).mailboxes = [] ∧ (fnOf t.dev g).vectors = [] ∧ (fnOf t.dev g).busMaster = false) ∧
    (s.board.foyerOn = true → portUp s.dev p = false → NothingOwed s.dev → ∃ t, exec (.hostLinkReturn p) s = .next t ∧
      portUp t.dev p = true ∧ portUp t.dev (!p) = portUp s.dev (!p) ∧ t.dev.chans = s.dev.chans ∧ t.dev.suites = s.dev.suites) ∧
    (portUp s.dev f.portB = true → ∃ t, exec (.functionLevelReset f) s = .next t ∧ (fnOf t.dev f).mailboxes = [] ∧
      (fnOf t.dev f).vectors = [] ∧ (fnOf t.dev f).busMaster = false ∧ (∀ g : Fn, g.key ≠ f.key → fnOf t.dev g = fnOf s.dev g) ∧
      t.dev.chans = s.dev.chans ∧ t.dev.suites = s.dev.suites) ∧
    (s.board.foyerOn = true → portUp s.dev f.portB = true → s.board.firmware = false → (s.board.boot.bootSel = 2 → f.num ≠ 0) → ∀ a,
      ∃ t, exec (.configRequest f a) s = .next t ∧ t = { s with dev := { s.dev with out := .retry :: s.dev.out } }) ∧
    (s.board.foyerOn = true → portUp s.dev f.portB = true → s.board.firmware = true → NothingOwed s.dev →
      (∀ off, ∃ t, ∃ w : W32, exec (.configRequest f (.read off)) s = .next t ∧
        t = { s with dev := { s.dev with out := .answer w.toNat :: s.dev.out, free := t.dev.free } } ∧
        (off.toNat / 4 = 0 → f.num = 0 → w.extractLsb' 16 16 = 0x0402) ∧ (off.toNat / 4 = 2 → w.extractLsb' 0 8 = 0xA0)) ∧
      (∀ on, ∃ t, exec (.configRequest f (.busMaster on)) s = .next t ∧ (fnOf t.dev f).busMaster = on ∧ t.dev.chans = s.dev.chans) ∧
      (∀ d3, ∃ t, exec (.configRequest f (.power d3)) s = .next t ∧ (fnOf t.dev f).d3hot = d3 ∧ t.dev.chans = s.dev.chans))

/-- JTAG acts as BYPASS for every instruction but IDCODE until debug is open (R576). While VAUX is in range SMBus answers each code of Table 18.7 with its
register (the device's own read 0 until the foyer core runs) and acknowledges no other code; without VAUX nothing answers (R740). The moderation timer of a
vector that has unannounced units sends the vector's message, or sets its pending bit where the vector is masked or its function issues no messages
(R685, R689); without units it changes nothing. Nothing else changes. -/
def Obligations.SidebandAnswers : Prop :=
  ∀ (s : State) (j : JtagInsn) (n : Byte) (f : Fn) (v : Nat),
    let sent := fun (m : OutMsg) => { s with dev := { s.dev with out := m :: s.dev.out } }
    let live := fun (w : W64) => if s.board.foyerOn = true then w else 0
    let table : List (Nat × W64) :=
      [(0, live (getFyDevStatus s.dev.fy.dev 0 ||| (getFyArrWidth s.dev.fy.width 0 <<< 32))), (1, getFltReplace s.dev.fy.replace 0),
       (2, getPwrStatus s.board.pwr 0), (3, getPwrStatus s.board.pwr 1)] ++
      (List.range 5).map (fun k => (4 + k, live (getPwrEnergy s.board.energy k))) ++
      (List.range 8).map (fun k => (0x10 + k, getPwrLaser (tget {} s.board.lasers k) 0)) ++ [(0x20, getFyBoot s.board.boot 0)]
    let x := fnOf s.dev f
    let k := vecOf x v
    exec (.jtagInstruction j) s = .next (sent (.jtag (j == .bypass || (j != .idcode && !s.dev.fy.debugOpen)))) ∧
    (s.board.vaux = false → exec (.smbusBlockRead n) s = .next s) ∧
    (s.board.vaux = true → (∀ w, (n.toNat, w) ∈ table → exec (.smbusBlockRead n) s = .next (sent (.answer w.toNat))) ∧
      ((∀ w, (n.toNat, w) ∉ table) → exec (.smbusBlockRead n) s = .next (sent .smbusNack))) ∧
    (k.units = 0 → exec (.irqModTimer f v) s = .next s) ∧
    (k.units ≠ 0 → ∃ t, exec (.irqModTimer f v) s = .next t ∧ OnlyFunctions s t ∧ (∀ g : Fn, g.key ≠ f.key → fnOf t.dev g = fnOf s.dev g) ∧
      fnOf t.dev f = { x with vectors := (fnOf t.dev f).vectors } ∧ (∀ u, u ≠ v → vecOf (fnOf t.dev f) u = vecOf x u) ∧
      ((k.masked = true ∨ mayDma x = false) → t.dev.out = s.dev.out ∧ vecOf (fnOf t.dev f) v = { k with pend := true, units := 0 }) ∧
      (k.masked = false → mayDma x = true → t.dev.out = .msix f v :: s.dev.out ∧
        vecOf (fnOf t.dev f) v = { k with pend := false, units := 0, mod := { k.mod with sent := satInc k.mod.sent } }))

/-- With the foyer firmware running: SEC_DEBUG_REQ opens debug only where no room exists, no ROOM_CREATE waits and no drain runs. Every channel that runs its image then
loses its suite, controller and common-page keys and its link sessions, takes a new per-boot key, shows DEBUG and records the security event, and the
program roots are cleared; otherwise the request is refused with the first reason of these and counted, and nothing else changes (R577). APPLY gives the
region of every channel that CH names the Cellar register's fields, where the KIND suits the port, the regions hold no page, and no command and no ring
names one; else it sets REFUSED and changes no channel (R686). FREE_ALL releases every Attic that the channel hosts and nothing else (R638). Without
the firmware, or through a port that is down, these change nothing. -/
def Obligations.DebugRegionsAndAttics : Prop :=
  ∀ (s : State) (v : W64) (p : Bool) (r : BitVec 4) (c : Ch),
    let i := r.toNat
    let e := tget {} s.dev.fy.cellar i
    let rooms := ∃ u n, suiteExists s.dev u = true ∧ n < 64 ∧ roomState (leadRoom s.dev u n) ≠ rsFree
    let creates := ∃ h ∈ s.dev.fy.held, h.1 = .roomCreate
    let drains := ∃ o, (chanOf s.dev o).flt.draining = true
    let legal := (e.kind = 1 ∨ e.kind = 2 ∨ (e.kind = 3 ∧ p = false) ∨ (e.kind = 4 ∧ p = true)) ∧ ∀ o, e.ch.getLsbD o.num = true →
      poolUsed (tget {} (chanOf s.dev o).regionPools i) = 0 ∧ (∀ w ∈ s.dev.fy.waits, (o, i) ∉ namedRegions s.dev w) ∧ ringNames s.dev o i = false
    let marked := fun b => { s.dev.fy with cellar := tset {} s.dev.fy.cellar i { e with refused := b } }
    let refused := fun (k : BitVec 3) => exec (.secDebugReq v) s = .next { s with dev := { s.dev with fy := { s.dev.fy with secDebug :=
      { s.dev.fy.secDebug with reason := k, refused := satInc s.dev.fy.secDebug.refused } } } }
    ((s.board.firmware = false ∨ v.getLsbD 0 = false) → exec (.secDebugReq v) s = .next s) ∧
    ((s.board.firmware = false ∨ portUp s.dev p = false) → exec (.fyCellarApply p r) s = .next s) ∧
    (s.board.firmware = false → exec (.ckpHostFreeAll c) s = .next s) ∧
    (s.board.firmware = true →
      (v.getLsbD 0 = true → (rooms → refused 1) ∧ (¬ rooms → creates → refused 2) ∧ (¬ rooms → ¬ creates → drains → refused 3) ∧
        (¬ rooms → ¬ creates → ¬ drains → ∃ t, exec (.secDebugReq v) s = .next t ∧ t.pending = s.pending ∧ t.board = s.board ∧
          t.dev.suites = s.dev.suites ∧ t.dev.out = s.dev.out ∧
          t.dev.fy = { s.dev.fy with secDebug := { s.dev.fy.secDebug with opened := true }, debugOpen := true, roots := [] } ∧
          ∀ o,
            let x := chanOf s.dev o
            let y := chanOf t.dev o
            (x.imageOk = false → y = x) ∧
            (x.imageOk = true → y = { x with bootKey := some (Config.freeKey (s.dev.free + o.num)), suiteKey := none, ctrlKey := none, memKey := none,
                                             debugBoot := true, links := y.links, sec := { x.sec with debug := true, linkKeys := 0 },
                                             node := y.node, hist := y.hist, flt := y.flt } ∧
              (∀ l, (linkOf y l).session = false ∧ (linkOf y l).keyTx = 0 ∧ (linkOf y l).keyRx = 0 ∧ (linkOf y l).held = (linkOf x l).held) ∧
              ∃ w, y.hist.buffer = w :: x.hist.buffer ∧ w.cls = 0x02 ∧ w.unit = 5 ∧ w.kind = 12))) ∧
      (portUp s.dev p = true → legal → ∃ t, exec (.fyCellarApply p r) s = .next t ∧ t.pending = s.pending ∧ t.board = s.board ∧
        t.dev.suites = s.dev.suites ∧ t.dev.out = s.dev.out ∧ t.dev.fy = marked false ∧
        ∀ o,
          let x := chanOf s.dev o
          let y := chanOf t.dev o
          (e.ch.getLsbD o.num = false → y = x) ∧
          (e.ch.getLsbD o.num = true → y = { x with regions := y.regions, regionPools := y.regionPools, disabled := x.disabled.filter (· != i) } ∧
            regionOf y i = { regionOf x i with node := e.node, kind := e.kind, base := e.base, pages := e.pages, free := e.pages } ∧
            tget {} y.regionPools i = {} ∧ ∀ k, k ≠ i → regionOf y k = regionOf x k ∧ tget {} y.regionPools k = tget {} x.regionPools k)) ∧
      (portUp s.dev p = true → ¬ legal → exec (.fyCellarApply p r) s = .next { s with dev := { s.dev with fy := marked true } }) ∧
      exec (.ckpHostFreeAll c) s = .next { s with dev := { setChan s.dev c { chanOf s.dev c with attics := [] } with
        fy := { s.dev.fy with ckpHost := s.dev.fy.ckpHost.set c { s.dev.fy.ckpHost.get c with used := 0, hosted := 0 } } } })

/-! ## Host commands -/

/-- Every row that posts: nothing happens while the function's port takes no posts; a post while the command area is being copied is counted as
an overrun; a post that the header check refuses shows its status and changes no slot; one that comes before start-up has ended is held, its slot
PENDING (R664, R666, R726). -/
def Obligations.PostsAreChecked : Prop :=
  ∀ (i : Instr) (op : HostOp) (p : HostPost) (s : State), rowPost i = some (op, p) →
    let m := mbxOf s.dev p.fn p.mbx
    (takesPosts s.board s.dev p.fn = false → ∃ t, exec i s = .next t ∧ t.dev = s.dev ∧ unshown t.board = unshown s.board) ∧
    (takesPosts s.board s.dev p.fn = true → m.words.cmdBusy = true → ∃ t, exec i s = .next t ∧ OnlyPosts s t ∧
      mbxOf t.dev p.fn p.mbx = { m with words := { m.words with overrun := satInc m.words.overrun } }) ∧
    (takesPosts s.board s.dev p.fn = true → m.words.cmdBusy = false → postCheck op p s ≠ .ok → ∃ t, exec i s = .next t ∧ OnlyPosts s t ∧
      (mbxOf t.dev p.fn p.mbx).slots = m.slots ∧ (mbxOf t.dev p.fn p.mbx).words =
        { m.words with postStatus := (postCheck op p s).code, postSeq := hdrSeq (postedHeader op p s.dev) }) ∧
    (takesPosts s.board s.dev p.fn = true → m.words.cmdBusy = false → postCheck op p s = .ok → s.board.pwr.seq ≠ 9 →
      ∃ t, exec i s = .next t ∧ t.dev.chans = s.dev.chans ∧ t.dev.fy.held = s.dev.fy.held ++ [(op, commandOf op p s.dev)] ∧
        (postSlot op p s.dev t.dev).state = .pending ∧ (mbxOf t.dev p.fn p.mbx).words.postStatus = Status.ok.code)

/-- SUITE_SET on a suite without rooms, with no load in progress, forms it: MASK and SLICE_US take their values, the lead is the lowest channel of the
mask, each channel has the accounts given and no copies, its array is on, and the lead alone holds the suite's key. Channels that neither the
old nor the new mask names keep everything (R521 to R523, R555). -/
def Obligations.SuiteSetFormsSuite : Prop :=
  ∀ (p : HostPost) (s : State), Accepts .suiteSet p s → s.dev.fy.loads = [] →
    let a := (commandOf .suiteSet p s.dev).params
    let u := Ch.ofNum (par a 0 2)
    let mask : BitVec 4 := BitVec.ofNat 4 (par a 2 4)
    let cs := chansOf mask
    reservedClear a [(0, 2), (2, 4), (32, 16), (64, 32), (96, 32), (128, 32)] = true → cs.length ≠ 3 →
    (∀ c ∈ cs ++ suiteChans s.dev u, (chanOf s.dev c).flt.draining = false) →
    (∀ c ∈ cs, (suiteOfChan s.dev c = none ∨ suiteOfChan s.dev c = some u) ∧ inService (chanOf s.dev c) = true ∧
      (chanOf s.dev c).sec.trngOk = true ∧ accountFits (chanOf s.dev c) commonAcctIx (par a 64 32) = true) →
    (par a 32 16 = 0 ∨ 100 ≤ par a 32 16) → par a 64 32 ≤ par a 96 32 → (suiteExists s.dev u && suiteHasRoom s.dev u) = false →
    ∃ t, exec (.suiteSet p) s = .next t ∧ Answers .suiteSet p s t .ok [] ∧ (suiteOf t.dev u).mask = mask ∧
      (suiteOf t.dev u).sliceUs.toNat = (if par a 32 16 = 0 then 2000 else par a 32 16) ∧
      (mask ≠ 0 → leadOf t.dev u ∈ cs ∧ ∀ c ∈ cs, (leadOf t.dev u).num ≤ c.num) ∧
      (∀ v, v ≠ u → suiteOf t.dev v = suiteOf s.dev v) ∧
      ∀ c, (c ∈ cs → (chanOf t.dev c).commonAcct.t1min.toNat = par a 64 32 ∧ (chanOf t.dev c).commonAcct.t1max.toNat = par a 96 32 ∧
          (chanOf t.dev c).commonAcct.t2max.toNat = par a 128 32 ∧ (chanOf t.dev c).copies = [] ∧ (chanOf t.dev c).arrayOn = true ∧
          (chanOf t.dev c).suiteKey.isSome = decide (c = leadOf t.dev u)) ∧
        (c ∉ cs → c ∉ suiteChans s.dev u → chanOf t.dev c = chanOf s.dev c)

/-- ROOM_CREATE of a FREE room, or with ANY of the lowest FREE one, makes it on every channel of its suite: CREATED with its KIND, H1_MODE, SHARES,
accounts and owner, no program, no page and no stream; the lead alone holds the room's key. The result words are the room and its seed. Other
rooms and other channels are as before (R525, R526). -/
def Obligations.RoomCreateMakesRoom : Prop :=
  ∀ (p : HostPost) (s : State), Accepts .roomCreate p s →
    let a := (commandOf .roomCreate p s.dev).params
    let u := Ch.ofNum (par a 0 2)
    let cs := suiteChans s.dev u
    ∀ n : Nat, createIndex s.dev u a = some n → n < 64 → roomState (leadRoom s.dev u n) = rsFree →
    reservedClear a [(0, 13), (16, 16), (64, 64), (128, 64), (192, 32), (224, 32), (256, 32), (288, 12)] = true → suiteExists s.dev u = true →
    par a 16 16 ≠ 0 → par a 288 12 ≠ 0 → par a 288 12 ≤ 0xBC0 → par a 192 32 ≤ par a 224 32 → maySuite s.dev p.fn u = true →
    suiteDraining s.dev u = false → s.dev.fy.debugOpen = false →
    (∀ c ∈ cs, (chanOf s.dev c).sec.trngOk = true ∧ accountFits (chanOf s.dev c) n (par a 192 32) = true) →
    ∃ t, exec (.roomCreate p) s = .next t ∧
      (parB a 12 = false → Answers .roomCreate p s t .ok [BitVec.ofNat 32 n, BitVec.ofNat 32 (par a 64 32), BitVec.ofNat 32 (par a 96 32)]) ∧
      (∃ seed : W64, Answers .roomCreate p s t .ok [BitVec.ofNat 32 n, seed.setWidth 32, seed.extractLsb' 32 32] ∧
        ∀ c ∈ cs, (roomOf (chanOf t.dev c) n).rng.seed = seed) ∧
      t.dev.suites = s.dev.suites ∧
      ∀ c, (c ∈ cs → roomState (roomOf (chanOf t.dev c) n) = rsCreated ∧ (roomOf (chanOf t.dev c) n).cfg.kind.toNat = par a 9 2 ∧
          (roomOf (chanOf t.dev c) n).cfg.h1Mode = parB a 11 ∧ (roomOf (chanOf t.dev c) n).sch.shares.toNat = par a 16 16 ∧
          (roomOf (chanOf t.dev c) n).tier.t1min.toNat = par a 192 32 ∧ (roomOf (chanOf t.dev c) n).tier.t1max.toNat = par a 224 32 ∧
          (roomOf (chanOf t.dev c) n).owner = some p.fn ∧ (roomOf (chanOf t.dev c) n).prog = none ∧ (roomOf (chanOf t.dev c) n).pages = [] ∧
          (roomOf (chanOf t.dev c) n).key.isSome = decide (c = leadOf s.dev u) ∧
          (chanOf t.dev c).sec.roomKeys = (chanOf s.dev c).sec.roomKeys + 1 ∧
          ∀ m, m ≠ n → roomOf (chanOf t.dev c) m = roomOf (chanOf s.dev c) m) ∧
        (c ∉ cs → chanOf t.dev c = chanOf s.dev c)

/-- ROOM_DESTROY of a room that is not STARTED, has no capture, no stream and no bound copy, while no load is in progress: on every channel of
the suite the room is FREE, holds no program, key or page, and keeps its accounting. Word 0 counts the records that its ring never received (R529). -/
def Obligations.RoomDestroyFreesRoom : Prop :=
  ∀ (p : HostPost) (s : State), Accepts .roomDestroy p s → s.dev.fy.loads = [] →
    let a := commandOf .roomDestroy p s.dev
    let u := a.suite
    let n := par a.params 0 6
    let r := leadRoom s.dev u n
    reservedClear a.params [(0, 6)] = true → suiteExists s.dev u = true → mayName a r = true → roomState r ≠ rsFree → isStarted r = false →
    r.ckps.capture = none → r.ptrs = [] → roomStreams s.dev u n = [] →
    ∃ t, exec (.roomDestroy p) s = .next t ∧ Answers .roomDestroy p s t .ok [BitVec.ofNat 32 r.serve.owed.length] ∧ t.dev.suites = s.dev.suites ∧
      ∀ c, (c ∈ suiteChans s.dev u → roomState (roomOf (chanOf t.dev c) n) = rsFree ∧ (roomOf (chanOf t.dev c) n).prog = none ∧
          (roomOf (chanOf t.dev c) n).key = none ∧ (roomOf (chanOf t.dev c) n).pages = [] ∧
          (roomOf (chanOf t.dev c) n).acct = (roomOf (chanOf s.dev c) n).acct ∧
          (chanOf t.dev c).sec.roomKeys = (chanOf s.dev c).sec.roomKeys - 1) ∧
        (c ∉ suiteChans s.dev u → chanOf t.dev c = chanOf s.dev c)

/-- SET_BUDGET writes the customer's budget on the suite's lead channel, LEVEL clamped to BURST (R271, R677). SUBMIT_REQUESTS answers one outcome
pair for each request; a lone legal request for a room in a step, within its customer's budget, becomes a PENDING stream in the lowest free context,
and its cost is taken (R255, R257). CANCEL_STREAM marks a stream of a room in a step and waits for its end; on an ENDING stream it is over at
once (R288). SWITCH_WEIGHTS names the copy for every room in a step that uses the model, and waits for their boundaries (R444). -/
def Obligations.ServingCommandsAct : Prop :=
  ∀ (p : HostPost) (s : State),
    (let a := commandOf .setBudget p s.dev
     let u := a.suite
     let k := par a.params 0 12
     let x := chanOf s.dev (leadOf s.dev u)
     let burst := par a.params 128 48
     Accepts .setBudget p s → suiteDraining s.dev u = false → suiteExists s.dev u = true →
     reservedClear a.params [(0, 13), (32, 64), (128, 48), (192, 48)] = true →
     ∃ t, exec (.setBudget p) s = .next t ∧ Answers .setBudget p s t .ok [] ∧ t.dev.suites = s.dev.suites ∧
       (∀ c, c ≠ leadOf s.dev u → chanOf t.dev c = chanOf s.dev c) ∧
       let y := chanOf t.dev (leadOf s.dev u)
       y = { x with budgets := y.budgets } ∧ (∀ j, j ≠ k → budgetOf y j = budgetOf x j) ∧
       (budgetOf y k).reg.rate.toNat = par a.params 32 32 ∧ (budgetOf y k).reg.inW.toNat = par a.params 64 16 ∧
       (budgetOf y k).reg.outW.toNat = par a.params 80 16 ∧ (budgetOf y k).reg.burst.toNat = burst ∧
       levelOf y k = min burst (if parB a.params 12 then par a.params 192 48 else levelOf (refill x k) k)) ∧
    (let a := commandOf .submitRequests p s.dev
     let u := a.suite
     let x := chanOf s.dev (leadOf s.dev u)
     let cnt := par a.params 0 5
     let reg := par a.params 8 4
     let reqs := (offsetsOf a.params cnt).map fun o => ownRequest a s.dev (readRequest (sourceBytes a) ((regionOf x reg).pages.toNat * pageBytes) o)
     Accepts .submitRequests p s → suiteDraining s.dev u = false → suiteExists s.dev u = true → 1 ≤ cnt → cnt ≤ 16 →
     reservedClear a.params (submitFields cnt) = true → (∀ o ∈ offsetsOf a.params cnt, regionAllows x hostKinds 64 reg o 128 = true) →
     accessFails s.dev x a.data reg = false →
     (cnt = 1 → ∀ (q : Request) (r : Room) (j : SRef), reqs = [q] → r = leadRoom s.dev u (rqRoom q.hdr) → requestBad s.dev u q = false →
       r.serve.inStep = true → reqPrompt q.hdr * (budgetOf x (rqCustomer q.hdr)).reg.inW.toNat ≤ levelOf (refill x (rqCustomer q.hdr)) (rqCustomer q.hdr) →
       freeContext s.dev u = some j → r.srv.pending.toNat < r.srv.pendMax.toNat →
       (allocRoomPages (chanOf (modLead s.dev u fun x => refill x (rqCustomer q.hdr)) j.1) (rqRoom q.hdr) 0
         (requestPages r j.2 (reqNseq q.hdr) (reqPrompt q.hdr))).isSome = true →
       let handle := handleOf (genOf (strm s.dev j).handle) j
       ∃ t, exec (.submitRequests p) s = .next t ∧ Answers .submitRequests p s t .ok [handle, 0] ∧ (strm t.dev j).state = .pending ∧
         (strm t.dev j).handle = handle ∧ (strm t.dev j).room = rqRoom q.hdr ∧ (strm t.dev j).maxNew = rqMaxNew q.hdr ∧
         (strm t.dev j).seed = rqSeed q.hdr ∧ (strm t.dev j).priority = rqPriority q.hdr ∧ (strm t.dev j).reqTag = rqTag q.hdr ∧
         (∀ i, i ≠ j → strm t.dev i = strm s.dev i) ∧
         levelOf (chanOf t.dev (leadOf s.dev u)) (rqCustomer q.hdr) = levelOf (refill x (rqCustomer q.hdr)) (rqCustomer q.hdr) -
           reqPrompt q.hdr * (budgetOf x (rqCustomer q.hdr)).reg.inW.toNat)) ∧
    (let a := commandOf .cancelStream p s.dev
     let h : W32 := BitVec.ofNat 32 (par a.params 0 32)
     let q := refOfHandle h
     let k := strm s.dev q
     ∀ u, Accepts .cancelStream p s → reservedClear a.params [(0, 32)] = true → suiteOfChan s.dev q.1 = some u → k.state ≠ .free → k.handle = h →
     mayName a (leadRoom s.dev u k.room) = true →
     (k.state ≠ .ending → (leadRoom s.dev u k.room).serve.inStep = true → ∃ t, exec (.cancelStream p) s = .next t ∧
       Waits .cancelStream p s t (.cancel q.1 q.2) ∧ strm t.dev q = { k with cancel := true } ∧ (∀ i, i ≠ q → strm t.dev i = strm s.dev i) ∧
       ∀ c n, roomOf (chanOf t.dev c) n = roomOf (chanOf s.dev c) n) ∧
     (k.state = .ending → ∃ t, exec (.cancelStream p) s = .next t ∧ Answers .cancelStream p s t .ok [] ∧ t.dev.chans = s.dev.chans)) ∧
    (let a := commandOf .switchWeights p s.dev
     let u := a.suite
     let m := par a.params 0 2
     let x := chanOf s.dev (leadOf s.dev u)
     let rooms := modelRooms s.dev u m
     ∀ k, Accepts .switchWeights p s → suiteDraining s.dev u = false → suiteExists s.dev u = true → reservedClear a.params [(0, 2), (32, 32)] = true →
     (copyIxs.find? fun k => named x m k && wgenOf x k == BitVec.ofNat 32 (par a.params 32 32)) = some k →
     ((copyOf x k).reg.suspect = true → ∃ t, exec (.switchWeights p) s = .next t ∧ Answers .switchWeights p s t .switchDeferred [] ∧
       t.dev.chans = s.dev.chans) ∧
     ((copyOf x k).reg.suspect = false → rooms ≠ [] →
       (∀ n ∈ rooms, isStarted (leadRoom s.dev u n) = true ∧ (leadRoom s.dev u n).serve.inStep = true) →
       ∃ t, exec (.switchWeights p) s = .next t ∧ Waits .switchWeights p s t (.switchWeights u m rooms) ∧
         (∀ n, leadRoom t.dev u n = if n ∈ rooms then
           { leadRoom s.dev u n with switchTo := tset none (leadRoom s.dev u n).switchTo m (some k) } else leadRoom s.dev u n) ∧
         ∀ c, c ≠ leadOf s.dev u → chanOf t.dev c = chanOf s.dev c))

/-- LOAD_PROGRAM of a plain or sealed image that is read, fits the room and its suite and verifies, while no other serving room of the suite is idle: on
every channel of the suite the room is LOADED and holds the program's digest, signer and stream (R527, R674). START_JOB of a LOADED or STOPPED room: on every channel the room is STARTED
at its first bundle with its shares, and the lead has it eligible (R527, R534). STOP_JOB of a STOPPED room is over at once; of the running room
it waits for the next switch point; of another STARTED room it stops the job at once (R528). -/
def Obligations.JobCommandsAct : Prop :=
  ∀ (p : HostPost) (s : State),
    (let a := commandOf .loadProgram p s.dev
     let u := a.suite
     let n := par a.params 0 6
     let form := par a.params 6 2
     let g := a.data.prog
     let r := leadRoom s.dev u n
     let x := chanOf s.dev (leadOf s.dev u)
     Accepts .loadProgram p s → suiteDraining s.dev u = false → suiteExists s.dev u = true →
     reservedClear a.params [(0, 8), (64, 4), (128, 64), (192, 64)] = true →
     form = 0 ∨ (form = 1 ∧ opens a.data.payload 0 false r.key = true ∧ contOk r a.data.payload = true) → g.root ≠ .nothing →
     roomState r ≠ rsFree → isStarted r = false → mayName a r = true → metaBad g.info r = false →
     regionAllows x [1, 3, 4] 64 (par a.params 64 4) (par a.params 128 64) (par a.params 192 64) = true → accessFails s.dev x a.data (par a.params 64 4) = false →
     (∀ c ∈ suiteChans s.dev u, inService (chanOf s.dev c) = true ∧ g.info.width ≤ 32 * arrayWidth (chanOf s.dev c) ∧
       (loadPages g.info (g.chans.get c) n (chanOf s.dev c)).isSome = true) → imageOk s.dev g = true →
     (∀ k, k ≠ n → isStarted (leadRoom s.dev u k) = true → servesStreams (leadRoom s.dev u k) = true → (leadRoom s.dev u k).serve.inStep = true) →
     ∃ t, exec (.loadProgram p) s = .next t ∧ Answers .loadProgram p s t .ok [] ∧ ∀ c ∈ suiteChans s.dev u,
       let q := roomOf (chanOf t.dev c) n
       roomState q = rsLoaded ∧ q.prog = some { digest := g.digest, signer := g.signer, sealedForm := form == 1, info := g.info,
                                                stream := (g.chans.get c).stream, colls := (g.chans.get c).colls }) ∧
    (let a := commandOf .startJob p s.dev
     let u := a.suite
     let n := par a.params 0 6
     let r := leadRoom s.dev u n
     let gen := r.cfg.kind == 1
     Accepts .startJob p s → suiteDraining s.dev u = false → suiteExists s.dev u = true →
     reservedClear a.params ([(0, 6), (16, 16)] ++ (if gen then [(32, 4), (36, 18)] else [])) = true → mayName a r = true →
     roomState r = rsLoaded ∨ roomState r = rsStopped → (r.cfg.kind = 3 → ∀ m ∈ modelsUsed r, (ptrOf r m).isSome = true) →
     (gen = true → tooLong s.dev u n (par a.params 32 4) (BitVec.ofNat 18 (par a.params 36 18)) = false) →
     (trains r = true → 512 * r.trn.stwSeg.toNat + 512 * r.trn.stwKeep.toNat ≤ r.trn.stwPages.toNat * pageBytes ∧ ∀ c ∈ suiteChans s.dev u,
       (match r.prog with | some q => ((shardUnits q.info).map List.length).foldl max 0 | none => 0) ≤ (roomOf (chanOf s.dev c) n).tier.t1max.toNat) →
     (startTensors s.dev u n).isSome = true →
     ∃ t, exec (.startJob p) s = .next t ∧ Answers .startJob p s t .ok [] ∧ (leadRoom t.dev u n).sch.sstate = ssEligible ∧
       ∀ c ∈ suiteChans s.dev u,
         let q := roomOf (chanOf t.dev c) n
         let q0 := roomOf (chanOf s.dev c) n
         roomState q = rsStarted ∧ q.prog = q0.prog ∧ q.ctx = {} ∧ q.fresh = true ∧
           q.sch.shares = (if par a.params 16 16 = 0 then q0.sch.shares else BitVec.ofNat 16 (par a.params 16 16))) ∧
    (let a := commandOf .stopJob p s.dev
     let u := a.suite
     let n := par a.params 0 6
     let r := leadRoom s.dev u n
     Accepts .stopJob p s → suiteExists s.dev u = true → reservedClear a.params [(0, 6)] = true → mayName a r = true →
     (roomState r = rsStopped → ∃ t, exec (.stopJob p) s = .next t ∧ Answers .stopJob p s t .ok [] ∧ t.dev.chans = s.dev.chans) ∧
     (isStarted r = true → runningRoom s.dev u = some n → ∃ t, exec (.stopJob p) s = .next t ∧ Waits .stopJob p s t (.stop u n) ∧
       leadRoom t.dev u n = { r with stopping := true } ∧ ∀ c, c ≠ leadOf s.dev u → chanOf t.dev c = chanOf s.dev c) ∧
     (isStarted r = true → runningRoom s.dev u ≠ some n → r.ckps.capture = none → s.dev.fy.waits = [] → r.serve.table = [] →
       r.serve.owed = [] → r.serve.toFabric = [] → roomStreams s.dev u n = [] → ∃ t, exec (.stopJob p) s = .next t ∧ Answers .stopJob p s t .ok [] ∧
         ∀ c ∈ suiteChans s.dev u, roomState (roomOf (chanOf t.dev c) n) = rsStopped ∧ (roomOf (chanOf t.dev c) n).fresh = true))

/-! ## Loads: sealed payloads, adapters and weight copies -/

/-- LOAD_WEIGHTS of an image that opens and agrees with the command takes a FREE copy entry, LOADING under its WGEN, or the pages of a learner's masters,
and waits for its payload (R437 to R439). PIN_ADAPTER takes its home, LOADING, and waits for its payload; without a home it answers SLOT_BUSY
(R329, R343, R344, R346). UNPIN_ADAPTER releases a slot that the room holds, or unpins a warm adapter, and the binding that named it goes; one that
is still loading answers SLOT_BUSY (R335, R345). -/
def Obligations.LoadsBegin : Prop :=
  ∀ (p : HostPost) (s : State),
    (let a := commandOf .loadWeights p s.dev
     let u := a.suite
     let m := par a.params 2 2
     let n := par a.params 4 6
     let x := chanOf s.dev (leadOf s.dev u)
     let r := leadRoom s.dev u n
     let h := a.data.weights
     let d := pendingDev .loadWeights p s.dev
     Accepts .loadWeights p s → suiteDraining s.dev u = false → suiteExists s.dev u = true → reservedClear a.params loadFields = true →
     headerAgrees h a.params = true → regionAllows x [1, 3, 4] 65536 (par a.params 10 4) (par a.params 64 64) (par a.params 128 64) = true →
     accessFails s.dev x a.data (par a.params 10 4) = false →
     (∀ k d1, par a.params 0 2 = 0 → opens a.data.payload 1 true x.suiteKey = true →
       (∀ k ∈ copyIxs, copyState x k ≠ csFree → copyModel x k = m → (wgenOf x k).toNat < par a.params 32 32) →
       claimCopy d u m h.pages.toNat csLoading = some (k, d1) → ∃ t, exec (.loadWeights p) s = .next t ∧ Waits .loadWeights p s t .load ∧
         (∃ l ∈ t.dev.fy.loads, l.key = a.key ∧ l.target = .copy u k ∧ l.segs = a.data.payload.segs ∧ l.next = 0) ∧
         let w := leadCopy t.dev u k
         w.reg.state = csLoading ∧ w.reg.wgen = h.wgen ∧ w.reg.tiles = h.tiles ∧ w.layers = h.layers ∧ w.ppl = h.ppl) ∧
     (par a.params 0 2 = 1 → r.cfg.kind = 2 → r.prog.isSome = true → mayName a r = true → opens a.data.payload 1 false r.key = true →
       contOk r a.data.payload = true → (takeMasters d u n).isSome = true → ∃ t, exec (.loadWeights p) s = .next t ∧ Waits .loadWeights p s t .load ∧
         ∃ l ∈ t.dev.fy.loads, l.key = a.key ∧ l.target = .masters u n ∧ l.segs = a.data.payload.segs ∧ l.next = 0)) ∧
    (let a := commandOf .pinAdapter p s.dev
     let u := a.suite
     let n := par a.params 0 6
     let kind := par a.params 6 2
     let x := chanOf s.dev (leadOf s.dev u)
     let r := leadRoom s.dev u n
     let d := pendingDev .pinAdapter p s.dev
     let experts := BitVec.ofNat 64 (par a.params 256 64)
     Accepts .pinAdapter p s → suiteDraining s.dev u = false → suiteExists s.dev u = true →
     reservedClear a.params [(0, 11), (16, 12), (32, 12), (48, 16), (64, 4), (128, 64), (192, 64), (256, 64)] = true → mayName a r = true →
     r.prog.isSome = true → kind ≠ 3 → (∀ i ∈ expertsOf experts, i < r.adp.xexpN.toNat) → (kind = 1 → par a.params 48 16 < r.adp.warmMax.toNat) →
     (kind = 2 ↔ r.cfg.kind = 3) → (parB a.params 8 = true → kind ≠ 2) →
     regionAllows x [1, 3, 4] 64 (par a.params 64 4) (par a.params 128 64) (par a.params 192 64) = true →
     (claimHome d u n a.params = none → ∃ t, exec (.pinAdapter p) s = .next t ∧ Answers .pinAdapter p s t .slotBusy [] ∧ t.dev.chans = s.dev.chans) ∧
     ∀ home, claimHome d u n a.params = some home → (home < 4096 → (adpOf x home).reg.state ≠ asCache) →
       (claimPages (claimEntries a u n home d) u n home (extraPages r (if parB a.params 8 then a.data.mergedBytes else 0)
         (if parB a.params 8 then a.data.mergeVa else 0).toNat experts)).isSome = true →
       accessFails s.dev x a.data (par a.params 64 4) = false → opens a.data.payload 2 false r.key = true → contOk r a.data.payload = true →
       ∃ t, exec (.pinAdapter p) s = .next t ∧ Waits .pinAdapter p s t .load ∧
         (∃ l ∈ t.dev.fy.loads, l.key = a.key ∧ l.target = .adapter u n home ∧ l.segs = a.data.payload.segs ∧ l.next = 0 ∧ l.kind = kind) ∧
         (∀ c ∈ suiteChans s.dev u, if home < 4096 then
            let e := (adpOf (chanOf t.dev c) home).reg
            e.state = asLoading ∧ e.room.toNat = n ∧ e.owner.toNat = par a.params 32 12 ∧ e.merged = parB a.params 8
          else
            let w := warmOf (roomOf (chanOf t.dev c) n) (home - 4096)
            w.held = true ∧ w.loading = true ∧ w.owner.toNat = par a.params 32 12 ∧ w.merged = parB a.params 8)) ∧
    (let a := commandOf .unpinAdapter p s.dev
     let u := a.suite
     let n := par a.params 0 6
     let kind := par a.params 6 2
     let r := leadRoom s.dev u n
     let x := chanOf s.dev (leadOf s.dev u)
     Accepts .unpinAdapter p s → suiteDraining s.dev u = false → suiteExists s.dev u = true → roomState r ≠ rsFree → mayName a r = true →
     (let k := par a.params 16 12
      let e := adpOf x k
      kind = 0 ∨ kind = 2 → reservedClear a.params [(0, 8), (16, 12)] = true → e.reg.room.toNat = n → e.reg.state ≠ asFree → e.reg.state ≠ asLoading →
      ∃ t, exec (.unpinAdapter p) s = .next t ∧ Answers .unpinAdapter p s t .ok [] ∧
        (∀ c ∈ suiteChans s.dev u, adpOf (chanOf t.dev c) k = { adpOf (chanOf s.dev c) k with reg := { (adpOf (chanOf s.dev c) k).reg with state := asReleasing } } ∧
          ∀ j, j ≠ k → adpOf (chanOf t.dev c) j = adpOf (chanOf s.dev c) j) ∧
        (∀ o, bindingOf (leadRoom t.dev u n) o =
          if o = e.reg.owner.toNat ∧ ((bindingOf r o).kind = 1 ∧ (bindingOf r o).slot.toNat = k ∨
            e.reg.state = asCache ∧ (bindingOf r o).kind = 2 ∧ (bindingOf r o).warm = e.reg.warm) then {} else bindingOf r o)) ∧
     (let w := par a.params 48 16
      kind = 1 → reservedClear a.params [(0, 8), (48, 16)] = true → (warmOf r w).held = true → (warmOf r w).loading = false →
      ∃ t, exec (.unpinAdapter p) s = .next t ∧ Answers .unpinAdapter p s t .ok [] ∧
        ∀ c ∈ suiteChans s.dev u, warmOf (roomOf (chanOf t.dev c) n) w = { warmOf (roomOf (chanOf s.dev c) n) w with unpinned := true }) ∧
     ((kind = 0 ∨ kind = 2) ∧ reservedClear a.params [(0, 8), (16, 12)] = true ∧ (adpOf x (par a.params 16 12)).reg.room.toNat = n ∧
        (adpOf x (par a.params 16 12)).reg.state = asLoading ∨
      kind = 1 ∧ reservedClear a.params [(0, 8), (48, 16)] = true ∧ (warmOf r (par a.params 48 16)).held = true ∧
        (warmOf r (par a.params 48 16)).loading = true →
      ∃ t, exec (.unpinAdapter p) s = .next t ∧ Answers .unpinAdapter p s t .slotBusy [] ∧ t.dev.chans = s.dev.chans))

/-- A load takes its payload segment by segment; a segment whose tag fails, and a fetch that times out, end it with nothing kept (R566, R567, R750).
ADAPTER_LOAD_DONE of an image that passes its checks: the slot is READY, or TRAIN, with the image's digest, and its owner is bound; of another the
slot is FREE (R322, R330). WEIGHT_LOAD_FETCH_DONE: a copy without replicas that no room uses is READY when every tile, as it was last fetched, has the
fingerprint of the image's table, and FREE when one has not; masters that have all come carry their WGEN, and others end the load (R438, R439).
WARM_ADAPTER_FETCH_DONE: the slot is CACHE and holds what came back when every page's fingerprint holds, else it is FREE (R337, R195). Other
loads are as before. -/
def Obligations.LoadsEnd : Prop :=
  ∀ s : State,
    (∀ (k : CmdKey) (l : Load), loadOf s.dev k = some l →
      (∀ bs tagOk, l.next < l.segs → (if l.next + 1 < l.segs then bs.length = segBytes else 1 ≤ bs.length ∧ bs.length ≤ segBytes) →
        ∃ t, exec (.sealedPayloadSegment k l.next bs tagOk) s = .next t ∧ t.board = s.board ∧
          loadOf t.dev k = (if tagOk then some { l with next := l.next + 1 } else none) ∧ ∀ j, j ≠ k → loadOf t.dev j = loadOf s.dev j) ∧
      (∃ t, exec (.hostCompletionTimeout k) s = .next t ∧ t.board = s.board ∧ loadOf t.dev k = none ∧ (∀ j, j ≠ k → loadOf t.dev j = loadOf s.dev j) ∧
        ∀ u n h, l.target = .adapter u n h → h < 4096 → ∀ c ∈ suiteChans s.dev u, (adpOf (chanOf t.dev c) h).reg.state = asFree) ∧
      (∀ u n h, l.target = .adapter u n h → l.next = l.segs → h < 4096 →
        let e := adpOf (chanOf s.dev (leadOf s.dev u)) h
        let x := chanOf s.dev (leadOf s.dev u)
        (bindingOf (leadRoom s.dev u n) e.reg.owner.toNat).kind = 0 → ∃ t, exec (.adapterLoadDone k h) s = .next t ∧ loadOf t.dev k = none ∧
          (∀ j, j ≠ k → loadOf t.dev j = loadOf s.dev j) ∧ ∀ q ∈ suiteChans s.dev u,
            if imagePasses x n (slotVa h) l.image e.reg.xexp then
              (adpOf (chanOf t.dev q) h).reg.state = (if l.kind = 2 then asTrain else asReady) ∧
              (adpOf (chanOf t.dev q) h).digest = sha3 (readRoom x n (slotVa h) l.image) ∧
              bindingOf (leadRoom t.dev u n) e.reg.owner.toNat = { kind := 1, slot := BitVec.ofNat 12 h }
            else (adpOf (chanOf t.dev q) h).reg.state = asFree) ∧
      (∀ u j (c : WeightCheck), l.target = .copy u j → l.next = l.segs → (leadCopy s.dev u j).reg.state = csLoading → (leadCopy s.dev u j).repairing = [] →
        (leadCopy s.dev u j).comparing = false → replicasOf (modelOf (chanOf s.dev (leadOf s.dev u)) (leadCopy s.dev u j).reg.model.toNat) = [] →
        (∀ n ∈ roomIndexes, usesModel (leadRoom s.dev u n) (leadCopy s.dev u j).reg.model.toNat = false) →
        let d := rereadCopy (c.again.foldl (putTile u j) s.dev) u j
        ∃ t, exec (.weightLoadFetchDone k c) s = .next t ∧
          (mismatches d u j (tableOf l.hdr.fps) = [] → (leadCopy t.dev u j).reg.state = csReady ∧ (leadCopy t.dev u j).reg.suspect = false ∧
            ∀ q ∈ suiteChans s.dev u, ∀ i, i < (leadCopy s.dev u j).reg.tiles.toNat → tget 0 (copyOf (chanOf t.dev q) j).fps i = tget 0 (tableOf l.hdr.fps) i) ∧
          (mismatches d u j (tableOf l.hdr.fps) ≠ [] → (leadCopy t.dev u j).reg.state = csFree ∧ loadOf t.dev k = none)) ∧
      (∀ u n (c : WeightCheck), l.target = .masters u n → l.next = l.segs → (leadRoom s.dev u n).upd.nshards1 = 0 →
        ∃ t, exec (.weightLoadFetchDone k c) s = .next t ∧ loadOf t.dev k = none ∧ (∀ j, j ≠ k → loadOf t.dev j = loadOf s.dev j) ∧
          (c.bad = [] → ∀ q ∈ suiteChans s.dev u, (roomOf (chanOf t.dev q) n).trn.wgen = l.hdr.wgen))) ∧
    ∀ (u : Ch) (k : BitVec 12) (back : List (Ch × Nat × Byte)),
      let e := adpOf (chanOf s.dev (leadOf s.dev u)) k.toNat
      let n := e.reg.room.toNat
      let w := e.reg.warm.toNat
      let home := fun (c : Ch) => homeBack (chanOf s.dev c) (warmVa (roomOf (chanOf s.dev c) n) w) n (backOn c back)
      let good := ∀ c ∈ suiteChans s.dev u, homeBroken (chanOf s.dev c) n w (home c) = []
      e.fetching = true → sameWarm (warmOf (leadRoom s.dev u n) w) w e = true →
      ∃ t, exec (.warmAdapterFetchDone u k back) s = .next t ∧ t.board = s.board ∧ t.dev.fy = s.dev.fy ∧
        (good → (leadRoom t.dev u n).adp.warmLoads = satInc (leadRoom s.dev u n).adp.warmLoads ∧
          ∀ c ∈ suiteChans s.dev u, (adpOf (chanOf t.dev c) k.toNat).reg.state = asCache ∧
            ∀ a, roomByte (chanOf t.dev c) n a = roomByte (writeRoom (chanOf s.dev c) n (slotVa k.toNat) (home c)) n a) ∧
        (¬ good → ∀ c ∈ suiteChans s.dev u, adpOf (chanOf t.dev c) k.toNat = {})

/-! ## Checkpoint commands -/

/-- CHECKPOINT_NOW for a room that trains or is in a step asks for a cut at its next boundary, behind a running capture as a pending one, and waits for it; in a
sharded job shard 0 asks for the job's cut, and another shard's command is over at once (R626, R628 to R630). CHECKPOINT_POLICY writes the
policy; an Attic that changes leaves both slots empty, and ATTIC_RELEASE leaves the room without one (R631, R638). -/
def Obligations.CheckpointCommandsAct : Prop :=
  ∀ (p : HostPost) (s : State),
    (let a := commandOf .checkpointNow p s.dev
     let u := a.suite
     let n := par a.params 0 6
     let cut := parB a.params 7
     let r := leadRoom s.dev u n
     Accepts .checkpointNow p s → suiteExists s.dev u = true → reservedClear a.params [(0, 8)] = true → parB a.params 6 = false →
     mayName a r = true → isStarted r = true → hasAttic r = true →
     (r.upd.nshards1 = 0 → (servesStreams r = true → r.serve.inStep = true) → ∃ t, exec (.checkpointNow p) s = .next t ∧
       Waits .checkpointNow p s t (.checkpoint [(u, n, r.ckps.capture.isSome)] .ok [] false) ∧
       (leadRoom t.dev u n).ckps.due = some (r.ckps.due.getD cut) ∧ (leadRoom t.dev u n).ckps.capture = r.ckps.capture ∧
       (leadRoom t.dev u n).ckp.pending = (r.ckp.pending || r.ckps.capture.isSome) ∧ ∀ c, c ≠ leadOf s.dev u → chanOf t.dev c = chanOf s.dev c) ∧
     (r.upd.nshards1 ≠ 0 → cut = false → r.upd.shard = 0 → ∃ t, exec (.checkpointNow p) s = .next t ∧
       Waits .checkpointNow p s t (.checkpoint [(u, n, r.ckps.capture.isSome)] .ok [] false) ∧ (leadRoom t.dev u n).ckps.jobAsk = true) ∧
     (r.upd.nshards1 ≠ 0 → cut = false → r.upd.shard ≠ 0 → ∃ t, exec (.checkpointNow p) s = .next t ∧ Answers .checkpointNow p s t .ok [] ∧
       t.dev.chans = s.dev.chans)) ∧
    (let a := commandOf .checkpointPolicy p s.dev
     let u := a.suite
     let n := par a.params 0 6
     let r := leadRoom s.dev u n
     let node : BitVec 18 := BitVec.ofNat 18 (par a.params 128 18)
     let pages := par a.params 160 32
     let changed := node ≠ r.ckp.atticNode ∨ pages ≠ r.ckp.atticPages.toNat
     Accepts .checkpointPolicy p s → suiteExists s.dev u = true → reservedClear a.params policyFields = true → parB a.params 6 = false →
     par a.params 192 64 % 65536 = 0 → roomState r ≠ rsFree → mayName a r = true → (pages ≠ 0 → onOwnDevice s.dev u node = false) →
     (parB a.params 65 = true → r.upd.nshards1 = 0) → (node ≠ r.ckp.atticNode → r.ckps.capture = none) →
     (changed ∧ pages ≠ 0 ∧ a.data.holderOk = false → ∃ t, exec (.checkpointPolicy p) s = .next t ∧
       Answers .checkpointPolicy p s t .quotaExceeded [] ∧ t.dev.chans = s.dev.chans) ∧
     (¬(changed ∧ pages ≠ 0 ∧ a.data.holderOk = false) → ∃ t, exec (.checkpointPolicy p) s = .next t ∧ Answers .checkpointPolicy p s t .ok [] ∧
       let k := (leadRoom t.dev u n).ckp
       k.atticNode = node ∧ k.atticPages.toNat = pages ∧ k.en = parB a.params 64 ∧ k.cut = parB a.params 65 ∧ k.mirror = parB a.params 66 ∧
         k.everySteps.toNat = par a.params 80 16 ∧ k.everyMs.toNat = par a.params 96 32 ∧ k.mirrorOffset.toNat = par a.params 192 64 ∧
         (changed → k.aValid = false ∧ k.bValid = false) ∧ (¬changed → k.aValid = r.ckp.aValid ∧ k.bValid = r.ckp.bValid))) ∧
    (let q : HostPost := { p with params := p.params ||| (1 <<< 6) }
     let a := commandOf .checkpointPolicy q s.dev
     let u := a.suite
     let n := par a.params 0 6
     let r := leadRoom s.dev u n
     Accepts .checkpointPolicy q s → suiteExists s.dev u = true → reservedClear a.params policyFields = true → parB a.params 6 = true →
     par a.params 192 64 % 65536 = 0 → roomState r ≠ rsFree → mayName a r = true → (parB a.params 65 = true → r.upd.nshards1 = 0) →
     r.ckps.capture = none → ∃ t, exec (.atticRelease p) s = .next t ∧ Answers .checkpointPolicy q s t .ok [] ∧
       let k := (leadRoom t.dev u n).ckp
       k.atticNode = 0 ∧ k.atticPages = 0 ∧ k.aValid = false ∧ k.bValid = false)

/-- RESTORE of a room without a running capture from a slot that cannot be reached leaves it LOADED with DEGRADED; from a slot that
matches, fits and holds, and whose copies become CURRENT under no idle room, its registers, pages and state come back on every channel, and it is STOPPED at the slot's step, or STARTED where the
command says so (R644, R645). SHRINK_JOB, once its rollback and the parts of its new range have come, starts the shard in its new place (R648 to R650). -/
def Obligations.JobsComeBack : Prop :=
  ∀ (p : HostPost) (s : State),
    (let a := commandOf .restore p s.dev
     let u := a.suite
     let n := par a.params 0 6
     let r := leadRoom s.dev u n
     let k := a.data.slot
     let d := pendingDev .restore p s.dev
     let st := roomState r
     Accepts .restore p s → suiteDraining s.dev u = false → suiteExists s.dev u = true → reservedClear a.params restoreFields = true →
     st = rsLoaded ∨ st = rsStopped ∨ st = rsFaulted → mayName a r = true → r.ckps.capture = none →
     (parB a.params 6 = true → regionAllows (chanOf s.dev (leadOf s.dev u)) [1] 65536 (par a.params 146 4) (par a.params 192 64) 0 = true) →
     (a.data.reached = false → ∃ t, exec (.restore p) s = .next t ∧ Answers .restore p s t .degraded [] ∧
       ∀ c ∈ suiteChans s.dev u, roomState (roomOf (chanOf t.dev c) n) = rsLoaded) ∧
     (a.data.reached = true → slotMatches d u n k (par a.params 64 64) = true → (restoreChans k d u n).isSome = true → attested d u n k = true →
       a.data.fails = false → tooNarrowFor d u n k = false →
       (∀ e ∈ modelEntries k, ∀ j, copyWith d u e.1 e.2 = some j → copyState (chanOf s.dev (leadOf s.dev u)) j = csCurrent) ∨
         ((∀ m, m ≠ n → isStarted (leadRoom s.dev u m) = true → servesStreams (leadRoom s.dev u m) = true → (leadRoom s.dev u m).serve.inStep = true) ∧
           (parB a.params 8 = true → servesStreams r = false)) → ∃ t, exec (.restore p) s = .next t ∧ Answers .restore p s t .ok [] ∧
         ∀ c ∈ suiteChans s.dev u, roomState (roomOf (chanOf t.dev c) n) = (if parB a.params 8 then rsStarted else rsStopped) ∧
           (roomOf (chanOf t.dev c) n).steps = k.step)) ∧
    (let a := commandOf .shrinkJob p s.dev
     let u := a.suite
     let n := par a.params 0 6
     let r := leadRoom s.dev u n
     let d := pendingDev .shrinkJob p s.dev
     let x := chanOf s.dev (leadOf s.dev u)
     let i := metaOf r
     let new := par a.params 16 16 + 1
     let old := r.upd.nshards1.toNat + 1
     let m := readMap a new old
     Accepts .shrinkJob p s → suiteDraining s.dev u = false → suiteExists s.dev u = true →
     reservedClear a.params [(0, 6), (16, 16), (32, 16), (64, 64), (128, 4), (192, 64)] = true → mayName a r = true → r.cfg.kind = 2 →
     roomState r = rsStopped ∨ roomState r = rsFaulted → r.prog.isSome = true → r.ckps.capture = none →
     regionAllows x hostKinds 4096 (par a.params 128 4) (par a.params 192 64) (16 * new + 32 * old) = true → new < old → par a.params 32 16 < new →
     (accessFails s.dev x a.data (par a.params 128 4) = true → ∃ t, exec (.shrinkJob p) s = .next t ∧ Answers .shrinkJob p s t .degraded [] ∧
       ∀ c ∈ suiteChans s.dev u, roomState (roomOf (chanOf t.dev c) n) = rsStopped) ∧
     (∀ d1, accessFails s.dev x a.data (par a.params 128 4) = false → firstsOk i m.firsts = true → firstsOk i m.olds = true →
       rollBack a d u n (par a.params 64 64) = .ok d1 →
       let range := shardRange i m.firsts (par a.params 32 16)
       let parts := newParts (i.firstElem, i.lastElem) range
       (parts ≠ [] → a.data.partsReached = true ∧ a.data.parts.dirOk = true ∧ a.data.parts.fpsOk = true ∧
         (match a.data.parts.cont with | some c => (leadRoom d1 u n).cont = some c | none => True)) →
       ((suiteChans d1 u).foldlM (fun d c => (takeParts n i (a.data.parts.rooms.get c).mem parts (chanOf d c)).map fun y => setChan d c y) d1).isSome = true →
       ∃ t, exec (.shrinkJob p) s = .next t ∧ Answers .shrinkJob p s t .ok [] ∧ ∀ c ∈ suiteChans s.dev u,
         let q := roomOf (chanOf t.dev c) n
         roomState q = rsStarted ∧ q.upd.shard.toNat = par a.params 32 16 ∧ q.upd.nshards1.toNat = par a.params 16 16 ∧ q.upd.rootNode = m.root))

/-! ## Reports, the fabric and drains -/

/-- ATTEST with a signer, a space that fits and a key that signs writes its report and answers its length; with SCOPE that holds STARTED rooms it waits for their
step boundaries, and has taken the others' entries (R572, R573). QUERY_ACCOUNTING writes the blocks of its scope (R545, R678), and
QUERY_FAULTS the snapshots and records that fit, and answers the summary (R615, R616). Rooms, channels and suites stay as they are. -/
def Obligations.QueriesReport : Prop :=
  ∀ (p : HostPost) (s : State),
    (let a := commandOf .attest p s.dev
     let u := Ch.ofNum (par a.params 9 2)
     let rooms := attestRooms s.dev a.params
     let later := rooms.filter fun q => isStarted (leadRoom s.dev q.1 q.2)
     let taken := (rooms.filter fun q => !isStarted (leadRoom s.dev q.1 q.2)).map fun q => (64 * q.1.num + q.2, attestEntry s.dev q.1 q.2 (parB a.params 8))
     Accepts .attest p s → reservedClear a.params attestFields = true → attestNothing a s.dev = false → ∀ g, signerOf s.dev (par a.params 6 2) u = some g →
     regionAllows (chanOf s.dev g) hostKinds 4096 (par a.params 64 4) (par a.params 128 64) (par a.params 192 64) = true →
     (later ≠ [] → ∃ t, exec (.attest p) s = .next t ∧ Waits .attest p s t (.attest later taken) ∧ t.dev.chans = s.dev.chans) ∧
     (let bytes := reportBytes s.dev a g taken
      later = [] → bytes.length ≤ par a.params 192 64 → a.data.signOk = true → (chanOf s.dev g).bootKey.isSome = true →
      accessFails s.dev (chanOf s.dev g) a.data (par a.params 64 4) = false → ∃ t, exec (.attest p) s = .next t ∧
        Answers .attest p s t .ok [BitVec.ofNat 32 bytes.length] ∧ .regionWrite p.fn (par a.params 64 4) (par a.params 128 64) bytes ∈ t.dev.out ∧
        t.dev.chans = s.dev.chans ∧ t.dev.suites = s.dev.suites)) ∧
    (let a := commandOf .queryAccounting p s.dev
     let scope := par a.params 6 2
     let r := namedRoom s.dev a.suite (par a.params 0 6)
     let x := queryChan a s.dev (scope == 2)
     let bytes := accountReport a s.dev
     Accepts .queryAccounting p s → reservedClear a.params [(0, 8), (128, 4), (192, 64), (256, 64)] = true → scope ≠ 3 →
     (scope ≠ 2 → suiteExists s.dev a.suite = true) → (scope = 0 → r.created = true ∧ mayName a r = true) →
     regionAllows x hostKinds 4096 (par a.params 128 4) (par a.params 192 64) (par a.params 256 64) = true → bytes.length ≤ par a.params 256 64 →
     accessFails s.dev x a.data (par a.params 128 4) = false → ∃ t, exec (.queryAccounting p) s = .next t ∧
       Answers .queryAccounting p s t .ok [BitVec.ofNat 32 bytes.length] ∧
       .regionWrite p.fn (par a.params 128 4) (par a.params 192 64) bytes ∈ t.dev.out ∧ t.dev.chans = s.dev.chans ∧ t.dev.suites = s.dev.suites) ∧
    (let a := commandOf .queryFaults p s.dev
     let x := queryChan a s.dev true
     let n := par a.params 256 64
     let bytes := faultReport a s.dev
     Accepts .queryFaults p s → reservedClear a.params [(0, 5), (64, 64), (128, 4), (192, 64), (256, 64)] = true →
     (n = 0 → ∃ t, exec (.queryFaults p) s = .next t ∧ Answers .queryFaults p s t .ok (0 :: summaryWords s.dev) ∧ t.dev.chans = s.dev.chans) ∧
     (n ≠ 0 → regionAllows x hostKinds 4096 (par a.params 128 4) (par a.params 192 64) n = true → accessFails s.dev x a.data (par a.params 128 4) = false →
       ∃ t, exec (.queryFaults p) s = .next t ∧ Answers .queryFaults p s t .ok (BitVec.ofNat 32 bytes.length :: summaryWords s.dev) ∧
         (bytes ≠ [] → .regionWrite p.fn (par a.params 128 4) (par a.params 192 64) bytes ∈ t.dev.out) ∧ t.dev.chans = s.dev.chans))

/-- FABRIC_JOIN gives every channel its device number, routes and peers, and completes, joined, once no port trains (R482, R483). FABRIC_LEAVE
takes every optical port down (R485). DRAIN_DEVICE starts a drain on the channels it names, which is done at once where no room is STARTED, and
DRAIN_CANCEL ends one that may be cancelled (R609, R610, R613). -/
def Obligations.FabricAndDrainCommandsAct : Prop :=
  ∀ (p : HostPost) (s : State),
    (let a := commandOf .fabricJoin p s.dev
     let x := queryChan a s.dev true
     Accepts .fabricJoin p s → anyDraining s.dev = false → reservedClear a.params [(0, 36), (64, 64)] = true →
     (∀ c, (chanOf s.dev c).node.joined = true → (chanOf s.dev c).node.device.toNat = par a.params 0 16) →
     regionAllows x hostKinds 4096 (par a.params 32 4) (par a.params 64 64) joinBytes = true → accessFails s.dev x a.data (par a.params 32 4) = false →
     ∃ t, exec (.fabricJoin p) s = .next t ∧
       (∀ c, (chanOf t.dev c).node.device.toNat = par a.params 0 16 ∧ (chanOf t.dev c).routes = imageRoutes a c ∧ (chanOf t.dev c).peers = imagePeers a c) ∧
       (trainingPorts t.dev = [] → Answers .fabricJoin p s t (if allTrained t.dev then .ok else .degraded) (joinWords t.dev) ∧
         ∀ c, (chanOf t.dev c).node.joined = true) ∧
       (trainingPorts t.dev ≠ [] → Waits .fabricJoin p s t (.join (trainingPorts t.dev)))) ∧
    (let a := commandOf .fabricLeave p s.dev
     Accepts .fabricLeave p s → anyDraining s.dev = false → reservedClear a.params [] = true → startedRooms s.dev = [] →
     (∀ w ∈ s.dev.fy.waits, ∀ l, w.kind ≠ .join l) → ∃ t, exec (.fabricLeave p) s = .next t ∧ Answers .fabricLeave p s t .ok [] ∧
       ∀ c q, (portOf (chanOf t.dev c) q).state = 0 ∧ (chanOf t.dev c).node.joined = false) ∧
    (let a := commandOf .drainDevice p s.dev
     let cs := drainMask a.params
     Accepts .drainDevice p s → reservedClear a.params [(0, 6), (16, 16)] = true → parB a.params 5 = false → startedRooms s.dev = [] →
     (∀ c ∈ cs, (chanOf s.dev c).drain = none) → ∃ t, exec (.drainDevice p) s = .next t ∧ Answers .drainDevice p s t .ok [] ∧
       t.dev.fy.drains = s.dev.fy.drains + 1 ∧ (parB a.params 4 = true → t.dev.fy.replace.isSet = true) ∧
       let limit := if par a.params 16 16 = 0 then s.dev.fy.replace.drainLimitS.toNat else par a.params 16 16
       ∀ c, if c ∈ cs then (chanOf t.dev c).flt.draining = true ∧ (chanOf t.dev c).flt.drainDone = true ∧
           (chanOf t.dev c).drain = some { cancellable := !parB a.params 4, startMs := nowMs (chanOf s.dev c), limitS := limit }
         else (chanOf t.dev c).flt.draining = (chanOf s.dev c).flt.draining ∧ (chanOf t.dev c).drain = (chanOf s.dev c).drain) ∧
    (let q : HostPost := { p with params := p.params ||| (1 <<< 5) }
     let a := commandOf .drainDevice q s.dev
     let cs := drainMask a.params
     Accepts .drainDevice q s → reservedClear a.params [(0, 6), (16, 16)] = true → parB a.params 5 = true →
     (∀ c ∈ cs, ∀ k, (chanOf s.dev c).drain = some k → k.cancellable = true) → ∃ t, exec (.drainCancel p) s = .next t ∧
       Answers .drainDevice q s t .ok [] ∧ ∀ c, if c ∈ cs then
           (chanOf t.dev c).drain = none ∧ (chanOf t.dev c).flt.draining = false ∧ (chanOf t.dev c).flt.drainDone = false
         else chanOf t.dev c = chanOf s.dev c)

/-! ## The compute island -/

/-- BUNDLE_ISSUE does nothing where no STARTED room issues, and a cycle passes in a power hold. Otherwise, once due results have landed and any bank
delay has passed: a bundle that holds issues nothing for a cycle (R33); a stream fault is recorded and ends the room (R150), and so is poison that the
bundle would consume (R594); and a legal bundle acts whole, its slots and then its descriptors, and issue goes on at its successor after its cycles
(R104, R105). A versioned write that finds no free shadow holds its bundle, which counts once as a stall (R390). -/
def Obligations.BundlesIssue : Prop :=
  ∀ (c : Ch) (s : State),
    let x := chanOf s.dev c
    let runs := fun n => x.island.room = some n ∧ isStarted (roomOf x n) = true ∧ x.island.atSwitch = false ∧ x.island.ctx.ended = false ∧ x.issueHold = false
    ((∀ n, ¬runs n) → exec (.bundleIssue c) s = .next s) ∧
    (∀ n, runs n → x.island.powerHold = true → ∃ t, exec (.bundleIssue c) s = .next t ∧ OnlyChannel c s t ∧ chanOf t.dev c = addCycles 1 x) ∧
    ∀ n, runs n → x.island.powerHold = false →
      let y := bundleMoment x n
      (∀ h, verdict y n = .hold h → (∀ t k, h ≠ .token t k true) → h ≠ .shadow → ∃ t, exec (.bundleIssue c) s = .next t ∧ OnlyChannel c s t ∧
        let z := chanOf t.dev c
        z.island.hold = some h ∧ z.island.cycle = y.island.cycle + 1 ∧ z.island.ctx = { y.island.ctx with scyc := y.island.ctx.scyc + 1 } ∧
          z.ws = y.ws ∧ z.rooms = y.rooms ∧ z.island.pumps = y.island.pumps) ∧
      (∀ k slot, verdict y n = .fault k slot → k ≠ 0x0B → ∃ t d1, exec (.bundleIssue c) s = .next t ∧ t.dev = faultOn d1 c n .roomFault ∧
        FaultNoted y n k slot (chanOf d1 c)) ∧
      (∀ p, verdict y n = .poison p → ∃ t d1 e l, exec (.bundleIssue c) s = .next t ∧ t.dev = faultOn d1 c n .poisonConsumed ∧
        (chanOf d1 c).hist.buffer = e :: l ∧ e.cls = (poisonRecord y n p).cls ∧ e.unit = (poisonRecord y n p).unit ∧ e.kind = 8 ∧
        e.room = BitVec.ofNat 6 n ∧ e.status = .poisonConsumed) ∧
      (∀ l, verdict y n = .badFetch l → ∃ t d1, exec (.bundleIssue c) s = .next t ∧ t.dev = faultOn d1 c n .poisonConsumed ∧
        FaultNoted y n 0x0B 15 (chanOf d1 c)) ∧
      (∀ b f, verdict y n = .issue b → flowOf y.island.ctx (winBundles y n) (bCtl b) = .ok f →
        let d1 := setChan s.dev c (actedChan n (streamOf s.dev c) b y)
        (∀ d2 slot, issuePumps c n b d1 = (.ok d2, slot) → f.ended = false → noPoint (chanOf d2 c).island.ctx (bCtl b) = true →
          (chanOf d2 c).island.ctx.ordinal = y.island.ctx.ordinal → ∃ t, exec (.bundleIssue c) s = .next t ∧
          t.dev.fy = d2.fy ∧ t.dev.suites = d2.suites ∧ (∀ o, o ≠ c → chanOf t.dev o = chanOf d2 o) ∧
          let z := chanOf t.dev c
          z.island.ctx.pc = f.next ∧ z.island.ctx.loops = f.loops ∧ z.island.cycle = (chanOf d2 c).island.cycle + issueCycles b f ∧
            z.ws = (chanOf d2 c).ws ∧ z.island.writes = (chanOf d2 c).island.writes ∧ z.island.pumps = (chanOf d2 c).island.pumps) ∧
        (∀ st cause slot, issuePumps c n b d1 = (.reject st cause, slot) → ∃ t e, exec (.bundleIssue c) s = .next t ∧ t.dev = faultOn e c n st ∧
          FaultNoted y n 0x0E slot (chanOf e c)) ∧
        (∀ slot, issuePumps c n b d1 = (.roomFault, slot) → ∃ t, exec (.bundleIssue c) s = .next t ∧
          t.dev = faultOn (setChan s.dev c y) c n .roomFault) ∧
        (∀ slot, issuePumps c n b d1 = (.hold .shadow, slot) → ∃ t, exec (.bundleIssue c) s = .next t ∧ OnlyChannel c s t ∧
          let z := chanOf t.dev c
          z.island.hold = some .shadow ∧ z.island.cycle = y.island.cycle + 1 ∧ z.ws = y.ws ∧ z.island.pumps = y.island.pumps ∧
          (∀ m, m ≠ n → roomOf z m = roomOf y m) ∧ (roomOf z n).trn.shadowStalls =
            if y.island.hold = none then satInc (roomOf y n).trn.shadowStalls else (roomOf y n).trn.shadowStalls))

/-- PUMP_DESCRIPTOR_COMPLETE completes the queue's next descriptor that is ready: its data moves, the entry leaves the queue, and its token counter
goes up, unless its room has left for good (R128, R132, R150); one that was to read a version held no more ends its room (R392). FILL leaves zeros at
its destinations in WS, and a raw copy within WS carries its bytes. With none ready nothing happens. -/
def Obligations.DescriptorsComplete : Prop :=
  ∀ (c : Ch) (q : BitVec 4) (s : State),
    let x := chanOf s.dev c
    let queue := tget [] x.island.pumps q.toNat
    (nextDone s.dev c queue [] = none → exec (.pumpDescriptorComplete c q) s = .next s) ∧
    ∀ e, nextDone s.dev c queue [] = some e →
      (versionGone x e = true → ∃ t, exec (.pumpDescriptorComplete c q) s = .next t ∧ t.dev = faultOn s.dev c e.room .roomFault) ∧
      (versionGone x e = false →
        let d0 := if x.island.room = some e.room then modChan s.dev c fun x => landStores x (entryReads x e ++ entryWrites e) else s.dev
        let d1 := if isStarted (roomOf (chanOf d0 c) e.room) || e.dead then moveData d0 c e else d0
        ∃ t, exec (.pumpDescriptorComplete c q) s = .next t ∧
          tget [] (chanOf t.dev c).island.pumps q.toNat = (tget [] (chanOf d1 c).island.pumps q.toNat).filter (fun f => f.seq != e.seq) ∧
          (∀ k, k ≠ q.toNat → tget [] (chanOf t.dev c).island.pumps k = tget [] (chanOf d1 c).island.pumps k) ∧
          (e.dead = false → TokenPosted e.room e.tok.toNat (chanOf d1 c) (chanOf t.dev c)) ∧ (chanOf t.dev c).ws = (chanOf d1 c).ws ∧
          ∀ o, o ≠ c → (chanOf t.dev o).ws = (chanOf d1 o).ws ∧ (chanOf t.dev o).island.pumps = (chanOf d1 o).island.pumps) ∧
      (x.island.room = some e.room → isStarted (roomOf x e.room) = true → e.dead = false → e.frame = none → x.island.writes = [] →
        isCollective e.desc = false → pdRaw e.desc = true → fpRuns e.desc = [] → pdCount e.desc ≠ 0 →
        (pdKind e.desc = 8 → ∃ t, exec (.pumpDescriptorComplete c q) s = .next t ∧
          (chanOf t.dev c).ws = writeBytes x.ws (pdDst e.desc).toNat (List.replicate (pdCount e.desc) 0)) ∧
        (pdKind e.desc = 1 → ∃ t, exec (.pumpDescriptorComplete c q) s = .next t ∧
          (chanOf t.dev c).ws = writeBytes x.ws (pdDst e.desc).toNat (readBytes x.ws (pdSrc e.desc).toNat (pdCount e.desc))))

/-- ARRAY_CHECK_TOKEN, where every comparison of the operation passes, leaves its outputs in WS and releases its token, and its locks with it (R93, R119,
R121). ARRAY_FAULT withholds the token, counts the mismatch, records it and starts the retry, with a localised column steered out while a spare is
free; the judgement of such a column follows R604 (R94, R95). ARRAY_RETRY_DONE leaves the retry's outputs and releases the token, with every output
tile poisoned where the retry mismatched too (R96, R98). -/
def Obligations.ArrayChecksAndRetries : Prop :=
  ∀ (c : Ch) (s : State) (a : ArrOp),
    let x := chanOf s.dev c
    x.island.arr = some a →
    (a.phase = .running → foundIn a x = 0 → ∃ t, exec (.arrayCheckToken c) s = .next t ∧
      (chanOf t.dev c).island.arr = none ∧ (chanOf t.dev c).ws = (writeOutputs a x).ws ∧ a.lastOut + 64 ≤ (chanOf t.dev c).island.cycle ∧
      (a.dead = false → TokenPosted a.room (arCtok a.slot) x (chanOf t.dev c)) ∧ ∀ o, o ≠ c → (chanOf t.dev o).island = (chanOf s.dev o).island) ∧
    (a.phase = .retrying ∨ foundIn a x ≠ 0 → exec (.arrayCheckToken c) s = .next s) ∧
    (∀ f fa fb r, a.phase = .running → f.kind ≠ 0 → arFormats a.slot = some (fa, fb, r) →
      isPermanent x 0x20 ((f.pcol.getD 0x3FF).setWidth 16) 0 false = false → ∃ t, exec (.arrayFault c f) s = .next t ∧
      let z := chanOf t.dev c
      z.island.ctx.tk = x.island.ctx.tk ∧ z.ws = x.ws ∧ z.arrStatus.lastKind = f.kind ∧ z.arrStatus.lastPcol = f.pcol.getD 0x3FF ∧
      z.arrStatus.lastRetryOk = false ∧ (∀ k, f.pcol = some k → spareColumn x = true → k ∈ z.island.steered ∧ z.arrStatus.steered = true) ∧
      (∃ b, z.island.arr = some b ∧ b.phase = .retrying ∧ b.slot = a.slot ∧ b.lastOut = a.lastOut + 64 + opCycles (a.slot &&& ~~~(BitVec.ofNat 128 (2 ^ 24))) r) ∧
      z.arrCount.resMismatch = (if f.kind.getLsbD 0 then satInc x.arrCount.resMismatch else x.arrCount.resMismatch) ∧
      z.arrCount.addMismatch = (if f.kind.getLsbD 1 then satInc x.arrCount.addMismatch else x.arrCount.addMismatch) ∧
      (∃ w l, z.hist.buffer = w :: l ∧ w.cls = 0x20 ∧ w.unit = (f.pcol.getD 0x3FF).setWidth 16 ∧ w.kind = 2 ∧ w.room = BitVec.ofNat 6 a.room) ∧
      ∀ o, o ≠ c → chanOf t.dev o = chanOf s.dev o) ∧
    (∀ f k, a.phase = .running → f.kind ≠ 0 → f.pcol = some k → ∃ t, exec (.arrayFault c f) s = .next t ∧
      Judged c { cls := 0x20, unit := k.setWidth 16, kind := 2 } false
        (modChan s.dev c fun x => raiseIrq 2 (startRetry a f (countMismatch f (cyclesTo a.lastOut x)))) t.dev) ∧
    (∀ f, a.phase = .retrying → (f.kind = 0 → foundIn a x = 0) → ∃ t, exec (.arrayRetryDone c f) s = .next t ∧
      let z := chanOf t.dev c
      let ok := f.kind = 0
      z.island.arr = none ∧ z.ws = (writeOutputs a x).ws ∧ z.arrStatus.lastRetryOk = decide ok ∧
      (a.dead = false → TokenPosted a.room (arCtok a.slot) x z) ∧
      z.arrCount.retryOk = (if ok then satInc x.arrCount.retryOk else x.arrCount.retryOk) ∧
      z.arrCount.retryFail = (if ok then x.arrCount.retryFail else satInc x.arrCount.retryFail) ∧
      (ok → z.wsPoison = (writeOutputs a x).wsPoison ∧ z.arrCount.resMismatch = x.arrCount.resMismatch ∧ z.arrCount.addMismatch = x.arrCount.addMismatch) ∧
      (¬ ok → (∀ l ∈ arrTileLines a.slot, l ∈ z.wsPoison) ∧ z.arrStatus.lastKind = f.kind ∧ z.arrStatus.lastPcol = f.pcol.getD 0x3FF ∧
        z.arrCount.resMismatch = (if f.kind.getLsbD 0 then satInc x.arrCount.resMismatch else x.arrCount.resMismatch) ∧
        z.arrCount.addMismatch = (if f.kind.getLsbD 1 then satInc x.arrCount.addMismatch else x.arrCount.addMismatch)))

/-- SAMPLING_TOKEN writes the unit's records where VSMP asked and posts its token, unless the room has left for good (R115, R150); CONTROLLER_QUEUE_ITEM writes the oldest item and posts
its token (R136); for a room off the islands the bytes join its arrivals (R537). SUMP_PAGE_FLUSH frees the Sump slot of a page being
flushed (R227), and WRITE_THROUGH_APPEND_LAND ends one append (R231). -/
def Obligations.RecordsAndAppendsLand : Prop :=
  ∀ (c : Ch) (s : State),
    let x := chanOf s.dev c
    (∀ m, x.island.smp = some m → m.dead = false → ∃ t, exec (.samplingToken c) s = .next t ∧
      let z := chanOf t.dev c
      z.island.smp = none ∧ TokenPosted m.room m.tok x z ∧
      (x.island.room = some m.room → z.ws = writeBytes x.ws m.out (m.records.flatMap id)) ∧
      (x.island.room ≠ some m.room → z.ws = x.ws ∧ (roomOf z m.room).arrivals = (roomOf x m.room).arrivals ++ [{ addr := m.out, bytes := m.records.flatMap id }]) ∧
      ∀ u, suiteOfChan s.dev c = some u → (leadRoom t.dev u m.room).serve.sampled = true) ∧
    (∀ i l, x.ctrlItems = i :: l → ∃ t, exec (.controllerQueueItem c) s = .next t ∧
      let z := chanOf t.dev c
      z.ctrlItems = l ∧ TokenPosted i.room i.tok x z ∧
      (x.island.room = some i.room → z.ws = i.writes.foldl (fun m w => writeBytes m w.1 w.2) x.ws) ∧
      (x.island.room ≠ some i.room → z.ws = x.ws ∧
        (roomOf z i.room).arrivals = (roomOf x i.room).arrivals ++ i.writes.map fun w => { addr := w.1, bytes := w.2 })) ∧
    (∀ (n : BitVec 6) k g, (roomOf x n.toNat).staging.find? (fun g => g.key == k && g.flushing) = some g → ∃ t, exec (.sumpPageFlush c n k) s = .next t ∧
      OnlyChannel c s t ∧ (roomOf (chanOf t.dev c) n.toNat).staging = (roomOf x n.toNat).staging.filter fun h => !(h.key == k && h.page == g.page)) ∧
    ∀ n : BitVec 6, ∃ t, exec (.writeThroughAppendLand c n) s = .next t ∧ OnlyChannel c s t ∧
      chanOf t.dev c = modRoomC x n.toNat fun m => { m with appends := m.appends - 1 }

/-- ROOM_SWITCH waits until every channel of the suite is quiet (R146). With no room on the islands, the eligible room of lowest virtual time
resumes on every channel (R535); with no eligible room, the running one goes on from its switch point; otherwise, with every result in flight landed,
the departing room's registers are saved on every channel and the arriving room's come back (R107, R146, R538, R539). WAIT_LIMIT_EXPIRY, with a limit set, is stream fault 0x0C of the room that
has waited longest (R152). -/
def Obligations.RoomsSwitchAndWait : Prop :=
  ∀ s : State,
    (∀ u : Ch,
      let cs := suiteChans s.dev u
      let rests := fun (t : State) => ∀ c ∈ cs, (chanOf t.dev c).island.atSwitch = false ∧ (chanOf t.dev c).island.switchAt = none
      let resumes := fun (n : Nat) (t : State) => (suiteOf t.dev u).running = BitVec.ofNat 6 n ∧ (suiteOf t.dev u).idle = false ∧
        (suiteOf t.dev u).switches = (suiteOf s.dev u).switches + 1 ∧ (leadRoom t.dev u n).sch.sstate = ssRunning ∧
        ∀ c ∈ cs, (chanOf t.dev c).island.room = some n ∧ (chanOf t.dev c).island.ctx = (roomOf (chanOf s.dev c) n).ctx
      ((∃ c ∈ cs, quiet (chanOf s.dev c) = false) → exec (.roomSwitch u) s = .next s) ∧
      ((∀ c ∈ cs, quiet (chanOf s.dev c) = true) → cs ≠ [] → leadOf s.dev u ∈ cs →
        (∀ n, runningRoom s.dev u = none → nextRoom s.dev u = some n → ∃ t, exec (.roomSwitch u) s = .next t ∧ resumes n t) ∧
        (∀ r, runningRoom s.dev u = some r → (∀ c ∈ cs, (chanOf s.dev c).island.atSwitch = true ∨ (chanOf s.dev c).island.ctx.ended = true) → pointDue (leadRoom s.dev u r) = false →
          let d1 := chargeRun (modChans s.dev cs fun _ x => landAll x) u r
          (nextRoom d1 u = none → ∃ t, exec (.roomSwitch u) s = .next t ∧ rests t ∧ ∀ c ∈ cs, (chanOf t.dev c).island.room = (chanOf s.dev c).island.room) ∧
          ∀ n, nextRoom d1 u = some n → n ≠ r → wantsSwitch d1 u r (yieldsNow d1 u) = true → ∃ t, exec (.roomSwitch u) s = .next t ∧ resumes n t ∧
            ∀ c ∈ cs, (roomOf (chanOf t.dev c) r).ctx = { (landAll (chanOf s.dev c)).island.ctx with ordinal := 0 }))) ∧
    ∀ c : Ch,
      ((chanOf s.dev c).waitLimit.limitUs = 0 → exec (.waitLimitExpiry c) s = .next s) ∧
      ∀ w ∈ tokenWaits (chanOf s.dev c), (∀ v ∈ tokenWaits (chanOf s.dev c), v = w ∨ w.2 < v.2) → (chanOf s.dev c).waitLimit.limitUs ≠ 0 →
        ∃ t d1, exec (.waitLimitExpiry c) s = .next t ∧ t.dev = faultOn d1 c w.1 .roomFault ∧ FaultNoted (chanOf s.dev c) w.1 0x0C 14 (chanOf d1 c)


/-- HEAT_EPOCH of a channel that has started halves every page's heat and moves no byte; promotions it starts and queues are at most MOVE_BUDGET
(R196). PAGE_PROMOTION_DONE places the page, with the bytes that came back, in the frame it took, and poisons it where their fingerprint
is not the one held; PAGE_EVICTION_DONE, with no promotion queued, places it in its Cellar page with its fingerprint, and sends it there encrypted
(R181, R195). -/
def Obligations.PagesMove : Prop :=
  ∀ (c : Ch) (s : State),
    let x := chanOf s.dev c
    let rising := fun (y : Channel) => (y.moves.filter fun m => m.promote).length + y.chosen.length
    (x.started = false → exec (.heatEpoch c) s = .next s) ∧
    (x.started = true → ∃ t, exec (.heatEpoch c) s = .next t ∧ OnlyChannel c s t ∧
      let z := chanOf t.dev c
      z.tierCtl.epochs = x.tierCtl.epochs + 1 ∧ rising z ≤ rising x + x.tierCtl.moveBudget.toNat ∧
      z.commonMem = x.commonMem ∧ (∀ n, (roomOf z n).mem = (roomOf x n).mem) ∧
      ∀ r, (pteAt z r).heat = (pteAt x r).heat.ushiftRight 1 ∧ (pteAt z r).frame = (pteAt x r).frame ∧ (pteAt z r).t2 = (pteAt x r).t2) ∧
    ∀ r, (pteAt x r).valid = true →
      (∀ m back, x.moves.find? (fun m => m.page == r && m.promote) = some m → ∃ t, exec (.pagePromotionDone c r back) s = .next t ∧ OnlyChannel c s t ∧
        let z := chanOf t.dev c
        let y := alterPage x r back
        let good := pageFp y r = (pteAt x r).t2fp
        pteAt z r = { pteAt x r with t2 := false, moving := false, frame := BitVec.ofNat 32 m.place, t2fp := 0,
                                     poison := !decide good || (pteAt x r).poison } ∧
        (∀ k ∈ z.moves, k.page ≠ r) ∧ z.commonMem = y.commonMem ∧ (∀ n, (roomOf z n).mem = (roomOf y n).mem) ∧
        (∀ o, o ≠ r → pteAt z o = pteAt x o) ∧
        (¬ good → ∃ w l, z.hist.buffer = w :: l ∧ w.cls = 0xA0 ∧ w.kind = 1 ∧ w.addr = BitVec.ofNat 64 (pageNum r))) ∧
      ∀ m, x.moves.find? (fun m => m.page == r && !m.promote) = some m → x.chosen = [] → ∃ t, exec (.pageEvictionDone c r) s = .next t ∧
        t.board = s.board ∧ t.dev.fy = s.dev.fy ∧ t.dev.suites = s.dev.suites ∧ (∀ o, o ≠ c → chanOf t.dev o = chanOf s.dev o) ∧
        t.dev.out = cellarAccess x c (some (pageCipher x r)) (m.place / 2 ^ 28) (m.place % 2 ^ 28) :: s.dev.out ∧
        let z := chanOf t.dev c
        pteAt z r = { pteAt x r with t2 := true, moving := false, frame := BitVec.ofNat 32 m.place, t2fp := pageFp x r } ∧
        (∀ k ∈ z.moves, k.page ≠ r) ∧ z.commonMem = x.commonMem ∧ (∀ n, (roomOf z n).mem = (roomOf x n).mem) ∧
        ∀ o, o ≠ r → pteAt z o = pteAt x o

/-- MEMR_RESPONSE ends the wait, and poisons its page where the data are poisoned (R592). MEMR_TIMEOUT asks once more, and at the second time
poisons the page; the region's FREE then reads 0 (R498). MEMW_RECEIVE stores the page a peer sends as it comes, in the region kept for peers
(R181), and MEMR_RECEIVE answers from there. -/
def Obligations.CellarTraffic : Prop :=
  ∀ (c : Ch) (s : State),
    let x := chanOf s.dev c
    (∀ region page intact, ∃ t, exec (.memrResponse c region page intact) s = .next t ∧ OnlyChannel c s t ∧
      let z := chanOf t.dev c
      cellarPage region page ∉ z.retried ∧ z.moves = x.moves ∧
      (∀ r, pageInCellar x (cellarPage region page) = some r → pteAt z r = { pteAt x r with poison := !intact || (pteAt x r).poison })) ∧
    (∀ region page r, pageInCellar x (cellarPage region page) = some r →
      (cellarPage region page ∉ x.retried → ∃ t, exec (.memrTimeout c region page) s = .next t ∧ t.dev.out = cellarAccess x c none region page :: s.dev.out ∧
        chanOf t.dev c = { x with retried := x.retried ++ [cellarPage region page] }) ∧
      (cellarPage region page ∈ x.retried → ∃ t, exec (.memrTimeout c region page) s = .next t ∧
        let z := chanOf t.dev c
        cellarPage region page ∉ z.retried ∧ (pteAt z r).poison = true ∧ region ∈ z.disabled ∧ (regionOf z region).free = 0)) ∧
    (∀ node addr bytes, peerHolds x addr bytes.length = true → ∃ t, exec (.memwReceive c node addr bytes) s = .next t ∧ OnlyChannel c s t ∧
      (∀ i (h : i < bytes.length), readByte (chanOf t.dev c).peerMem (addr.toNat + i) = bytes[i]) ∧
      (∀ a, (a < addr.toNat ∨ addr.toNat + bytes.length ≤ a) → readByte (chanOf t.dev c).peerMem a = readByte x.peerMem a) ∧
      chanOf t.dev c = { x with peerMem := (chanOf t.dev c).peerMem }) ∧
    ∀ node addr n, peerHolds x addr n = true → ∃ t, exec (.memrReceive c node addr n) s = .next t ∧ t.dev.chans = s.dev.chans ∧
      ∃ bs, t.dev.out = .memrAnswer c node bs :: s.dev.out ∧ bs.length = n ∧
        ∀ i (h : i < bs.length), bs[i] = readByte x.peerMem (addr.toNat + i)


/-- STEP_BOUNDARY waits for the step's records and appends (R261); it then ends the table: the room is out of its step, and a stream of a lone prompt
chunk has grown by the chunk's rows, in DECODE once its prompt is whole. The rest of the boundary follows, and boundaries of the idle rooms whose
copies it makes CURRENT. HOLD_DL_EXPIRY and PIN_DL_EXPIRY mark the
deadline as passed, and an idle room holds its boundary (R270, R296, R748). BUDGET_RETEST_TIMER has an idle room hold one whose held stream could
go on, and touches no other (R748). -/
def Obligations.BoundariesRun : Prop :=
  ∀ s : State,
    (∀ (u : Ch) (room : BitVec 6),
      let n := room.toNat
      let r := leadRoom s.dev u n
      let ready := suiteExists s.dev u && isStarted r && servesStreams r && r.serve.inStep && (r.serve.sampled || r.serve.table.all fun e => e.sampled == 0) &&
        landed s.dev u n
      (ready = false → exec (.stepBoundary u room) s = .next s) ∧
      (ready = true →
        let d0 := freeRetired (modLead s.dev u takeSignal) u
        ∃ t d1, exec (.stepBoundary u room) s = .next t ∧ t.dev = spread u n 8 s.dev (boundaryTail (stepTrigger d1 u n) u n) ∧
          (leadRoom d1 u n).serve.inStep = false ∧ (leadRoom d1 u n).serve.table = [] ∧ (leadRoom d1 u n).serve.sampled = false ∧
          ∀ e, (leadRoom d0 u n).serve.table = [e] → e.sampled = 0 → e.tree = false → e.recompute = false →
            let q : SRef := (Ch.ofNum e.ch, e.ctx)
            (strm d0 q).state = .prefill → (strm d0 q).recomp = none → (strm d0 q).room = n →
            (leadRoom d1 u n).steps = (leadRoom d0 u n).steps + 1 ∧ (strm d1 q).len = e.ctxLen + e.qn ∧
            (strm d1 q).state = (if reqPrompt (reqHdr d0 n q) ≤ e.ctxLen + e.qn then .decode else .prefill) ∧
            ∀ p, p ≠ q → strm d1 p = strm d0 p)) ∧
    (∀ (c u : Ch) (i : BitVec 16), suiteOfChan s.dev c = some u →
      let q : SRef := (c, i.toNat)
      let n := (strm s.dev q).room
      let marked := fun (t : State) (k : StreamCtx) => OnlyChannel c s t ∧ strm t.dev q = k ∧ ∀ j, j ≠ q → strm t.dev j = strm s.dev j
      let held := { strm s.dev q with holdDl := some 0 }
      let pinned := { strm s.dev q with pinDl := some 0 }
      let idle := fun (d : Device) => suiteExists d u && isStarted (leadRoom d u n) && servesStreams (leadRoom d u n) && !(leadRoom d u n).serve.inStep
      ((strm s.dev q).state = .held → (strm s.dev q).holdDl.isSome = true →
        (idle s.dev = false → ∃ t, exec (.holdDlExpiry c i) s = .next t ∧ marked t held) ∧
        (idle s.dev = true → ∃ t m, exec (.holdDlExpiry c i) s = .next t ∧ marked m held ∧ t.dev = spread u n 8 m.dev (boundaryTail (freeRetired m.dev u) u n))) ∧
      ((strm s.dev q).state ≠ .free → (strm s.dev q).state ≠ .ending → (strm s.dev q).pinDl.isSome = true →
        (idle s.dev = false → ∃ t, exec (.pinDlExpiry c i) s = .next t ∧ marked t pinned) ∧
        (idle s.dev = true → ∃ t m, exec (.pinDlExpiry c i) s = .next t ∧ marked m pinned ∧ t.dev = spread u n 8 m.dev (boundaryTail (freeRetired m.dev u) u n)))) ∧
    ∀ u : Ch,
      let could := fun (d : Device) (n : Nat) => !(leadRoom d u n).serve.inStep && heldCould d u n
      ((∀ n ∈ roomIndexes, could s.dev n = false) → exec (.budgetRetestTimer u) s = .next s) ∧
      ∀ n ∈ roomIndexes, could s.dev n = true →
        (∀ m ∈ roomIndexes, m ≠ n → could s.dev m = false ∧ could (idleBoundary s.dev u n) m = false) →
        ∃ t, exec (.budgetRetestTimer u) s = .next t ∧ t.dev = idleBoundary s.dev u n

/-- RING_SPACE_FREE, for a room in a step whose ring stands and can be written: as many of the records owed are written as the ring then has
space for, in order, and the others wait (R291, R292). An index that is not between the last one and the produce index changes nothing (a choice of
the model, log 33). FABRIC_REQUEST_MESSAGE answers its front end with one outcome for each request, and returns a credit (R255, R496, R497); while
the suite drains they are all DRAINING, and nothing else changes on other channels (R747). -/
def Obligations.RingAndRequests : Prop :=
  ∀ s : State,
    (∀ (u : Ch) (room : BitVec 6) (cons : W64),
      let n := room.toNat
      let r := leadRoom s.dev u n
      let v := r.serve
      ((cons.toNat < v.ringCons ∨ v.ringProd < cons.toNat) → exec (.ringSpaceFree u room cons) s = .next s) ∧
      (suiteExists s.dev u = true → v.ringCons ≤ cons.toNat → cons.toNat ≤ v.ringProd → v.inStep = true → v.toFabric = [] → ringWords r = v.ringNow →
        ringOpen s.dev u n = true →
        let k := min v.owed.length (ringSize v.ringNow.1 - (v.ringProd - cons.toNat))
        ∃ t, exec (.ringSpaceFree u room cons) s = .next t ∧
          (leadRoom t.dev u n).serve = { v with ringCons := cons.toNat, ringProd := v.ringProd + k, owed := v.owed.drop k })) ∧
    ∀ c node reply u p mem,
      let cnt := par p 0 5
      let outs := fun (t : State) (l : List (W32 × Status)) =>
        t.dev.out = .credit c node 0 :: (match ethWay (chanOf s.dev c) node with
          | some j => .rdmaSend c j reply (outcomeBytes l)
          | none => .message c node reply (outcomeBytes l)) :: s.dev.out ∧ ∀ o, o ≠ c → chanOf t.dev o = chanOf s.dev o
      ((chanOf s.dev c).started = false → exec (.fabricRequestMessage c node reply u p mem) s = .next s) ∧
      ((chanOf s.dev c).started = true → 1 ≤ cnt → cnt ≤ 16 → reservedClear p (submitFields cnt) = true → (∀ o ∈ offsetsOf p cnt, o % 64 = 0) →
        suiteOfChan s.dev c = some u → suiteDraining s.dev u = true → (laneOf (chanOf s.dev c) node reply).inFlight < 4 →
        ∃ t, exec (.fabricRequestMessage c node reply u p mem) s = .next t ∧ outs t (List.replicate cnt (0xFFFFFFFF, .draining)))

/-- BROADCAST_ANNOUNCE to the lead channel moves the copy that takes it to LOADING and sets the collective up to deliver into its pages, on each other
channel of the suite from the lead channel (R752); with no such copy the broadcast is counted in DEFERS, reported as SWITCH_DEFERRED and only forwarded
(R446). BROADCAST_CHUNK_ARRIVAL at a leaf, or at the lead channel, writes the chunk into the channel's own pages with the fingerprints of the tiles that
it completes; once every channel of the suite holds every chunk, the copy is VERIFYING (R506, R752). FINGERPRINT_TABLE_ARRIVAL with a table that agrees
makes it READY; tiles that disagree are poisoned and repaired, and the copy stays VERIFYING, SUSPECT (R438, R447, R449). -/
def Obligations.CopiesArrive : Prop :=
  ∀ (s : State) (c u : Ch),
    let x := chanOf s.dev c
    let lead := leadOf s.dev u
    suiteOfChan s.dev c = some u →
    (lead = c → ∀ node (model : BitVec 2) wgen pages tiles (k : Byte) tree,
      (∀ j, bcastCopy x model.toNat wgen pages = some j → ∃ t, exec (.broadcastAnnounce c node model wgen pages tiles k tree) s = .next t ∧
        OnlyChannels (suiteChans s.dev u) (creditOf s.dev c node) s t ∧
        let z := chanOf t.dev c
        let w := copyOf z j
        w.reg.state = csLoading ∧ w.reg.wgen = wgen ∧ w.reg.tiles = tiles ∧ w.reg.suspect = false ∧ w.source = .broadcast ∧ w.chunks = [] ∧ w.fps = [] ∧
        w.reg.base = (copyOf x j).reg.base ∧ (∀ i, i ≠ j → copyOf z i = copyOf x i) ∧
        (∀ o ∈ suiteChans s.dev u,
          let y := chanOf t.dev o
          let e := collOf y k.toNat
          (copyOf y j).chunks = [] ∧ (copyOf y j).fps = [] ∧ e.kind = 2 ∧ e.deliver = true ∧ e.common = true ∧
          e.prev = (if o = c then tree.prev else nodeOf x) ∧ childrenOf e = (if o = c then tree.children.take 4 else []) ∧
          e.destVa = BitVec.ofNat 48 (w.reg.base.toNat * pageBytes) ∧ ∀ i, i ≠ k.toNat → collOf y i = collOf (chanOf s.dev o) i)) ∧
      (bcastCopy x model.toNat wgen pages = none → ∃ t, exec (.broadcastAnnounce c node model wgen pages tiles k tree) s = .next t ∧
        OnlyChannels [c] (creditOf s.dev c node) s t ∧
        let z := chanOf t.dev c
        (modelOf z model.toNat).defers = satInc (modelOf x model.toNat).defers ∧
        (∃ r l, z.hist.buffer = r :: l ∧ r.status = .switchDeferred) ∧ (collOf z k.toNat).deliver = false ∧
        ∀ i, (copyOf z i).reg.state = (copyOf x i).reg.state ∧ (copyOf z i).reg.wgen = (copyOf x i).reg.wgen)) ∧
    (∀ (k : Byte) tag chunk poison bytes j,
      let e := collOf x k.toNat
      let a := e.destVa.toNat + chunk * chunkBytes
      let w := leadCopy s.dev u j
      let old := copyOf x j
      e.kind = 2 → e.hasPrev = true → e.deliver = true → e.common = true → e.nchild = 0 → e.bytes ≠ 0 → bytes.length = chunkLen e chunk → bytes ≠ [] →
      copyAt (chanOf s.dev lead) e = some j → chunk ∉ old.chunks →
      ∃ t, exec (.broadcastChunkArrival c k tag chunk poison bytes) s = .next t ∧
        (∀ o, o ≠ c → o ≠ lead → chanOf t.dev o = chanOf s.dev o) ∧ (c ≠ lead → (chanOf t.dev lead).commonMem = (chanOf s.dev lead).commonMem) ∧
        let y := chanOf t.dev c
        (∀ i (h : i < bytes.length), readByte y.commonMem (a + i) = bytes[i]) ∧
        (∀ b, (b < a ∨ a + bytes.length ≤ b) → readByte y.commonMem b = readByte x.commonMem b) ∧
        (∀ l ∈ linesOf (a, bytes.length), l ∈ y.commonPoison ↔ poison = true) ∧
        (copyOf y j).chunks = old.chunks ++ [chunk] ∧ (∀ i, i ≠ j → copyOf y i = copyOf x i) ∧
        (∀ i ∈ tilesEnding e w.tileLen old.chunks chunk,
          tget 0 (copyOf y j).fps i = crc64 (readBytes y.commonMem (tileRun w i).1 w.tileLen)) ∧
        (leadCopy t.dev u j).reg.state = if allLanded t.dev u j then csVerifying else csLoading) ∧
    ∀ (k : BitVec 3) fps,
      let w := leadCopy s.dev u k.toNat
      let bad := mismatches s.dev u k.toNat (tableOf fps)
      w.source = .broadcast → (w.reg.state = csLoading ∨ w.reg.state = csVerifying) → w.repairing = [] → w.comparing = false →
      allLanded s.dev u k.toNat = true → fps.length = w.reg.tiles.toNat → suiteExists s.dev u = true →
      (bad = [] → loadOfCopy s.dev u k.toNat = none → NoIdleUser s.dev u w.reg.model.toNat →
        ∃ t, exec (.fingerprintTableArrival u k fps) s = .next t ∧
          OnlyCopy u k.toNat (fun w => { w with refFps := tableOf fps, reg := { w.reg with state := csReady, suspect := false } }) s t) ∧
      (bad ≠ [] → ∃ t, exec (.fingerprintTableArrival u k fps) s = .next t ∧
        (∀ o, o ∉ suiteChans s.dev u → chanOf t.dev o = chanOf s.dev o) ∧
        (∀ o ∈ suiteChans s.dev u, (chanOf t.dev o).commonMem = (chanOf s.dev o).commonMem ∧
          ∀ i ∈ bad, ∀ l ∈ linesOf (tileRun w i), l ∈ (chanOf t.dev o).commonPoison) ∧
        (∃ r l, (chanOf t.dev lead).hist.buffer = r :: l ∧ r.cls = 0xA0) ∧
        let v := leadCopy t.dev u k.toNat
        v.reg.state = csVerifying ∧ v.reg.suspect = true ∧ v.repairing = bad ∧ v.refFps = tableOf fps ∧ v.fps = w.fps ∧
        ∀ j, j ≠ k.toNat → leadCopy t.dev u j = leadCopy s.dev u j)

/-- REPLICA_DIGEST_MESSAGE that is no answer is answered: with the copy's digest where it is the same, else with its table; an answer is held until
all have come (R447). REPLICA_TIMEOUT leaves out the replicas that have not answered: where no answer disagrees, a VERIFYING copy is READY (R448).
TILE_REPAIR_LAND writes the tile on every channel, clears its poison and takes its fingerprint; the copy is SUSPECT until its last repair has
landed (R449, R595). -/
def Obligations.CopiesSettle : Prop :=
  ∀ (s : State) (u : Ch) (k : BitVec 3),
    let w := leadCopy s.dev u k.toNat
    let lead := leadOf s.dev u
    let rs := replicasOf (modelOf (chanOf s.dev lead) w.reg.model.toNat)
    suiteExists s.dev u = true →
    (∀ node digest fps src, w.reg.state ≠ csFree →
      (w.comparing = false → (laneOf (chanOf s.dev lead) node 1).inFlight < 4 → ∃ t, exec (.replicaDigestMessage u k node digest fps src) s = .next t ∧
        t.dev.out = creditOf s.dev lead node ++ msgOf s.dev lead node 1
          (if digest = copyDigest w then leBytes 32 digest.toNat else (ownTable w).flatMap fun v => leBytes 8 v.toNat) :: s.dev.out ∧
        (∀ i, leadCopy t.dev u i = leadCopy s.dev u i) ∧ ∀ o, o ≠ lead → chanOf t.dev o = chanOf s.dev o) ∧
      (w.comparing = true → node ∈ rs → (∀ a ∈ w.answers, a.1 ≠ node) → (∃ r ∈ rs, r ≠ node ∧ ∀ a ∈ w.answers, a.1 ≠ r) →
        ∃ t, exec (.replicaDigestMessage u k node digest fps src) s = .next t ∧ t.dev.out = creditOf s.dev lead node ++ s.dev.out ∧
        OnlyCopy u k.toNat (fun w => { w with answers := w.answers ++ [(node, if digest = copyDigest w then ownTable w else fps)] }) s t)) ∧
    (∀ src, (w.comparing = false → ∃ t, exec (.replicaTimeout u k src) s = .next t ∧ t.dev = s.dev) ∧
      (w.comparing = true → (∀ a ∈ w.answers, a.2 = ownTable w) →
        (∀ o ∈ suiteChans s.dev u, ∀ i, i < w.reg.tiles.toNat → tget 0 (copyOf (chanOf s.dev o) k.toNat).fps i = tget 0 w.fps i) →
        w.reg.state = csVerifying → w.repairing = [] → loadOfCopy s.dev u k.toNat = none →
        NoIdleUser s.dev u w.reg.model.toNat → ∃ t, exec (.replicaTimeout u k src) s = .next t ∧
        OnlyCopy u k.toNat (fun w => { w with comparing := false, answers := [], reg := { w.reg with state := csReady, suspect := false } }) s t)) ∧
    ∀ tile bytes, tile ∈ w.repairing → bytes.length = w.tileLen → w.reg.state ≠ csVerifying →
      ∃ t, exec (.tileRepairLand u k tile bytes) s = .next t ∧
        (∀ o, o ∉ suiteChans s.dev u → chanOf t.dev o = chanOf s.dev o) ∧
        (∀ o ∈ suiteChans s.dev u, (∀ i (h : i < bytes.length), readByte (chanOf t.dev o).commonMem ((tileRun w tile).1 + i) = bytes[i]) ∧
          (∀ b, (b < (tileRun w tile).1 ∨ (tileRun w tile).1 + bytes.length ≤ b) → readByte (chanOf t.dev o).commonMem b = readByte (chanOf s.dev o).commonMem b) ∧
          (∀ l ∈ linesOf (tileRun w tile), l ∉ (chanOf t.dev o).commonPoison) ∧
          tget 0 (copyOf (chanOf t.dev o) k.toNat).fps tile = crc64 bytes ∧
          ∀ i, i ≠ tile → tget 0 (copyOf (chanOf t.dev o) k.toNat).fps i = tget 0 (copyOf (chanOf s.dev o) k.toNat).fps i) ∧
        let v := leadCopy t.dev u k.toNat
        v.repairing = w.repairing.filter (· != tile) ∧ v.reg = { w.reg with suspect := !v.repairing.isEmpty }


/-- UPDATE_START_SIGNAL scans the shard: units with a state page in T2 are deferred and counted; behind the capture of a STEP cut that has not
committed it waits, and so does it while a micro-batch has not retired (R355, R424, R643). DEFERRED_UNIT_ARRIVAL moves a unit whose pages lie in T1 to the arrived ones, and posts the next group, as a list of unit
numbers and one token, when none is open and the record stands; CONSUMED_GROUP_SIGNAL closes the group (R426). NORM_SUMS_MESSAGE collects a shard's sums at the
root; once all have come, the lead channel of a job of one shard has the record, in its room and on its controller queue, and sends it to the suite's
other channels, which place theirs as the message comes (R25, R405). -/
def Obligations.UpdateUnitsArrive : Prop :=
  ∀ (s : State) (c u : Ch) (room : BitVec 6),
    let n := room.toNat
    let x := chanOf s.dev c
    let r := roomOf x n
    let cold := (List.range (unitsOf r).length).filter fun k => ((unitsOf r).getD k []).any (pageInT2 x n)
    let posts := fun (y z : Channel) (l : List Nat) => z.ctrlItems = y.ctrlItems ++ [{
      room := n, tok := (Config.ctrlTok 1).toNat, writes := [(r.upd.recAddr.toNat + 64 + 64 * bitmapLines r + 4 * r.update.listed, l.flatMap (leBytes 4))] }]
    suiteOfChan s.dev c = some u →
    ((isStarted r = false ∨ trains r = false ∨ r.update.updating = true ∨ r.update.held = true ∨ mbRetired x n = false) → exec (.updateStartSignal c room) s = .next s) ∧
    (isStarted r = true → trains r = true → r.update.updating = false → r.update.held = false → mbRetired x n = true → ∃ t, exec (.updateStartSignal c room) s = .next t ∧
      OnlyChannel c s t ∧
      let q := roomOf (chanOf t.dev c) n
      if stepCapture (leadRoom s.dev u n) then q = { r with update := { r.update with held := true } }
      else q.update.updating = true ∧ q.update.deferred = cold ∧ q.update.arrived = [] ∧ q.update.listed = 0 ∧
        q.upd = { r.upd with deferred := satAdd r.upd.deferred cold.length }) ∧
    (∀ k, k ∈ r.update.deferred → ((unitsOf r).getD k []).any (pageInT2 x n) = false → ∃ t, exec (.deferredUnitArrival c room k) s = .next t ∧
      OnlyChannel c s t ∧
      let q := (roomOf (chanOf t.dev c) n).update
      let now := r.update.arrived ++ [k]
      q.deferred = r.update.deferred.filter (· != k) ∧
      if r.update.group = false ∧ r.update.record.isSome = true then
        q.group = true ∧ q.arrived = now.drop 4096 ∧ q.listed = r.update.listed + (now.take 4096).length ∧ posts x (chanOf t.dev c) (now.take 4096)
      else q.group = r.update.group ∧ q.arrived = now ∧ q.listed = r.update.listed ∧ (chanOf t.dev c).ctrlItems = x.ctrlItems) ∧
    ((r.update.group = false → exec (.consumedGroupSignal c room) s = .next s) ∧
      (r.update.group = true → ∃ t, exec (.consumedGroupSignal c room) s = .next t ∧ OnlyChannel c s t ∧
        let q := (roomOf (chanOf t.dev c) n).update
        if r.update.arrived ≠ [] ∧ r.update.record.isSome = true then
          q.group = true ∧ q.arrived = r.update.arrived.drop 4096 ∧ posts x (chanOf t.dev c) (r.update.arrived.take 4096)
        else q.group = false ∧ q.arrived = r.update.arrived ∧ (chanOf t.dev c).ctrlItems = x.ctrlItems)) ∧
    (∀ (shard : BitVec 16) node home sums, leadOf s.dev u = c → isStarted r = true → trains r = true → r.upd.shard = 0 → shard.toNat ∉ r.update.shards →
      shard.toNat ≤ r.upd.nshards1.toNat →
      ((∃ k, k ≤ r.upd.nshards1.toNat ∧ k ∉ r.update.shards ++ [shard.toNat]) → ∃ t, exec (.normSumsMessage c room shard (.sums node home sums)) s = .next t ∧
        OnlyChannels [c] (creditOf s.dev c node) s t ∧
        roomOf (chanOf t.dev c) n = { r with update := { r.update with
          shards := r.update.shards ++ [shard.toNat], sums := r.update.sums ++ sums,
          nodes := if shard = 0 then r.update.nodes else r.update.nodes.filter (·.1 != shard.toNat) ++ [(shard.toNat, (node, home))] } }) ∧
      (r.upd.nshards1 = 0 → r.update.record = none → (∀ a ∈ suiteChans s.dev u, ∀ b ∈ suiteChans s.dev u, nodeOf (chanOf s.dev a) = nodeOf (chanOf s.dev b) → a = b) →
        ∃ t, exec (.normSumsMessage c room shard (.sums node home sums)) s = .next t ∧
        let nr := formRecord x n (r.update.sums ++ sums)
        let q := roomOf (chanOf t.dev c) n
        q.update.record = some nr ∧ q.upd.lastSumsq = nr.sumsq ∧
        (∃ i l, (chanOf t.dev c).ctrlItems = x.ctrlItems ++ i :: l ∧ i.room = n ∧ (r.upd.recAddr.toNat, recordBytes nr) ∈ i.writes) ∧
        (∀ o, o ≠ c → chanOf t.dev o = chanOf s.dev o) ∧
        ∀ o ∈ suiteChans s.dev u, o ≠ c → (laneOf x (nodeOf (chanOf s.dev o)) 1).inFlight < 4 →
          msgOf s.dev c (nodeOf (chanOf s.dev o)) 1 (leBytes 1 n ++ recordBytes nr) ∈ t.dev.out)) ∧
    ∀ nr, leadOf s.dev u ≠ c → isStarted r = true → trains r = true →
      (r.update.record.isSome = true → ∃ t, exec (.normSumsMessage c room r.upd.shard (.record nr)) s = .next t ∧
        OnlyChannels [] (creditOf s.dev c (nodeOf (chanOf s.dev (leadOf s.dev u)))) s t) ∧
      (r.update.record = none → ∃ t, exec (.normSumsMessage c room r.upd.shard (.record nr)) s = .next t ∧
        OnlyChannels [c] (creditOf s.dev c (nodeOf (chanOf s.dev (leadOf s.dev u)))) s t ∧
        let q := roomOf (chanOf t.dev c) n
        q.update.record = some nr ∧ q.upd = { r.upd with lastSumsq := nr.sumsq } ∧
        ∃ i l, (chanOf t.dev c).ctrlItems = x.ctrlItems ++ i :: l ∧ i.room = n ∧ (r.upd.recAddr.toNat, recordBytes nr) ∈ i.writes)

/-- MICROBATCH_RETIRE counts a micro-batch once nothing of it is outstanding (R357), and gives back the references that it held (R388). END_OF_STEP_SIGNAL, once every deferred unit has arrived, ends the
room where frames are left on the Stairwell (R372), and else ends the step on its channel: an applied step raises STEP and WGEN, a skipped one counts
in SKIPPED, and LAST_STATUS says which (R387, R423, R429); on the lead channel the room's boundary follows. -/
def Obligations.TrainingStepsEnd : Prop :=
  ∀ (s : State) (c : Ch) (room : BitVec 6),
    let n := room.toNat
    let x := chanOf s.dev c
    let r := roomOf x n
    ((isStarted r && trains r && mbDone x n) = false → exec (.microbatchRetire c room) s = .next s) ∧
    ((isStarted r && trains r && mbDone x n) = true → ∃ t, exec (.microbatchRetire c room) s = .next t ∧ (∀ o, o ≠ c → chanOf t.dev o = chanOf s.dev o) ∧
      let p := roomOf (chanOf t.dev c) n
      p.train.mb = r.train.mb + 1 ∧ p.train.droppedSegs = [] ∧ p.train.held = [] ∧ p.trn.mbRetired = satInc r.trn.mbRetired ∧ p.upd = r.upd ∧
      p.train.frames = r.train.frames ∧ p.cfg = r.cfg ∧
      (∀ h ∈ r.train.held, h.node = nodeOf x →
        ∀ q ∈ (roomOf (chanOf t.dev c) h.room.toNat).train.refs, sameRef (readerId x n h.mb) h.wgen q = false) ∧
      (r.train.held = [] → OnlyChannel c s t ∧
        p = { r with train := { r.train with mb := r.train.mb + 1, droppedSegs := [], held := [] },
                     trn := { r.trn with mbRetired := satInc r.trn.mbRetired } } ∧
        ∀ m, m ≠ n → roomOf (chanOf t.dev c) m = roomOf x m)) ∧
    ∀ (u : Ch) (q : StepReport), suiteOfChan s.dev c = some u →
      ((isStarted r = false ∨ trains r = false ∨ r.update.deferred ≠ []) → ∃ t, exec (.endOfStepSignal c room q) s = .next t ∧ t.dev = s.dev) ∧
      (isStarted r = true → trains r = true → r.update.deferred = [] →
        (r.train.frames ≠ [] → ∃ t, exec (.endOfStepSignal c room q) s = .next t ∧ t.dev = faultRoom (modChan s.dev c takeSignal) u n .roomFault) ∧
        (r.train.frames = [] → ∃ t m e, exec (.endOfStepSignal c room q) s = .next t ∧ (∀ o, o ≠ c → chanOf m.dev o = chanOf s.dev o) ∧
          (if leadOf s.dev u = c then t.dev = trainBoundary m.dev u n else t.dev = m.dev) ∧
          let p := roomOf (chanOf m.dev c) n
          let applied := match r.update.record with | some k => !k.skip | none => false
          let skip := match r.update.record with | some k => k.skip | none => false
          (e : Room).upd = { r.upd with
            step := if applied then r.upd.step + 1 else r.upd.step, skipped := if skip then satInc r.upd.skipped else r.upd.skipped,
            fallbacks := satAdd r.upd.fallbacks q.fallbacks, clamped := satAdd r.upd.clamped q.clamped,
            lastStatus := (if skip then Status.nonFiniteStep else if q.fallbacks = 0 then Status.ok else Status.singularFallback).code,
            lastFbTensor := if q.fallbacks = 0 then r.upd.lastFbTensor else q.tensor,
            lastFbBlock := if q.fallbacks = 0 then r.upd.lastFbBlock else q.block } ∧
          e.later = r.later ∧ p.upd = (takeLater e).upd ∧ p.later = [] ∧
          p.trn = { r.trn with wgen := if applied then r.trn.wgen + 1 else r.trn.wgen, steps := satInc r.trn.steps, fmtChanges := p.trn.fmtChanges } ∧
          p.train.mb = 0 ∧ p.update.updating = false ∧ p.update.record = none ∧ p.update.holds = [] ∧ p.mem = r.mem ∧
          (r.train.held = [] → OnlyChannel c s m ∧ ∀ k, k ≠ n → roomOf (chanOf m.dev c) k = roomOf x k)))

/-- VERSION_REGISTRATION as a reader's message gives the reader a reference with its lease, unless a page has gone beyond the version without a shadow;
the answer names the owner's WGEN then (R388, R389, R453). Before its first read a micro-batch registers, with its own channel at once and else by
message, and an answer that refuses makes it ask for the version named (R453). VERSION_RELEASE and LEASE_LAPSE end a reference, and shadows that none
needs are freed (R393). TRAJECTORY_SLOT_REQUEST commits a trajectory to a free slot and raises PRODUCED; one of this device is that of the stream's
prompt and records (R294); one that lags too far is counted STALE, and a full store that does not replace lets it wait (R457 to R459).
SLOT_REQUEST_RETRY asks for the slot again. -/
def Obligations.VersionsAndTrajectories : Prop :=
  ∀ (s : State) (c : Ch),
    let x := chanOf s.dev c
    (∀ (room : BitVec 6) (reader : W64) (wgen : W32),
      let n := room.toNat
      let r := roomOf x n
      let node := reader.extractLsb' 0 18
      let refused := regRefused r.train r.trn.vwPages.toNat wgen
      let others := r.train.refs.filter fun q => !(q.reader == reader && q.wgen == wgen)
      ((isStarted r && trains r) = false → ∃ t, exec (.versionRegistration c room (.message reader) wgen) s = .next t ∧
        OnlyChannels [] (creditOf s.dev c node) s t) ∧
      ((isStarted r && trains r) = true → (laneOf x node 1).inFlight < 4 →
        ∃ t, exec (.versionRegistration c room (.message reader) wgen) s = .next t ∧
        t.dev.out = creditOf s.dev c node ++
          msgOf s.dev c node 1 (leBytes 8 reader.toNat ++ leBytes 4 (if refused then r.trn.wgen else wgen).toNat) :: s.dev.out ∧
        roomOf (chanOf t.dev c) n = (if refused then r else
          { r with train := { r.train with refs := others ++ [⟨reader, wgen, nowMs x + r.trn.leaseMs.toNat⟩] } }) ∧
        ∀ o, o ≠ c → chanOf t.dev o = chanOf s.dev o) ∧
      ∀ p ∈ [(Instr.versionRelease c room reader wgen, creditOf s.dev c node), (.leaseLapse c room reader wgen, [])], ∃ t, exec p.1 s = .next t ∧
        OnlyChannels [c] p.2 s t ∧
        let q := roomOf (chanOf t.dev c) n
        q.train.refs = others ∧ q.train.shadows = r.train.shadows.filter (fun v => hasRef others v.wgen) ∧
        q.trn = { r.trn with shadows := BitVec.ofNat 32 q.train.shadows.length } ∧ q.cfg = r.cfg ∧ q.acct = r.acct) ∧
    (∀ (room own : BitVec 6) (node : BitVec 18) (wgen : W32),
      let n := room.toNat
      let r := roomOf x n
      let mb := r.train.mb
      let ask : List Byte := leBytes 1 0 ++ leBytes 1 own.toNat ++ leBytes 8 (readerId x n mb).toNat ++ leBytes 4 wgen.toNat
      let rest := r.train.held.filter fun h => !(h.node == node && h.room == own && h.mb == mb)
      let known := r.train.held.find? fun h => h.node == node && h.room == own && h.mb == mb
      ((isStarted r = false ∨ trains r = false ∨ r.update.updating = true ∨ known.isSome = true) →
        exec (.versionRegistration c room (.firstRead node own) wgen) s = .next s) ∧
      (isStarted r = true → trains r = true → r.update.updating = false → known = none →
        (node ≠ nodeOf x → (laneOf x node 1).inFlight < 4 → ∃ t, exec (.versionRegistration c room (.firstRead node own) wgen) s = .next t ∧
          OnlyChannels [c] [msgOf s.dev c node 1 ask] s t ∧
          roomOf (chanOf t.dev c) n = { r with train := { r.train with held := rest ++ [⟨node, own, wgen, mb⟩] } }) ∧
        (node = nodeOf x →
          let o := roomOf x own.toNat
          let w := if regRefused o.train o.trn.vwPages.toNat wgen then o.trn.wgen else wgen
          regRefused o.train o.trn.vwPages.toNat w = false → ∃ t, exec (.versionRegistration c room (.firstRead node own) wgen) s = .next t ∧
            OnlyChannel c s t ∧ (roomOf (chanOf t.dev c) n).train.held = rest ++ [⟨node, own, w, mb⟩] ∧
            (roomOf (chanOf t.dev c) own.toNat).train.refs =
              o.train.refs.filter (fun q => !sameRef (readerId x n mb) w q) ++ [⟨readerId x n mb, w, nowMs x + o.trn.leaseMs.toNat⟩])) ∧
      ((known.all fun h => h.wgen == wgen) = true → ∃ t, exec (.versionRegistration c room (.answer node own) wgen) s = .next t ∧
        OnlyChannels [] (creditOf s.dev c node) s t) ∧
      (node ≠ nodeOf x → (laneOf x node 1).inFlight < 4 → (∃ h, known = some h ∧ h.wgen ≠ wgen) →
        ∃ t, exec (.versionRegistration c room (.answer node own) wgen) s = .next t ∧
          OnlyChannels [c] (creditOf s.dev c node ++ [msgOf s.dev c node 1 ask]) s t ∧
          roomOf (chanOf t.dev c) n = { r with train := { r.train with held := rest ++ [⟨node, own, wgen, mb⟩] } })) ∧
    (∀ (j : BitVec 4) (o : TrajOffer),
      let e := storeOf x j.toNat
      let r := roomOf x e.reg.room.toNat
      let stale := e.reg.maxLag ≠ 0 ∧ o.wgenFirst.toNat + e.reg.maxLag.toNat < r.trn.wgen.toNat
      let sent := creditOf s.dev c o.node
      (e.reg.en = false ∨ isStarted r = false → ∃ t, exec (.trajectorySlotRequest c j o) s = .next t ∧ OnlyChannels [] sent s t) ∧
      (e.reg.en = true → isStarted r = true → (∀ k, nodeOf (chanOf s.dev k) ≠ o.node) →
        (o.bytes.length < 128 ∨ e.reg.slotPages.toNat * pageBytes < o.bytes.length → ∃ t, exec (.trajectorySlotRequest c j o) s = .next t ∧
          OnlyChannels [] sent s t) ∧
        (128 ≤ o.bytes.length → o.bytes.length ≤ e.reg.slotPages.toNat * pageBytes →
          (stale → ∃ t, exec (.trajectorySlotRequest c j o) s = .next t ∧ OnlyChannels [c] sent s t ∧
            storeOf (chanOf t.dev c) j.toNat = { e with reg := { e.reg with stale := satInc e.reg.stale } }) ∧
          (¬stale → freeStoreSlot e = none → e.reg.fullPolicy = false → ∃ t, exec (.trajectorySlotRequest c j o) s = .next t ∧ OnlyChannels [c] sent s t ∧
            storeOf (chanOf t.dev c) j.toNat = { e with reg := { e.reg with waits := satInc e.reg.waits } }) ∧
          ∀ k d, ¬stale → freeStoreSlot e = some k → commitInto s.dev c j.toNat k o.bytes = some d →
            ∃ t, exec (.trajectorySlotRequest c j o) s = .next t ∧ t.dev.chans = d.chans ∧
            storeOf (chanOf t.dev c) j.toNat = { e with
              slots := tset none e.slots k (some e.reg.produced.toNat), reg := { e.reg with produced := e.reg.produced + 1 } })) ∧
      ∀ g, suiteOfNode s.dev o.node = some g →
        let q := refOfHandle o.handle
        let m := strm s.dev q
        let bytes := trajectory s.dev g o.room.toNat q
        m.handle = o.handle → m.state = .ending → m.room = o.room.toNat → m.deliver = 2 → e.reg.en = true → isStarted r = true →
        128 ≤ bytes.length → bytes.length ≤ e.reg.slotPages.toNat * pageBytes → e.reg.maxLag = 0 →
        ∀ k d, freeStoreSlot e = some k → commitInto s.dev c j.toNat k bytes = some d →
          ∃ t, exec (.trajectorySlotRequest c j o) s = .next t ∧
          t.dev.chans = (trajectoryDone d { o with bytes := bytes, wgenFirst := m.wgenFirst }).chans) ∧
    ∀ (room : BitVec 6) (i : BitVec 16) u, suiteOfChan s.dev c = some u →
      let r := leadRoom s.dev u room.toNat
      let w : SlotWait := ⟨c.num, i.toNat⟩
      (w ∉ r.slotWaits → exec (.slotRequestRetry c room i) s = .next s) ∧
      (w ∈ r.slotWaits → (strm s.dev (c, i.toNat)).state = .ending → (laneOf (chanOf s.dev (leadOf s.dev u)) r.storeNode 1).inFlight < 4 →
        ∃ t, exec (.slotRequestRetry c room i) s = .next t ∧ (leadRoom t.dev u room.toNat).slotWaits = r.slotWaits.filter (· != w) ∧
          ∃ bs, t.dev.out = msgOf s.dev (leadOf s.dev u) r.storeNode 1 bs :: s.dev.out ∧ bs.take 4 = leBytes 4 (strm s.dev (c, i.toNat)).handle.toNat)


/-! ## Fabric -/

/-- FRAME_RECEIVE: a frame with a bad CRC is counted and answered with a negative acknowledgement of the expected SEQ, and one out of order is discarded
(R472, R473); on an optical link a frame in order waits for its TAG, and on package it is taken once and acknowledged (R474, R476). TAG_FRAME_RECEIVE lets
the frames that it covers be taken, or discards them, and a rekey takes effect at it (R564); the tenth failure in succession is judged and takes the port
out of service (R477). -/
def Obligations.FramesArrive : Prop :=
  ∀ (s : State) (c : Ch),
    let x := chanOf s.dev c
    let frees := fun (l : Link) (f : FabFrame) (t : State) =>
      t.dev.out = .ack c l f.seq :: s.dev.out ∧ (chanOf t.dev c).placed = (f.src, f.xid, f.fidx) :: x.placed ∧ (chanOf t.dev c).rooms = x.rooms
    (∀ (l : Link) (hdr : BitVec 128) (payload : List Byte) (crc : W32),
      let k := linkOf x l
      let i := Instr.frameReceive c l hdr payload crc
      let good := crc32 (leBytes 16 hdr.toNat ++ payload) = crc
      (linkCarries s.dev c l = false → exec i s = .next s) ∧
      (linkCarries s.dev c l = true → ¬good → ∃ t, exec i s = .next t ∧ t.dev.out = .nak c l k.expectSeq :: s.dev.out ∧ linkOf (chanOf t.dev c) l = k ∧
        (∀ p, l = .port p → portOf (chanOf t.dev c) p = { portOf x p with crcErr := satInc (portOf x p).crcErr }) ∧
        ∀ o, o ≠ c → chanOf t.dev o = chanOf s.dev o) ∧
      ∀ f, linkCarries s.dev c l = true → good → frameOf hdr payload = some f →
        (f.seq ≠ k.expectSeq → exec i s = .next s) ∧
        (f.seq = k.expectSeq →
          (∀ p, l = .port p → ∃ t, exec i s = .next t ∧ OnlyChannel c s t ∧
            linkOf (chanOf t.dev c) l = { k with expectSeq := k.expectSeq + 1, unverified := k.unverified ++ [f] } ∧
            (chanOf t.dev c).placed = x.placed) ∧
          (∀ o, l = .pack o →
            (f.dst = nodeOf x → (f.src, f.xid, f.fidx) ∈ x.placed ∨ refuseCause x f = none → ∃ t, exec i s = .next t ∧
              linkOf (chanOf t.dev c) l = { k with expectSeq := k.expectSeq + 1 } ∧
              if (f.src, f.xid, f.fidx) ∈ x.placed then t.dev.out = .ack c l f.seq :: s.dev.out ∧ (chanOf t.dev c).placed = x.placed else frees l f t) ∧
            (∀ cause, f.dst = nodeOf x → (f.src, f.xid, f.fidx) ∉ x.placed → refuseCause x f = some cause → ∃ t d1, exec i s = .next t ∧
              t.dev = refuseFrame d1 c f cause ∧ d1.out = .ack c l f.seq :: s.dev.out) ∧
            (f.dst ≠ nodeOf x → ∃ t d1, exec i s = .next t ∧ t.dev = forward d1 c f (some (l, f.seq)) none ∧ d1.out = s.dev.out)))) ∧
    ∀ p, let l := Link.port p
      let k := linkOf x l
      let back := (k.unverified.head?.map FabFrame.seq).getD k.expectSeq
      (∀ ok, linkCarries s.dev c l = false → exec (.tagFrameReceive c p ok) s = .next s) ∧
      (∀ f, linkCarries s.dev c l = true → k.unverified = [f] → f.dst = nodeOf x → (f.src, f.xid, f.fidx) ∉ x.placed → refuseCause x f = none →
        ∃ t, exec (.tagFrameReceive c p true) s = .next t ∧ frees l f t ∧
        linkOf (chanOf t.dev c) l = match k.nextRx with
          | some v => { k with unverified := [], tagFails := 0, keyRx := v, nextRx := none, tagRx := 0 }
          | none => { k with unverified := [], tagFails := 0, tagRx := k.tagRx + 1 }) ∧
      (linkCarries s.dev c l = true → k.tagFails + 1 ≠ 10 → ∃ t, exec (.tagFrameReceive c p false) s = .next t ∧
        t.dev.out = .nak c l back :: s.dev.out ∧ linkOf (chanOf t.dev c) l = { k with unverified := [], tagFails := k.tagFails + 1, expectSeq := back } ∧
        portOf (chanOf t.dev c) p = { portOf x p with tagFail := satInc (portOf x p).tagFail } ∧ (chanOf t.dev c).rooms = x.rooms) ∧
      (linkCarries s.dev c l = true → k.tagFails + 1 = 10 → ∃ t d0 d1, exec (.tagFrameReceive c p false) s = .next t ∧
        d0.out = .nak c l back :: s.dev.out ∧ (∀ o, o ≠ c → chanOf d0 o = chanOf s.dev o) ∧
        Judged c { cls := 0x41, unit := p.setWidth 16, kind := 1 } false d0 d1 ∧ t.dev = portGone d1 c p 4 ∧
        (portOf (chanOf t.dev c) p).state = 4 ∧ (∀ q, q ≠ p → (portOf (chanOf t.dev c) q).state = (portOf x q).state) ∧
        (portsOut x = 0 → isPermanent x 0x41 (p.setWidth 16) 0 false = false → (chanOf t.dev c).rooms = x.rooms))

/-- NAK_RECEIVE replays every held frame from the named SEQ onward, in order, and a frame replayed 16 times starts a retrain (R473). FRAME_ACK_RECEIVE
releases the frame, and a frame in transit is acknowledged upstream (R474). ACK_TIMEOUT re-sends a held frame over another port of its route,
counting it in RESENDS, and keeps one that has no other route (R476); a silent on-package link is also judged (R478, R487). An acknowledgement lets a
frame go that waited for the output (R490). -/
def Obligations.FramesAreReplayed : Prop :=
  ∀ (s : State) (c : Ch) (l : Link),
    let x := chanOf s.dev c
    let k := linkOf x l
    (∀ seq, ∃ t, exec (.nakReceive c l seq) s = .next t ∧
      let kept := k.held.takeWhile fun h => h.frame.seq != seq
      let again := k.held.dropWhile fun h => h.frame.seq != seq
      t.dev.out = (again.map fun h => OutMsg.frame c l h.frame).reverse ++ s.dev.out ∧
      linkOf (chanOf t.dev c) l = { k with held := kept ++ again.map fun h => { h with replays := h.replays + 1 } } ∧
      (∀ p, l = .port p →
        let q := portOf x p
        portOf (chanOf t.dev c) p = { q with
          replays := if again = [] then q.replays else satInc q.replays,
          state := if ∃ h ∈ again, h.replays = 15 then 3 else q.state,
          retrains := if ∃ h ∈ again, h.replays = 15 then satInc q.retrains else q.retrains }) ∧
      (chanOf t.dev c).rooms = x.rooms ∧ ∀ o, o ≠ c → chanOf t.dev o = chanOf s.dev o) ∧
    (∀ seq, ∃ t, exec (.frameAckReceive c l seq) s = .next t ∧
      let kept := k.held.filter fun h => h.frame.seq != seq
      let acks := (((k.held.filter fun h => h.frame.seq == seq).filterMap HeldFrame.up).map fun u => OutMsg.ack c u.1 u.2).reverse ++ s.dev.out
      (chanOf t.dev c).rooms = x.rooms ∧ (∀ o, o ≠ c → chanOf t.dev o = chanOf s.dev o) ∧
      (k.waiting = [] → linkOf (chanOf t.dev c) l = { k with held := kept } ∧ t.dev.out = acks) ∧
      ∀ w, k.waiting = [w] → w.input < 9 → kept.length < 1024 → (∀ p, l = .port p → (portOf x p).state ≠ 3) →
        let f := { w.frame with seq := k.nextSeq }
        (linkOf (chanOf t.dev c) l).waiting = [] ∧ (linkOf (chanOf t.dev c) l).held = kept ++ [{ frame := f, up := w.up }] ∧
        (linkOf (chanOf t.dev c) l).nextSeq = k.nextSeq + 1 ∧ ∃ tag, t.dev.out = tag ++ .frame c l f :: acks ∧ (tag = [] ∨ tag = [.tagFrame c l])) ∧
    (k.held = [] → ∃ t, exec (.ackTimeout c l) s = .next t ∧ t.dev = s.dev) ∧
    (∀ o, l = .pack o → k.held ≠ [] → ∃ t d1, exec (.ackTimeout c l) s = .next t ∧
      Judged c { cls := 0x42, unit := BitVec.ofNat 16 (packUnit c o), kind := 2 } false s.dev d1 ∧ t.dev = resend d1 c l) ∧
    ∀ h p, k.held = [h] → k.waiting = [] → l = .port p →
      let n := match h.frame.desc with | some q => q.tag.toNat + q.chunk.toNat | none => h.frame.xid.toNat
      (∀ m inc, routeLink s.dev c h.frame.dst n (some l) = some (m, inc) → m ≠ l → ∃ t, exec (.ackTimeout c l) s = .next t ∧
        let q := linkOf x m
        (linkOf (chanOf t.dev c) l).held = [] ∧ (chanOf t.dev c).red = { x.red with resends := satAdd x.red.resends 1 } ∧
        (chanOf t.dev c).rooms = x.rooms ∧
        (q.waiting = [] → q.held.length < 1024 →
          (linkOf (chanOf t.dev c) m).held = q.held ++ [{ frame := { h.frame with seq := q.nextSeq }, up := h.up }] ∧
          .frame c m { h.frame with seq := q.nextSeq } ∈ t.dev.out) ∧
        (1024 ≤ q.held.length → t.dev.out = s.dev.out ∧
          linkOf (chanOf t.dev c) m = { q with waiting := q.waiting ++ [{ frame := h.frame, up := h.up, input := inputOf h.up }] })) ∧
      (routeLink s.dev c h.frame.dst n (some l) = none → ∃ t, exec (.ackTimeout c l) s = .next t ∧ linkOf (chanOf t.dev c) l = k ∧ t.dev.out = s.dev.out)

/-- HELLO_TIMER sends a trained Orzer port's HELLO, and HELLO_RECEIVE keeps the peer and counts a change; the end with the lower node starts a session's
set-up (R484, R562). LINK_SETUP_MESSAGE makes the session keys, those of a rekey for use from the next TAG on, or takes the port out of service with a fault record (R562 to
R564); the retry timer and LINK_REKEY start another set-up (R563, R564). LANE_FAULT steers lane 8 in and retrains, and a second takes the port out
(R470), as the first does on an Ethernet port (R508); a retrain replays what is held and lets a waiting frame go, and PORT_TRAINED says how a port's
training ended (R482). -/
def Obligations.PortsTrainAndSetUp : Prop :=
  ∀ (s : State) (c : Ch) (p : BitVec 2),
    let x := chanOf s.dev c
    let q := portOf x p
    let k := linkOf x (.port p)
    let open' := (q.state = 2 ∨ q.state = 4) ∧ q.pers = false
    let starts := fun (node : BitVec 18) (t : State) =>
      if nodeOf x < node ∧ x.sec.trngOk = true then t.dev.out = .linkSetup c p 1 :: s.dev.out ∧ linkOf (chanOf t.dev c) (.port p) = { k with setup := 1 }
      else t.dev.out = s.dev.out ∧ linkOf (chanOf t.dev c) (.port p) = k
    (¬(q.state = 2 ∧ q.pers = false) → exec (.helloTimer c p) s = .next s) ∧
    (q.state = 2 → q.pers = false → ∃ t f, exec (.helloTimer c p) s = .next t ∧ t.dev = { s.dev with out := .frame c (.port p) f :: s.dev.out } ∧
      f.type = .hello ∧ f.src = nodeOf x ∧ f.dst = q.peer) ∧
    (∀ (node : BitVec 18) (port : BitVec 2),
      (¬open' → exec (.helloReceive c p node port) s = .next s) ∧
      (open' → ∃ t, exec (.helloReceive c p node port) s = .next t ∧
        portOf (chanOf t.dev c) p = { q with peer := node, peerPort := port, peerChanges := if q.peer = node then q.peerChanges else satInc q.peerChanges } ∧
        (k.session = true → t.dev.out = s.dev.out ∧ linkOf (chanOf t.dev c) (.port p) = k) ∧ (k.session = false → starts node t))) ∧
    (∀ m : SetupMsg,
      let passes := m.certOk = true ∧ x.sec.minPeer ≤ m.svn ∧ m.debug = false ∧ x.sec.trngOk = true ∧ (m.first = true ∨ k.setup = 1)
      (¬open' → exec (.linkSetupMessage c p m) s = .next s) ∧
      (open' → passes → ∃ t, exec (.linkSetupMessage c p m) s = .next t ∧ portOf (chanOf t.dev c) p = { q with state := 2 } ∧
        (chanOf t.dev c).rooms = x.rooms ∧
        let z := linkOf (chanOf t.dev c) (.port p)
        let key := fun (b : Byte) => sha3 (leBytes 32 m.secret.toNat ++ [b])
        let lower := nodeOf x < q.peer
        let tx := if lower then key 0 else key 1
        let rx := if lower then key 1 else key 0
        z.session = true ∧ z.setup = 0 ∧ z.tagFails = 0 ∧ z.held = k.held ∧ z.waiting = k.waiting ∧ z.unverified = k.unverified ∧
        (if k.session = true ∧ k.sinceTag ≠ 0 then z.keyTx = k.keyTx ∧ z.nextTx = some tx ∧ z.tagTx = k.tagTx
          else z.keyTx = tx ∧ z.nextTx = none ∧ z.tagTx = 0 ∧ z.sinceTag = 0) ∧
        (if k.session = true ∧ k.unverified ≠ [] then z.keyRx = k.keyRx ∧ z.nextRx = some rx ∧ z.tagRx = k.tagRx
          else z.keyRx = rx ∧ z.nextRx = none ∧ z.tagRx = 0)) ∧
      (open' → ¬passes → ∃ t d1, exec (.linkSetupMessage c p m) s = .next t ∧ (portOf (chanOf t.dev c) p).state = 4 ∧ t.dev = portGone d1 c p 4 ∧
        (∃ r, (chanOf d1 c).hist.buffer = r :: x.hist.buffer ∧ r.cls = 0x41 ∧ r.kind = 12 ∧ r.unit = p.setWidth 16) ∧
        (chanOf d1 c).rooms = x.rooms ∧ ∀ o, o ≠ c → chanOf d1 o = chanOf s.dev o)) ∧
    (∀ i ∈ [Instr.linkSetupRetryTimer c p, .linkRekey c p],
      let acts := if i = .linkRekey c p then k.session = true else q.state = 4 ∧ k.session = false
      (¬acts → exec i s = .next s) ∧ (acts → ∃ t, exec i s = .next t ∧ starts q.peer t ∧ portOf (chanOf t.dev c) p = q)) ∧
    (∀ lane : BitVec 4,
      let u := BitVec.ofNat 16 (9 * p.toNat + lane.toNat)
      (¬(q.state = 2 ∨ q.state = 3) ∨ 8 < lane.toNat ∨ (q.spareUsed = true ∧ q.spareFor = lane) ∨ (q.pers = true ∧ lane = 8) → ∃ t, exec (.laneFault c p lane) s = .next t ∧ t.dev = s.dev) ∧
      (q.pers = false → (q.state = 2 ∨ q.state = 3) → lane.toNat < 8 → q.spareUsed = false → isPermanent x 0x40 u 0 false = false →
        ∃ t, exec (.laneFault c p lane) s = .next t ∧
        portOf (chanOf t.dev c) p = { q with state := 3, retrains := satInc q.retrains, spareUsed := true, spareFor := lane }) ∧
      ((q.state = 2 ∨ q.state = 3) → lane.toNat ≤ 8 → (if q.pers = true then lane ≠ 8 ∧ ¬(q.spareUsed = true ∧ q.spareFor = lane)
          else q.spareUsed = true ∧ q.spareFor ≠ lane) → ∃ t d1, exec (.laneFault c p lane) s = .next t ∧
        (portOf (chanOf d1 c) p).state = 4 ∧ t.dev = meetPermanent (faultDrain d1 c 0x40 u) c 0x41 (p.setWidth 16) 0)) ∧
    (q.state ≠ 3 → exec (.portRetrainDone c p) s = .next s) ∧
    (q.state = 3 → ∃ t before, exec (.portRetrainDone c p) s = .next t ∧ (portOf (chanOf t.dev c) p).state = 2 ∧ (chanOf t.dev c).rooms = x.rooms ∧
      let replayed := (k.held.map fun h => OutMsg.frame c (.port p) h.frame).reverse ++ before
      (k.waiting = [] → portOf (chanOf t.dev c) p = { q with state := 2 } ∧ linkOf (chanOf t.dev c) (.port p) = k ∧ t.dev.out = replayed) ∧
      ∀ w, k.waiting = [w] → w.input < 9 → k.held.length < 1024 →
        let f := { w.frame with seq := k.nextSeq }
        (linkOf (chanOf t.dev c) (.port p)).waiting = [] ∧ (linkOf (chanOf t.dev c) (.port p)).held = k.held ++ [{ frame := f, up := w.up }] ∧
        ∃ tag, t.dev.out = tag ++ .frame c (.port p) f :: replayed ∧ (tag = [] ∨ tag = [.tagFrame c (.port p)])) ∧
    ∀ ok, (q.state ≠ 1 → exec (.portTrained c p ok) s = .next s) ∧
      (q.state = 1 → ∃ t, exec (.portTrained c p ok) s = .next t ∧ portOf (chanOf t.dev c) p = { q with state := if ok then 2 else 4 } ∧
        ∀ r, r ≠ p → portOf (chanOf t.dev c) r = portOf x r)

/-- MSG_CREDIT_RETURN frees a place, which the oldest waiting message takes, so that at most four are in flight (R496). A CNP halves a queue pair's rate,
and a recovery adds an eighth of the port rate, up to it (R510). ERROR_FRAME_RECEIVE counts the frame; DATA, RED and BCAST end the sending room (R495),
and MEMW and MEMR act as R498 says. -/
def Obligations.MessagesAndRates : Prop :=
  ∀ (s : State) (c : Ch),
    let x := chanOf s.dev c
    (∀ (node : BitVec 18) (queue : W32),
      let l := laneOf x node queue
      (l.waiting = [] → ∃ t, exec (.msgCreditReturn c node queue) s = .next t ∧ OnlyChannel c s t ∧
        laneOf (chanOf t.dev c) node queue = { l with inFlight := l.inFlight - 1 } ∧ (chanOf t.dev c).rooms = x.rooms) ∧
      ∀ m ms, l.waiting = m :: ms → m.node = node → m.queue = queue → 0 < l.inFlight → l.inFlight ≤ 4 → ∃ t, exec (.msgCreditReturn c node queue) s = .next t ∧
        t.dev.out = msgOf s.dev c node queue m.bytes :: s.dev.out ∧ laneOf (chanOf t.dev c) node queue = { l with waiting := ms } ∧
        (chanOf t.dev c).node.count = x.node.count + 1 ∧ ∀ o, o ≠ c → chanOf t.dev o = chanOf s.dev o) ∧
    (∀ (peer : BitVec 10),
      let r := qpRate x peer.toNat
      ∀ i ∈ [Instr.ethCnpReceive c peer, .ethRateRecovery c peer], ∃ t, exec i s = .next t ∧ OnlyChannel c s t ∧
        qpRate (chanOf t.dev c) peer.toNat = (if i = .ethCnpReceive c peer then r / 2 else min qpFull (r + qpFull / 8)) ∧
        (∀ k, k ≠ peer.toNat → qpRate (chanOf t.dev c) k = qpRate x k) ∧ (chanOf t.dev c).rooms = x.rooms) ∧
    ∀ e : ErrorInfo, ∃ t, exec (.errorFrameReceive c e) s = .next t ∧
      let d1 := modChan s.dev c fun x => { x with red := { x.red with errors := satInc x.red.errors } }
      (e.op.toNat ≤ 2 → t.dev = faultOn d1 c e.room.toNat .roomFault) ∧
      (e.op = 4 → t.dev = modChan d1 c (writeFails e.region e.page)) ∧ (e.op = 5 → t.dev = modChan d1 c (readFails e.region e.page)) ∧
      (e.op ∉ [0, 1, 2, 4, 5] → t.dev = d1)

/-- DATA_CHUNK_ARRIVAL: a chunk meets the first posted receive of its source, room and tag that lacks it, or lands early; one that does not fit its
receive, or an arrival area that overflows, ends the room (R493). REDUCE_CHUNK_ARRIVAL: a partial chunk takes 16 slots, else 16 pages of the fallback
area, else it does not come in (R502 to R504). FALLBACK_COMBINE_DONE passes the sum on and frees the area's pages (R505). -/
def Obligations.ChunksArrive : Prop :=
  ∀ (s : State) (c : Ch),
    let x := chanOf s.dev c
    let counted := fun (n len : Nat) (q : Room) =>
      q.fab.xferIn = satInc (roomOf x n).fab.xferIn ∧ q.acct.fabRxBytes = (roomOf x n).acct.fabRxBytes + BitVec.ofNat 64 len ∧ q.mem = (roomOf x n).mem
    (∀ (node : BitVec 18) (sroom droom : BitVec 6) (tag : W32) (chunk : Nat) (last poison : Bool) (bytes : List Byte),
      let n := droom.toNat
      let i := Instr.dataChunkArrival c node sroom droom tag chunk last poison bytes
      let took := fun (k : Nat) (nd : BitVec 18) (sr : BitVec 6) (tg : W32) (cs : List (Nat × List Byte × Bool)) =>
        n = k ∧ node = nd ∧ sroom = sr ∧ tag = tg ∧ ∀ q ∈ cs, q.1 ≠ chunk
      let meets := fun p : Posted => took p.room p.node p.sroom p.tag p.chunks ∧ recvDone p = false
      let ends := fun t : State => ∃ d1, t.dev = faultOn d1 c n .roomFault ∧ ∃ r, (chanOf d1 c).hist.buffer.head? = some r ∧ r.cls = 0x90 ∧ r.room = droom
      (isStarted (roomOf x n) = false → exec i s = .next s) ∧
      (∀ a p b, isStarted (roomOf x n) = true → x.posted = a ++ p :: b → (∀ q ∈ a, ¬meets q) → meets p →
        (chunkFits p.bytes chunk bytes.length last = true → ∃ t, exec i s = .next t ∧ OnlyChannel c s t ∧ counted n bytes.length (roomOf (chanOf t.dev c) n) ∧
          (chanOf t.dev c).posted = a ++ { p with chunks := p.chunks ++ [(chunk, bytes, poison)], begun := p.begun || x.island.room == some n } :: b) ∧
        (chunkFits p.bytes chunk bytes.length last = false → ∃ t, exec i s = .next t ∧ ends t)) ∧
      (isStarted (roomOf x n) = true → (∀ q ∈ x.posted, ¬meets q) → (∀ e ∈ x.early, ¬took e.room e.node e.sroom e.tag e.chunks) →
        let y := { x with early := x.early ++ [{
          room := n, node := node, sroom := sroom, tag := tag, chunks := [(chunk, bytes, poison)], total := if last then some (chunk * chunkBytes + bytes.length) else none }] }
        let excess := (roomOf x n).fab.arrPages.toNat < earlyPages y n % 2 ^ 32
        (excess → ∃ t, exec i s = .next t ∧ ends t) ∧
        (¬excess → ∃ t, exec i s = .next t ∧ OnlyChannel c s t ∧ counted n bytes.length (roomOf (chanOf t.dev c) n) ∧ (chanOf t.dev c).early = y.early ∧
          (roomOf (chanOf t.dev c) n).fab.early = satInc (roomOf x n).fab.early ∧ (chanOf t.dev c).posted = x.posted))) ∧
    ∀ (k : Byte) (tag : W32) (chunk : Nat),
      let e := collOf x k.toNat
      let n := e.room.toNat
      let same := fun r : RedChunk => r.k = k.toNat ∧ r.tag = tag ∧ r.chunk = chunk
      (∀ (final poison : Bool) (bytes : List Byte),
        let i := Instr.reduceChunkArrival c k tag chunk final poison bytes
        let r : RedChunk := { k := k.toNat, tag := tag, chunk := chunk, granted := true, data := bytes, bad := poison }
        (e.kind ≠ 1 ∨ isStarted (roomOf x n) = false ∨ bytes.length ≠ chunkLen e chunk ∨ bytes = [] → exec i s = .next s) ∧
        (e.kind = 1 → isStarted (roomOf x n) = true → bytes.length = chunkLen e chunk → bytes ≠ [] → final = false → e.hasPrev = true → (∀ q ∈ x.redChunks, ¬same q) →
          (16 ≤ x.red.free.toNat → (instOf x k.toNat tag).armed = false → ∃ t, exec i s = .next t ∧ OnlyChannel c s t ∧
            (chanOf t.dev c).redChunks = x.redChunks ++ [r] ∧ (chanOf t.dev c).red = { x.red with free := x.red.free - 16, grants := satInc x.red.grants } ∧
            counted n bytes.length (roomOf (chanOf t.dev c) n)) ∧
          (x.red.free.toNat < 16 → x.red.fbUsed.toNat + 16 ≤ x.red.fbPages.toNat → ∃ t, exec i s = .next t ∧ OnlyChannel c s t ∧
            (chanOf t.dev c).redChunks = x.redChunks ++ [{ r with granted := false }] ∧
            (chanOf t.dev c).red = { x.red with fbUsed := x.red.fbUsed + 16, fallbacks := satInc x.red.fallbacks } ∧
            counted n bytes.length (roomOf (chanOf t.dev c) n)) ∧
          (x.red.free.toNat < 16 → x.red.fbPages.toNat < x.red.fbUsed.toNat + 16 → exec i s = .next s)) ∧
        (e.kind = 1 → isStarted (roomOf x n) = true → bytes.length = chunkLen e chunk → bytes ≠ [] → final = true → ∃ t d1, exec i s = .next t ∧
          t.dev = deliverChunk d1 c k.toNat tag chunk bytes (if poison then List.range (cdiv bytes.length 64) else []) ∧
          (∀ o, o ≠ c → chanOf d1 o = chanOf s.dev o) ∧ counted n bytes.length (roomOf (chanOf d1 c) n))) ∧
      ((instOf x k.toNat tag).armed = false → exec (.fallbackCombineDone c k tag chunk) s = .next s) ∧
      ∀ a r b, x.redChunks = a ++ r :: b → (∀ q ∈ a, ¬(same q ∧ q.granted = false)) → same r → r.granted = false → (instOf x k.toNat tag).armed = true →
        ∃ t, exec (.fallbackCombineDone c k tag chunk) s = .next t ∧
        let mine := localChunk x e chunk
        let data := if e.contrib then redSum e.fmt r.data mine.1 else r.data
        let bad := if r.bad then List.range (cdiv data.length 64) else if e.contrib then mine.2 else []
        let d1 := passOn s.dev c k.toNat tag chunk data bad
        (chanOf t.dev c).redChunks = (chanOf d1 c).redChunks.filter (fun q => !sameChunk k.toNat tag chunk q) ∧
        (chanOf t.dev c).red = { (chanOf d1 c).red with fbUsed := (chanOf d1 c).red.fbUsed - 16 } ∧ ∀ o, o ≠ c → chanOf t.dev o = chanOf d1 o


/-! ## Checkpoint events -/

/-- CHECKPOINT_TIMER asks for a cut at the room's next boundary, in a sharded job for the job's (R626, R628); JOB_CUT_MESSAGE names a shard's cut; a
job checkpoint is complete when every shard has reported (R626, R627). CAPTURE_STAGE_ACK starts the next stage with its writes to the slot: the data pages
as they were at the cut, then the directory, then the commit record (R632 to R635, R641); and commits after the last: the slot counts. CAPTURE_ACK_TIMEOUT ends a capture with DEGRADED (R637), and a mirror that fails leaves the commit standing (R636). -/
def Obligations.CheckpointEventsAct : Prop :=
  ∀ (s : State) (u : Ch) (room : BitVec 6),
    let n := room.toNat
    let r := leadRoom s.dev u n
    let same := fun i => ∃ t, exec i s = .next t ∧ t.dev = s.dev
    let other := fun t : State => ∀ o, o ≠ leadOf s.dev u → chanOf t.dev o = chanOf s.dev o
    (suiteExists s.dev u = false → ∀ (step : Nat) (sh : BitVec 16) (ok : Bool),
      ∀ i ∈ [Instr.checkpointTimer u room, .jobCutMessage u room step, .shardCommitReport u room sh, .captureStageAck u room, .captureAckTimeout u room,
        .mirrorCopyDone u room ok], same i) ∧
    (suiteExists s.dev u = true →
      let fires := isStarted r = true ∧ r.ckp.en = true ∧ r.ckp.everyMs ≠ 0 ∧ hasAttic r = true
      (¬fires → same (.checkpointTimer u room)) ∧
      (fires → r.upd.nshards1 = 0 → ∃ t, exec (.checkpointTimer u room) s = .next t ∧ other t ∧
        (leadRoom t.dev u n).ckps.due = some (r.ckps.due.getD r.ckp.cut) ∧ (leadRoom t.dev u n).ckps.capture = r.ckps.capture ∧
        (leadRoom t.dev u n).ckp.pending = (r.ckp.pending || r.ckps.capture.isSome)) ∧
      (fires → r.upd.nshards1 ≠ 0 → ∃ t, exec (.checkpointTimer u room) s = .next t ∧ other t ∧
        leadRoom t.dev u n = (if r.upd.shard = 0 then { r with ckps := { r.ckps with jobAsk := true } } else r)) ∧
      (∀ step, let acts := isStarted r = true ∧ trains r = true ∧ r.upd.nshards1 ≠ 0
        let credit := creditOf s.dev (leadOf s.dev u) r.upd.rootNode
        (¬acts → ∃ t, exec (.jobCutMessage u room step) s = .next t ∧ OnlyChannels [] credit s t) ∧
        (acts → ∃ t, exec (.jobCutMessage u room step) s = .next t ∧ OnlyChannels [leadOf s.dev u] credit s t ∧ leadRoom t.dev u n = { r with ckps := { r.ckps with jobCut := some step } })) ∧
      (∀ sh : BitVec 16, let l := addAll r.ckps.reports [sh.toNat]
        (r.upd.shard ≠ 0 → same (.shardCommitReport u room sh)) ∧
        (r.upd.shard = 0 → r.ckps.jobRunning = true → ∃ t, exec (.shardCommitReport u room sh) s = .next t ∧
          OnlyChannels [leadOf s.dev u] (match r.update.nodes.find? (fun q => q.1 == sh.toNat) with
            | some q => creditOf s.dev (leadOf s.dev u) q.2.1
            | none => []) s t ∧
          leadRoom t.dev u n = { r with ckps := { r.ckps with
            reports := if ∀ k, k ≤ r.upd.nshards1.toNat → k ∈ l then [] else l, jobRunning := !decide (∀ k, k ≤ r.upd.nshards1.toNat → k ∈ l) } })) ∧
      (r.ckps.capture = none → same (.captureStageAck u room) ∧ same (.captureAckTimeout u room)) ∧
      (∀ k, r.ckps.capture = some k →
        (∀ b, (k.stage = .zero ∧ b = { k with stage := .pages }) ∨ (k.stage = .pages ∧ b = { k with stage := .directory, sent := k.toSend, toSend := [], staged := [] }) ∨
            (k.stage = .directory ∧ b = { k with stage := .commit }) →
          ∃ t, exec (.captureStageAck u room) s = .next t ∧ other t ∧ leadRoom t.dev u n = { r with ckps := { r.ckps with capture := some b } } ∧
          let lead := leadOf s.dev u
          let put := fun (c : Ch) (page : Nat) (bytes : List Byte) => OutMsg.atticWrite c r.ckp.atticNode n k.slotB (page * pageBytes) bytes ∈ t.dev.out
          (k.stage = .zero → t.dev.out = s.dev.out) ∧
          (k.stage = .pages → (∀ i, i < dirPages k → ∃ bytes, put lead (1 + i) bytes) ∧
            ∀ i e key, k.dir[i]? = some e → e.1 ∈ k.toSend → ckpKey (chanOf s.dev (capChan e.1)) n r.cont = some key →
              put (capChan e.1) (1 + dirPages k + i) (cipherPage key (.room n (capPage e.1)) (cutPage s.dev n k e.1))) ∧
          (k.stage = .directory → (chanOf t.dev lead).node.count = (chanOf s.dev lead).node.count + 1 ∧
            ∃ v, t.dev.out = .atticWrite lead r.ckp.atticNode n k.slotB 0 (v ++ List.replicate (pageBytes - 512) 0) :: s.dev.out)) ∧
        (k.stage = .commit → k.forDrain = false → r.upd.nshards1 = 0 → ∃ t, exec (.captureStageAck u room) s = .next t ∧
          let q := leadRoom t.dev u n
          q.ckp.seq = r.ckp.seq + 1 ∧ q.ckp.step = BitVec.ofNat 64 k.step ∧ q.ckp.slot = k.slotB ∧ q.ckp.busy = false ∧
          q.ckp.aValid = (r.ckp.aValid || !k.slotB) ∧ q.ckp.bValid = (r.ckp.bValid || k.slotB) ∧ q.ckps.capture = none ∧ q.ckps.oldAttic = none) ∧
        ∃ t, exec (.captureAckTimeout u room) s = .next t ∧
          let q := leadRoom t.dev u n
          q.ckps.capture = none ∧ q.ckp.busy = false ∧ q.ckp.failed = satInc r.ckp.failed ∧ q.ckp.lastStatus = Status.degraded.code ∧
          q.ckp.aValid = r.ckp.aValid ∧ q.ckp.bValid = r.ckp.bValid) ∧
      ∀ ok, (r.ckps.mirroring = false → same (.mirrorCopyDone u room ok)) ∧
        (r.ckps.mirroring = true → ∃ t, exec (.mirrorCopyDone u room ok) s = .next t ∧ other t ∧ leadRoom t.dev u n = { r with
          ckps := { r.ckps with mirroring := false }, ckp := { r.ckp with lastStatus := if ok then r.ckp.lastStatus else Status.degraded.code } }))

/-! ## Faults -/

/-- What the scrubs find is corrected or poisoned, line by line, and judged (R178, R584, R592, R604); accesses to the line of a bank hold for its
write-back and its remap (R585, R606), and a Loop room entry is dropped (R144); a tile is replaced from its source (R448). A migration's end is shown, and
what it cannot read is poisoned (R174, R175). The loss of a stack poisons its channel's T1 pages, ends its training rooms and is permanent (R173). A pump's mismatch is judged, and a permanent one retires the pump,
which no drain follows while twelve work (R130, R605, R608). -/
def Obligations.MemoryAndPumpFaultsAreMet : Prop :=
  ∀ (s : State) (c : Ch),
    let x := chanOf s.dev c
    let same := fun i => ∃ t, exec i s = .next t ∧ t.dev = s.dev
    same (.sramPatrolScrub c none) ∧
    (∀ f : SramFinding, ∃ t d1, exec (.sramPatrolScrub c (some f)) s = .next t ∧
      Judged c { cls := if f.bank then 0x01 else 0x02, unit := f.unit, kind := if f.double then 1 else 0, addr := f.row } f.survives d1 t.dev ∧
      (∀ o, o ≠ c → chanOf d1 o = chanOf s.dev o) ∧
      let y := chanOf d1 c
      let row := f.row.toNat * 1024 + f.unit.toNat
      (f.double = false → y = { x with island := { x.island with lineHolds := y.island.lineHolds } }) ∧
      (f.bank = true → y.island.lineHolds = x.island.lineHolds.filter (fun h => decide (x.island.ps < h.til)) ++ [{ store := .ws, line := row, til :=
        x.island.ps + (if f.double then 0 else 1000000) + (if isPermanent x 0x01 f.unit f.row f.survives then 1000000 else 0) }]) ∧
      (f.double = true → (f.bank = true → row ∈ y.wsPoison) ∧ (f.bank = false → f.unit = 0 → f.line ∈ y.sumpPoison) ∧
        (f.bank = false → f.unit = 1 → f.line ∈ y.cisPoison) ∧
        (f.bank = false → f.unit = 2 → ∀ l, y.island.loopRoom = some l → ∀ e ∈ l.bundles, e.1 ≠ f.line))) ∧
    (∃ t, exec (.t1PatrolScrub c none) s = .next t ∧ chanOf t.dev c = { x with scrub := { x.scrub with passes := x.scrub.passes + 1 } }) ∧
    (∀ (stack : BitVec 2) (data : BitVec 7) (byte : W64) (double survives : Bool),
      let st := Ch.ofNum stack.toNat
      let unit := BitVec.ofNat 16 (128 * stack.toNat + data.toNat)
      ∃ t d1 d2, exec (.t1PatrolScrub c (some (.word stack data byte double survives))) s = .next t ∧
        (double = false → chanOf d1 c = { x with memStacks := x.memStacks.set st { x.memStacks.get st with reg := { (x.memStacks.get st).reg with
          ceCount := satInc (x.memStacks.get st).reg.ceCount } } }) ∧
        (∀ f l n p, double = true → lineAt x st data.toNat byte.toNat = some (f, l) → pageInFrame x f = some (.room n p) →
          p * 1024 + l ∈ (roomOf (chanOf d1 c) n).poison ∧ (∀ m, m ≠ p * 1024 + l → (m ∈ (roomOf (chanOf d1 c) n).poison ↔ m ∈ (roomOf x n).poison)) ∧
          (roomOf (chanOf d1 c) n).mem = (roomOf x n).mem) ∧
        Judged c { cls := 0x10, unit := unit, kind := if double then 1 else 0, addr := byte } survives d1 d2 ∧
        t.dev = if isPermanent x 0x10 unit byte survives = true ∧ (x.memStacks.get st).reg.sparesUsed = 8 then loseStack d2 c st else d2) ∧
    (∀ u (k : BitVec 3) t0, suiteOfChan s.dev c = some u →
      let w := leadCopy s.dev u k.toNat
      let i := Instr.t1PatrolScrub c (some (.tile k t0))
      (w.reg.state = csFree ∨ w.reg.tiles.toNat ≤ t0 ∨ t0 ∈ w.repairing → same i) ∧
      (w.reg.state ≠ csFree → t0 < w.reg.tiles.toNat → t0 ∉ w.repairing → ∃ t d1, exec i s = .next t ∧
        leadCopy d1 u k.toNat = { w with repairing := w.repairing ++ [t0], reg := { w.reg with suspect := true, repairs := satInc w.reg.repairs } } ∧
        (∀ o ∈ suiteChans s.dev u, ∀ l ∈ linesOf (tileRun w t0), l ∈ (chanOf d1 o).commonPoison) ∧
        t.dev = modChan d1 (leadOf s.dev u) fun y => record y { cls := 0xA0, unit := BitVec.ofNat 16 k.toNat, kind := 1, addr := BitVec.ofNat 64 t0 })) ∧
    (∀ st : Ch, let k := x.memStacks.get st
      let ended := fun y : Channel => { y with memStacks := y.memStacks.set st { y.memStacks.get st with reg := { (y.memStacks.get st).reg with migrating := false } } }
      (∀ bad, k.reg.migrating = false → same (.migrationDone c { stack := st, bad := bad })) ∧
      (k.reg.migrating = true → ∃ t, exec (.migrationDone c { stack := st }) s = .next t ∧ chanOf t.dev c = ended x ∧ ∀ o, o ≠ c → chanOf t.dev o = chanOf s.dev o) ∧
      (∀ b m, k.reg.migrating = true → exec (.t1PatrolScrub c (some (.word (BitVec.ofNat 2 st.num) k.reg.migCh b true false))) s = .next m →
        ∃ t, exec (.migrationDone c { stack := st, bad := [b] }) s = .next t ∧ t.dev = modChan m.dev c ended) ∧
      (k.reg.up = false → same (.stackLoss c st)) ∧
      (k.reg.up = true → ∃ t d1 d2 d3, exec (.stackLoss c st) s = .next t ∧
        chanOf d1 c = { x with memStacks := x.memStacks.set st { k with reg := { k.reg with up := false, migrating := false } } } ∧
        (∀ o, o ≠ c → chanOf d1 o = chanOf s.dev o) ∧
        d2 = (match suiteOfChan s.dev c with
          | some u => roomIndexes.foldl (loseT1Room u c) d1
          | none => d1) ∧
        (∀ n p, .room n p ∈ t1Pages (chanOf d2 c) → (pteAt (chanOf d3 c) (.room n p)).poison = true ∧
          ∀ l ∈ pageLines p, l ∈ (roomOf (chanOf d3 c) n).poison) ∧
        (∀ n, (roomOf (chanOf d3 c) n).mem = (roomOf (chanOf d2 c) n).mem ∧ (roomOf (chanOf d3 c) n).sch = (roomOf (chanOf d2 c) n).sch) ∧
        t.dev = meetPermanent (modChan d3 c relay) c 0x11 (BitVec.ofNat 16 st.num) 0)) ∧
    ∀ pump : BitVec 4,
      let r : FaultRec := { cls := 0x30, unit := pump.setWidth 16, kind := 2 }
      (x.pumps.working.getLsbD pump.toNat = false → same (.pumpControlMismatch c pump)) ∧
      (x.pumps.working.getLsbD pump.toNat = true →
        (∃ t, exec (.pumpControlMismatch c pump) s = .next t ∧ Judged c r false s.dev t.dev) ∧
        (isPermanent x 0x30 r.unit 0 false = true → 13 ≤ x.pumps.count.toNat → s.dev.fy.replace.drainAny = false →
          ∃ t, exec (.pumpControlMismatch c pump) s = .next t ∧ (chanOf t.dev c).pumps.working.getLsbD pump.toNat = false ∧
          (∀ p, p ≠ pump.toNat → (chanOf t.dev c).pumps.working.getLsbD p = x.pumps.working.getLsbD p) ∧ (chanOf t.dev c).pumps.count = x.pumps.count - 1 ∧
          (chanOf t.dev c).rooms = x.rooms))

/-- A core whose watchdog expires leaves its role, and the other carries the channel (R588, R589); with both expired the channel is lost (R590). A core
that passes its test returns as housekeeping core. TRNG failures stop key generation until a retest passes, and FY_DEV_STATUS shows the source as out of
service (R50, R553, R554). Records reach the flash by a
flush or its retry, the life clock its header, and bound misses one record (R598 to R603). A drain's limit stops serving jobs (R610); the module
management block's loss drains the device (R28). A channel that is lost runs no longer, and its
rooms and memories are gone with it (R7, R753). -/
def Obligations.CoresHistoryAndLosses : Prop :=
  ∀ (s : State) (c : Ch),
    let x := chanOf s.dev c
    let same := fun i => ∃ t, exec i s = .next t ∧ t.dev = s.dev
    (∀ hk : Bool,
      let unit : BitVec 16 := if x.flt.cmdCore = hk then 0 else 1
      ((coreOf x hk).up = false → same (.watchdogExpiry c hk)) ∧
      ((coreOf x hk).up = true → (coreOf x (!hk)).up = false → ∃ t, exec (.watchdogExpiry c hk) s = .next t ∧ t.dev = loseChannel c s.dev) ∧
      ((coreOf x hk).up = true → (coreOf x (!hk)).up = true → isPermanent x 0x50 unit 0 false = false → ∃ t d1, exec (.watchdogExpiry c hk) s = .next t ∧
        let z := chanOf t.dev c
        z.flt.oneCore = true ∧ z.flt.cmdCore = (if hk then x.flt.cmdCore else !x.flt.cmdCore) ∧ z.hkCore = { testing := true } ∧ z.cmdCore.up = true ∧
        z.rooms = x.rooms ∧ ∃ d2, Judged c { cls := 0x50, unit := unit, kind := 5 } false d1 d2 ∧ t.dev = refresh d2) ∧
      ((coreOf x hk).up = true → (coreOf x (!hk)).up = true → isPermanent x 0x50 unit 0 false = true → ∃ t, exec (.watchdogExpiry c hk) s = .next t ∧
        (chanOf t.dev c).hkCore = {})) ∧
    (∀ ok, (x.hkCore.testing = false → same (.coreSelfTestDone c ok)) ∧
      (x.hkCore.testing = true → ∃ t, exec (.coreSelfTestDone c ok) s = .next t ∧
        (ok = true → chanOf t.dev c = { x with hkCore := { up := true }, flt := { x.flt with oneCore := false } }) ∧
        (ok = false → t.dev = refresh (meetPermanent (modChan s.dev c fun x => { x with hkCore := {} }) c 0x50 (if x.flt.cmdCore then 0 else 1) 0)))) ∧
    ((x.imageOk = false → same (.trngHealthFail c)) ∧ (x.imageOk = true → ∃ t d1, exec (.trngHealthFail c) s = .next t ∧
      chanOf d1 c = { x with sec := { x.sec with trngOk := false, healthFail := satInc x.sec.healthFail }, trngFail := true } ∧
      (∀ o, o ≠ c → chanOf d1 o = chanOf s.dev o) ∧
      (∃ d2, Judged c { cls := 0x80, kind := 12 } false d1 d2 ∧ t.dev = refresh d2) ∧ t.dev.fy.dev = devStatus t.dev)) ∧
    (∀ ok, ∃ t, exec (.trngRetest c ok) s = .next t ∧ (∀ o, o ≠ c → chanOf t.dev o = chanOf s.dev o) ∧ t.dev.fy.dev = devStatus t.dev ∧ chanOf t.dev c =
      if x.imageOk = false ∨ x.sec.trngOk = true then x
      else if ok then { x with sec := { x.sec with trngOk := true, drbgReady := true }, trngFail := false }
      else { x with sec := { x.sec with healthFail := satInc x.sec.healthFail } }) ∧
    (∀ ok, let n := x.hist.buffer.length
      let flushed : Channel := { x with
        hist := { x.hist with flash := (x.hist.buffer ++ x.hist.flash).take 262144, buffer := [], records := satAdd x.hist.records n },
        fltHist := { x.fltHist with records := satAdd x.fltHist.records n, writeFail := false } }
      (∃ t, exec (.faultHistoryFlush c ok) s = .next t ∧ OnlyChannel c s t ∧ chanOf t.dev c =
        if x.imageOk = false ∨ x.hist.buffer = [] ∨ x.fltHist.writeFail = true then x
        else if ok then flushed else { x with fltHist := { x.fltHist with writeFail := true } }) ∧
      ∃ t, exec (.flashWriteRetry c ok) s = .next t ∧ OnlyChannel c s t ∧
        chanOf t.dev c = if x.fltHist.writeFail = true ∧ ok = true then flushed else x) ∧
    (∃ t, exec (.lifeClockWriteback c) s = .next t ∧ OnlyChannel c s t ∧ chanOf t.dev c =
      if x.imageOk then { x with hist := { x.hist with headerMs := lifeMs x }, fltHist := { x.fltHist with lifeMs := BitVec.ofNat 64 (lifeMs x) } } else x) ∧
    (let n := x.issueCount.boundMiss.toNat
     (n ≤ x.hist.missSeen → ∃ t, exec (.boundMissRecord c) s = .next t ∧ OnlyChannel c s t ∧ chanOf t.dev c = x) ∧
      (x.hist.missSeen < n → ∃ t e, exec (.boundMissRecord c) s = .next t ∧ OnlyChannel c s t ∧ (chanOf t.dev c).hist.buffer = e :: x.hist.buffer ∧
        e.kind = 6 ∧ e.detail = BitVec.ofNat 192 (n - x.hist.missSeen) ∧ (chanOf t.dev c).hist.missSeen = n ∧ (chanOf t.dev c).rooms = x.rooms)) ∧
    ((x.drain = none ∨ (∃ k, x.drain = some k ∧ k.expired = true) → same (.drainLimitExpiry c)) ∧
      (∀ k, x.drain = some k → k.expired = false → ∃ t d1, exec (.drainLimitExpiry c) s = .next t ∧ chanOf d1 c = { x with drain := some { k with expired := true } } ∧
        t.dev = showDrained (match suiteOfChan s.dev c with
          | some u => roomIndexes.foldl (fun d n => if isStarted (leadRoom d u n) && servesStreams (leadRoom d u n) then
              markDrained (stopRoom d u n) u n .ok else d) d1
          | none => d1))) ∧
    ((s.dev.fy.mgmtLost = true → same .moduleManagementBlockLoss) ∧
      (s.dev.fy.mgmtLost = false → startedRooms s.dev = [] → (∀ o, (chanOf s.dev o).drain = none) → ∃ t, exec .moduleManagementBlockLoss s = .next t ∧
        t.dev.fy.mgmtLost = true ∧ t.dev.fy.replace.isSet = true ∧ t.dev.fy.drains = s.dev.fy.drains + 1 ∧
        ∀ o, (chanOf t.dev o).flt.draining = true ∧ (chanOf t.dev o).flt.drainDone = true)) ∧
    (x.started = false ∨ x.lost = true → same (.channelLoss c)) ∧
    (x.started = true → x.lost = false → ∃ t, exec (.channelLoss c) s = .next t ∧ (chanOf t.dev c).lost = true ∧ (chanOf t.dev c).started = false ∧
      (chanOf t.dev c).rooms = [] ∧ (chanOf t.dev c).ws = [])

/-! ## Interrupts -/

/-- IRQ_SOURCE_SIGNAL: a source of level 1 to 7 goes to the core that ROUTE names, level 0 to both, and every level to the one core left (R690, R691). A
handler's return pops its level; what waits is delivered, and a core with nothing to run sleeps (R692; the sleep is log 58). MILLISECOND_TICK brings the
Porch's counter to its next millisecond and signals level 7 (R693). -/
def Obligations.InterruptsReachCores : Prop :=
  ∀ (s : State) (c : Ch),
    let x := chanOf s.dev c
    let settled := fun hk => (coreOf x hk).up = true ∧ nextSource x hk = none
    (∀ (level : BitVec 3), settled false → settled true →
      let l := level.toNat
      (x.flt.oneCore = false → ∃ t, exec (.irqSourceSignal c level) s = .next t ∧ OnlyChannel c s t ∧ (chanOf t.dev c).rooms = x.rooms ∧
        ∀ hk, if l = 0 ∨ x.irq.route.getLsbD l = hk then Delivered x hk l (coreOf (chanOf t.dev c) hk) else coreOf (chanOf t.dev c) hk = coreOf x hk)) ∧
    (∀ (level : BitVec 3) hk, x.flt.oneCore = true → (coreOf x (!hk)).up = false → settled hk → ∃ t, exec (.irqSourceSignal c level) s = .next t ∧
      OnlyChannel c s t ∧ Delivered x hk level.toNat (coreOf (chanOf t.dev c) hk) ∧ coreOf (chanOf t.dev c) (!hk) = coreOf x (!hk)) ∧
    (∀ hk, let k := coreOf x hk
      (k.stack = [] → exec (.handlerReturn c hk) s = .next s) ∧
      (∀ l rest, k.stack = l :: rest → k.up = true →
        (k.waiting = [] → ∃ t, exec (.handlerReturn c hk) s = .next t ∧ OnlyChannel c s t ∧
          coreOf (chanOf t.dev c) hk = { k with stack := rest, asleep := k.asleep || rest.isEmpty } ∧ coreOf (chanOf t.dev c) (!hk) = coreOf x (!hk)) ∧
        ∀ m, k.waiting = [m] → m < rest.headD 8 → levelMasked x hk m = false → ∃ t, exec (.handlerReturn c hk) s = .next t ∧ OnlyChannel c s t ∧
          coreOf (chanOf t.dev c) hk = { k with stack := m :: rest, waiting := [], asleep := false } ∧ coreOf (chanOf t.dev c) (!hk) = coreOf x (!hk))) ∧
    (s.board.vaux = false → exec (.millisecondTick c) s = .next s) ∧
    (s.board.vaux = true → ∃ t, exec (.millisecondTick c) s = .next t ∧ (chanOf t.dev c).porchUs = 1000 * (x.porchUs / 1000 + 1) ∧
      exec (.irqSourceSignal c 7) { s with dev := modChan s.dev c fun x => { x with porchUs := 1000 * (x.porchUs / 1000 + 1) } } = .next t)
end

