-- ==== Sys2Proof/Laws/Tab.lean ====
section
/-! SUPPORT. Laws/Tab.lean: reading after writing a sparse table, and its canonical form. -/

namespace Sys2Proof.Machine

section
variable {α : Type} (d : α) (t : Tab α) (k j : Nat) (v : α)

/-- Filtering out other keys does not change what is found at a key. -/
theorem find_filter_key (p : Nat × α → Bool) (h : ∀ x : Nat × α, x.1 = j → p x = true) :
    (t.filter p).find? (fun q => q.1 == j) = t.find? (fun q => q.1 == j) := by
  induction t with
  | nil => rfl
  | cons a l ih =>
    by_cases ha : a.1 = j
    · simp [h a ha, ha]
    · by_cases hp : p a = true <;> simp [hp, ha, ih]

theorem find_filter_none (p : Nat × α → Bool) (h : ∀ x : Nat × α, x.1 = j → p x = false) :
    (t.filter p).find? (fun q => q.1 == j) = none := by
  simp only [List.find?_eq_none, List.mem_filter]
  rintro x ⟨_, hx⟩ hk
  simp only [beq_iff_eq] at hk
  simp [h x hk] at hx

@[simp] theorem tget_nil : tget d [] k = d := rfl

variable [DecidableEq α]

@[simp] theorem tget_tset_same : tget d (tset d t k v) k = v := by
  unfold tget tset
  have h1 := find_filter_none t k (fun p => decide (p.1 < k)) (by intro x hx; simp [hx])
  have h2 := find_filter_none t k (fun p => decide (k < p.1)) (by intro x hx; simp [hx])
  by_cases hv : v = d
  · simp [hv, List.find?_append, h1, h2]
  · simp [hv, List.find?_append, h1]

theorem tget_tset_ne (h : j ≠ k) : tget d (tset d t k v) j = tget d t j := by
  unfold tget tset
  rcases Nat.lt_or_gt_of_ne h with hlt | hgt
  · have h1 := find_filter_key t j (fun p => decide (p.1 < k)) (by intro x hx; simp [hx, hlt])
    have h2 := find_filter_none t j (fun p => decide (k < p.1)) (by intro x hx; simp [hx]; omega)
    have h3 : (if v = d then ([] : Tab α) else [(k, v)]).find? (fun q => q.1 == j) = none := by
      by_cases hv : v = d <;> simp [hv]; omega
    simp [List.find?_append, h1, h2, h3]
  · have h1 := find_filter_none t j (fun p => decide (p.1 < k)) (by intro x hx; simp [hx]; omega)
    have h2 := find_filter_key t j (fun p => decide (k < p.1)) (by intro x hx; simp [hx]; omega)
    have h3 : (if v = d then ([] : Tab α) else [(k, v)]).find? (fun q => q.1 == j) = none := by
      by_cases hv : v = d <;> simp [hv]; omega
    simp [List.find?_append, h1, h2, h3]

theorem tget_tset : tget d (tset d t k v) j = if j = k then v else tget d t j := by
  by_cases h : j = k
  · subst h; simp
  · simp [h, tget_tset_ne]

@[simp] theorem tget_tmod_same (f : α → α) : tget d (tmod d t k f) k = f (tget d t k) := tget_tset_same d t k _

theorem tget_tmod_ne (f : α → α) (h : j ≠ k) : tget d (tmod d t k f) j = tget d t j := tget_tset_ne d t k j _ h

/-- Setting a value keeps the canonical form. -/
theorem twf_tset (h : twf d t = true) : twf d (tset d t k v) = true := by
  simp only [twf, Bool.and_eq_true, decide_eq_true_eq, List.all_eq_true] at h ⊢
  obtain ⟨hs, hn⟩ := h
  refine ⟨?_, ?_⟩
  · unfold tset
    rw [List.pairwise_append, List.pairwise_append]
    refine ⟨⟨hs.filter _, ?_, ?_⟩, hs.filter _, ?_⟩
    · by_cases hv : v = d <;> simp [hv]
    · intro a ha b hb
      simp only [List.mem_filter, decide_eq_true_eq] at ha
      by_cases hv : v = d <;> simp [hv] at hb
      subst hb; exact ha.2
    · intro a ha b hb
      simp only [List.mem_append, List.mem_filter, decide_eq_true_eq] at ha hb
      rcases ha with ha | ha
      · omega
      · by_cases hv : v = d <;> simp [hv] at ha
        subst ha; exact hb.2
  · intro p hp
    simp only [tset, List.mem_append, List.mem_filter] at hp
    rcases hp with (hp | hp) | hp
    · exact hn p hp.1
    · by_cases hv : v = d <;> simp [hv] at hp
      subst hp; exact hv
    · exact hn p hp.1

theorem twf_tmod (f : α → α) (h : twf d t = true) : twf d (tmod d t k f) = true := twf_tset d t k _ h

theorem twf_nil : twf d ([] : Tab α) = true := rfl

end

end Sys2Proof.Machine
end

