-- ==== Sys2Proof/Laws/State.lean ====
section
/-! SUPPORT. Laws/State.lean: what each named update of channels, rooms, suites and foyer changes, and what it keeps. -/

namespace Sys2Proof

@[simp] theorem Quad.get_set_same {α : Type} (q : Quad α) (c : Ch) (a : α) : (q.set c a).get c = a := by cases c <;> rfl
theorem Quad.get_set_ne {α : Type} (q : Quad α) {c o : Ch} (a : α) (h : o ≠ c) : (q.set c a).get o = q.get o := by
  cases c <;> cases o <;> first | rfl | exact absurd rfl h
theorem Quad.get_set {α : Type} (q : Quad α) (c o : Ch) (a : α) : (q.set c a).get o = if o = c then a else q.get o := by
  cases c <;> cases o <;> rfl
@[simp] theorem Quad.set_get {α : Type} (q : Quad α) (c : Ch) : q.set c (q.get c) = q := by cases c <;> rfl
@[simp] theorem Quad.get_same {α : Type} (a : α) (c : Ch) : (Quad.same a).get c = a := by cases c <;> rfl

@[simp] theorem Ch.ofNum_num (c : Ch) : Ch.ofNum c.num = c := by cases c <;> rfl
theorem Ch.mem_all (c : Ch) : c ∈ Ch.all := by cases c <;> decide

namespace Machine

/-! ## Lifts -/

@[simp] theorem onDev_eq (f : Device → Device) (s : State) : onDev f s = .next { s with dev := f s.dev } := rfl
@[simp] theorem onDevB_eq (f : Board → Device → Device) (s : State) : onDevB f s = .next { s with dev := f s.board s.dev } := rfl
@[simp] theorem onBoth_eq (f : Board → Device → Board × Device) (s : State) :
    onBoth f s = .next { s with board := (f s.board s.dev).1, dev := (f s.board s.dev).2 } := rfl

/-! ## One channel -/

@[simp] theorem chanOf_setChan_same (d : Device) (c : Ch) (x : Channel) : chanOf (setChan d c x) c = x := Quad.get_set_same ..
theorem chanOf_setChan_ne (d : Device) {c o : Ch} (x : Channel) (h : o ≠ c) : chanOf (setChan d c x) o = chanOf d o :=
  Quad.get_set_ne _ _ h
theorem chanOf_setChan (d : Device) (c o : Ch) (x : Channel) : chanOf (setChan d c x) o = if o = c then x else chanOf d o :=
  Quad.get_set ..
@[simp] theorem chanOf_modChan_same (d : Device) (c : Ch) (f : Channel → Channel) : chanOf (modChan d c f) c = f (chanOf d c) :=
  Quad.get_set_same ..
theorem chanOf_modChan_ne (d : Device) {c o : Ch} (f : Channel → Channel) (h : o ≠ c) : chanOf (modChan d c f) o = chanOf d o :=
  Quad.get_set_ne _ _ h
theorem chanOf_modChan (d : Device) (c o : Ch) (f : Channel → Channel) :
    chanOf (modChan d c f) o = if o = c then f (chanOf d c) else chanOf d o := Quad.get_set ..

@[simp] theorem setChan_fy (d : Device) (c : Ch) (x : Channel) : (setChan d c x).fy = d.fy := rfl
@[simp] theorem setChan_suites (d : Device) (c : Ch) (x : Channel) : (setChan d c x).suites = d.suites := rfl
@[simp] theorem setChan_out (d : Device) (c : Ch) (x : Channel) : (setChan d c x).out = d.out := rfl
@[simp] theorem setChan_free (d : Device) (c : Ch) (x : Channel) : (setChan d c x).free = d.free := rfl
@[simp] theorem modChan_fy (d : Device) (c : Ch) (f : Channel → Channel) : (modChan d c f).fy = d.fy := rfl
@[simp] theorem modChan_suites (d : Device) (c : Ch) (f : Channel → Channel) : (modChan d c f).suites = d.suites := rfl
@[simp] theorem modChan_out (d : Device) (c : Ch) (f : Channel → Channel) : (modChan d c f).out = d.out := rfl
@[simp] theorem modChan_free (d : Device) (c : Ch) (f : Channel → Channel) : (modChan d c f).free = d.free := rfl
@[simp] theorem chanOf_mk (f : Foyer) (q : Quad Channel) (u : Quad SchSuite) (o : List OutMsg) (n : Nat) (c : Ch) :
    chanOf ⟨f, q, u, o, n⟩ c = q.get c := rfl
@[simp] theorem get_chans (d : Device) (c : Ch) : d.chans.get c = chanOf d c := rfl

/-! ## Several channels -/

theorem modChans_keeps (cs : List Ch) (f : Ch → Channel → Channel) (d : Device) :
    (modChans d cs f).fy = d.fy ∧ (modChans d cs f).suites = d.suites ∧ (modChans d cs f).out = d.out ∧ (modChans d cs f).free = d.free := by
  unfold modChans
  induction cs generalizing d with
  | nil => simp
  | cons c l ih => simpa using ih (modChan d c (f c))

@[simp] theorem modChans_fy (d : Device) (cs : List Ch) (f : Ch → Channel → Channel) : (modChans d cs f).fy = d.fy := (modChans_keeps cs f d).1
@[simp] theorem modChans_suites (d : Device) (cs : List Ch) (f : Ch → Channel → Channel) : (modChans d cs f).suites = d.suites :=
  (modChans_keeps cs f d).2.1
@[simp] theorem modChans_out (d : Device) (cs : List Ch) (f : Ch → Channel → Channel) : (modChans d cs f).out = d.out :=
  (modChans_keeps cs f d).2.2.1
@[simp] theorem modChans_free (d : Device) (cs : List Ch) (f : Ch → Channel → Channel) : (modChans d cs f).free = d.free :=
  (modChans_keeps cs f d).2.2.2

/-- A channel outside the list keeps everything; one in it, listed once, takes the change. -/
theorem chanOf_modChans (cs : List Ch) (f : Ch → Channel → Channel) (d : Device) (c : Ch) (h : cs.Nodup) :
    chanOf (modChans d cs f) c = if c ∈ cs then f c (chanOf d c) else chanOf d c := by
  unfold modChans
  induction cs generalizing d with
  | nil => simp
  | cons a l ih =>
    rw [List.nodup_cons] at h
    simp only [List.foldl_cons, ih _ h.2, chanOf_modChan, List.mem_cons]
    by_cases hc : c = a
    · subst hc; simp [h.1]
    · simp [hc]

@[simp] theorem chanOf_modChans_all (f : Ch → Channel → Channel) (d : Device) (c : Ch) :
    chanOf (modChans d Ch.all f) c = f c (chanOf d c) := by
  rw [chanOf_modChans _ _ _ _ (by decide), if_pos (Ch.mem_all c)]

theorem chansOf_nodup (m : BitVec 4) : (chansOf m).Nodup := List.Pairwise.filter _ (show Ch.all.Nodup by decide)
theorem suiteChans_nodup (d : Device) (s : Ch) : (suiteChans d s).Nodup := chansOf_nodup _
theorem mem_chansOf (m : BitVec 4) (c : Ch) : c ∈ chansOf m ↔ m.getLsbD c.num = true := by
  simp [chansOf, Ch.mem_all]

/-! ## Rooms -/

@[simp] theorem roomOf_setRoom_same (x : Channel) (n : Nat) (r : Room) : roomOf (setRoom x n r) n = r := tget_tset_same ..
theorem roomOf_setRoom_ne (x : Channel) {n m : Nat} (r : Room) (h : m ≠ n) : roomOf (setRoom x n r) m = roomOf x m := tget_tset_ne _ _ _ _ _ h
@[simp] theorem roomOf_modRoomC_same (x : Channel) (n : Nat) (f : Room → Room) : roomOf (modRoomC x n f) n = f (roomOf x n) :=
  roomOf_setRoom_same ..
theorem roomOf_modRoomC_ne (x : Channel) {n m : Nat} (f : Room → Room) (h : m ≠ n) : roomOf (modRoomC x n f) m = roomOf x m :=
  roomOf_setRoom_ne x _ h
@[simp] theorem modRoom_fy (d : Device) (c : Ch) (n : Nat) (f : Room → Room) : (modRoom d c n f).fy = d.fy := rfl
@[simp] theorem modRoom_suites (d : Device) (c : Ch) (n : Nat) (f : Room → Room) : (modRoom d c n f).suites = d.suites := rfl
@[simp] theorem modRoom_out (d : Device) (c : Ch) (n : Nat) (f : Room → Room) : (modRoom d c n f).out = d.out := rfl
@[simp] theorem roomOf_modRoom_same (d : Device) (c : Ch) (n : Nat) (f : Room → Room) :
    roomOf (chanOf (modRoom d c n f) c) n = f (roomOf (chanOf d c) n) := by simp [modRoom]
theorem roomOf_modRoom_other (d : Device) (c o : Ch) (n m : Nat) (f : Room → Room) (h : o ≠ c ∨ m ≠ n) :
    roomOf (chanOf (modRoom d c n f) o) m = roomOf (chanOf d o) m := by
  unfold modRoom
  rw [chanOf_modChan]
  split
  · rename_i ho; subst ho
    rcases h with h | h
    · exact absurd rfl h
    · exact roomOf_modRoomC_ne _ _ h
  · rfl

/-! ## Suites -/

@[simp] theorem suiteOf_modSuite_same (d : Device) (s : Ch) (f : SchSuite → SchSuite) : suiteOf (modSuite d s f) s = f (suiteOf d s) :=
  Quad.get_set_same ..
theorem suiteOf_modSuite_ne (d : Device) {s o : Ch} (f : SchSuite → SchSuite) (h : o ≠ s) : suiteOf (modSuite d s f) o = suiteOf d o :=
  Quad.get_set_ne _ _ h
@[simp] theorem modSuite_fy (d : Device) (s : Ch) (f : SchSuite → SchSuite) : (modSuite d s f).fy = d.fy := rfl
@[simp] theorem modSuite_chans (d : Device) (s : Ch) (f : SchSuite → SchSuite) : (modSuite d s f).chans = d.chans := rfl
@[simp] theorem modSuite_out (d : Device) (s : Ch) (f : SchSuite → SchSuite) : (modSuite d s f).out = d.out := rfl
@[simp] theorem modSuite_free (d : Device) (s : Ch) (f : SchSuite → SchSuite) : (modSuite d s f).free = d.free := rfl
@[simp] theorem chanOf_modSuite (d : Device) (s : Ch) (f : SchSuite → SchSuite) (c : Ch) : chanOf (modSuite d s f) c = chanOf d c := rfl
@[simp] theorem suiteOf_modChan (d : Device) (c : Ch) (f : Channel → Channel) (s : Ch) : suiteOf (modChan d c f) s = suiteOf d s := rfl
@[simp] theorem suiteOf_modRoom (d : Device) (c : Ch) (n : Nat) (f : Room → Room) (s : Ch) : suiteOf (modRoom d c n f) s = suiteOf d s := rfl
@[simp] theorem leadOf_modChan (d : Device) (c : Ch) (f : Channel → Channel) (s : Ch) : leadOf (modChan d c f) s = leadOf d s := rfl
@[simp] theorem leadOf_modRoom (d : Device) (c : Ch) (n : Nat) (f : Room → Room) (s : Ch) : leadOf (modRoom d c n f) s = leadOf d s := rfl
@[simp] theorem suiteExists_modChan (d : Device) (c : Ch) (f : Channel → Channel) (s : Ch) : suiteExists (modChan d c f) s = suiteExists d s := rfl

/-! ## Functions, messages, events and results: the channels and the suites are not theirs -/

@[simp] theorem send_chans (d : Device) (m : OutMsg) : (send d m).chans = d.chans := rfl
@[simp] theorem send_suites (d : Device) (m : OutMsg) : (send d m).suites = d.suites := rfl
@[simp] theorem send_fy (d : Device) (m : OutMsg) : (send d m).fy = d.fy := rfl
@[simp] theorem send_out (d : Device) (m : OutMsg) : (send d m).out = m :: d.out := rfl
@[simp] theorem chanOf_send (d : Device) (m : OutMsg) (c : Ch) : chanOf (send d m) c = chanOf d c := rfl
@[simp] theorem setFn_chans (d : Device) (f : Fn) (x : FnState) : (setFn d f x).chans = d.chans := rfl
@[simp] theorem setFn_suites (d : Device) (f : Fn) (x : FnState) : (setFn d f x).suites = d.suites := rfl
@[simp] theorem setFn_out (d : Device) (f : Fn) (x : FnState) : (setFn d f x).out = d.out := rfl
@[simp] theorem setFn_free (d : Device) (f : Fn) (x : FnState) : (setFn d f x).free = d.free := rfl
@[simp] theorem modFn_chans (d : Device) (f : Fn) (g : FnState → FnState) : (modFn d f g).chans = d.chans := rfl
@[simp] theorem modFn_suites (d : Device) (f : Fn) (g : FnState → FnState) : (modFn d f g).suites = d.suites := rfl

/-- Everything of the foyer but its functions is as before, and so are the channels, the suites and the free values. -/
def OnlyFns (d d' : Device) : Prop :=
  d'.chans = d.chans ∧ d'.suites = d.suites ∧ d'.free = d.free ∧ d'.fy = { d.fy with fns := d'.fy.fns }

theorem OnlyFns.rfl' (d : Device) : OnlyFns d d := ⟨rfl, rfl, rfl, rfl⟩
theorem OnlyFns.trans {a b c : Device} (h : OnlyFns a b) (g : OnlyFns b c) : OnlyFns a c := by
  obtain ⟨h1, h2, h3, h4⟩ := h
  obtain ⟨g1, g2, g3, g4⟩ := g
  exact ⟨g1.trans h1, g2.trans h2, g3.trans h3, by rw [g4, h4]⟩

theorem onlyFns_send (d : Device) (m : OutMsg) : OnlyFns d (send d m) := ⟨rfl, rfl, rfl, rfl⟩
theorem onlyFns_setFn (d : Device) (f : Fn) (x : FnState) : OnlyFns d (setFn d f x) := ⟨rfl, rfl, rfl, rfl⟩
theorem onlyFns_modFn (d : Device) (f : Fn) (g : FnState → FnState) : OnlyFns d (modFn d f g) := onlyFns_setFn ..
theorem onlyFns_modMbx (d : Device) (f : Fn) (m : BitVec 4) (g : Mailbox → Mailbox) : OnlyFns d (modMbx d f m g) := onlyFns_modFn ..
theorem onlyFns_setSlot (d : Device) (f : Fn) (m : BitVec 4) (k : BitVec 3) (r : ResultSlot) : OnlyFns d (setSlot d f m k r) :=
  onlyFns_modMbx ..

theorem onlyFns_fireVec (d : Device) (f : Fn) (v : Nat) : OnlyFns d (fireVec d f v) := by
  unfold fireVec; dsimp only
  split
  · exact onlyFns_setFn ..
  · exact (onlyFns_setFn ..).trans (onlyFns_send ..)

theorem onlyFns_vecUnits (d : Device) (f : Fn) (v n : Nat) : OnlyFns d (vecUnits d f v n) := by
  unfold vecUnits
  extract_lets x k k' d'
  split
  · exact (onlyFns_setFn ..).trans (onlyFns_fireVec ..)
  · exact onlyFns_setFn ..

theorem onlyFns_writeEvent (d : Device) (f : Fn) (e : EventRecord) : OnlyFns d (writeEvent d f e) :=
  ((onlyFns_send ..).trans (onlyFns_setFn ..)).trans (onlyFns_vecUnits ..)

theorem onlyFns_postEvent (d : Device) (f : Fn) (e : EventRecord) : OnlyFns d (postEvent d f e) := by
  unfold postEvent; dsimp only
  split
  · exact .rfl' _
  · split
    · exact onlyFns_writeEvent ..
    · exact onlyFns_setFn ..

theorem onlyFns_foldl {α : Type} (g : Device → α → Device) (h : ∀ d a, OnlyFns d (g d a)) (l : List α) (d : Device) :
    OnlyFns d (l.foldl g d) := by
  induction l generalizing d with
  | nil => exact .rfl' _
  | cons a l ih => exact (h d a).trans (ih _)

theorem onlyFns_postAll (d : Device) (e : EventRecord) : OnlyFns d (postAll d e) := onlyFns_foldl _ (fun d f => onlyFns_postEvent d f e) _ _
theorem onlyFns_postRoomEvent (d : Device) (s : Ch) (n : Nat) (code : Byte) (st : Status) : OnlyFns d (postRoomEvent d s n code st) :=
  onlyFns_foldl _ (fun d f => onlyFns_postEvent d f _) _ _

theorem onlyFns_lostRecord (d : Device) (f : Fn) : OnlyFns d (lostRecord d f) := by
  unfold lostRecord; dsimp only
  split
  · exact (onlyFns_setFn ..).trans (onlyFns_writeEvent ..)
  · exact .rfl' _

theorem onlyFns_postResult (d : Device) (k : CmdKey) (st : Status) (ws : List W32) : OnlyFns d (postResult d k st ws) := by
  unfold postResult; dsimp only
  split
  · exact (onlyFns_setSlot ..).trans (onlyFns_vecUnits ..)
  · exact .rfl' _

/-- Keeping FY_DEV_STATUS current touches the foyer alone. -/
theorem refresh_keeps (d : Device) : (refresh d).chans = d.chans ∧ (refresh d).suites = d.suites ∧ (refresh d).free = d.free ∧
    (refresh d).fy = { d.fy with dev := devStatus d, width := devWidth d, fns := (refresh d).fy.fns } := by
  unfold refresh; dsimp only
  split
  · exact ⟨rfl, rfl, rfl, rfl⟩
  · have h := onlyFns_postAll { d with fy := { d.fy with dev := devStatus d, width := devWidth d } } { code := 0x04, detail := devStatusBits (devStatus d) }
    exact ⟨h.1, h.2.1, h.2.2.1, h.2.2.2⟩

@[simp] theorem refresh_chans (d : Device) : (refresh d).chans = d.chans := (refresh_keeps d).1
@[simp] theorem refresh_suites (d : Device) : (refresh d).suites = d.suites := (refresh_keeps d).2.1
@[simp] theorem chanOf_refresh (d : Device) (c : Ch) : chanOf (refresh d) c = chanOf d c := by unfold chanOf; rw [refresh_chans]
@[simp] theorem refresh_dev (d : Device) : (refresh d).fy.dev = devStatus d := by rw [(refresh_keeps d).2.2.2]

/-! ## Fault records -/

/-- A record enters the mirrored buffer, and nothing of the rooms, memories and units changes. -/
theorem record_len (x : Channel) (r : FaultRec) : (record x r).hist.buffer.length = x.hist.buffer.length + 1 := rfl
theorem roomOf_record (x : Channel) (r : FaultRec) (n : Nat) : roomOf (record x r) n = roomOf x n := rfl

end Machine
end Sys2Proof
end

