-- ==== Sys2Proof/Laws/Fields.lean ====
section
/-! SUPPORT. Laws/Fields.lean: one lemma for each field of a channel that a fault record or a room's update keeps. -/

namespace Sys2Proof.Machine

/-! ## A fault record changes the causal counter, the counts and the history -/

@[simp] theorem record_released (x : Channel) (r : FaultRec) : (record x r).released = x.released := by dsimp only [record, causalUp]
@[simp] theorem record_imageOk (x : Channel) (r : FaultRec) : (record x r).imageOk = x.imageOk := by dsimp only [record, causalUp]
@[simp] theorem record_started (x : Channel) (r : FaultRec) : (record x r).started = x.started := by dsimp only [record, causalUp]
@[simp] theorem record_lost (x : Channel) (r : FaultRec) : (record x r).lost = x.lost := by dsimp only [record, causalUp]
@[simp] theorem record_failedCols (x : Channel) (r : FaultRec) : (record x r).failedCols = x.failedCols := by dsimp only [record, causalUp]
@[simp] theorem record_failedRows (x : Channel) (r : FaultRec) : (record x r).failedRows = x.failedRows := by dsimp only [record, causalUp]
@[simp] theorem record_arrayOn (x : Channel) (r : FaultRec) : (record x r).arrayOn = x.arrayOn := by dsimp only [record, causalUp]
@[simp] theorem record_cmdCore (x : Channel) (r : FaultRec) : (record x r).cmdCore = x.cmdCore := by dsimp only [record, causalUp]
@[simp] theorem record_hkCore (x : Channel) (r : FaultRec) : (record x r).hkCore = x.hkCore := by dsimp only [record, causalUp]
@[simp] theorem record_irq (x : Channel) (r : FaultRec) : (record x r).irq = x.irq := by dsimp only [record, causalUp]
@[simp] theorem record_porchUs (x : Channel) (r : FaultRec) : (record x r).porchUs = x.porchUs := by dsimp only [record, causalUp]
@[simp] theorem record_arrStatus (x : Channel) (r : FaultRec) : (record x r).arrStatus = x.arrStatus := by dsimp only [record, causalUp]
@[simp] theorem record_arrCount (x : Channel) (r : FaultRec) : (record x r).arrCount = x.arrCount := by dsimp only [record, causalUp]
@[simp] theorem record_streamFault (x : Channel) (r : FaultRec) : (record x r).streamFault = x.streamFault := by dsimp only [record, causalUp]
@[simp] theorem record_issueCount (x : Channel) (r : FaultRec) : (record x r).issueCount = x.issueCount := by dsimp only [record, causalUp]
@[simp] theorem record_waitLimit (x : Channel) (r : FaultRec) : (record x r).waitLimit = x.waitLimit := by dsimp only [record, causalUp]
@[simp] theorem record_stacks (x : Channel) (r : FaultRec) : (record x r).memStacks = x.memStacks := by dsimp only [record, causalUp]
@[simp] theorem record_scrub (x : Channel) (r : FaultRec) : (record x r).scrub = x.scrub := by dsimp only [record, causalUp]
@[simp] theorem record_regions (x : Channel) (r : FaultRec) : (record x r).regions = x.regions := by dsimp only [record, causalUp]
@[simp] theorem record_disabled (x : Channel) (r : FaultRec) : (record x r).disabled = x.disabled := by dsimp only [record, causalUp]
@[simp] theorem record_regionPools (x : Channel) (r : FaultRec) : (record x r).regionPools = x.regionPools := by dsimp only [record, causalUp]
@[simp] theorem record_pumps (x : Channel) (r : FaultRec) : (record x r).pumps = x.pumps := by dsimp only [record, causalUp]
@[simp] theorem record_tierCtl (x : Channel) (r : FaultRec) : (record x r).tierCtl = x.tierCtl := by dsimp only [record, causalUp]
@[simp] theorem record_commonAcct (x : Channel) (r : FaultRec) : (record x r).commonAcct = x.commonAcct := by dsimp only [record, causalUp]
@[simp] theorem record_commonEpochs (x : Channel) (r : FaultRec) : (record x r).commonEpochs = x.commonEpochs := by dsimp only [record, causalUp]
@[simp] theorem record_rooms (x : Channel) (r : FaultRec) : (record x r).rooms = x.rooms := by dsimp only [record, causalUp]
@[simp] theorem record_island (x : Channel) (r : FaultRec) : (record x r).island = x.island := by dsimp only [record, causalUp]
@[simp] theorem record_ws (x : Channel) (r : FaultRec) : (record x r).ws = x.ws := by dsimp only [record, causalUp]
@[simp] theorem record_sump (x : Channel) (r : FaultRec) : (record x r).sump = x.sump := by dsimp only [record, causalUp]
@[simp] theorem record_cistern (x : Channel) (r : FaultRec) : (record x r).cistern = x.cistern := by dsimp only [record, causalUp]
@[simp] theorem record_tags (x : Channel) (r : FaultRec) : (record x r).tags = x.tags := by dsimp only [record, causalUp]
@[simp] theorem record_wsPoison (x : Channel) (r : FaultRec) : (record x r).wsPoison = x.wsPoison := by dsimp only [record, causalUp]
@[simp] theorem record_sumpPoison (x : Channel) (r : FaultRec) : (record x r).sumpPoison = x.sumpPoison := by dsimp only [record, causalUp]
@[simp] theorem record_cisPoison (x : Channel) (r : FaultRec) : (record x r).cisPoison = x.cisPoison := by dsimp only [record, causalUp]
@[simp] theorem record_commonPages (x : Channel) (r : FaultRec) : (record x r).commonPages = x.commonPages := by dsimp only [record, causalUp]
@[simp] theorem record_commonMem (x : Channel) (r : FaultRec) : (record x r).commonMem = x.commonMem := by dsimp only [record, causalUp]
@[simp] theorem record_commonPoison (x : Channel) (r : FaultRec) : (record x r).commonPoison = x.commonPoison := by dsimp only [record, causalUp]
@[simp] theorem record_arose (x : Channel) (r : FaultRec) : (record x r).arose = x.arose := by dsimp only [record, causalUp]
@[simp] theorem record_frames (x : Channel) (r : FaultRec) : (record x r).frames = x.frames := by dsimp only [record, causalUp]
@[simp] theorem record_moves (x : Channel) (r : FaultRec) : (record x r).moves = x.moves := by dsimp only [record, causalUp]
@[simp] theorem record_chosen (x : Channel) (r : FaultRec) : (record x r).chosen = x.chosen := by dsimp only [record, causalUp]
@[simp] theorem record_ctrlItems (x : Channel) (r : FaultRec) : (record x r).ctrlItems = x.ctrlItems := by dsimp only [record, causalUp]
@[simp] theorem record_ctxs (x : Channel) (r : FaultRec) : (record x r).ctxs = x.ctxs := by dsimp only [record, causalUp]
@[simp] theorem record_budgets (x : Channel) (r : FaultRec) : (record x r).budgets = x.budgets := by dsimp only [record, causalUp]
@[simp] theorem record_slots (x : Channel) (r : FaultRec) : (record x r).slots = x.slots := by dsimp only [record, causalUp]
@[simp] theorem record_copies (x : Channel) (r : FaultRec) : (record x r).copies = x.copies := by dsimp only [record, causalUp]
@[simp] theorem record_models (x : Channel) (r : FaultRec) : (record x r).models = x.models := by dsimp only [record, causalUp]
@[simp] theorem record_stores (x : Channel) (r : FaultRec) : (record x r).stores = x.stores := by dsimp only [record, causalUp]
@[simp] theorem record_ports (x : Channel) (r : FaultRec) : (record x r).ports = x.ports := by dsimp only [record, causalUp]
@[simp] theorem record_routes (x : Channel) (r : FaultRec) : (record x r).routes = x.routes := by dsimp only [record, causalUp]
@[simp] theorem record_peers (x : Channel) (r : FaultRec) : (record x r).peers = x.peers := by dsimp only [record, causalUp]
@[simp] theorem record_colls (x : Channel) (r : FaultRec) : (record x r).colls = x.colls := by dsimp only [record, causalUp]
@[simp] theorem record_red (x : Channel) (r : FaultRec) : (record x r).red = x.red := by dsimp only [record, causalUp]
@[simp] theorem record_links (x : Channel) (r : FaultRec) : (record x r).links = x.links := by dsimp only [record, causalUp]
@[simp] theorem record_insts (x : Channel) (r : FaultRec) : (record x r).insts = x.insts := by dsimp only [record, causalUp]
@[simp] theorem record_redChunks (x : Channel) (r : FaultRec) : (record x r).redChunks = x.redChunks := by dsimp only [record, causalUp]
@[simp] theorem record_posted (x : Channel) (r : FaultRec) : (record x r).posted = x.posted := by dsimp only [record, causalUp]
@[simp] theorem record_early (x : Channel) (r : FaultRec) : (record x r).early = x.early := by dsimp only [record, causalUp]
@[simp] theorem record_retried (x : Channel) (r : FaultRec) : (record x r).retried = x.retried := by dsimp only [record, causalUp]
@[simp] theorem record_lanes (x : Channel) (r : FaultRec) : (record x r).lanes = x.lanes := by dsimp only [record, causalUp]
@[simp] theorem record_qps (x : Channel) (r : FaultRec) : (record x r).qps = x.qps := by dsimp only [record, causalUp]
@[simp] theorem record_nextXid (x : Channel) (r : FaultRec) : (record x r).nextXid = x.nextXid := by dsimp only [record, causalUp]
@[simp] theorem record_placed (x : Channel) (r : FaultRec) : (record x r).placed = x.placed := by dsimp only [record, causalUp]
@[simp] theorem record_peerMem (x : Channel) (r : FaultRec) : (record x r).peerMem = x.peerMem := by dsimp only [record, causalUp]
@[simp] theorem record_attics (x : Channel) (r : FaultRec) : (record x r).attics = x.attics := by dsimp only [record, causalUp]
@[simp] theorem record_sec (x : Channel) (r : FaultRec) : (record x r).sec = x.sec := by dsimp only [record, causalUp]
@[simp] theorem record_bootKey (x : Channel) (r : FaultRec) : (record x r).bootKey = x.bootKey := by dsimp only [record, causalUp]
@[simp] theorem record_suiteKey (x : Channel) (r : FaultRec) : (record x r).suiteKey = x.suiteKey := by dsimp only [record, causalUp]
@[simp] theorem record_memKey (x : Channel) (r : FaultRec) : (record x r).memKey = x.memKey := by dsimp only [record, causalUp]
@[simp] theorem record_ctrlKey (x : Channel) (r : FaultRec) : (record x r).ctrlKey = x.ctrlKey := by dsimp only [record, causalUp]
@[simp] theorem record_debugBoot (x : Channel) (r : FaultRec) : (record x r).debugBoot = x.debugBoot := by dsimp only [record, causalUp]
@[simp] theorem record_trngFail (x : Channel) (r : FaultRec) : (record x r).trngFail = x.trngFail := by dsimp only [record, causalUp]
@[simp] theorem record_fuseSvn (x : Channel) (r : FaultRec) : (record x r).fuseSvn = x.fuseSvn := by dsimp only [record, causalUp]
@[simp] theorem record_fltHist (x : Channel) (r : FaultRec) : (record x r).fltHist = x.fltHist := by dsimp only [record, causalUp]
@[simp] theorem record_drain (x : Channel) (r : FaultRec) : (record x r).drain = x.drain := by dsimp only [record, causalUp]
@[simp] theorem record_bankSpares (x : Channel) (r : FaultRec) : (record x r).bankSpares = x.bankSpares := by dsimp only [record, causalUp]
@[simp] theorem record_storeSpares (x : Channel) (r : FaultRec) : (record x r).storeSpares = x.storeSpares := by dsimp only [record, causalUp]
@[simp] theorem record_trips (x : Channel) (r : FaultRec) : (record x r).trips = x.trips := by dsimp only [record, causalUp]
@[simp] theorem record_step (x : Channel) (r : FaultRec) : (record x r).step = x.step := by dsimp only [record, causalUp]
@[simp] theorem record_stepCause (x : Channel) (r : FaultRec) : (record x r).stepCause = x.stepCause := by dsimp only [record, causalUp]
@[simp] theorem record_temp (x : Channel) (r : FaultRec) : (record x r).temp = x.temp := by dsimp only [record, causalUp]
@[simp] theorem record_stackTemp (x : Channel) (r : FaultRec) : (record x r).stackTemp = x.stackTemp := by dsimp only [record, causalUp]
@[simp] theorem record_tjHold (x : Channel) (r : FaultRec) : (record x r).tjHold = x.tjHold := by dsimp only [record, causalUp]
@[simp] theorem record_powerDown (x : Channel) (r : FaultRec) : (record x r).powerDown = x.powerDown := by dsimp only [record, causalUp]
@[simp] theorem record_issueHold (x : Channel) (r : FaultRec) : (record x r).issueHold = x.issueHold := by dsimp only [record, causalUp]

/-! ## A room's update changes the rooms -/

@[simp] theorem setRoom_released (x : Channel) (n : Nat) (r : Room) : (setRoom x n r).released = x.released := by dsimp only [setRoom]
@[simp] theorem setRoom_imageOk (x : Channel) (n : Nat) (r : Room) : (setRoom x n r).imageOk = x.imageOk := by dsimp only [setRoom]
@[simp] theorem setRoom_started (x : Channel) (n : Nat) (r : Room) : (setRoom x n r).started = x.started := by dsimp only [setRoom]
@[simp] theorem setRoom_lost (x : Channel) (n : Nat) (r : Room) : (setRoom x n r).lost = x.lost := by dsimp only [setRoom]
@[simp] theorem setRoom_failedCols (x : Channel) (n : Nat) (r : Room) : (setRoom x n r).failedCols = x.failedCols := by dsimp only [setRoom]
@[simp] theorem setRoom_failedRows (x : Channel) (n : Nat) (r : Room) : (setRoom x n r).failedRows = x.failedRows := by dsimp only [setRoom]
@[simp] theorem setRoom_arrayOn (x : Channel) (n : Nat) (r : Room) : (setRoom x n r).arrayOn = x.arrayOn := by dsimp only [setRoom]
@[simp] theorem setRoom_cmdCore (x : Channel) (n : Nat) (r : Room) : (setRoom x n r).cmdCore = x.cmdCore := by dsimp only [setRoom]
@[simp] theorem setRoom_hkCore (x : Channel) (n : Nat) (r : Room) : (setRoom x n r).hkCore = x.hkCore := by dsimp only [setRoom]
@[simp] theorem setRoom_irq (x : Channel) (n : Nat) (r : Room) : (setRoom x n r).irq = x.irq := by dsimp only [setRoom]
@[simp] theorem setRoom_porchUs (x : Channel) (n : Nat) (r : Room) : (setRoom x n r).porchUs = x.porchUs := by dsimp only [setRoom]
@[simp] theorem setRoom_arrStatus (x : Channel) (n : Nat) (r : Room) : (setRoom x n r).arrStatus = x.arrStatus := by dsimp only [setRoom]
@[simp] theorem setRoom_arrCount (x : Channel) (n : Nat) (r : Room) : (setRoom x n r).arrCount = x.arrCount := by dsimp only [setRoom]
@[simp] theorem setRoom_streamFault (x : Channel) (n : Nat) (r : Room) : (setRoom x n r).streamFault = x.streamFault := by dsimp only [setRoom]
@[simp] theorem setRoom_issueCount (x : Channel) (n : Nat) (r : Room) : (setRoom x n r).issueCount = x.issueCount := by dsimp only [setRoom]
@[simp] theorem setRoom_waitLimit (x : Channel) (n : Nat) (r : Room) : (setRoom x n r).waitLimit = x.waitLimit := by dsimp only [setRoom]
@[simp] theorem setRoom_stacks (x : Channel) (n : Nat) (r : Room) : (setRoom x n r).memStacks = x.memStacks := by dsimp only [setRoom]
@[simp] theorem setRoom_scrub (x : Channel) (n : Nat) (r : Room) : (setRoom x n r).scrub = x.scrub := by dsimp only [setRoom]
@[simp] theorem setRoom_regions (x : Channel) (n : Nat) (r : Room) : (setRoom x n r).regions = x.regions := by dsimp only [setRoom]
@[simp] theorem setRoom_disabled (x : Channel) (n : Nat) (r : Room) : (setRoom x n r).disabled = x.disabled := by dsimp only [setRoom]
@[simp] theorem setRoom_regionPools (x : Channel) (n : Nat) (r : Room) : (setRoom x n r).regionPools = x.regionPools := by dsimp only [setRoom]
@[simp] theorem setRoom_pumps (x : Channel) (n : Nat) (r : Room) : (setRoom x n r).pumps = x.pumps := by dsimp only [setRoom]
@[simp] theorem setRoom_tierCtl (x : Channel) (n : Nat) (r : Room) : (setRoom x n r).tierCtl = x.tierCtl := by dsimp only [setRoom]
@[simp] theorem setRoom_commonAcct (x : Channel) (n : Nat) (r : Room) : (setRoom x n r).commonAcct = x.commonAcct := by dsimp only [setRoom]
@[simp] theorem setRoom_commonEpochs (x : Channel) (n : Nat) (r : Room) : (setRoom x n r).commonEpochs = x.commonEpochs := by dsimp only [setRoom]
@[simp] theorem setRoom_island (x : Channel) (n : Nat) (r : Room) : (setRoom x n r).island = x.island := by dsimp only [setRoom]
@[simp] theorem setRoom_ws (x : Channel) (n : Nat) (r : Room) : (setRoom x n r).ws = x.ws := by dsimp only [setRoom]
@[simp] theorem setRoom_sump (x : Channel) (n : Nat) (r : Room) : (setRoom x n r).sump = x.sump := by dsimp only [setRoom]
@[simp] theorem setRoom_cistern (x : Channel) (n : Nat) (r : Room) : (setRoom x n r).cistern = x.cistern := by dsimp only [setRoom]
@[simp] theorem setRoom_tags (x : Channel) (n : Nat) (r : Room) : (setRoom x n r).tags = x.tags := by dsimp only [setRoom]
@[simp] theorem setRoom_wsPoison (x : Channel) (n : Nat) (r : Room) : (setRoom x n r).wsPoison = x.wsPoison := by dsimp only [setRoom]
@[simp] theorem setRoom_sumpPoison (x : Channel) (n : Nat) (r : Room) : (setRoom x n r).sumpPoison = x.sumpPoison := by dsimp only [setRoom]
@[simp] theorem setRoom_cisPoison (x : Channel) (n : Nat) (r : Room) : (setRoom x n r).cisPoison = x.cisPoison := by dsimp only [setRoom]
@[simp] theorem setRoom_commonPages (x : Channel) (n : Nat) (r : Room) : (setRoom x n r).commonPages = x.commonPages := by dsimp only [setRoom]
@[simp] theorem setRoom_commonMem (x : Channel) (n : Nat) (r : Room) : (setRoom x n r).commonMem = x.commonMem := by dsimp only [setRoom]
@[simp] theorem setRoom_commonPoison (x : Channel) (n : Nat) (r : Room) : (setRoom x n r).commonPoison = x.commonPoison := by dsimp only [setRoom]
@[simp] theorem setRoom_arose (x : Channel) (n : Nat) (r : Room) : (setRoom x n r).arose = x.arose := by dsimp only [setRoom]
@[simp] theorem setRoom_frames (x : Channel) (n : Nat) (r : Room) : (setRoom x n r).frames = x.frames := by dsimp only [setRoom]
@[simp] theorem setRoom_moves (x : Channel) (n : Nat) (r : Room) : (setRoom x n r).moves = x.moves := by dsimp only [setRoom]
@[simp] theorem setRoom_chosen (x : Channel) (n : Nat) (r : Room) : (setRoom x n r).chosen = x.chosen := by dsimp only [setRoom]
@[simp] theorem setRoom_ctrlItems (x : Channel) (n : Nat) (r : Room) : (setRoom x n r).ctrlItems = x.ctrlItems := by dsimp only [setRoom]
@[simp] theorem setRoom_ctxs (x : Channel) (n : Nat) (r : Room) : (setRoom x n r).ctxs = x.ctxs := by dsimp only [setRoom]
@[simp] theorem setRoom_budgets (x : Channel) (n : Nat) (r : Room) : (setRoom x n r).budgets = x.budgets := by dsimp only [setRoom]
@[simp] theorem setRoom_slots (x : Channel) (n : Nat) (r : Room) : (setRoom x n r).slots = x.slots := by dsimp only [setRoom]
@[simp] theorem setRoom_copies (x : Channel) (n : Nat) (r : Room) : (setRoom x n r).copies = x.copies := by dsimp only [setRoom]
@[simp] theorem setRoom_models (x : Channel) (n : Nat) (r : Room) : (setRoom x n r).models = x.models := by dsimp only [setRoom]
@[simp] theorem setRoom_stores (x : Channel) (n : Nat) (r : Room) : (setRoom x n r).stores = x.stores := by dsimp only [setRoom]
@[simp] theorem setRoom_node (x : Channel) (n : Nat) (r : Room) : (setRoom x n r).node = x.node := by dsimp only [setRoom]
@[simp] theorem setRoom_ports (x : Channel) (n : Nat) (r : Room) : (setRoom x n r).ports = x.ports := by dsimp only [setRoom]
@[simp] theorem setRoom_routes (x : Channel) (n : Nat) (r : Room) : (setRoom x n r).routes = x.routes := by dsimp only [setRoom]
@[simp] theorem setRoom_peers (x : Channel) (n : Nat) (r : Room) : (setRoom x n r).peers = x.peers := by dsimp only [setRoom]
@[simp] theorem setRoom_colls (x : Channel) (n : Nat) (r : Room) : (setRoom x n r).colls = x.colls := by dsimp only [setRoom]
@[simp] theorem setRoom_red (x : Channel) (n : Nat) (r : Room) : (setRoom x n r).red = x.red := by dsimp only [setRoom]
@[simp] theorem setRoom_links (x : Channel) (n : Nat) (r : Room) : (setRoom x n r).links = x.links := by dsimp only [setRoom]
@[simp] theorem setRoom_insts (x : Channel) (n : Nat) (r : Room) : (setRoom x n r).insts = x.insts := by dsimp only [setRoom]
@[simp] theorem setRoom_redChunks (x : Channel) (n : Nat) (r : Room) : (setRoom x n r).redChunks = x.redChunks := by dsimp only [setRoom]
@[simp] theorem setRoom_posted (x : Channel) (n : Nat) (r : Room) : (setRoom x n r).posted = x.posted := by dsimp only [setRoom]
@[simp] theorem setRoom_early (x : Channel) (n : Nat) (r : Room) : (setRoom x n r).early = x.early := by dsimp only [setRoom]
@[simp] theorem setRoom_retried (x : Channel) (n : Nat) (r : Room) : (setRoom x n r).retried = x.retried := by dsimp only [setRoom]
@[simp] theorem setRoom_lanes (x : Channel) (n : Nat) (r : Room) : (setRoom x n r).lanes = x.lanes := by dsimp only [setRoom]
@[simp] theorem setRoom_qps (x : Channel) (n : Nat) (r : Room) : (setRoom x n r).qps = x.qps := by dsimp only [setRoom]
@[simp] theorem setRoom_nextXid (x : Channel) (n : Nat) (r : Room) : (setRoom x n r).nextXid = x.nextXid := by dsimp only [setRoom]
@[simp] theorem setRoom_placed (x : Channel) (n : Nat) (r : Room) : (setRoom x n r).placed = x.placed := by dsimp only [setRoom]
@[simp] theorem setRoom_peerMem (x : Channel) (n : Nat) (r : Room) : (setRoom x n r).peerMem = x.peerMem := by dsimp only [setRoom]
@[simp] theorem setRoom_attics (x : Channel) (n : Nat) (r : Room) : (setRoom x n r).attics = x.attics := by dsimp only [setRoom]
@[simp] theorem setRoom_sec (x : Channel) (n : Nat) (r : Room) : (setRoom x n r).sec = x.sec := by dsimp only [setRoom]
@[simp] theorem setRoom_bootKey (x : Channel) (n : Nat) (r : Room) : (setRoom x n r).bootKey = x.bootKey := by dsimp only [setRoom]
@[simp] theorem setRoom_suiteKey (x : Channel) (n : Nat) (r : Room) : (setRoom x n r).suiteKey = x.suiteKey := by dsimp only [setRoom]
@[simp] theorem setRoom_memKey (x : Channel) (n : Nat) (r : Room) : (setRoom x n r).memKey = x.memKey := by dsimp only [setRoom]
@[simp] theorem setRoom_ctrlKey (x : Channel) (n : Nat) (r : Room) : (setRoom x n r).ctrlKey = x.ctrlKey := by dsimp only [setRoom]
@[simp] theorem setRoom_debugBoot (x : Channel) (n : Nat) (r : Room) : (setRoom x n r).debugBoot = x.debugBoot := by dsimp only [setRoom]
@[simp] theorem setRoom_trngFail (x : Channel) (n : Nat) (r : Room) : (setRoom x n r).trngFail = x.trngFail := by dsimp only [setRoom]
@[simp] theorem setRoom_fuseSvn (x : Channel) (n : Nat) (r : Room) : (setRoom x n r).fuseSvn = x.fuseSvn := by dsimp only [setRoom]
@[simp] theorem setRoom_flt (x : Channel) (n : Nat) (r : Room) : (setRoom x n r).flt = x.flt := by dsimp only [setRoom]
@[simp] theorem setRoom_fltHist (x : Channel) (n : Nat) (r : Room) : (setRoom x n r).fltHist = x.fltHist := by dsimp only [setRoom]
@[simp] theorem setRoom_hist (x : Channel) (n : Nat) (r : Room) : (setRoom x n r).hist = x.hist := by dsimp only [setRoom]
@[simp] theorem setRoom_drain (x : Channel) (n : Nat) (r : Room) : (setRoom x n r).drain = x.drain := by dsimp only [setRoom]
@[simp] theorem setRoom_bankSpares (x : Channel) (n : Nat) (r : Room) : (setRoom x n r).bankSpares = x.bankSpares := by dsimp only [setRoom]
@[simp] theorem setRoom_storeSpares (x : Channel) (n : Nat) (r : Room) : (setRoom x n r).storeSpares = x.storeSpares := by dsimp only [setRoom]
@[simp] theorem setRoom_trips (x : Channel) (n : Nat) (r : Room) : (setRoom x n r).trips = x.trips := by dsimp only [setRoom]
@[simp] theorem setRoom_step (x : Channel) (n : Nat) (r : Room) : (setRoom x n r).step = x.step := by dsimp only [setRoom]
@[simp] theorem setRoom_stepCause (x : Channel) (n : Nat) (r : Room) : (setRoom x n r).stepCause = x.stepCause := by dsimp only [setRoom]
@[simp] theorem setRoom_temp (x : Channel) (n : Nat) (r : Room) : (setRoom x n r).temp = x.temp := by dsimp only [setRoom]
@[simp] theorem setRoom_stackTemp (x : Channel) (n : Nat) (r : Room) : (setRoom x n r).stackTemp = x.stackTemp := by dsimp only [setRoom]
@[simp] theorem setRoom_tjHold (x : Channel) (n : Nat) (r : Room) : (setRoom x n r).tjHold = x.tjHold := by dsimp only [setRoom]
@[simp] theorem setRoom_powerDown (x : Channel) (n : Nat) (r : Room) : (setRoom x n r).powerDown = x.powerDown := by dsimp only [setRoom]
@[simp] theorem setRoom_issueHold (x : Channel) (n : Nat) (r : Room) : (setRoom x n r).issueHold = x.issueHold := by dsimp only [setRoom]

/-! ## What is read at a key depends on its table alone -/

theorem roomOf_congr {x y : Channel} (h : y.rooms = x.rooms) (n : Nat) : roomOf y n = roomOf x n := by unfold roomOf; rw [h]
theorem portOf_congr {x y : Channel} (h : y.ports = x.ports) (p : BitVec 2) : portOf y p = portOf x p := by unfold portOf; rw [h]
theorem linkOf_congr {x y : Channel} (h : y.links = x.links) (l : Link) : linkOf y l = linkOf x l := by unfold linkOf; rw [h]

end Sys2Proof.Machine
end

