-- ==== Sys2Proof/Laws/Functions.lean ====
section
/-! SUPPORT. Laws/Functions.lean: what vectors, event records and results change of the functions, and what they keep. -/

namespace Sys2Proof.Machine

theorem fnOf_setFn (d : Device) (f g : Fn) (x : FnState) :
    fnOf (setFn d f x) g = if g.key = f.key then { x with words := { x.words with port := g.portB, func := g.num } } else fnOf d g := by
  unfold fnOf setFn
  dsimp only
  rw [tget_tset]
  split <;> rfl

@[simp] theorem fnOf_setFn_same (d : Device) (f : Fn) (x : FnState) :
    fnOf (setFn d f x) f = { x with words := { x.words with port := f.portB, func := f.num } } := by rw [fnOf_setFn, if_pos rfl]

@[simp] theorem fnOf_send (d : Device) (m : OutMsg) (f : Fn) : fnOf (send d m) f = fnOf d f := rfl

/-- Two states of a function agree but for their vectors. -/
def SameButVectors (x y : FnState) : Prop := y = { x with vectors := y.vectors }

theorem fireVec_fn (d : Device) (f : Fn) (v : Nat) (g : Fn) : SameButVectors (fnOf d g) (fnOf (fireVec d f v) g) := by
  unfold SameButVectors fireVec
  dsimp only
  split
  · rw [fnOf_setFn]
    split
    · rename_i h; unfold fnOf; rw [h]
    · rfl
  · rw [fnOf_send, fnOf_setFn]
    split
    · rename_i h; unfold fnOf; rw [h]
    · rfl

theorem vecUnits_fn (d : Device) (f : Fn) (v n : Nat) (g : Fn) : SameButVectors (fnOf d g) (fnOf (vecUnits d f v n) g) := by
  have h1 : ∀ t, SameButVectors (fnOf d g) (fnOf (setFn d f { fnOf d f with vectors := t }) g) := by
    intro t
    unfold SameButVectors
    rw [fnOf_setFn]
    split
    · rename_i h; unfold fnOf; rw [h]
    · rfl
  unfold vecUnits
  extract_lets x k k' d'
  split
  · have h2 := fireVec_fn d' f v g
    have h1 := h1 (tset {} x.vectors v k')
    unfold SameButVectors at *
    rw [h2, show fnOf d' g = _ from h1]
  · exact h1 _

/-- Two states of a function agree but for vectors, the event queue's PROD, records dropped and EVQ_LOST. -/
def SameButEvents (x y : FnState) : Prop :=
  y.busMaster = x.busMaster ∧ y.d3hot = x.d3hot ∧ y.words.evqEn = x.words.evqEn ∧
  ∀ m, tget {} y.mailboxes m = { tget {} x.mailboxes m with
    words := { (tget {} x.mailboxes m).words with evqLost := (tget {} y.mailboxes m).words.evqLost } }

theorem SameButEvents.rfl' (x : FnState) : SameButEvents x x := ⟨rfl, rfl, rfl, fun _ => rfl⟩
theorem SameButEvents.trans {x y z : FnState} (h : SameButEvents x y) (g : SameButEvents y z) : SameButEvents x z := by
  obtain ⟨h1, h2, h3, h4⟩ := h
  obtain ⟨g1, g2, g3, g4⟩ := g
  refine ⟨g1.trans h1, g2.trans h2, g3.trans h3, fun m => ?_⟩
  rw [g4 m, h4 m]
theorem SameButVectors.events {x y : FnState} (h : SameButVectors x y) : SameButEvents x y := by
  unfold SameButVectors at h
  rw [h]
  exact ⟨rfl, rfl, rfl, fun _ => rfl⟩

theorem writeEvent_fn (d : Device) (f : Fn) (e : EventRecord) (g : Fn) : SameButEvents (fnOf d g) (fnOf (writeEvent d f e) g) := by
  unfold writeEvent
  dsimp only
  refine SameButEvents.trans ?_ (vecUnits_fn _ _ _ _ _).events
  rw [fnOf_setFn]
  split
  · rename_i h
    refine ⟨?_, ?_, ?_, fun m => ?_⟩ <;> (unfold fnOf; rw [h])
  · exact .rfl' _

theorem postEvent_fn (d : Device) (f : Fn) (e : EventRecord) (g : Fn) : SameButEvents (fnOf d g) (fnOf (postEvent d f e) g) := by
  unfold postEvent
  extract_lets x
  split
  · exact .rfl' _
  · split
    · exact writeEvent_fn ..
    · rw [fnOf_setFn]
      split
      · rename_i h
        refine ⟨?_, ?_, ?_, fun n => ?_⟩
        · show x.busMaster = _; simp only [x]; unfold fnOf; rw [h]
        · show x.d3hot = _; simp only [x]; unfold fnOf; rw [h]
        · show x.words.evqEn = _; simp only [x]; unfold fnOf; rw [h]
        · show tget {} (tset {} x.mailboxes 0 _) n = _
          have hx : x.mailboxes = (fnOf d g).mailboxes := by simp only [x]; unfold fnOf; rw [h]
          rw [tget_tset]
          split
          · rename_i hn; subst hn
            rw [← hx]
          · rename_i hn
            rw [← hx]
      · exact .rfl' _

theorem mbxOf_postEvent (d : Device) (f : Fn) (e : EventRecord) (g : Fn) (m : BitVec 4) :
    mbxOf (postEvent d f e) g m = { mbxOf d g m with
      words := { (mbxOf d g m).words with evqLost := (mbxOf (postEvent d f e) g m).words.evqLost } } :=
  (postEvent_fn d f e g).2.2.2 m.toNat
theorem slotOf_postEvent (d : Device) (f : Fn) (e : EventRecord) (g : Fn) (m : BitVec 4) (k : BitVec 3) :
    slotOf (postEvent d f e) g m k = slotOf d g m k := by
  unfold slotOf; rw [mbxOf_postEvent]
theorem mbxOf_vecUnits (d : Device) (f : Fn) (v n : Nat) (g : Fn) (m : BitVec 4) : mbxOf (vecUnits d f v n) g m = mbxOf d g m := by
  unfold mbxOf; rw [vecUnits_fn d f v n g]

theorem mbxOf_modMbx_same (d : Device) (f : Fn) (m : BitVec 4) (u : Mailbox → Mailbox) : mbxOf (modMbx d f m u) f m = u (mbxOf d f m) := by
  unfold mbxOf modMbx modFn
  rw [fnOf_setFn_same]
  simp only [tget_tmod_same]
theorem slotOf_setSlot_same (d : Device) (f : Fn) (m : BitVec 4) (k : BitVec 3) (r : ResultSlot) : slotOf (setSlot d f m k r) f m k = r := by
  unfold slotOf setSlot
  rw [mbxOf_modMbx_same]
  simp only [tget_tset_same]
theorem mbxOf_setSlot_words (d : Device) (f : Fn) (m : BitVec 4) (k : BitVec 3) (r : ResultSlot) :
    (mbxOf (setSlot d f m k r) f m).words = { (mbxOf d f m).words with slotState := (mbxOf (setSlot d f m k r) f m).words.slotState } := by
  unfold setSlot
  rw [mbxOf_modMbx_same]

@[simp] theorem fnOfKey_key (f : Fn) : fnOfKey f.key = f := by
  obtain ⟨b, n⟩ := f
  have h := n.isLt
  unfold fnOfKey Fn.key
  cases b
  · simp [show ¬ 256 ≤ n.toNat by omega]
  · simp [BitVec.ofNat_add]

/-! ## Functions that an update does not name -/

theorem fireVec_ne (d : Device) {f g : Fn} (v : Nat) (h : g.key ≠ f.key) : fnOf (fireVec d f v) g = fnOf d g := by
  unfold fireVec
  dsimp only
  split
  · rw [fnOf_setFn, if_neg h]
  · rw [fnOf_send, fnOf_setFn, if_neg h]

theorem vecUnits_ne (d : Device) {f g : Fn} (v n : Nat) (h : g.key ≠ f.key) : fnOf (vecUnits d f v n) g = fnOf d g := by
  unfold vecUnits
  extract_lets x k k' d'
  split
  · rw [fireVec_ne _ _ h, fnOf_setFn, if_neg h]
  · rw [fnOf_setFn, if_neg h]

theorem writeEvent_ne (d : Device) {f g : Fn} (e : EventRecord) (h : g.key ≠ f.key) : fnOf (writeEvent d f e) g = fnOf d g := by
  unfold writeEvent
  rw [vecUnits_ne _ _ _ h, fnOf_setFn, if_neg h, fnOf_send]

theorem Fn.key_inj {f g : Fn} (h : g.key = f.key) : g = f := by rw [← fnOfKey_key g, h, fnOfKey_key]

/-- A function whose event queue is not enabled receives no event. -/
theorem postEvent_quiet (d : Device) (f g : Fn) (e : EventRecord) (h : (fnOf d g).words.evqEn = false) :
    fnOf (postEvent d f e) g = fnOf d g := by
  by_cases hk : g.key = f.key
  · have hf := Fn.key_inj hk
    subst hf
    unfold postEvent; simp [h]
  · unfold postEvent
    extract_lets x
    split
    · rfl
    · split
      · exact writeEvent_ne _ _ hk
      · rw [fnOf_setFn, if_neg hk]

theorem postAll_quiet (d : Device) (g : Fn) (e : EventRecord) (h : (fnOf d g).words.evqEn = false) :
    fnOf (postAll d e) g = fnOf d g := by
  unfold postAll
  generalize knownFns d = l
  induction l generalizing d with
  | nil => rfl
  | cons a l ih =>
    have q := postEvent_quiet d a g e h
    rw [List.foldl_cons, ih _ (by rw [q]; exact h), q]

/-! ## Results -/

/-- A command's result is READY in its slot, with its status and words (R667). -/
theorem postResult_slot (d : Device) (f : Fn) (m : BitVec 4) (k : BitVec 3) (st : Status) (ws : List W32)
    (h : (slotOf d f m k).state = .pending) :
    slotOf (postResult d ⟨f.key, m, k⟩ st ws) f m k = { slotOf d f m k with
      state := .ready, status := resultStatus d st, reread := 0, words := ws.take (slotWords d), readyMs := devMs d } := by
  have hk : f.key < 512 := by
    obtain ⟨b, n⟩ := f
    unfold Fn.key
    have := n.isLt
    cases b <;> simp <;> omega
  unfold postResult
  simp only [fnOfKey_key, h, hk, decide_true, Bool.and_self, if_true]
  unfold slotOf
  rw [mbxOf_vecUnits]
  exact slotOf_setSlot_same ..

end Sys2Proof.Machine
end

