-- ==== Sys2Proof/Laws/Pages.lean ====
section
/-! SUPPORT. Laws/Pages.lean: what freeing, moving and allocating pages changes of a channel, and what it keeps. -/

namespace Sys2Proof.Machine

/-- A room but for its page table, its account's use, its memory and its poison. -/
def SameButPages (r q : Room) : Prop := q = { r with pages := q.pages, tier := q.tier, mem := q.mem, poison := q.poison }

theorem SameButPages.refl (r : Room) : SameButPages r r := rfl
theorem SameButPages.trans {a b c : Room} (h : SameButPages a b) (g : SameButPages b c) : SameButPages a c := by
  unfold SameButPages at *; rw [g, h]

/-- A channel but for pages, their pools, moves and memories. -/
def OnlyPages (x y : Channel) : Prop :=
  (∀ n, SameButPages (roomOf x n) (roomOf y n)) ∧
  y = { x with rooms := y.rooms, frames := y.frames, regionPools := y.regionPools, regions := y.regions, moves := y.moves, chosen := y.chosen,
               commonPages := y.commonPages, commonAcct := y.commonAcct, commonMem := y.commonMem, commonPoison := y.commonPoison }

theorem OnlyPages.refl (x : Channel) : OnlyPages x x := ⟨fun _ => .refl _, rfl⟩
theorem OnlyPages.trans {a b c : Channel} (h : OnlyPages a b) (g : OnlyPages b c) : OnlyPages a c := by
  refine ⟨fun n => (h.1 n).trans (g.1 n), ?_⟩
  have h2 := h.2
  have g2 := g.2
  rw [h2] at g2
  exact g2

theorem onlyPages_modRoomC (x : Channel) (n : Nat) (f : Room → Room) (h : ∀ r, SameButPages r (f r)) : OnlyPages x (modRoomC x n f) := by
  refine ⟨fun m => ?_, rfl⟩
  by_cases hm : m = n
  · subst hm; rw [roomOf_modRoomC_same]; exact h _
  · rw [roomOf_modRoomC_ne _ _ hm]; exact .refl _

theorem onlyPages_setPte (x : Channel) (r : PageRef) (p : Pte) : OnlyPages x (setPte x r p) := by
  cases r with
  | room n k => exact onlyPages_modRoomC _ _ _ fun _ => rfl
  | common i => exact ⟨fun _ => .refl _, rfl⟩
theorem onlyPages_modPte (x : Channel) (r : PageRef) (f : Pte → Pte) : OnlyPages x (modPte x r f) := onlyPages_setPte ..
theorem onlyPages_giveCellar (x : Channel) (f : BitVec 32) : OnlyPages x (giveCellar x f) := ⟨fun _ => .refl _, rfl⟩
theorem onlyPages_giveFrame (x : Channel) (f : BitVec 32) : OnlyPages x (giveFrame x f) := ⟨fun _ => .refl _, rfl⟩
theorem onlyPages_modAcct (x : Channel) (a : Nat) (f : TierAcct → TierAcct) : OnlyPages x (modAcct x a f) := by
  unfold modAcct
  split
  · exact onlyPages_modRoomC _ _ _ fun _ => rfl
  · exact ⟨fun _ => .refl _, rfl⟩

theorem onlyPages_foldl {α : Type} (f : Channel → α → Channel) (h : ∀ x a, OnlyPages x (f x a)) (l : List α) (x : Channel) :
    OnlyPages x (l.foldl f x) := by
  induction l generalizing x with
  | nil => exact .refl _
  | cons a l ih => exact (h x a).trans (ih _)

theorem onlyPages_withMoves (x : Channel) (m : List MoveJob) : OnlyPages x { x with moves := m } := ⟨fun _ => .refl _, rfl⟩
theorem onlyPages_withBoth (x : Channel) (m : List MoveJob) (c : List Move) : OnlyPages x { x with moves := m, chosen := c } := ⟨fun _ => .refl _, rfl⟩
theorem onlyPages_withCommon (x : Channel) (m : Memory) (c : List Nat) : OnlyPages x { x with commonMem := m, commonPoison := c } :=
  ⟨fun _ => .refl _, rfl⟩

theorem onlyPages_cancelEvict (x : Channel) (r : PageRef) : OnlyPages x (cancelEvict x r) := by
  unfold cancelEvict
  split
  · exact .refl _
  · extract_lets y
    refine OnlyPages.trans ?_ (onlyPages_withMoves y _)
    exact (onlyPages_modPte ..).trans (onlyPages_giveCellar ..)

/-- Freeing a page touches pages, their account, their pools and their bytes alone. -/
theorem onlyPages_freePage (x : Channel) (r : PageRef) : OnlyPages x (freePage x r) := by
  unfold freePage
  extract_lets p c a y y2 y3 z
  have hc : OnlyPages x c := onlyPages_cancelEvict x r
  have hy : OnlyPages c y := by
    simp only [y]
    split
    · exact onlyPages_giveCellar ..
    · exact onlyPages_giveFrame ..
  have hy2 : OnlyPages y y2 := onlyPages_foldl _ (fun _ _ => onlyPages_giveFrame ..) _ _
  have hy3 : OnlyPages y2 y3 := onlyPages_withBoth ..
  have hz : OnlyPages y3 z := (onlyPages_setPte ..).trans (onlyPages_modAcct ..)
  have h := (((hc.trans hy).trans hy2).trans hy3).trans hz
  clear_value z
  split
  · exact .refl _
  · split
    · exact onlyPages_setPte ..
    · split
      · exact h.trans (onlyPages_modRoomC _ _ _ fun _ => rfl)
      · exact h.trans (onlyPages_withCommon ..)

theorem onlyPages_freeRoomPages (x : Channel) (n : Nat) (l : List Nat) : OnlyPages x (freeRoomPages x n l) :=
  onlyPages_foldl _ (fun _ _ => onlyPages_freePage ..) _ _
theorem onlyPages_freeCommonPages (x : Channel) (l : List Nat) : OnlyPages x (freeCommonPages x l) :=
  onlyPages_foldl _ (fun _ _ => onlyPages_freePage ..) _ _

end Sys2Proof.Machine
end

