-- ==== Sys2Proof/Laws/Stores.lean ====
section
/-! SUPPORT. Laws/Stores.lean: what allocating and writing room memory changes, and what it keeps. -/

namespace Sys2Proof.Machine

/-- A room but for its memory, its pages and their account, the traffic charged to it, and what a capture has staged of it. -/
def SameButStore (r q : Room) : Prop :=
  q = { r with pages := q.pages, tier := q.tier, mem := q.mem, poison := q.poison, acct := q.acct, ckps := q.ckps, ckp := q.ckp }

theorem SameButStore.refl (r : Room) : SameButStore r r := rfl
theorem SameButStore.trans {a b c : Room} (h : SameButStore a b) (g : SameButStore b c) : SameButStore a c := by
  unfold SameButStore at *; rw [g, h]
theorem SameButPages.store {r q : Room} (h : SameButPages r q) : SameButStore r q := by
  unfold SameButPages at h; unfold SameButStore; rw [h]

/-- A channel but for its rooms' memories and pages, the common pages, and their pools and moves. -/
def OnlyStore (x y : Channel) : Prop :=
  (∀ n, SameButStore (roomOf x n) (roomOf y n)) ∧
  y = { x with rooms := y.rooms, frames := y.frames, regionPools := y.regionPools, regions := y.regions, moves := y.moves, chosen := y.chosen,
               commonPages := y.commonPages, commonAcct := y.commonAcct, commonMem := y.commonMem, commonPoison := y.commonPoison }

theorem OnlyStore.refl (x : Channel) : OnlyStore x x := ⟨fun _ => .refl _, rfl⟩
theorem OnlyStore.trans {a b c : Channel} (h : OnlyStore a b) (g : OnlyStore b c) : OnlyStore a c := by
  refine ⟨fun n => (h.1 n).trans (g.1 n), ?_⟩
  have h2 := h.2
  have g2 := g.2
  rw [h2] at g2
  exact g2
theorem OnlyPages.store {x y : Channel} (h : OnlyPages x y) : OnlyStore x y := ⟨fun n => (h.1 n).store, h.2⟩

theorem onlyStore_modRoomC (x : Channel) (n : Nat) (f : Room → Room) (h : ∀ r, SameButStore r (f r)) : OnlyStore x (modRoomC x n f) := by
  refine ⟨fun m => ?_, rfl⟩
  by_cases hm : m = n
  · subst hm; rw [roomOf_modRoomC_same]; exact h _
  · rw [roomOf_modRoomC_ne _ _ hm]; exact .refl _

theorem onlyStore_foldl {α : Type} (f : Channel → α → Channel) (h : ∀ x a, OnlyStore x (f x a)) (l : List α) (x : Channel) :
    OnlyStore x (l.foldl f x) := by
  induction l generalizing x with
  | nil => exact .refl _
  | cons a l ih => exact (h x a).trans (ih _)

/-! ## Writes -/

theorem onlyStore_refreshFp (x : Channel) (r : PageRef) : OnlyStore x (refreshFp x r) := by
  unfold refreshFp
  extract_lets e
  split
  · exact (onlyPages_setPte ..).store
  · exact .refl _

theorem onlyPages_withCommonMem (x : Channel) (m : Memory) : OnlyPages x { x with commonMem := m } := ⟨fun _ => .refl _, rfl⟩

theorem onlyStore_writePage (x : Channel) (n p a : Nat) (bs : List Byte) : OnlyStore x (writePage x n p a bs) := by
  unfold writePage
  extract_lets r y
  have hy : OnlyStore x y := ((onlyPages_cancelEvict x r).trans (onlyPages_modPte ..)).store
  refine OnlyStore.trans ?_ (onlyStore_refreshFp _ _)
  clear_value y r
  cases r
  · exact hy.trans (onlyStore_modRoomC _ _ _ fun _ => rfl)
  · exact hy.trans (onlyPages_withCommonMem ..).store

theorem onlyStore_writeRoom (x : Channel) (n a : Nat) (bs : List Byte) : OnlyStore x (writeRoom x n a bs) :=
  onlyStore_foldl _ (fun _ _ => onlyStore_writePage ..) _ _

/-! ## Allocation -/

theorem onlyPages_takeCellar (x : Channel) (t : BitVec 32 × Channel) (h : takeCellar x = some t) : OnlyPages x t.2 := by
  unfold takeCellar at h
  rw [Option.map_eq_some_iff] at h
  obtain ⟨r, -, rfl⟩ := h
  exact ⟨fun _ => .refl _, rfl⟩

theorem onlyPages_grabFrame (x : Channel) (t : BitVec 32 × Channel) (h : grabFrame x = some t) : OnlyPages x t.2 := by
  unfold grabFrame at h
  split at h
  · cases h
  · simp only [Option.some.injEq] at h
    subst h
    exact ⟨fun _ => .refl _, rfl⟩

theorem onlyStore_chargeMove (x : Channel) (a : Nat) : OnlyStore x (chargeMove x a) := by
  unfold chargeMove
  split
  · exact onlyStore_modRoomC _ _ _ fun _ => rfl
  · exact .refl _

theorem onlyStore_endEvict (x : Channel) (r : PageRef) (place : Nat) : OnlyStore x (endEvict x r place) := by
  unfold endEvict
  extract_lets p a y z
  have hy : OnlyStore x y := ((onlyPages_giveFrame ..).trans (onlyPages_setPte ..)).store
  have hz : OnlyStore y z := (onlyPages_modAcct ..).store
  refine ((hy.trans hz).trans (onlyStore_chargeMove z a)).trans ?_
  exact (onlyPages_withMoves _ _).store

theorem onlyStore_evictNow (x y : Channel) (r : PageRef) (h : evictNow x r = some y) : OnlyStore x y := by
  unfold evictNow at h
  split at h
  · rw [Option.map_eq_some_iff] at h
    obtain ⟨t, ht, rfl⟩ := h
    exact (onlyPages_takeCellar x t ht).store.trans (onlyStore_endEvict ..)
  · cases h

theorem onlyStore_reclaim (x y : Channel) (h : reclaim x = some y) : OnlyStore x y := by
  unfold reclaim at h
  extract_lets owners pick at h
  rw [Option.bind_eq_some_iff] at h
  obtain ⟨a, -, h⟩ := h
  rw [Option.bind_eq_some_iff] at h
  obtain ⟨e, -, h⟩ := h
  exact onlyStore_evictNow x y _ h

theorem onlyStore_frameFor (x : Channel) (a : Nat) (t : BitVec 32 × Channel) (h : frameFor x a = some t) : OnlyStore x t.2 := by
  unfold frameFor at h
  extract_lets k at h
  split at h
  · cases h
  split at h
  · split at h
    · rename_i r hr
      simp only [Option.some.injEq] at h
      subst h
      exact (onlyPages_grabFrame x r hr).store
    · rw [Option.bind_eq_some_iff] at h
      obtain ⟨y, hy, h⟩ := h
      exact (onlyStore_reclaim x y hy).trans (onlyPages_grabFrame y t h).store
  · split at h
    · exact (onlyPages_grabFrame x t h).store
    · cases h

theorem onlyStore_allocPage (x : Channel) (a : Nat) (place : BitVec 2) (t : Pte × Channel) (h : allocPage x a place = some t) :
    OnlyStore x t.2 := by
  unfold allocPage at h
  split at h
  · cases h
  · extract_lets inT1 inT2 at h
    have h1 : ∀ r, inT1 = some r → OnlyStore x r.2 := by
      intro r hr
      simp only [inT1, Option.map_eq_some_iff] at hr
      obtain ⟨f, hf, rfl⟩ := hr
      exact (onlyStore_frameFor x a f hf).trans (onlyPages_modAcct ..).store
    have h2 : ∀ r, inT2 = some r → OnlyStore x r.2 := by
      intro r hr
      simp only [inT2] at hr
      split at hr
      · rw [Option.map_eq_some_iff] at hr
        obtain ⟨f, hf, rfl⟩ := hr
        exact ((onlyPages_takeCellar x f hf).trans (onlyPages_modAcct ..)).store
      · cases hr
    clear_value inT1 inT2
    split at h
    · exact h1 t h
    · split at h
      · exact h2 t h
      · cases hi : inT1 with
        | some r => rw [hi] at h; simp only [Option.some.injEq] at h; subst h; exact h1 r hi
        | none => rw [hi] at h; exact h2 t h

theorem onlyStore_allocRoomPage (place : BitVec 2) (n : Nat) (x y : Channel) (page : Nat) (h : allocRoomPage place n x page = some y) :
    OnlyStore x y := by
  unfold allocRoomPage at h
  split at h
  · simp only [Option.some.injEq] at h; subst h; exact .refl _
  · rw [Option.map_eq_some_iff] at h
    obtain ⟨t, ht, rfl⟩ := h
    exact (onlyStore_allocPage x n place t ht).trans (onlyPages_setPte ..).store

/-- Allocating pages touches pages, accounts, pools and what a reclaim evicts, alone. -/
theorem onlyStore_allocRoomPages (x y : Channel) (n : Nat) (place : BitVec 2) (l : List Nat) (h : allocRoomPages x n place l = some y) :
    OnlyStore x y := by
  unfold allocRoomPages at h
  induction l generalizing x with
  | nil => simp only [List.foldlM_nil, Option.pure_def, Option.some.injEq] at h; subst h; exact .refl _
  | cons p l ih =>
    rw [List.foldlM_cons, Option.bind_eq_bind, Option.bind_eq_some_iff] at h
    obtain ⟨z, hz, h⟩ := h
    exact (onlyStore_allocRoomPage place n x z p hz).trans (ih z h)

/-! ## The device -/

/-- The device but for the rooms' memories and pages. -/
def OnlyStores (d d' : Device) : Prop :=
  (∀ c, OnlyStore (chanOf d c) (chanOf d' c)) ∧ d'.fy = d.fy ∧ d'.suites = d.suites ∧ d'.out = d.out ∧ d'.free = d.free

theorem OnlyStores.refl (d : Device) : OnlyStores d d := ⟨fun _ => .refl _, rfl, rfl, rfl, rfl⟩
theorem OnlyStores.trans {a b c : Device} (h : OnlyStores a b) (g : OnlyStores b c) : OnlyStores a c :=
  ⟨fun k => (h.1 k).trans (g.1 k), g.2.1.trans h.2.1, g.2.2.1.trans h.2.2.1, g.2.2.2.1.trans h.2.2.2.1, g.2.2.2.2.trans h.2.2.2.2⟩

theorem onlyStores_setChan (d : Device) (c : Ch) (x : Channel) (h : OnlyStore (chanOf d c) x) : OnlyStores d (setChan d c x) := by
  refine ⟨fun o => ?_, rfl, rfl, rfl, rfl⟩
  rw [chanOf_setChan]
  split
  · rename_i ho; subst ho; exact h
  · exact .refl _
theorem onlyStores_modChan (d : Device) (c : Ch) (f : Channel → Channel) (h : ∀ x, OnlyStore x (f x)) : OnlyStores d (modChan d c f) :=
  onlyStores_setChan d c _ (h _)
theorem onlyStores_modChans (d : Device) (cs : List Ch) (f : Ch → Channel → Channel) (h : ∀ c x, OnlyStore x (f c x)) :
    OnlyStores d (modChans d cs f) := by
  unfold modChans
  induction cs generalizing d with
  | nil => exact .refl _
  | cons a l ih => exact (onlyStores_modChan d a _ (h a)).trans (ih _)
theorem onlyStores_foldl {α : Type} (f : Device → α → Device) (h : ∀ d a, OnlyStores d (f d a)) (l : List α) (d : Device) :
    OnlyStores d (l.foldl f d) := by
  induction l generalizing d with
  | nil => exact .refl _
  | cons a l ih => exact (h d a).trans (ih _)

theorem onlyStores_stageBefore (d : Device) (c : Ch) (n page : Nat) : OnlyStores d (stageBefore d c n page) := by
  unfold stageBefore
  split
  · exact .refl _
  · split
    · exact onlyStores_modChan _ _ _ fun x => onlyStore_modRoomC _ _ _ fun _ => rfl
    · exact .refl _

theorem onlyStores_writeMem (d : Device) (c : Ch) (n a : Nat) (bs : List Byte) : OnlyStores d (writeMem d c n a bs) :=
  (onlyStores_foldl _ (fun _ _ => onlyStores_stageBefore ..) _ _).trans (onlyStores_modChan _ _ _ fun _ => onlyStore_writeRoom ..)

/-- A write to room memory touches memories, pages and what a capture stages, alone. -/
theorem onlyStores_writeAlloc (d d' : Device) (c : Ch) (n a : Nat) (bs : List Byte) (place : BitVec 2)
    (h : writeAlloc d c n a bs place = some d') : OnlyStores d d' := by
  unfold writeAlloc at h
  rw [Option.map_eq_some_iff] at h
  obtain ⟨x, hx, rfl⟩ := h
  exact (onlyStores_setChan d c x (onlyStore_allocRoomPages _ _ _ _ _ hx)).trans (onlyStores_writeMem ..)

end Sys2Proof.Machine
end

