-- ==== Sys2Proof/Laws/Keeps.lean ====
section
/-! SUPPORT. Laws/Keeps.lean: what reads one view of a channel the same before and after: a relation that composes along the shared
operations, so that a fact about one field is shown without unfolding what other fields do. -/

namespace Sys2Proof.Machine

/-- The masks and leads of the suites are as before, and the view v of every channel is. -/
structure Keeps {α : Type} (v : Channel → α) (d d' : Device) : Prop where
  suites : ∀ s, (suiteOf d' s).mask = (suiteOf d s).mask ∧ (suiteOf d' s).lead = (suiteOf d s).lead
  chans : ∀ c, v (chanOf d' c) = v (chanOf d c)

variable {α : Type} {v : Channel → α}

theorem Keeps.refl (d : Device) : Keeps v d d := ⟨fun _ => ⟨rfl, rfl⟩, fun _ => rfl⟩
theorem Keeps.trans {a b c : Device} (h : Keeps v a b) (g : Keeps v b c) : Keeps v a c :=
  ⟨fun s => ⟨(g.suites s).1.trans (h.suites s).1, (g.suites s).2.trans (h.suites s).2⟩, fun k => (g.chans k).trans (h.chans k)⟩
theorem Keeps.leadOf {d d' : Device} (h : Keeps v d d') (s : Ch) : leadOf d' s = Machine.leadOf d s := by
  unfold Machine.leadOf; rw [(h.suites s).2]
theorem Keeps.suiteChans {d d' : Device} (h : Keeps v d d') (s : Ch) : suiteChans d' s = Machine.suiteChans d s := by
  unfold Machine.suiteChans; rw [(h.suites s).1]
theorem Keeps.of_suites {d d' : Device} (h : d'.suites = d.suites) (g : ∀ c, v (chanOf d' c) = v (chanOf d c)) : Keeps v d d' :=
  ⟨fun s => by unfold suiteOf; rw [h]; exact ⟨rfl, rfl⟩, g⟩
theorem Keeps.of_chans {d d' : Device} (h : d'.suites = d.suites) (g : d'.chans = d.chans) : Keeps v d d' :=
  .of_suites h fun c => by unfold chanOf; rw [g]

theorem keeps_setChan (d : Device) (c : Ch) (x : Channel) (h : v x = v (chanOf d c)) : Keeps v d (setChan d c x) :=
  .of_suites rfl fun o => by
    rw [chanOf_setChan]
    split
    · rename_i e; rw [e]; exact h
    · rfl
theorem keeps_modChan (d : Device) (c : Ch) (f : Channel → Channel) (h : ∀ x, v (f x) = v x) : Keeps v d (modChan d c f) :=
  keeps_setChan d c _ (h _)
theorem keeps_modLead (d : Device) (s : Ch) (f : Channel → Channel) (h : ∀ x, v (f x) = v x) : Keeps v d (modLead d s f) :=
  keeps_modChan d _ f h
theorem keeps_foldl {β : Type} (f : Device → β → Device) (h : ∀ d b, Keeps v d (f d b)) (l : List β) (d : Device) : Keeps v d (l.foldl f d) := by
  induction l generalizing d with
  | nil => exact .refl _
  | cons b l ih => exact (h d b).trans (ih _)
theorem keeps_modChans (d : Device) (cs : List Ch) (f : Ch → Channel → Channel) (h : ∀ c x, v (f c x) = v x) : Keeps v d (modChans d cs f) :=
  keeps_foldl _ (fun d c => keeps_modChan d c (f c) (h c)) cs d
theorem keeps_modSuite (d : Device) (s : Ch) (f : SchSuite → SchSuite) (h : ∀ u, (f u).mask = u.mask ∧ (f u).lead = u.lead) :
    Keeps v d (modSuite d s f) := by
  refine ⟨fun o => ?_, fun _ => rfl⟩
  by_cases e : o = s
  · subst e; rw [suiteOf_modSuite_same]; exact h _
  · rw [suiteOf_modSuite_ne _ _ e]; exact ⟨rfl, rfl⟩
theorem keeps_onlyFns {d d' : Device} (h : OnlyFns d d') : Keeps v d d' := .of_chans h.2.1 h.1
theorem keeps_withFy (d : Device) (f : Foyer) : Keeps v d { d with fy := f } := .of_chans rfl rfl
theorem keeps_send (d : Device) (m : OutMsg) : Keeps v d (send d m) := .of_chans rfl rfl

/-! ## A view of a room -/

/-- A view of room n of a channel. -/
def roomView (n : Nat) (w : Room → α) (x : Channel) : α := w (roomOf x n)

theorem roomView_modRoomC (x : Channel) (n m : Nat) (w : Room → α) (f : Room → Room) (h : ∀ r, w (f r) = w r) :
    roomView n w (modRoomC x m f) = roomView n w x := by
  unfold roomView
  by_cases e : n = m
  · subst e; rw [roomOf_modRoomC_same, h]
  · rw [roomOf_modRoomC_ne _ _ e]
theorem roomView_ne (x : Channel) {n m : Nat} (w : Room → α) (f : Room → Room) (h : n ≠ m) : roomView n w (modRoomC x m f) = roomView n w x := by
  unfold roomView; rw [roomOf_modRoomC_ne _ _ h]
theorem roomView_rooms {x y : Channel} (n : Nat) (w : Room → α) (h : y.rooms = x.rooms) : roomView n w y = roomView n w x := by
  unfold roomView roomOf; rw [h]

theorem Keeps.leadRoom {n : Nat} {w : Room → α} {d d' : Device} (h : Keeps (roomView n w) d d') (s : Ch) :
    w (leadRoom d' s n) = w (Machine.leadRoom d s n) := by
  unfold Machine.leadRoom; rw [h.leadOf]; exact h.chans _

variable {n : Nat} {w : Room → α}

theorem keeps_modRoom (d : Device) (c : Ch) (m : Nat) (f : Room → Room) (h : ∀ r, w (f r) = w r) : Keeps (roomView n w) d (modRoom d c m f) :=
  keeps_modChan d c _ fun x => roomView_modRoomC x n m w f h
theorem keeps_modLeadRoom (d : Device) (s : Ch) (m : Nat) (f : Room → Room) (h : ∀ r, w (f r) = w r) :
    Keeps (roomView n w) d (modLeadRoom d s m f) := keeps_modRoom d _ m f h
theorem keeps_modSuiteRoom (d : Device) (s : Ch) (m : Nat) (f : Room → Room) (h : ∀ r, w (f r) = w r) :
    Keeps (roomView n w) d (modSuiteRoom d s m f) := keeps_modChans d _ _ fun _ x => roomView_modRoomC x n m w f h
theorem keeps_modSuiteRoom_ne (d : Device) (s : Ch) (m : Nat) (f : Room → Room) (h : n ≠ m) :
    Keeps (roomView n w) d (modSuiteRoom d s m f) := keeps_modChans d _ _ fun _ x => roomView_ne x w f h
theorem keeps_modLeadRoom_ne (d : Device) (s : Ch) (m : Nat) (f : Room → Room) (h : n ≠ m) :
    Keeps (roomView n w) d (modLeadRoom d s m f) := keeps_modChan d _ _ fun x => roomView_ne x w f h
theorem keeps_onlyStores {d d' : Device} (h : OnlyStores d d') (hw : ∀ r q : Room, SameButStore r q → w q = w r) : Keeps (roomView n w) d d' :=
  .of_suites h.2.2.1 fun c => hw _ _ ((h.1 c).1 n)

/-! ## Suites' rooms after a change on every channel -/

theorem roomOf_modSuiteRoom (d : Device) (s c : Ch) (n : Nat) (f : Room → Room) :
    roomOf (chanOf (modSuiteRoom d s n f) c) n = if c ∈ suiteChans d s then f (roomOf (chanOf d c) n) else roomOf (chanOf d c) n := by
  unfold modSuiteRoom
  rw [chanOf_modChans _ _ _ _ (suiteChans_nodup d s)]
  split
  · exact roomOf_modRoomC_same ..
  · rfl
theorem leadRoom_modLeadRoom (d : Device) (s : Ch) (n : Nat) (f : Room → Room) : leadRoom (modLeadRoom d s n f) s n = f (leadRoom d s n) := by
  unfold leadRoom modLeadRoom
  rw [leadOf_modRoom, roomOf_modRoom_same]

end Sys2Proof.Machine
end

