-- ==== Sys2Proof/Laws/Links.lean ====
section
/-! SUPPORT. Laws/Links.lean: what sending, forwarding and re-sending change: links, ports, their counters and the messages sent. -/

namespace Sys2Proof.Machine

/-- A channel but for its links, its ports, its reduction counters the keys that SEC_STATUS counts and the ways its chunks have chosen. -/
def SameButLinks (x y : Channel) : Prop := y = { x with links := y.links, ports := y.ports, red := y.red, sec := y.sec, paths := y.paths }
/-- Every port keeps its STATE and its peer. -/
def SamePorts (x y : Channel) : Prop := ∀ p : BitVec 2, (portOf y p).state = (portOf x p).state ∧ (portOf y p).peer = (portOf x p).peer

theorem SameButLinks.refl (x : Channel) : SameButLinks x x := rfl
theorem SameButLinks.trans {x y z : Channel} (h : SameButLinks x y) (g : SameButLinks y z) : SameButLinks x z := by
  unfold SameButLinks at *; rw [g, h]
theorem SameButLinks.rooms {x y : Channel} (h : SameButLinks x y) : y.rooms = x.rooms := by rw [h]
theorem SameButLinks.trips {x y : Channel} (h : SameButLinks x y) : y.trips = x.trips := by rw [h]
theorem SameButLinks.hist {x y : Channel} (h : SameButLinks x y) : y.hist = x.hist := by rw [h]

/-- What sending does to the device: each channel changes in its links alone, and nothing of foyer, suites and free values changes. -/
def FabricOnly (d d' : Device) : Prop :=
  d'.fy = d.fy ∧ d'.suites = d.suites ∧ d'.free = d.free ∧ ∀ c, SameButLinks (chanOf d c) (chanOf d' c) ∧ SamePorts (chanOf d c) (chanOf d' c)

theorem FabricOnly.refl (d : Device) : FabricOnly d d := ⟨rfl, rfl, rfl, fun _ => ⟨rfl, fun _ => ⟨rfl, rfl⟩⟩⟩
theorem FabricOnly.trans {a b c : Device} (h : FabricOnly a b) (g : FabricOnly b c) : FabricOnly a c :=
  ⟨g.1.trans h.1, g.2.1.trans h.2.1, g.2.2.1.trans h.2.2.1, fun o => ⟨(h.2.2.2 o).1.trans (g.2.2.2 o).1,
    fun p => ⟨((g.2.2.2 o).2 p).1.trans ((h.2.2.2 o).2 p).1, ((g.2.2.2 o).2 p).2.trans ((h.2.2.2 o).2 p).2⟩⟩⟩

theorem fabricOnly_send (d : Device) (m : OutMsg) : FabricOnly d (send d m) := ⟨rfl, rfl, rfl, fun _ => ⟨rfl, fun _ => ⟨rfl, rfl⟩⟩⟩

theorem fabricOnly_modChan (d : Device) (c : Ch) (f : Channel → Channel) (h : ∀ x, SameButLinks x (f x) ∧ SamePorts x (f x)) :
    FabricOnly d (modChan d c f) := by
  refine ⟨rfl, rfl, rfl, fun o => ?_⟩
  rw [chanOf_modChan]
  split
  · rename_i ho; subst ho; exact h _
  · exact ⟨rfl, fun _ => ⟨rfl, rfl⟩⟩

@[simp] theorem portOf_modPort_same (x : Channel) (p : BitVec 2) (f : FabPort → FabPort) : portOf (modPort x p f) p = f (portOf x p) :=
  tget_tmod_same ..
theorem portOf_modPort (x : Channel) (p q : BitVec 2) (f : FabPort → FabPort) :
    portOf (modPort x p f) q = if q = p then f (portOf x p) else portOf x q := by
  by_cases h : q = p
  · subst h; simp
  · rw [if_neg h]
    exact tget_tset_ne _ _ _ _ _ (fun e => h (BitVec.eq_of_toNat_eq e))

@[simp] theorem portOf_modLink (x : Channel) (l : Link) (f : LinkState → LinkState) (p : BitVec 2) : portOf (modLink x l f) p = portOf x p := rfl
@[simp] theorem portOf_countKeys (x : Channel) (p : BitVec 2) : portOf (countKeys x) p = portOf x p := rfl
@[simp] theorem linkOf_countKeys (x : Channel) (l : Link) : linkOf (countKeys x) l = linkOf x l := rfl
@[simp] theorem linkOf_modPort (x : Channel) (p : BitVec 2) (f : FabPort → FabPort) (l : Link) : linkOf (modPort x p f) l = linkOf x l := rfl
@[simp] theorem linkOf_modLink_same (x : Channel) (l : Link) (f : LinkState → LinkState) : linkOf (modLink x l f) l = f (linkOf x l) :=
  tget_tmod_same ..
@[simp] theorem linkOf_modLinkPort (x : Channel) (l k : Link) (f : FabPort → FabPort) : linkOf (modLinkPort x l f) k = linkOf x k := by
  cases l <;> rfl

/-- A port's counters, not its state or its peer. -/
theorem samePorts_modLinkPort (x : Channel) (l : Link) (f : FabPort → FabPort)
    (h : ∀ q : FabPort, (f q).state = q.state ∧ (f q).peer = q.peer) :
    SamePorts x (modLinkPort x l f) := by
  intro p
  cases l with
  | port q =>
    show (portOf (modPort x q f) p).state = _ ∧ (portOf (modPort x q f) p).peer = _
    rw [portOf_modPort]
    split
    · rename_i hp; subst hp; exact h _
    · exact ⟨rfl, rfl⟩
  | pack _ => exact ⟨rfl, rfl⟩

theorem sameButLinks_modLink (x : Channel) (l : Link) (f : LinkState → LinkState) : SameButLinks x (modLink x l f) := rfl
theorem sameButLinks_modPort (x : Channel) (p : BitVec 2) (f : FabPort → FabPort) : SameButLinks x (modPort x p f) := rfl
theorem sameButLinks_modLinkPort (x : Channel) (l : Link) (f : FabPort → FabPort) : SameButLinks x (modLinkPort x l f) := by
  cases l <;> rfl

theorem fabricOnly_emit (d : Device) (c : Ch) (l : Link) (w : OutFrame) : FabricOnly d (emit d c l w) := by
  unfold emit
  extract_lets k fr f' optical tagNow v k' d1 d2
  have h1 : FabricOnly d d1 := fabricOnly_modChan _ _ _ fun x =>
    ⟨(sameButLinks_modLink x l _).trans (sameButLinks_modLinkPort _ _ _), samePorts_modLinkPort _ l _ fun q => ⟨rfl, rfl⟩⟩
  have h2 : FabricOnly d d2 := h1.trans (fabricOnly_send _ _)
  split
  · exact h2.trans (fabricOnly_send _ _)
  · exact h2

theorem fabricOnly_serveOut (c : Ch) (l : Link) (n : Nat) (d : Device) : FabricOnly d (serveOut c l n d) := by
  induction n generalizing d with
  | zero => exact .refl _
  | succ n ih =>
    unfold serveOut
    split
    · split
      · exact (fabricOnly_emit ..).trans (ih _)
      · exact .refl _
    · exact .refl _

theorem fabricOnly_sendOn (d : Device) (c : Ch) (l : Link) (f : FabFrame) (up : Option (Link × BitVec 12)) : FabricOnly d (sendOn d c l f up) := by
  unfold sendOn serveAll
  refine (fabricOnly_modChan d c _ fun x => ⟨?_, fun _ => ⟨?_, ?_⟩⟩).trans (fabricOnly_serveOut ..)
  · exact sameButLinks_modLink ..
  · rfl
  · rfl

theorem fabricOnly_refuseFrame (d : Device) (c : Ch) (f : FabFrame) (cause : Nat) : FabricOnly d (refuseFrame d c f cause) := by
  unfold refuseFrame
  extract_lets lose e
  have hl : ∀ d, FabricOnly d (lose d) := fun d => fabricOnly_modChan _ _ _ fun x => ⟨rfl, fun _ => ⟨rfl, rfl⟩⟩
  split
  · exact hl _
  · split
    · exact fabricOnly_send _ _
    · split
      · exact fabricOnly_sendOn ..
      · exact hl _

theorem fabricOnly_forward (d : Device) (c : Ch) (f : FabFrame) (up : Option (Link × BitVec 12)) (avoid : Option Link) :
    FabricOnly d (forward d c f up avoid) := by
  unfold forward
  split
  · refine (fabricOnly_modChan d c _ fun x => ⟨?_, fun _ => ⟨?_, ?_⟩⟩).trans (fabricOnly_sendOn ..) <;> rfl
  · exact fabricOnly_refuseFrame ..

theorem fabricOnly_foldl {α : Type} (g : Device → α → Device) (h : ∀ d a, FabricOnly d (g d a)) (l : List α) (d : Device) :
    FabricOnly d (l.foldl g d) := by
  induction l generalizing d with
  | nil => exact .refl _
  | cons a l ih => exact (h d a).trans (ih _)

theorem fabricOnly_detour (c : Ch) (l : Link) (back : LinkState → LinkState) (f : FabFrame) (up : Option (Link × BitVec 12)) (d : Device) :
    FabricOnly d (detour c l back f up d) := by
  unfold detour
  split
  · exact fabricOnly_sendOn ..
  · exact fabricOnly_modChan _ _ _ fun x => ⟨rfl, fun _ => ⟨rfl, rfl⟩⟩

theorem fabricOnly_resend (d : Device) (c : Ch) (l : Link) : FabricOnly d (resend d c l) := by
  unfold resend
  extract_lets hs d1 d2
  have h1 : FabricOnly d d1 := fabricOnly_modChan _ _ _ fun x => ⟨rfl, fun _ => ⟨rfl, rfl⟩⟩
  have h2 : FabricOnly d d2 := h1.trans (fabricOnly_foldl _ (fun d h => fabricOnly_detour ..) _ _)
  exact h2.trans (fabricOnly_foldl _ (fun d h => fabricOnly_detour ..) _ _)

/-- A port that leaves service: its state is as given, every other port keeps its own, and the channels change in their links alone. -/
theorem portLeaves_spec (d : Device) (c : Ch) (p : BitVec 2) (st : BitVec 3) :
    (∀ o, SameButLinks (chanOf d o) (chanOf (portLeaves d c p st) o)) ∧ (portLeaves d c p st).suites = d.suites ∧
    (∀ o q, (portOf (chanOf (portLeaves d c p st) o) q).state = if o = c ∧ q = p then st else (portOf (chanOf d o) q).state) := by
  unfold portLeaves
  extract_lets d1
  have h1 : ∀ o, SameButLinks (chanOf d o) (chanOf d1 o) := by
    intro o
    show SameButLinks _ (chanOf (modChan _ _ _) o)
    rw [chanOf_modChan]
    split
    · rename_i ho; subst ho; rfl
    · rfl
  have h2 := fabricOnly_resend d1 c (.port p)
  refine ⟨fun o => ?_, ?_, fun o q => ?_⟩
  · rw [chanOf_refresh]; exact (h1 o).trans (h2.2.2.2 o).1
  · rw [refresh_suites]; exact h2.2.1
  · rw [chanOf_refresh, ((h2.2.2.2 o).2 q).1]
    show (portOf (chanOf (modChan _ _ _) o) q).state = _
    rw [chanOf_modChan]
    by_cases ho : o = c
    · subst ho
      rw [if_pos rfl]
      rw [portOf_countKeys, portOf_modLink, portOf_modPort]
      by_cases hq : q = p
      · subst hq; simp
      · simp [hq]
    · simp [ho]

end Sys2Proof.Machine
end

