-- ==== Sys2Proof/Laws/Memory.lean ====
section
/-! SUPPORT. Laws/Memory.lean: reading after writing a byte memory, and its canonical form. -/

namespace Sys2Proof.Machine

/-- The cells of a run lie in the run and hold no 0. -/
theorem cellsFrom_mem (bs : List Byte) (a : Nat) (c : Host.Cell) (h : c ∈ cellsFrom a bs) :
    a ≤ c.1 ∧ c.1 < a + bs.length ∧ c.2 ≠ 0 := by
  induction bs generalizing a with
  | nil => simp [cellsFrom] at h
  | cons b l ih =>
    unfold cellsFrom at h
    split at h
    · have := ih (a + 1) h
      simp only [List.length_cons]; exact ⟨by omega, by omega, this.2.2⟩
    · rename_i hb
      rcases List.mem_cons.1 h with rfl | h
      · simp only [List.length_cons]; exact ⟨Nat.le_refl _, by omega, hb⟩
      · have := ih (a + 1) h
        simp only [List.length_cons]; exact ⟨by omega, by omega, this.2.2⟩

theorem cellsFrom_sorted (bs : List Byte) (a : Nat) : (cellsFrom a bs).Pairwise (fun x y => x.1 < y.1) := by
  induction bs generalizing a with
  | nil => simp [cellsFrom]
  | cons b l ih =>
    unfold cellsFrom
    split
    · exact ih _
    · rw [List.pairwise_cons]
      exact ⟨fun c hc => (cellsFrom_mem l (a + 1) c hc).1, ih _⟩

/-- Writing keeps the canonical form. -/
theorem writeBytes_wf (m : Memory) (a : Nat) (bs : List Byte) (h : Memory.wf m) : Memory.wf (writeBytes m a bs) := by
  obtain ⟨hs, hn⟩ := h
  unfold writeBytes
  refine ⟨?_, ?_⟩
  · rw [List.pairwise_append, List.pairwise_append]
    refine ⟨⟨hs.filter _, cellsFrom_sorted _ _, ?_⟩, hs.filter _, ?_⟩
    · intro x hx y hy
      have := cellsFrom_mem _ _ _ hy
      simp only [List.mem_filter, decide_eq_true_eq] at hx
      omega
    · intro x hx y hy
      simp only [List.mem_append, List.mem_filter, decide_eq_true_eq] at hx hy
      rcases hx with hx | hx
      · omega
      · have := cellsFrom_mem _ _ _ hx
        omega
  · intro c hc
    simp only [List.mem_append, List.mem_filter] at hc
    rcases hc with (hc | hc) | hc
    · exact hn c hc.1
    · exact (cellsFrom_mem _ _ _ hc).2.2
    · exact hn c hc.1

/-- Clearing keeps the canonical form. -/
theorem clearBytes_wf (m : Memory) (a n : Nat) (h : Memory.wf m) : Memory.wf (clearBytes m a n) := by
  obtain ⟨hs, hn⟩ := h
  refine ⟨?_, ?_⟩
  · unfold clearBytes
    rw [List.pairwise_append]
    refine ⟨hs.filter _, hs.filter _, ?_⟩
    intro x hx y hy
    simp only [List.mem_filter, decide_eq_true_eq] at hx hy
    omega
  · intro c hc
    simp only [clearBytes, List.mem_append, List.mem_filter] at hc
    rcases hc with hc | hc <;> exact hn c hc.1

theorem writeLe_wf (m : Memory) (a n v : Nat) (h : Memory.wf m) : Memory.wf (writeLe m a n v) := writeBytes_wf m a _ h

theorem empty_memory_wf : Memory.wf [] := by simp [Memory.wf]

theorem cells_find_below (bs : List Byte) (a i : Nat) (h : i < a) : (cellsFrom a bs).find? (fun p => p.1 == i) = none := by
  rw [List.find?_eq_none]
  intro c hc hk
  have := cellsFrom_mem _ _ _ hc
  simp only [beq_iff_eq] at hk
  omega

theorem readByte_cellsFrom (bs : List Byte) (a i : Nat) (h : i < bs.length) : readByte (cellsFrom a bs) (a + i) = bs[i] := by
  induction bs generalizing a i with
  | nil => simp at h
  | cons b l ih =>
    cases i with
    | zero =>
      unfold cellsFrom readByte
      by_cases hb : b = 0
      · simp [hb, cells_find_below l (a + 1) a (by omega)]
      · rw [if_neg hb]; simp
    | succ k =>
      have hk : k < l.length := by simpa using h
      have h1 := ih (a + 1) k hk
      have he : a + (k + 1) = a + 1 + k := by omega
      have hne : (a == a + 1 + k) = false := by simp; omega
      unfold cellsFrom
      rw [he]
      split
      · simpa using h1
      · unfold readByte at h1 ⊢
        simpa [hne] using h1

/-- A byte outside the run reads as before. -/
theorem readByte_writeBytes_outside (m : Memory) (a i : Nat) (bs : List Byte) (h : i < a ∨ a + bs.length ≤ i) :
    readByte (writeBytes m a bs) i = readByte m i := by
  unfold readByte writeBytes
  have hc : (cellsFrom a bs).find? (fun p => p.1 == i) = none := by
    rw [List.find?_eq_none]
    intro c hc hk
    have := cellsFrom_mem _ _ _ hc
    simp only [beq_iff_eq] at hk
    omega
  rcases h with h | h
  · have h1 := find_filter_key m i (fun c => decide (c.1 < a)) (by intro x hx; simp [hx, h])
    have h2 := find_filter_none m i (fun c => decide (a + bs.length ≤ c.1)) (by intro x hx; simp [hx]; omega)
    simp [List.find?_append, h1, h2, hc]
  · have h1 := find_filter_none m i (fun c => decide (c.1 < a)) (by intro x hx; simp [hx]; omega)
    have h2 := find_filter_key m i (fun c => decide (a + bs.length ≤ c.1)) (by intro x hx; simp [hx, h])
    simp [List.find?_append, h1, h2, hc]

/-- A byte of the run reads as written. -/
theorem readByte_writeBytes_inside (m : Memory) (a i : Nat) (bs : List Byte) (h : i < bs.length) :
    readByte (writeBytes m a bs) (a + i) = bs[i] := by
  have h1 := find_filter_none m (a + i) (fun c => decide (c.1 < a)) (by intro x hx; simp [hx])
  have h2 := find_filter_none m (a + i) (fun c => decide (a + bs.length ≤ c.1)) (by intro x hx; simp [hx]; omega)
  have h3 := readByte_cellsFrom bs a i h
  unfold readByte at h3 ⊢
  unfold writeBytes
  simp only [List.find?_append, h1, h2, Option.none_or, Option.or_none]
  exact h3

end Sys2Proof.Machine
end

