-- ==== Sys2Proof/Laws/PerInstr.lean ====
section
/-! SUPPORT. Laws/PerInstr.lean: what holds of every command as syntax, one lemma per constructor. -/

namespace Sys2Proof.Laws

/-- A row that posts a host command is well formed whatever it posts, and is none of the rows that reach the sequencer, the rails or a board
register. -/
def Served.Statement (i : Instr) : Prop := (Machine.rowPost i).isSome = true → i.wf = true ∧ Machine.reachesBoard i = false

theorem Served.vauxRise (ssc : Bool) : Served.Statement (.vauxRise ssc) := fun h => nomatch h
theorem Served.sysResetNRise (compat : Bool) (bootSel : BitVec 2) (smbAddr : BitVec 3) : Served.Statement (.sysResetNRise compat bootSel smbAddr) := fun h => nomatch h
theorem Served.sysResetNFall : Served.Statement (.sysResetNFall) := fun h => nomatch h
theorem Served.vcorePgRise : Served.Statement (.vcorePgRise) := fun h => nomatch h
theorem Served.channelControllerRelease (ok : Bool) : Served.Statement (.channelControllerRelease ok) := fun h => nomatch h
theorem Served.vcorePgTimeout : Served.Statement (.vcorePgTimeout) := fun h => nomatch h
theorem Served.bootImageReadDone (r : Quad BootRead) : Served.Statement (.bootImageReadDone r) := fun h => nomatch h
theorem Served.vstkPgRise : Served.Statement (.vstkPgRise) := fun h => nomatch h
theorem Served.vstkPgTimeout : Served.Statement (.vstkPgTimeout) := fun h => nomatch h
theorem Served.stackPairPower : Served.Statement (.stackPairPower) := fun h => nomatch h
theorem Served.stackTrained (c : Ch) (stack : Ch) (ok : Bool) : Served.Statement (.stackTrained c stack ok) := fun h => nomatch h
theorem Served.voptPgRise : Served.Statement (.voptPgRise) := fun h => nomatch h
theorem Served.voptPgTimeout : Served.Statement (.voptPgTimeout) := fun h => nomatch h
theorem Served.arraySelfTestDone (r : Quad SelfTest) : Served.Statement (.arraySelfTestDone r) := fun h => nomatch h
theorem Served.vcorePgFall : Served.Statement (.vcorePgFall) := fun h => nomatch h
theorem Served.railPgFall (opt : Bool) : Served.Statement (.railPgFall opt) := fun h => nomatch h
theorem Served.thermtrip : Served.Statement (.thermtrip) := fun h => nomatch h
theorem Served.sensorSample (t : Quad Temps) : Served.Statement (.sensorSample t) := fun h => nomatch h
theorem Served.throttleStepTimer (c : Ch) : Served.Statement (.throttleStepTimer c) := fun h => nomatch h
theorem Served.powerEstimate (e : PowerEst) : Served.Statement (.powerEstimate e) := fun h => nomatch h
theorem Served.ioutCorrection (uj : Nat) : Served.Statement (.ioutCorrection uj) := fun h => nomatch h
theorem Served.pmbAlert (faults : BitVec 5) : Served.Statement (.pmbAlert faults) := fun h => nomatch h
theorem Served.monitorTrip (c : Ch) (m : Monitor) : Served.Statement (.monitorTrip c m) := fun h => nomatch h
theorem Served.monitorRecovery (c : Ch) (m : Monitor) : Served.Statement (.monitorRecovery c m) := fun h => nomatch h
theorem Served.laserLightLoss (i : BitVec 3) : Served.Statement (.laserLightLoss i) := fun h => nomatch h
theorem Served.laserLightReturn (i : BitVec 3) (uw : BitVec 20) : Served.Statement (.laserLightReturn i uw) := fun h => nomatch h
theorem Served.minSvnRaise (c : Ch) (v : BitVec 8) : Served.Statement (.minSvnRaise c v) := fun h => nomatch h
theorem Served.hostPerstAssert (portB : Bool) : Served.Statement (.hostPerstAssert portB) := fun h => nomatch h
theorem Served.hostLinkReturn (portB : Bool) : Served.Statement (.hostLinkReturn portB) := fun h => nomatch h
theorem Served.functionLevelReset (f : Fn) : Served.Statement (.functionLevelReset f) := fun h => nomatch h
theorem Served.configRequest (f : Fn) (a : CfgAccess) : Served.Statement (.configRequest f a) := fun h => nomatch h
theorem Served.jtagInstruction (i : JtagInsn) : Served.Statement (.jtagInstruction i) := fun h => nomatch h
theorem Served.smbusBlockRead (code : Byte) : Served.Statement (.smbusBlockRead code) := fun h => nomatch h
theorem Served.smbusPwrLimitWrite (v : W64) : Served.Statement (.smbusPwrLimitWrite v) := fun h => nomatch h
theorem Served.fyBootGo (portB : Bool) : Served.Statement (.fyBootGo portB) := fun h => nomatch h
theorem Served.registerWrite (t : RegTarget) (v : W64) : Served.Statement (.registerWrite t v) := fun h => nomatch h
theorem Served.resultSlotRead (f : Fn) (mbx : BitVec 4) (slot : BitVec 3) (covers0 : Bool) : Served.Statement (.resultSlotRead f mbx slot covers0) := fun h => nomatch h
theorem Served.mbxAck (f : Fn) (mbx : BitVec 4) (v : W64) : Served.Statement (.mbxAck f mbx v) := fun h => nomatch h
theorem Served.mbxResultExpired (f : Fn) (mbx : BitVec 4) (slot : BitVec 3) : Served.Statement (.mbxResultExpired f mbx slot) := fun h => nomatch h
theorem Served.secDebugReq (v : W64) : Served.Statement (.secDebugReq v) := fun h => nomatch h
theorem Served.fyCellarApply (portB : Bool) (r : BitVec 4) : Served.Statement (.fyCellarApply portB r) := fun h => nomatch h
theorem Served.ckpHostFreeAll (c : Ch) : Served.Statement (.ckpHostFreeAll c) := fun h => nomatch h
theorem Served.irqModTimer (f : Fn) (v : Nat) : Served.Statement (.irqModTimer f v) := fun h => nomatch h
theorem Served.roomCreate (p : HostPost) : Served.Statement (.roomCreate p) := fun _ => ⟨rfl, rfl⟩
theorem Served.roomDestroy (p : HostPost) : Served.Statement (.roomDestroy p) := fun _ => ⟨rfl, rfl⟩
theorem Served.suiteSet (p : HostPost) : Served.Statement (.suiteSet p) := fun _ => ⟨rfl, rfl⟩
theorem Served.loadProgram (p : HostPost) : Served.Statement (.loadProgram p) := fun _ => ⟨rfl, rfl⟩
theorem Served.loadWeights (p : HostPost) : Served.Statement (.loadWeights p) := fun _ => ⟨rfl, rfl⟩
theorem Served.switchWeights (p : HostPost) : Served.Statement (.switchWeights p) := fun _ => ⟨rfl, rfl⟩
theorem Served.pinAdapter (p : HostPost) : Served.Statement (.pinAdapter p) := fun _ => ⟨rfl, rfl⟩
theorem Served.unpinAdapter (p : HostPost) : Served.Statement (.unpinAdapter p) := fun _ => ⟨rfl, rfl⟩
theorem Served.submitRequests (p : HostPost) : Served.Statement (.submitRequests p) := fun _ => ⟨rfl, rfl⟩
theorem Served.cancelStream (p : HostPost) : Served.Statement (.cancelStream p) := fun _ => ⟨rfl, rfl⟩
theorem Served.setBudget (p : HostPost) : Served.Statement (.setBudget p) := fun _ => ⟨rfl, rfl⟩
theorem Served.startJob (p : HostPost) : Served.Statement (.startJob p) := fun _ => ⟨rfl, rfl⟩
theorem Served.stopJob (p : HostPost) : Served.Statement (.stopJob p) := fun _ => ⟨rfl, rfl⟩
theorem Served.checkpointNow (p : HostPost) : Served.Statement (.checkpointNow p) := fun _ => ⟨rfl, rfl⟩
theorem Served.checkpointPolicy (p : HostPost) : Served.Statement (.checkpointPolicy p) := fun _ => ⟨rfl, rfl⟩
theorem Served.atticRelease (p : HostPost) : Served.Statement (.atticRelease p) := fun _ => ⟨rfl, rfl⟩
theorem Served.restore (p : HostPost) : Served.Statement (.restore p) := fun _ => ⟨rfl, rfl⟩
theorem Served.shrinkJob (p : HostPost) : Served.Statement (.shrinkJob p) := fun _ => ⟨rfl, rfl⟩
theorem Served.attest (p : HostPost) : Served.Statement (.attest p) := fun _ => ⟨rfl, rfl⟩
theorem Served.queryAccounting (p : HostPost) : Served.Statement (.queryAccounting p) := fun _ => ⟨rfl, rfl⟩
theorem Served.fabricJoin (p : HostPost) : Served.Statement (.fabricJoin p) := fun _ => ⟨rfl, rfl⟩
theorem Served.fabricLeave (p : HostPost) : Served.Statement (.fabricLeave p) := fun _ => ⟨rfl, rfl⟩
theorem Served.drainDevice (p : HostPost) : Served.Statement (.drainDevice p) := fun _ => ⟨rfl, rfl⟩
theorem Served.drainCancel (p : HostPost) : Served.Statement (.drainCancel p) := fun _ => ⟨rfl, rfl⟩
theorem Served.queryFaults (p : HostPost) : Served.Statement (.queryFaults p) := fun _ => ⟨rfl, rfl⟩
theorem Served.sealedPayloadSegment (k : CmdKey) (seg : Nat) (bytes : List Byte) (tagOk : Bool) : Served.Statement (.sealedPayloadSegment k seg bytes tagOk) := fun h => nomatch h
theorem Served.adapterLoadDone (k : CmdKey) (home : Nat) : Served.Statement (.adapterLoadDone k home) := fun h => nomatch h
theorem Served.weightLoadFetchDone (k : CmdKey) (r : WeightCheck) : Served.Statement (.weightLoadFetchDone k r) := fun h => nomatch h
theorem Served.bundleIssue (c : Ch) : Served.Statement (.bundleIssue c) := fun h => nomatch h
theorem Served.pumpDescriptorComplete (c : Ch) (q : BitVec 4) : Served.Statement (.pumpDescriptorComplete c q) := fun h => nomatch h
theorem Served.arrayCheckToken (c : Ch) : Served.Statement (.arrayCheckToken c) := fun h => nomatch h
theorem Served.arrayFault (c : Ch) (f : ArrFault) : Served.Statement (.arrayFault c f) := fun h => nomatch h
theorem Served.arrayRetryDone (c : Ch) (f : ArrFault) : Served.Statement (.arrayRetryDone c f) := fun h => nomatch h
theorem Served.samplingToken (c : Ch) : Served.Statement (.samplingToken c) := fun h => nomatch h
theorem Served.controllerQueueItem (c : Ch) : Served.Statement (.controllerQueueItem c) := fun h => nomatch h
theorem Served.waitLimitExpiry (c : Ch) : Served.Statement (.waitLimitExpiry c) := fun h => nomatch h
theorem Served.sumpPageFlush (c : Ch) (room : BitVec 6) (key : Nat) : Served.Statement (.sumpPageFlush c room key) := fun h => nomatch h
theorem Served.roomSwitch (s : Ch) : Served.Statement (.roomSwitch s) := fun h => nomatch h
theorem Served.heatEpoch (c : Ch) : Served.Statement (.heatEpoch c) := fun h => nomatch h
theorem Served.pagePromotionDone (c : Ch) (p : PageRef) (back : List (Nat × Byte)) : Served.Statement (.pagePromotionDone c p back) := fun h => nomatch h
theorem Served.pageEvictionDone (c : Ch) (p : PageRef) : Served.Statement (.pageEvictionDone c p) := fun h => nomatch h
theorem Served.memrResponse (c : Ch) (region page : Nat) (intact : Bool) : Served.Statement (.memrResponse c region page intact) := fun h => nomatch h
theorem Served.memrTimeout (c : Ch) (region page : Nat) : Served.Statement (.memrTimeout c region page) := fun h => nomatch h
theorem Served.memwReceive (c : Ch) (node : BitVec 18) (addr : W64) (bytes : List Byte) : Served.Statement (.memwReceive c node addr bytes) := fun h => nomatch h
theorem Served.memrReceive (c : Ch) (node : BitVec 18) (addr : W64) (n : Nat) : Served.Statement (.memrReceive c node addr n) := fun h => nomatch h
theorem Served.stepBoundary (s : Ch) (room : BitVec 6) : Served.Statement (.stepBoundary s room) := fun h => nomatch h
theorem Served.holdDlExpiry (c : Ch) (ctx : BitVec 16) : Served.Statement (.holdDlExpiry c ctx) := fun h => nomatch h
theorem Served.pinDlExpiry (c : Ch) (ctx : BitVec 16) : Served.Statement (.pinDlExpiry c ctx) := fun h => nomatch h
theorem Served.budgetRetestTimer (s : Ch) : Served.Statement (.budgetRetestTimer s) := fun h => nomatch h
theorem Served.ringSpaceFree (s : Ch) (room : BitVec 6) (cons : W64) : Served.Statement (.ringSpaceFree s room cons) := fun h => nomatch h
theorem Served.warmAdapterFetchDone (s : Ch) (slot : BitVec 12) (back : List (Ch × Nat × Byte)) : Served.Statement (.warmAdapterFetchDone s slot back) := fun h => nomatch h
theorem Served.fabricRequestMessage (c : Ch) (node : BitVec 18) (reply : W32) (suite : Ch) (params : BitVec 15872) (mem : List (Nat × Byte)) : Served.Statement (.fabricRequestMessage c node reply suite params mem) := fun h => nomatch h
theorem Served.broadcastAnnounce (c : Ch) (node : BitVec 18) (model : BitVec 2) (wgen pages tiles : W32) (k : Byte) (t : BcastTree) : Served.Statement (.broadcastAnnounce c node model wgen pages tiles k t) := fun h => nomatch h
theorem Served.broadcastChunkArrival (c : Ch) (k : Byte) (tag : W32) (chunk : Nat) (poison : Bool) (bytes : List Byte) : Served.Statement (.broadcastChunkArrival c k tag chunk poison bytes) := fun h => nomatch h
theorem Served.fingerprintTableArrival (s : Ch) (k : BitVec 3) (fps : List W64) : Served.Statement (.fingerprintTableArrival s k fps) := fun h => nomatch h
theorem Served.replicaDigestMessage (s : Ch) (k : BitVec 3) (node : BitVec 18) (digest : BitVec 256) (fps : List W64) (src : Bool) : Served.Statement (.replicaDigestMessage s k node digest fps src) := fun h => nomatch h
theorem Served.replicaTimeout (s : Ch) (k : BitVec 3) (src : Bool) : Served.Statement (.replicaTimeout s k src) := fun h => nomatch h
theorem Served.tileRepairLand (s : Ch) (k : BitVec 3) (tile : Nat) (bytes : List Byte) : Served.Statement (.tileRepairLand s k tile bytes) := fun h => nomatch h
theorem Served.updateStartSignal (c : Ch) (room : BitVec 6) : Served.Statement (.updateStartSignal c room) := fun h => nomatch h
theorem Served.deferredUnitArrival (c : Ch) (room : BitVec 6) (unit : Nat) : Served.Statement (.deferredUnitArrival c room unit) := fun h => nomatch h
theorem Served.consumedGroupSignal (c : Ch) (room : BitVec 6) : Served.Statement (.consumedGroupSignal c room) := fun h => nomatch h
theorem Served.endOfStepSignal (c : Ch) (room : BitVec 6) (r : StepReport) : Served.Statement (.endOfStepSignal c room r) := fun h => nomatch h
theorem Served.microbatchRetire (c : Ch) (room : BitVec 6) : Served.Statement (.microbatchRetire c room) := fun h => nomatch h
theorem Served.normSumsMessage (c : Ch) (room : BitVec 6) (shard : BitVec 16) (m : NormMsg) : Served.Statement (.normSumsMessage c room shard m) := fun h => nomatch h
theorem Served.versionRegistration (c : Ch) (room : BitVec 6) (e : VersionEvent) (wgen : W32) : Served.Statement (.versionRegistration c room e wgen) := fun h => nomatch h
theorem Served.versionRelease (c : Ch) (room : BitVec 6) (reader : W64) (wgen : W32) : Served.Statement (.versionRelease c room reader wgen) := fun h => nomatch h
theorem Served.leaseLapse (c : Ch) (room : BitVec 6) (reader : W64) (wgen : W32) : Served.Statement (.leaseLapse c room reader wgen) := fun h => nomatch h
theorem Served.trajectorySlotRequest (c : Ch) (j : BitVec 4) (t : TrajOffer) : Served.Statement (.trajectorySlotRequest c j t) := fun h => nomatch h
theorem Served.slotRequestRetry (c : Ch) (room : BitVec 6) (ctx : BitVec 16) : Served.Statement (.slotRequestRetry c room ctx) := fun h => nomatch h
theorem Served.frameReceive (c : Ch) (l : Link) (hdr : BitVec 128) (payload : List Byte) (crc : W32) : Served.Statement (.frameReceive c l hdr payload crc) := fun h => nomatch h
theorem Served.nakReceive (c : Ch) (l : Link) (seq : BitVec 12) : Served.Statement (.nakReceive c l seq) := fun h => nomatch h
theorem Served.tagFrameReceive (c : Ch) (p : BitVec 2) (ok : Bool) : Served.Statement (.tagFrameReceive c p ok) := fun h => nomatch h
theorem Served.frameAckReceive (c : Ch) (l : Link) (seq : BitVec 12) : Served.Statement (.frameAckReceive c l seq) := fun h => nomatch h
theorem Served.ackTimeout (c : Ch) (l : Link) : Served.Statement (.ackTimeout c l) := fun h => nomatch h
theorem Served.helloTimer (c : Ch) (p : BitVec 2) : Served.Statement (.helloTimer c p) := fun h => nomatch h
theorem Served.helloReceive (c : Ch) (p : BitVec 2) (node : BitVec 18) (port : BitVec 2) : Served.Statement (.helloReceive c p node port) := fun h => nomatch h
theorem Served.laneFault (c : Ch) (p : BitVec 2) (lane : BitVec 4) : Served.Statement (.laneFault c p lane) := fun h => nomatch h
theorem Served.portRetrainDone (c : Ch) (p : BitVec 2) : Served.Statement (.portRetrainDone c p) := fun h => nomatch h
theorem Served.portTrained (c : Ch) (p : BitVec 2) (ok : Bool) : Served.Statement (.portTrained c p ok) := fun h => nomatch h
theorem Served.linkSetupMessage (c : Ch) (p : BitVec 2) (m : SetupMsg) : Served.Statement (.linkSetupMessage c p m) := fun h => nomatch h
theorem Served.linkSetupRetryTimer (c : Ch) (p : BitVec 2) : Served.Statement (.linkSetupRetryTimer c p) := fun h => nomatch h
theorem Served.linkRekey (c : Ch) (p : BitVec 2) : Served.Statement (.linkRekey c p) := fun h => nomatch h
theorem Served.errorFrameReceive (c : Ch) (e : ErrorInfo) : Served.Statement (.errorFrameReceive c e) := fun h => nomatch h
theorem Served.msgCreditReturn (c : Ch) (node : BitVec 18) (queue : W32) : Served.Statement (.msgCreditReturn c node queue) := fun h => nomatch h
theorem Served.dataChunkArrival (c : Ch) (node : BitVec 18) (sroom droom : BitVec 6) (tag : W32) (chunk : Nat) (last poison : Bool) (bytes : List Byte) : Served.Statement (.dataChunkArrival c node sroom droom tag chunk last poison bytes) := fun h => nomatch h
theorem Served.reduceChunkArrival (c : Ch) (k : Byte) (tag : W32) (chunk : Nat) (final poison : Bool) (bytes : List Byte) : Served.Statement (.reduceChunkArrival c k tag chunk final poison bytes) := fun h => nomatch h
theorem Served.fallbackCombineDone (c : Ch) (k : Byte) (tag : W32) (chunk : Nat) : Served.Statement (.fallbackCombineDone c k tag chunk) := fun h => nomatch h
theorem Served.ethCnpReceive (c : Ch) (peer : BitVec 10) : Served.Statement (.ethCnpReceive c peer) := fun h => nomatch h
theorem Served.ethRateRecovery (c : Ch) (peer : BitVec 10) : Served.Statement (.ethRateRecovery c peer) := fun h => nomatch h
theorem Served.checkpointTimer (s : Ch) (room : BitVec 6) : Served.Statement (.checkpointTimer s room) := fun h => nomatch h
theorem Served.jobCutMessage (s : Ch) (room : BitVec 6) (step : Nat) : Served.Statement (.jobCutMessage s room step) := fun h => nomatch h
theorem Served.shardCommitReport (s : Ch) (room : BitVec 6) (shard : BitVec 16) : Served.Statement (.shardCommitReport s room shard) := fun h => nomatch h
theorem Served.captureStageAck (s : Ch) (room : BitVec 6) : Served.Statement (.captureStageAck s room) := fun h => nomatch h
theorem Served.captureAckTimeout (s : Ch) (room : BitVec 6) : Served.Statement (.captureAckTimeout s room) := fun h => nomatch h
theorem Served.mirrorCopyDone (s : Ch) (room : BitVec 6) (ok : Bool) : Served.Statement (.mirrorCopyDone s room ok) := fun h => nomatch h
theorem Served.sramPatrolScrub (c : Ch) (f : Option SramFinding) : Served.Statement (.sramPatrolScrub c f) := fun h => nomatch h
theorem Served.t1PatrolScrub (c : Ch) (f : Option T1Finding) : Served.Statement (.t1PatrolScrub c f) := fun h => nomatch h
theorem Served.migrationDone (c : Ch) (m : MigrationEnd) : Served.Statement (.migrationDone c m) := fun h => nomatch h
theorem Served.watchdogExpiry (c : Ch) (hk : Bool) : Served.Statement (.watchdogExpiry c hk) := fun h => nomatch h
theorem Served.coreSelfTestDone (c : Ch) (ok : Bool) : Served.Statement (.coreSelfTestDone c ok) := fun h => nomatch h
theorem Served.faultHistoryFlush (c : Ch) (ok : Bool) : Served.Statement (.faultHistoryFlush c ok) := fun h => nomatch h
theorem Served.flashWriteRetry (c : Ch) (ok : Bool) : Served.Statement (.flashWriteRetry c ok) := fun h => nomatch h
theorem Served.lifeClockWriteback (c : Ch) : Served.Statement (.lifeClockWriteback c) := fun h => nomatch h
theorem Served.boundMissRecord (c : Ch) : Served.Statement (.boundMissRecord c) := fun h => nomatch h
theorem Served.drainLimitExpiry (c : Ch) : Served.Statement (.drainLimitExpiry c) := fun h => nomatch h
theorem Served.channelLoss (c : Ch) : Served.Statement (.channelLoss c) := fun h => nomatch h
theorem Served.stackLoss (c : Ch) (stack : Ch) : Served.Statement (.stackLoss c stack) := fun h => nomatch h
theorem Served.trngHealthFail (c : Ch) : Served.Statement (.trngHealthFail c) := fun h => nomatch h
theorem Served.trngRetest (c : Ch) (ok : Bool) : Served.Statement (.trngRetest c ok) := fun h => nomatch h
theorem Served.irqSourceSignal (c : Ch) (level : BitVec 3) : Served.Statement (.irqSourceSignal c level) := fun h => nomatch h
theorem Served.handlerReturn (c : Ch) (hk : Bool) : Served.Statement (.handlerReturn c hk) := fun h => nomatch h
theorem Served.millisecondTick (c : Ch) : Served.Statement (.millisecondTick c) := fun h => nomatch h
theorem Served.vauxRemove : Served.Statement (.vauxRemove) := fun h => nomatch h
theorem Served.moduleManagementBlockLoss : Served.Statement (.moduleManagementBlockLoss) := fun h => nomatch h
theorem Served.pumpControlMismatch (c : Ch) (pump : BitVec 4) : Served.Statement (.pumpControlMismatch c pump) := fun h => nomatch h
theorem Served.hostCompletionTimeout (k : CmdKey) : Served.Statement (.hostCompletionTimeout k) := fun h => nomatch h
theorem Served.writeThroughAppendLand (c : Ch) (room : BitVec 6) : Served.Statement (.writeThroughAppendLand c room) := fun h => nomatch h

end Sys2Proof.Laws
end

