-- ==== Sys2Proof/Laws/Posts.lean ====
section
/-! SUPPORT. Laws/Posts.lean: what a posted command runs on and what it answers. -/

namespace Sys2Proof.Machine

theorem put_code (h : BitVec 512) (c : Byte) : hdrCode ((h >>> 8 <<< 8) ||| c.setWidth 512) = c := by
  unfold hdrCode
  apply BitVec.eq_of_getLsbD_eq
  intro i hi
  simp only [BitVec.getLsbD_extractLsb', BitVec.getLsbD_or, BitVec.getLsbD_shiftLeft, BitVec.getLsbD_setWidth, Nat.zero_add, hi]
  simp [show i < 512 by omega]

theorem escape_code (h : BitVec 512) (c : Byte) :
    hdrCode ((((h >>> 8 <<< 8) ||| (0xFF : Byte).setWidth 512) &&& ~~~(0xFF0000 : BitVec 512)) ||| (c.setWidth 512 <<< 16)) = 0xFF := by
  unfold hdrCode
  apply BitVec.eq_of_getLsbD_eq
  intro i hi
  have h0 : ∀ i, i < 8 → (0xFF0000 : BitVec 512).getLsbD i = false := by
    intro i hi
    have k : ∀ i, i < 8 → Nat.testBit 0xFF0000 i = false := by decide
    rw [show (0xFF0000 : BitVec 512) = BitVec.ofNat 512 0xFF0000 from rfl, BitVec.getLsbD_ofNat, k i hi, Bool.and_false]
  have h1 : ∀ i, i < 8 → (0xFF : BitVec 8).getLsbD i = true := by decide
  simp only [BitVec.getLsbD_extractLsb', BitVec.getLsbD_or, BitVec.getLsbD_and, BitVec.getLsbD_not, BitVec.getLsbD_shiftLeft,
    BitVec.getLsbD_setWidth, Nat.zero_add, hi, h0 i hi, h1 i hi]
  simp [show i < 512 by omega]

theorem escape_ext (h : BitVec 512) (c : Byte) :
    hdrExt ((((h >>> 8 <<< 8) ||| (0xFF : Byte).setWidth 512) &&& ~~~(0xFF0000 : BitVec 512)) ||| (c.setWidth 512 <<< 16)) = c := by
  unfold hdrExt
  apply BitVec.eq_of_getLsbD_eq
  intro i hi
  have h0 : ∀ i, i < 8 → (0xFF0000 : BitVec 512).getLsbD (16 + i) = true := by
    intro i hi
    have k : ∀ i, i < 8 → Nat.testBit 0xFF0000 (16 + i) = true := by decide
    rw [show (0xFF0000 : BitVec 512) = BitVec.ofNat 512 0xFF0000 from rfl, BitVec.getLsbD_ofNat, k i hi]
    simp [show 16 + i < 512 by omega]
  simp only [BitVec.getLsbD_extractLsb', BitVec.getLsbD_or, BitVec.getLsbD_and, BitVec.getLsbD_not, BitVec.getLsbD_shiftLeft,
    BitVec.getLsbD_setWidth, hi, h0 i hi]
  simp [show 16 + i < 512 by omega, show i < 512 by omega]

/-- The header of a post names its command. -/
theorem hdrOp_named (compat : Bool) (op : HostOp) (h : BitVec 512) : hdrOp compat (namedHeader compat op h) = some op := by
  unfold namedHeader
  split
  · assumption
  · cases compat
    · simp only [Bool.not_false, if_true]
      unfold hdrOp
      rw [put_code]
      cases op <;> rfl
    · simp only [Bool.not_true, Bool.false_eq_true, if_false]
      cases hc : op.codeH1 with
      | some c =>
        simp only
        unfold hdrOp
        rw [put_code]
        cases op <;> simp [HostOp.codeH1] at hc <;> subst hc <;> rfl
      | none =>
        simp only
        unfold hdrOp
        rw [escape_code, escape_ext]
        cases op <;> simp [HostOp.codeH1] at hc <;> rfl

/-- An accepted post runs its command on the device with the slot PENDING. -/
theorem post_runs (op : HostOp) (p : HostPost) (s : State) (h : Accepts op p s) :
    post s.board { p with header := postedHeader op p s.dev } s.dev = startCommand op (commandOf op p s.dev) (pendingDev op p s.dev) := by
  obtain ⟨h1, h2, h3, h4⟩ := h
  unfold post
  simp only [h1, h2, Bool.not_true, Bool.false_eq_true, if_false]
  rw [show headerStatus s.dev p.fn p.mbx (postedHeader op p s.dev) = .ok from h4]
  rw [if_pos rfl, show hdrOp s.dev.fy.dev.compatH1 (postedHeader op p s.dev) = some op from hdrOp_named ..]
  unfold acceptPost
  simp only [h3]
  rfl

theorem pendingDev_only (op : HostOp) (p : HostPost) (d : Device) : OnlyFns d (pendingDev op p d) :=
  (onlyFns_modMbx ..).trans (onlyFns_setSlot ..)

theorem pendingDev_slot (op : HostOp) (p : HostPost) (d : Device) : postSlot op p d (pendingDev op p d) =
    { state := .pending, status := .pending, seq := hdrSeq (postedHeader op p d), opcode := hdrCode (postedHeader op p d) } :=
  slotOf_setSlot_same ..

@[simp] theorem chanOf_pendingDev (op : HostOp) (p : HostPost) (d : Device) (c : Ch) : chanOf (pendingDev op p d) c = chanOf d c := by
  unfold chanOf; rw [(pendingDev_only op p d).1]
@[simp] theorem suiteOf_pendingDev (op : HostOp) (p : HostPost) (d : Device) (c : Ch) : suiteOf (pendingDev op p d) c = suiteOf d c := by
  unfold suiteOf; rw [(pendingDev_only op p d).2.1]

theorem resultStatus_onlyFns {d d' : Device} (h : OnlyFns d d') (st : Status) : resultStatus d' st = resultStatus d st := by
  unfold resultStatus; rw [h.2.2.2]
theorem slotWords_onlyFns {d d' : Device} (h : OnlyFns d d') : slotWords d' = slotWords d := by
  unfold slotWords; rw [h.2.2.2]

/-- A command that is done answers in its slot; beside the functions the device is as the command left it. -/
theorem post_answers (i : Instr) (op : HostOp) (p : HostPost) (s : State) (d : Device) (st : Status) (ws : List W32)
    (hi : exec i s = postRow op p s) (ha : Accepts op p s)
    (hr : runOp op (commandOf op p s.dev) (pendingDev op p s.dev) = (d, .done st ws))
    (hs : postSlot op p s.dev d = postSlot op p s.dev (pendingDev op p s.dev)) :
    ∃ t, exec i s = .next t ∧ OnlyFns d t.dev ∧ Answers op p s t st ws := by
  have hp := post_runs op p s ha
  have hk : (commandOf op p s.dev).key = ⟨p.fn.key, p.mbx, hdrSlot (postedHeader op p s.dev)⟩ := rfl
  have e : startCommand op (commandOf op p s.dev) (pendingDev op p s.dev) = postResult d (commandOf op p s.dev).key st ws := by
    unfold startCommand; rw [hr]
  rw [e, hk] at hp
  have o := onlyFns_postResult d ⟨p.fn.key, p.mbx, hdrSlot (postedHeader op p s.dev)⟩ st ws
  have q : (slotOf d p.fn p.mbx (hdrSlot (postedHeader op p s.dev))).state = .pending := by
    have : slotOf d p.fn p.mbx (hdrSlot (postedHeader op p s.dev)) = _ := hs.trans (pendingDev_slot op p s.dev)
    rw [this]
  refine ⟨_, hi.trans rfl, ?_⟩
  dsimp only
  have hp' : post s.board { p with header := namedHeader s.dev.fy.dev.compatH1 op p.header } s.dev = _ := hp
  rw [hp']
  refine ⟨o, ?_⟩
  unfold Answers
  dsimp only
  have w : postSlot op p s.dev (postResult d ⟨p.fn.key, p.mbx, hdrSlot (postedHeader op p s.dev)⟩ st ws) = _ := postResult_slot d p.fn p.mbx _ st ws q
  rw [w, resultStatus_onlyFns o, slotWords_onlyFns o]
  have : slotOf d p.fn p.mbx (hdrSlot (postedHeader op p s.dev)) = _ := hs.trans (pendingDev_slot op p s.dev)
  rw [this]
  exact ⟨rfl, rfl, rfl, rfl, rfl⟩

/-- A command that waits leaves its slot PENDING and is held. -/
theorem post_waits (i : Instr) (op : HostOp) (p : HostPost) (s : State) (d : Device) (k : WaitKind)
    (hi : exec i s = postRow op p s) (ha : Accepts op p s)
    (hr : runOp op (commandOf op p s.dev) (pendingDev op p s.dev) = (d, .wait k))
    (hs : postSlot op p s.dev d = postSlot op p s.dev (pendingDev op p s.dev)) :
    ∃ t, exec i s = .next t ∧ t.dev = { d with fy := { d.fy with waits := d.fy.waits ++ [{ cmd := commandOf op p s.dev, op := op, kind := k }] } } ∧
      Waits op p s t k := by
  have hp := post_runs op p s ha
  have e : startCommand op (commandOf op p s.dev) (pendingDev op p s.dev) =
      { d with fy := { d.fy with waits := d.fy.waits ++ [{ cmd := commandOf op p s.dev, op := op, kind := k }] } } := by
    unfold startCommand; rw [hr]
  rw [e] at hp
  refine ⟨_, hi.trans rfl, ?_⟩
  dsimp only
  have hp' : post s.board { p with header := namedHeader s.dev.fy.dev.compatH1 op p.header } s.dev = _ := hp
  rw [hp']
  refine ⟨rfl, ?_, List.mem_append_right _ (List.mem_singleton.2 rfl)⟩
  have w : postSlot op p s.dev d = _ := hs.trans (pendingDev_slot op p s.dev)
  show (postSlot op p s.dev d).state = .pending
  rw [w]

end Sys2Proof.Machine
end

