-- ==== Sys2Proof/Laws/Reset.lean ====
section
/-! SUPPORT. Laws/Reset.lean: every memory after reset is in canonical form. -/

namespace Sys2Proof.Machine

theorem reset_memories_wf (c : Ch) :
    let x := chanOf State.reset.dev c
    Memory.wf x.ws ∧ Memory.wf x.sump ∧ Memory.wf x.cistern ∧ Memory.wf x.commonMem ∧ Memory.wf x.peerMem ∧ x.rooms = [] := by
  cases c <;> exact ⟨empty_memory_wf, empty_memory_wf, empty_memory_wf, empty_memory_wf, empty_memory_wf, rfl⟩

end Sys2Proof.Machine
end

