-- ==== Sys2Proof/Laws/Streams.lean ====
section
/-! SUPPORT. Laws/Streams.lean: stream contexts under the shared updates. -/

namespace Sys2Proof.Machine

theorem ctxOf_modCtxC (x : Channel) (j i : Nat) (f : StreamCtx → StreamCtx) :
    ctxOf (modCtxC x j f) i = if i = j then f (ctxOf x j) else ctxOf x i := by
  show tget {} (tmod {} x.ctxs j f) i = _
  by_cases h : i = j
  · subst h; rw [if_pos rfl, tget_tmod_same]; rfl
  · rw [if_neg h, tget_tmod_ne _ _ _ _ _ h]; rfl

theorem strm_modStrm (d : Device) (q i : SRef) (f : StreamCtx → StreamCtx) :
    strm (modStrm d q f) i = if i = q then f (strm d q) else strm d i := by
  obtain ⟨ic, ij⟩ := i
  obtain ⟨qc, qj⟩ := q
  show ctxOf (chanOf (modChan d qc fun x => modCtxC x qj f) ic) ij = _
  rw [chanOf_modChan]
  by_cases hc : ic = qc
  · subst hc
    rw [if_pos rfl, ctxOf_modCtxC]
    by_cases hj : ij = qj
    · subst hj; rw [if_pos rfl, if_pos rfl]; rfl
    · rw [if_neg hj, if_neg (by intro h; exact hj (Prod.mk.inj h).2)]; rfl
  · rw [if_neg hc, if_neg (by intro h; exact hc (Prod.mk.inj h).1)]; rfl

/-- A stream reads as before where its channel's contexts are as before. -/
theorem strm_congr {d d' : Device} (h : ∀ c, (chanOf d' c).ctxs = (chanOf d c).ctxs) (i : SRef) : strm d' i = strm d i := by
  unfold strm ctxOf; rw [h]

theorem strm_onlyStores {d d' : Device} (h : OnlyStores d d') (i : SRef) : strm d' i = strm d i :=
  strm_congr (fun c => by rw [(h.1 c).2]) i

theorem leadRoom_modStrm (d : Device) (q : SRef) (f : StreamCtx → StreamCtx) (s : Ch) (n : Nat) :
    leadRoom (modStrm d q f) s n = leadRoom d s n := by
  unfold leadRoom modStrm
  rw [leadOf_modChan, chanOf_modChan]
  split
  · rename_i h; rw [h]; rfl
  · rfl

theorem newlyCurrent_self (d : Device) (s : Ch) : newlyCurrent d d s = [] := by
  unfold newlyCurrent
  rw [List.map_eq_nil_iff, List.filter_eq_nil_iff]
  intro k _ h
  simp only [Bool.and_eq_true, beq_iff_eq, bne_iff_ne] at h
  exact h.2 h.1

/-- Where nothing has become CURRENT, no boundary follows. -/
theorem spread_self (s : Ch) (n fuel : Nat) (d : Device) : spread s n fuel d d = d := by
  cases fuel with
  | zero => rfl
  | succ k => show (if (newlyCurrent d d s).isEmpty then d else _) = d; rw [newlyCurrent_self]; rfl

/-- While a room's step is in progress no idle boundary is held. -/
theorem idleBoundary_inStep (d : Device) (s : Ch) (n : Nat) (h : (leadRoom d s n).serve.inStep = true) : idleBoundary d s n = d := by
  have h1 : idleOnce d s n = d := by unfold idleOnce; simp [h]
  unfold idleBoundary
  rw [h1, spread_self]

end Sys2Proof.Machine
end

