-- ==== Sys2Proof/Laws/Tokens.lean ====
section
/-! SUPPORT. Laws/Tokens.lean: what charging a room, making it eligible and posting its token change. -/

namespace Sys2Proof.Machine

/-- A channel without its rooms. -/
def noRooms (x : Channel) : Channel := { x with rooms := [] }

theorem noRooms_modRoomC (x : Channel) (n : Nat) (f : Room → Room) : noRooms (modRoomC x n f) = noRooms x := rfl
theorem noRooms_modLeadRoom (d : Device) (s : Ch) (n : Nat) (f : Room → Room) : Keeps noRooms d (modLeadRoom d s n f) :=
  keeps_modChan d _ (fun x => modRoomC x n f) fun _ => rfl
theorem noRooms_modSuiteRoom (d : Device) (s : Ch) (n : Nat) (f : Room → Room) : Keeps noRooms d (modSuiteRoom d s n f) :=
  keeps_modChans d _ (fun _ x => modRoomC x n f) fun _ _ => rfl
theorem noRooms_chargeRun (d : Device) (s : Ch) (n : Nat) : Keeps noRooms d (chargeRun d s n) := by
  unfold chargeRun modAcctAll
  exact (noRooms_modLeadRoom _ _ _ _).trans (noRooms_modSuiteRoom _ _ _ _)
theorem noRooms_chargeSwitch (d : Device) (s : Ch) (n t : Nat) : Keeps noRooms d (chargeSwitch d s n t) := by
  unfold chargeSwitch modAcctAll
  exact (noRooms_modLeadRoom _ _ _ _).trans (noRooms_modSuiteRoom _ _ _ _)
theorem noRooms_chargeWait (d : Device) (s : Ch) (n : Nat) : Keeps noRooms d (chargeWait d s n) := by
  unfold chargeWait modAcctAll
  exact noRooms_modSuiteRoom _ _ _ _
theorem noRooms_makeEligible (d : Device) (s : Ch) (n : Nat) : Keeps noRooms d (makeEligible d s n) := by
  unfold makeEligible
  extract_lets d0 others vmin
  refine Keeps.trans ?_ (noRooms_modLeadRoom _ _ _ _)
  simp only [d0]
  split
  · exact noRooms_chargeRun _ _ _
  · exact .refl _
theorem noRooms_unblock (d : Device) (s : Ch) (n : Nat) : Keeps noRooms d (unblock d s n) := by
  unfold unblock; split
  · exact noRooms_makeEligible _ _ _
  · exact .refl _

variable {α : Type} {n : Nat} {w : Room → α}

/-- A view that reads neither the scheduler's registers of a room nor its accounts. -/
def NoSched (w : Room → α) : Prop := ∀ (r : Room) a b c e, w { r with sch := a, acct := b, vtRem := c, sinceUs := e } = w r

theorem sched_chargeRun (h : NoSched w) (d : Device) (s : Ch) (m : Nat) : Keeps (roomView n w) d (chargeRun d s m) := by
  unfold chargeRun modAcctAll
  exact (keeps_modLeadRoom _ _ _ _ fun r => h r _ _ _ _).trans (keeps_modSuiteRoom _ _ _ _ fun r => h r _ _ _ _)
theorem sched_chargeSwitch (h : NoSched w) (d : Device) (s : Ch) (m t : Nat) : Keeps (roomView n w) d (chargeSwitch d s m t) := by
  unfold chargeSwitch modAcctAll
  exact (keeps_modLeadRoom _ _ _ _ fun r => h r _ _ _ _).trans (keeps_modSuiteRoom _ _ _ _ fun r => h r _ _ _ _)
theorem sched_chargeWait (h : NoSched w) (d : Device) (s : Ch) (m : Nat) : Keeps (roomView n w) d (chargeWait d s m) := by
  unfold chargeWait modAcctAll
  exact keeps_modSuiteRoom _ _ _ _ fun r => h r _ _ _ _
theorem sched_makeEligible (h : NoSched w) (d : Device) (s : Ch) (m : Nat) : Keeps (roomView n w) d (makeEligible d s m) := by
  unfold makeEligible
  extract_lets d0 others vmin
  refine Keeps.trans ?_ (keeps_modLeadRoom _ _ _ _ fun r => h r _ _ _ _)
  simp only [d0]
  split
  · exact sched_chargeRun h _ _ _
  · exact .refl _
theorem sched_unblock (h : NoSched w) (d : Device) (s : Ch) (m : Nat) : Keeps (roomView n w) d (unblock d s m) := by
  unfold unblock; split
  · exact sched_makeEligible h _ _ _
  · exact .refl _

theorem fy_unblock (d : Device) (s : Ch) (m : Nat) : (unblock d s m).fy = d.fy := by
  unfold unblock; split
  · unfold makeEligible; extract_lets d0 others vmin
    show d0.fy = _
    simp only [d0]; split
    · unfold chargeRun modAcctAll modSuiteRoom; dsimp only; rw [modChans_fy]; rfl
    · rfl
  · rfl

/-- A channel without its rooms and its island's context. -/
def outside (x : Channel) : Channel := { noRooms x with island := { x.island with ctx := {} } }

theorem modCtxOn_ctx (x : Channel) (n : Nat) (f : Ctx → Ctx) : ctxOn (modCtxOn x n f) n = f (ctxOn x n) := by
  unfold ctxOn modCtxOn
  by_cases h : x.island.room = some n
  · simp [h]
  · simp only [h, if_false]
    rw [if_neg (by show ¬(modRoomC x n _).island.room = some n; exact h), roomOf_modRoomC_same]
theorem modCtxOn_outside (x : Channel) (n : Nat) (f : Ctx → Ctx) : outside (modCtxOn x n f) = outside x := by
  unfold modCtxOn; split <;> rfl

theorem ctxOn_congr {x y : Channel} (n : Nat) (h : y.island = x.island) (g : (roomOf y n).ctx = (roomOf x n).ctx) : ctxOn y n = ctxOn x n := by
  unfold ctxOn; rw [h, g]

/-- A token: the room's counter goes up on the channel; beside rooms and contexts the channels are as before, and so is every view
of a room that reads neither context nor schedule. -/
theorem postToken_spec (d : Device) (c : Ch) (n t : Nat) :
    (postToken d c n t).fy = d.fy ∧ Keeps outside d (postToken d c n t) ∧
    ctxOn (chanOf (postToken d c n t) c) n = incTk (ctxOn (chanOf d c) n) t ∧
    (∀ o, o ≠ c → (chanOf (postToken d c n t) o).island = (chanOf d o).island) ∧
    ∀ (m : Nat) (α : Type) (w : Room → α), NoSched w → (∀ r k, w { r with ctx := k } = w r) → Keeps (roomView m w) d (postToken d c n t) := by
  unfold postToken
  extract_lets d1
  have a1 : d1.fy = d.fy := rfl
  have a2 : Keeps outside d d1 := keeps_modChan d c _ fun x => modCtxOn_outside x n _
  have a3 : ctxOn (chanOf d1 c) n = incTk (ctxOn (chanOf d c) n) t := by
    show ctxOn (chanOf (modChan _ _ _) c) n = _
    rw [chanOf_modChan_same, modCtxOn_ctx]
  have a4 : ∀ o, o ≠ c → (chanOf d1 o).island = (chanOf d o).island := by
    intro o ho; show (chanOf (modChan _ _ _) o).island = _; rw [chanOf_modChan_ne _ _ ho]
  have a5 : ∀ (m : Nat) (α : Type) (w : Room → α), NoSched w → (∀ r k, w { r with ctx := k } = w r) → Keeps (roomView m w) d d1 := by
    intro m α w _ hk
    refine keeps_modChan d c _ fun x => ?_
    unfold modCtxOn; split
    · exact roomView_rooms m w rfl
    · exact roomView_modRoomC x m n w _ fun r => hk r _
  split
  · rename_i s hs
    have k := noRooms_unblock d1 s n
    have ki : ∀ o, (chanOf (unblock d1 s n) o).island = (chanOf d1 o).island := fun o => by
      have e := congrArg Channel.island (show noRooms _ = noRooms _ from k.chans o)
      exact e
    refine ⟨(fy_unblock ..).trans a1, ?_, ?_, fun o ho => (ki o).trans (a4 o ho), fun m α w hw hk => (a5 m α w hw hk).trans (sched_unblock hw _ _ _)⟩
    · refine a2.trans ⟨k.suites, fun o => ?_⟩
      have e := congrArg (fun x : Channel => { x with island := { x.island with ctx := {} } }) (k.chans o)
      exact e
    · rw [← a3]
      refine ctxOn_congr n (ki c) ?_
      exact (sched_unblock (w := Room.ctx) (n := n) (fun _ _ _ _ _ => rfl) d1 s n).chans c
  · exact ⟨a1, a2, a3, a4, a5⟩

end Sys2Proof.Machine
end

