-- ==== Sys2Proof/Tests/Slice0.lean ====
section
/-! SUPPORT. Tests/Slice0.lean: small tests: ill-formed commands are refused by name, and states that meet the hypotheses of the statements. A state is
built from `bench`, a device that has ended start-up with one suite on channel 0. -/

namespace Sys2Proof.Tests
open Sys2Proof.Machine
set_option Elab.async false

/-! ## A small device -/

/-- A board whose start-up has ended, and a channel in service. -/
def benchBoard : Board :=
  { vaux := true, resetHigh := true, loops := 31, foyerOn := true, firmware := true, released := 4, pairs := 8, trained := 16, readyOut := true,
    pwr := { seq := 9, pg := 7, vstkOn := true, voptOn := true } }
def benchStack : Stack := { reg := { up := true }, powered := true, trained := true }
def benchChan (c : Ch) : Channel :=
  { node := { channel := BitVec.ofNat 2 c.num }, released := true, imageOk := true, started := true, arrayOn := true, cmdCore := { up := true },
    hkCore := { up := true }, memStacks := Quad.same benchStack, sec := { trngOk := true, drbgReady := true }, fltHist := { present := true },
    bootKey := some 1, suiteKey := some 2 }
def benchDev (c0 : Channel) : Device :=
  { fy := { dev := { hostaUp := true, hostbUp := true }, linkA := true, linkB := true }, chans := ⟨c0, benchChan .c1, benchChan .c2, benchChan .c3⟩,
    suites := { c0 := { mask := 1 }, c1 := {}, c2 := {}, c3 := {} } }
/-- The device with channel 0 as given. -/
def bench (c0 : Channel) : State := { pending := [], board := benchBoard, dev := benchDev c0 }
/-- With one room on channel 0, of index 1. -/
def benchRoom (r : Room) : State := bench { benchChan .c0 with rooms := [(1, r)] }
def idle : State := bench (benchChan .c0)
/-- A board before start-up has ended. -/
def boot (b : Board) : State := { pending := [], board := b, dev := Device.reset }
def pf : Fn := ⟨false, 0⟩
/-- A post of a command by the PF of port A, with these parameter fields (lowest bit, value), and SUITE 0. -/
def postOf (op : HostOp) (fs : List (Nat × Nat)) (data : HostData := {}) : HostPost :=
  { fn := pf, mbx := 0, header := op.code.setWidth 512 ||| (1984 <<< 64), params := BitVec.ofNat _ (fs.map fun f => f.2 <<< f.1).sum, data := data }

/-! ## Ill-formed commands -/

theorem test_wf_register_absent : (Instr.registerWrite (.word .kvRoom1 pf .c0 64 0) 0).wf = false := by decide +kernel
theorem test_wf_register : (Instr.registerWrite (.word .kvRoom1 pf .c0 63 0) 0).wf = true := by decide +kernel
theorem test_wf_mask_vector : (Instr.registerWrite (.msixMask pf 288) 0).wf = false ∧ (Instr.registerWrite (.msixMask pf 287) 0).wf = true := by decide
theorem test_wf_area_offset : (Instr.registerWrite (.cmdArea pf 0 4) 0).wf = false ∧ (Instr.registerWrite (.cmdArea pf 0 8) 0).wf = true := by decide
theorem test_wf_mod_vector : (Instr.irqModTimer pf 288).wf = false ∧ (Instr.irqModTimer pf 287).wf = true := by decide
theorem test_wf_frame_length : frameWf (1 <<< 9) [] = false ∧ frameWf (9 <<< 9) (List.replicate 576 0) = false ∧
    frameWf (1 <<< 9) (List.replicate 64 0) = true := by decide +kernel
theorem test_wf_chunk_length (bs : List Byte) (h : bs.length = 1048577) :
    (Instr.dataChunkArrival .c0 0 0 0 0 0 false false bs).wf = false ∧ (Instr.reduceChunkArrival .c0 0 0 0 false false bs).wf = false ∧
    (Instr.broadcastChunkArrival .c0 0 0 0 false bs).wf = false := by simp [Instr.wf, h]

/-! ## Steps, reset, the queue -/

theorem test_w_StepRunsFrontCommand : ({ State.reset with pending := [.vauxRise false] } : State).pending = .vauxRise false :: [] := rfl
theorem test_w_EmptyQueueIdles : State.reset.pending = [] := rfl
theorem test_w_CommandsKeepTheQueue : ∃ t, exec (.vauxRise false) { State.reset with pending := [.vauxRemove] } = .next t := ⟨_, rfl⟩
theorem test_w_StepsKeepSequencerLegal : legalBoard idle.board = true ∧ ∃ t, step { idle with pending := [.sysResetNFall] } = .next t :=
  ⟨by decide, _, rfl⟩
theorem test_w_OtherCommandsKeepBoard : reachesBoard (.heatEpoch .c0) = false ∧ ∃ t, exec (.heatEpoch .c0) idle = .next t := ⟨rfl, _, rfl⟩
theorem test_w_ThermtripHoldsUntilVauxRemoved :
    let s := boot { vaux := true, resetHigh := true, thermtrip := true, pwr := { seq := 11 } }
    Instr.sysResetNFall ≠ .vauxRemove ∧ legalBoard s.board = true ∧ s.board.thermtrip = true ∧ ∃ t, exec .sysResetNFall s = .next t :=
  ⟨nofun, by decide, rfl, _, rfl⟩

/-! ## Start-up, power-down and the rails -/

/-- Boards of the start-up stages, each of them legal. -/
def stage (q : Nat) : Board :=
  { vaux := q ≠ 0, resetHigh := 3 ≤ q, loops := if 3 ≤ q then 31 else 0, foyerOn := 5 ≤ q, firmware := 6 ≤ q, released := if 6 ≤ q then 4 else 3,
    pwr := { seq := BitVec.ofNat 4 q, vstkOn := 6 ≤ q, voptOn := 8 ≤ q, pg := if 7 ≤ q then 3 else 0 }, readyOut := q == 9 }
theorem test_w_stages : ∀ q ∈ [0, 2, 3, 5, 6, 7, 8, 9], legalBoard (stage q) = true := by decide
theorem test_w_StartUpFirstStages : (stage 0).vaux = false ∧
    ((stage 2).vaux = true ∧ (stage 2).resetHigh = false ∧ (stage 2).thermtrip = false) ∧ (stage 3).pwr.seq = 3 ∧
    ((stage 5).pwr.seq = 5 ∧ (stage 5).released < 4) ∧ ({ stage 5 with boot := { bootSel := 2 } } : Board).boot.bootSel = 2 := by decide
theorem test_w_BootImageDecides :
    let s : State := { idle with board := { stage 5 with released := 4 } }
    let hosted : Board := { stage 5 with released := 4, boot := { bootSel := 2 }, goPort := some true }
    (hosted.pwr.seq = 5 ∧ hosted.released = 4 ∧ hosted.boot.bootSel = 2 ∧ hosted.goPort.isSome = true ∧ legalBoard hosted = true) ∧
    s.board.pwr.seq = 5 ∧ s.board.released = 4 ∧ s.board.boot.bootSel ≠ 2 ∧ legalBoard s.board = true ∧
    ((chanOf s.dev .c0).released && (acceptsFirst (chanOf s.dev .c0) {} || acceptsSecond (chanOf s.dev .c0) {})) = true ∧
    ∀ c ∈ Ch.all, ((chanOf s.dev c).released && (acceptsFirst (chanOf s.dev c) { sig1 := false, sig2 := false } ||
      acceptsSecond (chanOf s.dev c) { sig1 := false, sig2 := false })) = false := by decide +kernel
theorem test_w_StartUpStacksAndOptics :
    let x : Channel := { Channel.reset .c0 with memStacks := Quad.same { powered := true } }
    (stage 6).pwr.seq = 6 ∧ ((stage 7).pwr.seq = 7 ∧ ({ stage 7 with pairs := 7 } : Board).pairs < 8) ∧ Ch.c2.num / 2 = 7 % 2 ∧
    ((x.memStacks.get .c3).powered = true ∧ (x.memStacks.get .c3).trained = false ∧ ({ stage 7 with trained := 15 } : Board).trained = 15) ∧
    ((stage 8).pwr.seq = 8 ∧ (stage 8).pwr.voptOn = true ∧ (stage 8).pwr.pg.getLsbD 2 = false) := by decide
theorem test_w_StartUpEnds :
    let s : State := { idle with board := stage 8 }
    s.board.pwr.seq = 8 ∧ s.board.firmware = true ∧ s.dev.fy.held = [] := by decide
theorem test_w_PowerDownLosesContents : ((stage 2).vaux = true ∧ (stage 3).resetHigh = true) ∧
    (∀ q ∈ [5, 9], 4 ≤ (stage q).pwr.seq.toNat ∧ (stage q).pwr.seq.toNat ≤ 9) ∧ ((stage 9).vaux = true ∧ (stage 9).thermtrip = false) := by decide
theorem test_w_RailLossDeassertsEnable : (benchBoard.pwr.vstkOn = true ∧ benchBoard.pwr.pg.getLsbD 1 = true) ∧
    (benchBoard.pwr.voptOn = true ∧ benchBoard.pwr.pg.getLsbD 2 = true) := by decide
theorem test_w_noRoomStarted (u : Ch) (n : Nat) : isStarted (leadRoom idle.dev u n) = false := by cases u <;> rfl

/-! ## Power, temperature, monitors -/

theorem test_w_TemperatureSetsTheStep :
    let free := fun x : Channel => x.tjHold = false ∧ x.trips.contains .vcore = false
    let x : Channel := benchChan .c0
    idle.board.vaux = true ∧ (105 ≤ max (105 : BitVec 8).toNat (0 : BitVec 8).toNat) ∧ (max (99 : BitVec 8).toNat (98 : BitVec 8).toNat < 100) ∧
    ({ x with tjHold := true } : Channel).tjHold = true ∧
    (free { x with temp := 95 } ∧ 95 ≤ hottest { x with temp := 95 }) ∧
    (free { x with powerDown := true, temp := 94 } ∧ hottest { x with powerDown := true, temp := 94 } < 95) ∧
    (free x ∧ hottest x < 95 ∧ x.powerDown = false ∧ x.step < min 16 (3 : BitVec 5).toNat) ∧
    (free { x with step := 4, temp := 91 } ∧ hottest { x with step := 4, temp := 91 } < 92 ∧ min 16 (3 : BitVec 5).toNat < 4) ∧
    (({ x with step := 3 } : Channel).step = min 16 (3 : BitVec 5).toNat) ∧
    (free { x with temp := 92 } ∧ 92 ≤ hottest { x with temp := 92 } ∧ hottest { x with temp := 94 } < 95) := by decide +kernel
theorem test_w_MonitorsTripAndRecover :
    let x : Channel := { benchChan .c0 with trips := [.vopt 3], ports := [(3, { state := 5 })] }
    (Monitor.vopt 3 ∈ x.trips ∧ (portOf x (BitVec.ofNat 2 3)).state = 5) ∧ Monitor.vopt 3 ∉ (benchChan .c0).trips ∧
    ∀ c ∈ Ch.all, portsOut (chanOf idle.dev c) = 0 ∧ ∀ k ∈ [Monitor.tjMax, .vcore, .vopt 3],
      isPermanent (chanOf idle.dev c) (monitorClass k) (monitorUnit k) 0 false = false := by decide +kernel
theorem test_w_LimitsAndFuses : idle.board.vaux = true ∧ (chanOf idle.dev .c0).imageOk = true ∧ (chanOf idle.dev .c0).sec.minSvn < 1 := by decide +kernel

/-! ## Registers -/

theorem test_w_AccessCodesDecideWrites :
    ((wordMask .ccWaitLimit0).w1c.getLsbD 31 = false ∧ (wordMask .ccWaitLimit0).rw.getLsbD 31 = true) ∧ (wordMask .ccStreamFault0).w1c.getLsbD 63 = true ∧
    (let m := wordMask .ccIssueCount0
     (m.rw ||| m.rwl ||| m.w1c).getLsbD 63 = false ∧ (m.rw ||| m.rwl ||| m.w1c).getLsbD 0 = false) ∧
    (List.range 64).any fun k => (wordMask .kvRoom1).rwl.getLsbD k && !(wordMask .kvRoom1).rw.getLsbD k && !(wordMask .kvRoom1).w1c.getLsbD k := by decide +kernel

/-! ## Registers, result slots, ports -/

theorem test_w_RegisterWritesReachTheirField :
    let s := benchRoom { cfg := { state := 3 } }
    let x := chanOf s.dev .c0
    (x.imageOk = true ∧ x.lost = false) ∧ (63 < 64 ∧ roomState (roomOf x 63) ≠ rsStarted) ∧ roomState (roomOf x 1) = rsStarted ∧
    (takesPosts s.board s.dev pf = true ∧ 15 < 16 ∧ 287 < 288) ∧ regExists .kvRoom1 64 0 = false ∧ regExists .kvRoom1 63 0 = true ∧
    (spaceOf .srvRoom6 = .ccs ∧ (Channel.reset .c0).imageOk = false ∧ isStepWord .srvRoom6 = true ∧ regExists .srvRoom6 1 0 = true ∧
      inStep { cfg := { state := 3 }, serve := { inStep := true } } = true) := by decide +kernel
/-- A device whose first result slot of the PF's first mailbox is as given. -/
def benchSlot (k : ResultSlot) : State :=
  { idle with dev := setSlot idle.dev pf 0 7 k }
theorem test_w_ResultSlotsReadAckExpire :
    (let s := benchSlot { state := .ready, seq := 5 }
     let v : W64 := 7 ||| (5 <<< 32)
     takesPosts s.board s.dev pf = true ∧ (7 : BitVec 3).toNat < slotCount s.dev ∧ (7 : BitVec 3) = v.extractLsb' 0 3 ∧
     (slotOf s.dev pf 0 7).state = .ready ∧ (slotOf s.dev pf 0 7).seq = v.extractLsb' 32 32) ∧
    (slotOf (benchSlot { state := .expired }).dev pf 0 7).state = .expired ∧ (slotOf idle.dev pf 0 7).state = .free := by decide +kernel
theorem test_w_PortsAndFunctionsReset :
    let down : State := { idle with dev := { idle.dev with fy := { idle.dev.fy with linkA := false } } }
    let early : State := { idle with board := { benchBoard with firmware := false, boot := { bootSel := 2 } } }
    idle.dev.fy.loads = [] ∧ (portUp idle.dev false = true ∧ portUp idle.dev true = true) ∧
    (down.board.foyerOn = true ∧ portUp down.dev false = false) ∧
    (early.board.foyerOn = true ∧ portUp early.dev pf.portB = true ∧ early.board.firmware = false ∧ (⟨false, 1⟩ : Fn).num ≠ 0) ∧
    idle.board.firmware = true := by decide +kernel
theorem test_w_nothingOwed (fy : Foyer) : NothingOwed { idle.dev with fy := fy } := by
  intro s n; cases s <;> rfl
theorem test_w_SidebandAnswers :
    let s : State := { idle with dev := setFn idle.dev pf { vectors := [(287, { units := 1, masked := false })], busMaster := true } }
    s.board.vaux = true ∧ (smbusBlock 0x17 s.board s.dev).isSome = true ∧ smbusBlock 9 s.board s.dev = none ∧
    (vecOf (fnOf s.dev pf) 287).units ≠ 0 ∧ (vecOf (fnOf s.dev pf) 287).masked = false ∧ mayDma (fnOf s.dev pf) = true ∧
    (let t : State := { idle with dev := setFn idle.dev pf { vectors := [(0, { units := 1 })] } }
     (vecOf (fnOf t.dev pf) 0).units ≠ 0 ∧ (vecOf (fnOf t.dev pf) 0).masked = true) := by decide +kernel
theorem test_w_DebugRegionsAndAttics :
    let good : State := { idle with dev := { idle.dev with fy := { idle.dev.fy with cellar := [(15, { kind := 3, ch := 1 })] } } }
    idle.board.firmware = true ∧ (1 : W64).getLsbD 0 = true ∧ debugRefusal idle.dev = 0 ∧
    debugRefusal (benchRoom { cfg := { state := 1 } }).dev ≠ 0 ∧ portUp good.dev false = true ∧
    applyRefused false good.dev 15 (tget {} good.dev.fy.cellar 15) = false ∧ applyRefused false idle.dev 15 (tget {} idle.dev.fy.cellar 15) = true ∧
    (tget {} good.dev.fy.cellar 15).ch.getLsbD 0 = true ∧ (tget {} good.dev.fy.cellar 15).ch.getLsbD 3 = false := by decide +kernel

/-! ## Host commands -/

theorem test_w_PostsAreChecked :
    let p := postOf .setBudget []
    let late : HostPost := { p with header := p.header ||| (1 <<< 14) }
    let busy : State := { idle with dev := setFn idle.dev pf { mailboxes := [(0, { words := { cmdBusy := true } })] } }
    let off : State := { idle with board := { benchBoard with firmware := false } }
    let early : State := { idle with board := stage 8 }
    rowPost (.setBudget p) = some (.setBudget, p) ∧ takesPosts off.board off.dev p.fn = false ∧
    (takesPosts busy.board busy.dev p.fn = true ∧ (mbxOf busy.dev p.fn p.mbx).words.cmdBusy = true) ∧
    (takesPosts idle.board idle.dev p.fn = true ∧ (mbxOf idle.dev p.fn p.mbx).words.cmdBusy = false ∧ postCheck .setBudget late idle ≠ .ok) ∧
    (takesPosts early.board early.dev p.fn = true ∧ postCheck .setBudget p early = .ok ∧ early.board.pwr.seq ≠ 9) := by decide +kernel
theorem test_w_SuiteSetFormsSuite :
    let s := idle
    let p := postOf .suiteSet [(0, 1), (2, 2), (32, 100), (96, 5), (128, 5)]
    let a := (commandOf .suiteSet p s.dev).params
    let u := Ch.ofNum (par a 0 2)
    let cs := chansOf (BitVec.ofNat 4 (par a 2 4))
    Accepts .suiteSet p s ∧ s.dev.fy.loads = [] ∧ u = .c1 ∧ cs = [.c1] ∧
    reservedClear a [(0, 2), (2, 4), (32, 16), (64, 32), (96, 32), (128, 32)] = true ∧ cs.length ≠ 3 ∧
    (∀ c ∈ cs ++ suiteChans s.dev u, (chanOf s.dev c).flt.draining = false) ∧
    (∀ c ∈ cs, (suiteOfChan s.dev c = none ∨ suiteOfChan s.dev c = some u) ∧ inService (chanOf s.dev c) = true ∧
      (chanOf s.dev c).sec.trngOk = true ∧ accountFits (chanOf s.dev c) commonAcctIx (par a 64 32) = true) ∧
    100 ≤ par a 32 16 ∧ par a 64 32 ≤ par a 96 32 ∧ (suiteExists s.dev u && suiteHasRoom s.dev u) = false := by unfold Accepts; decide +kernel
theorem test_w_RoomCreateMakesRoom :
    let s := idle
    let p := postOf .roomCreate [(2, 63), (16, 1), (288, 0xBC0), (224, 4)]
    let a := (commandOf .roomCreate p s.dev).params
    let u := Ch.ofNum (par a 0 2)
    let cs := suiteChans s.dev u
    Accepts .roomCreate p s ∧ createIndex s.dev u a = some 63 ∧ 63 < 64 ∧ roomState (leadRoom s.dev u 63) = rsFree ∧
    reservedClear a [(0, 13), (16, 16), (64, 64), (128, 64), (192, 32), (224, 32), (256, 32), (288, 12)] = true ∧ suiteExists s.dev u = true ∧
    par a 16 16 ≠ 0 ∧ par a 288 12 ≠ 0 ∧ par a 288 12 ≤ 0xBC0 ∧ par a 192 32 ≤ par a 224 32 ∧ maySuite s.dev p.fn u = true ∧
    suiteDraining s.dev u = false ∧ s.dev.fy.debugOpen = false ∧ parB a 12 = false ∧
    ∀ c ∈ cs, (chanOf s.dev c).sec.trngOk = true ∧ accountFits (chanOf s.dev c) 63 (par a 192 32) = true := by unfold Accepts; decide +kernel
theorem test_w_RoomDestroyFreesRoom :
    let s := benchRoom { cfg := { state := 4 } }
    let p := postOf .roomDestroy [(0, 1)]
    let a := commandOf .roomDestroy p s.dev
    let r := leadRoom s.dev a.suite (par a.params 0 6)
    Accepts .roomDestroy p s ∧ s.dev.fy.loads = [] ∧ reservedClear a.params [(0, 6)] = true ∧ suiteExists s.dev a.suite = true ∧ mayName a r = true ∧
    roomState r ≠ rsFree ∧ isStarted r = false ∧ r.ckps.capture = none ∧ r.ptrs = [] ∧ roomStreams s.dev a.suite 1 = [] := by
  unfold Accepts; decide +kernel

/-- Channel 0 with 64 pages of a device of the fabric as region 14 and of port A's host memory as region 15, and what is given beside. -/
def hostChan : Channel := { benchChan .c0 with regions := [(14, { kind := 1, pages := 64 }), (15, { kind := 3, pages := 64 })] }
/-- A program of no instruction, with the models given. -/
def prog (i : ProgMeta) : Program := { digest := 7, signer := 8, sealedForm := false, info := i, stream := [], colls := [] }
/-- A request header for room 1 with DELIVER 1: a prompt of one token, one new token, TOP_P 1 (Table 6.1). -/
def reqWord : Nat := (1 <<< 32) + (1 <<< 38) + (1 <<< 96) + (1 <<< 128) + (0x3F800000 <<< 192)
/-- A serving room in a step. -/
def stepRoom : Room := { cfg := { state := 3 }, tier := { t1max := 1 }, kv := { maxlen := 1 }, serve := { inStep := true } }

theorem test_w_SetBudget :
    let p := postOf .setBudget [(0, 4095), (12, 1), (128, 5), (192, 6)]
    let a := commandOf .setBudget p idle.dev
    Accepts .setBudget p idle ∧ suiteDraining idle.dev a.suite = false ∧ suiteExists idle.dev a.suite = true ∧
    reservedClear a.params [(0, 13), (32, 64), (128, 48), (192, 48)] = true := by unfold Accepts; decide +kernel
theorem test_w_SubmitRequests :
    let s := bench { hostChan with rooms := [(1, stepRoom)], budgets := [(0, { reg := { burst := 256, level := 256 } })] }
    let p := postOf .submitRequests [(0, 1), (8, 15), (64, 64)] { mem := (List.range 128).map fun i => (64 + i, BitVec.ofNat 8 (reqWord >>> (8 * i))) }
    let a := commandOf .submitRequests p s.dev
    let u := a.suite
    let x := chanOf s.dev (leadOf s.dev u)
    let cnt := par a.params 0 5
    let reg := par a.params 8 4
    let reqs := (offsetsOf a.params cnt).map fun o => ownRequest a s.dev (readRequest (sourceBytes a) ((regionOf x reg).pages.toNat * pageBytes) o)
    Accepts .submitRequests p s ∧ suiteDraining s.dev u = false ∧ suiteExists s.dev u = true ∧ cnt = 1 ∧
    reservedClear a.params (submitFields cnt) = true ∧ (∀ o ∈ offsetsOf a.params cnt, regionAllows x hostKinds 64 reg o 128 = true) ∧
    accessFails s.dev x a.data reg = false ∧
    ∀ q ∈ reqs, requestBad s.dev u q = false ∧ (leadRoom s.dev u (rqRoom q.hdr)).serve.inStep = true ∧
      reqPrompt q.hdr * (budgetOf x (rqCustomer q.hdr)).reg.inW.toNat ≤ levelOf (refill x (rqCustomer q.hdr)) (rqCustomer q.hdr) ∧
      stepRoom.srv.pending.toNat < stepRoom.srv.pendMax.toNat ∧
      (allocRoomPages (chanOf (modLead s.dev u fun x => refill x (rqCustomer q.hdr)) .c0) (rqRoom q.hdr) 0
        (requestPages (leadRoom s.dev u (rqRoom q.hdr)) 0 (reqNseq q.hdr) (reqPrompt q.hdr))).isSome = true := by unfold Accepts; decide +kernel
/-- The context that such a request takes. -/
theorem test_w_freeContext (x : Channel) (h : x.ctxs = []) (s : Ch) (d : Device) (e : suiteChans d s = [.c0]) (hc : chanOf d .c0 = x) :
    freeContext d s = some (.c0, 0) := by
  have h0 : (ctxOf (chanOf d .c0) 0).state == StreamState.free := by rw [hc]; unfold ctxOf; rw [h]; rfl
  unfold freeContext
  rw [e, List.findSome?_cons, show List.range 65536 = 0 :: (List.range 65535).map Nat.succ from List.range_succ_eq_map, List.find?_cons, h0]
  rfl
theorem test_w_CancelStream : ∀ st ∈ [StreamState.decode, .ending],
    let s := bench { hostChan with rooms := [(1, stepRoom)], ctxs := [(65535, { handle := 65535, room := 1, state := st })] }
    let p := postOf .cancelStream [(0, 65535)]
    let a := commandOf .cancelStream p s.dev
    let h : W32 := BitVec.ofNat 32 (par a.params 0 32)
    let k := strm s.dev (refOfHandle h)
    Accepts .cancelStream p s ∧ reservedClear a.params [(0, 32)] = true ∧ suiteOfChan s.dev (refOfHandle h).1 = some .c0 ∧ k.state ≠ .free ∧
    k.handle = h ∧ k.state = st ∧ mayName a (leadRoom s.dev .c0 k.room) = true ∧ (leadRoom s.dev .c0 k.room).serve.inStep = true := by
  unfold Accepts; decide +kernel
theorem test_w_SwitchWeights : ∀ sus ∈ [true, false],
    let s := bench { benchChan .c0 with rooms := [(1, { stepRoom with prog := some (prog { models := 8 }) })],
                                        copies := [(7, { reg := { state := csReady, model := 3, wgen := 9, suspect := sus } })] }
    let p := postOf .switchWeights [(0, 3), (32, 9)]
    let a := commandOf .switchWeights p s.dev
    let u := a.suite
    let x := chanOf s.dev (leadOf s.dev u)
    let rooms := modelRooms s.dev u (par a.params 0 2)
    Accepts .switchWeights p s ∧ suiteDraining s.dev u = false ∧ suiteExists s.dev u = true ∧ reservedClear a.params [(0, 2), (32, 32)] = true ∧
    (copyIxs.find? fun k => named x (par a.params 0 2) k && wgenOf x k == BitVec.ofNat 32 (par a.params 32 32)) = some 7 ∧
    (copyOf x 7).reg.suspect = sus ∧ rooms ≠ [] ∧
    ∀ n ∈ rooms, isStarted (leadRoom s.dev u n) = true ∧ (leadRoom s.dev u n).serve.inStep = true := by unfold Accepts; decide +kernel
theorem test_w_LoadProgram :
    let s := bench { hostChan with rooms := [(1, { cfg := { state := 1, kind := 2 } })] }
    let p := postOf .loadProgram [(0, 1), (64, 15), (128, 64), (192, 4194240)]
      { prog := { root := .kenath, sigOk := true, digestOk := true, info := { kind := 2, width := 480 } } }
    let a := commandOf .loadProgram p s.dev
    let u := a.suite
    let g := a.data.prog
    let r := leadRoom s.dev u 1
    let x := chanOf s.dev (leadOf s.dev u)
    Accepts .loadProgram p s ∧ suiteDraining s.dev u = false ∧ suiteExists s.dev u = true ∧ par a.params 0 6 = 1 ∧
    reservedClear a.params [(0, 8), (64, 4), (128, 64), (192, 64)] = true ∧ par a.params 6 2 = 0 ∧ g.root ≠ .nothing ∧ roomState r ≠ rsFree ∧
    isStarted r = false ∧ mayName a r = true ∧ metaBad g.info r = false ∧
    regionAllows x [1, 3, 4] 64 (par a.params 64 4) (par a.params 128 64) (par a.params 192 64) = true ∧ accessFails s.dev x a.data (par a.params 64 4) = false ∧
    (∀ c ∈ suiteChans s.dev u, inService (chanOf s.dev c) = true ∧ g.info.width ≤ 32 * arrayWidth (chanOf s.dev c) ∧
      (loadPages g.info (g.chans.get c) 1 (chanOf s.dev c)).isSome = true) ∧ imageOk s.dev g = true ∧
    (∀ k ∈ roomIndexes, k ≠ 1 → isStarted (leadRoom s.dev u k) = false) := by unfold Accepts; decide +kernel
theorem test_w_StartJob : ∀ st ∈ [rsLoaded, rsStopped],
    let s := benchRoom { cfg := { state := st, kind := 2 }, prog := some (prog { kind := 2 }) }
    let p := postOf .startJob [(0, 1), (16, 3)]
    let a := commandOf .startJob p s.dev
    let u := a.suite
    let r := leadRoom s.dev u 1
    Accepts .startJob p s ∧ suiteDraining s.dev u = false ∧ suiteExists s.dev u = true ∧ par a.params 0 6 = 1 ∧ (r.cfg.kind == 1) = false ∧
    reservedClear a.params [(0, 6), (16, 16)] = true ∧ mayName a r = true ∧ roomState r = st ∧ r.cfg.kind ≠ 3 ∧ trains r = true ∧
    512 * r.trn.stwSeg.toNat + 512 * r.trn.stwKeep.toNat ≤ r.trn.stwPages.toNat * pageBytes ∧
    (match r.prog with | some q => ((shardUnits q.info).map List.length).foldl max 0 | none => 0) ≤ r.tier.t1max.toNat ∧
    (startTensors s.dev u 1).isSome = true := by unfold Accepts; decide +kernel
theorem test_w_StopJob : ∀ q ∈ [(rsStopped, false), (rsStarted, true), (rsStarted, false)],
    let s0 := benchRoom { cfg := { state := q.1 } }
    let s : State := { s0 with dev := modSuite s0.dev .c0 fun u => { u with running := 1, idle := !q.2 } }
    let p := postOf .stopJob [(0, 1)]
    let a := commandOf .stopJob p s.dev
    let u := a.suite
    let r := leadRoom s.dev u 1
    Accepts .stopJob p s ∧ suiteExists s.dev u = true ∧ reservedClear a.params [(0, 6)] = true ∧ mayName a r = true ∧ roomState r = q.1 ∧
    decide (runningRoom s.dev u = some 1) = q.2 ∧ r.ckps.capture = none ∧ s.dev.fy.waits = [] ∧ r.serve.table = [] ∧ r.serve.owed = [] ∧
    r.serve.toFabric = [] ∧ roomStreams s.dev u 1 = [] := by unfold Accepts; decide +kernel

/-! ## Loads -/

def sealTo (kind : BitVec 4) (target : Bool) (key : BitVec 256) : SealInfo := { parses := true, rdig := key, kind := kind, target := target, segs := 1 }
/-- A room that may hold adapters, its key 5. -/
def adpRoom : Room :=
  { cfg := { state := 3 }, tier := { t1max := 64, t2max := 64 }, prog := some (prog {}), key := some 5, adp := { warmMax := 1, xexpN := 64, cacheMax := 1 },
    warm := [(0, { held := true, owner := 9 })] }
theorem test_w_LoadWeightsCopy :
    let s := bench { hostChan with commonAcct := { t1max := 1 } }
    let p := postOf .loadWeights [(2, 3), (10, 15), (32, 9)] { payload := sealTo 1 true 2, weights := { ok := true, model := 3, wgen := 9, pages := 1 } }
    let a := commandOf .loadWeights p s.dev
    let u := a.suite
    let m := par a.params 2 2
    let x := chanOf s.dev (leadOf s.dev u)
    Accepts .loadWeights p s ∧ suiteDraining s.dev u = false ∧ suiteExists s.dev u = true ∧ reservedClear a.params loadFields = true ∧
    headerAgrees a.data.weights a.params = true ∧
    regionAllows x [1, 3, 4] 65536 (par a.params 10 4) (par a.params 64 64) (par a.params 128 64) = true ∧
    accessFails s.dev x a.data (par a.params 10 4) = false ∧ par a.params 0 2 = 0 ∧ opens a.data.payload 1 true x.suiteKey = true ∧
    (∀ k ∈ copyIxs, copyState x k ≠ csFree → copyModel x k = m → (wgenOf x k).toNat < par a.params 32 32) ∧
    (claimCopy (pendingDev .loadWeights p s.dev) u m a.data.weights.pages.toNat csLoading).map (·.1) = some 0 := by unfold Accepts; decide +kernel
theorem test_w_LoadWeightsMasters :
    let s := bench { hostChan with rooms := [(1, { adpRoom with cfg := { state := 2, kind := 2 } })] }
    let p := postOf .loadWeights [(0, 1), (4, 1), (10, 15)] { payload := sealTo 1 false 5, weights := { ok := true, kind := 1 } }
    let a := commandOf .loadWeights p s.dev
    let u := a.suite
    let r := leadRoom s.dev u (par a.params 4 6)
    Accepts .loadWeights p s ∧ reservedClear a.params loadFields = true ∧ headerAgrees a.data.weights a.params = true ∧ par a.params 0 2 = 1 ∧
    r.cfg.kind = 2 ∧ r.prog.isSome = true ∧ mayName a r = true ∧ opens a.data.payload 1 false r.key = true ∧ contOk r a.data.payload = true ∧
    (takeMasters (pendingDev .loadWeights p s.dev) u 1).isSome = true := by unfold Accepts; decide +kernel
/-- PIN_ADAPTER with a home, a slot or a warm one, and without. -/
theorem test_w_PinAdapter : ∀ q ∈ [(1, 0, some 4096), (1, 1, none), (0, 1, some 0), (2, 1, some 0)],
    let r0 : Room := if q.2.1 = 0 then { adpRoom with warm := [] } else adpRoom
    let s := bench { hostChan with rooms := [(1, if q.1 = 2 then { r0 with cfg := { state := 3, kind := 3 } } else r0)] }
    let p := postOf .pinAdapter [(0, 1), (6, q.1), (32, q.2.1), (64, 15)] { payload := sealTo 2 false 5 }
    let a := commandOf .pinAdapter p s.dev
    let u := a.suite
    let n := par a.params 0 6
    let kind := par a.params 6 2
    let x := chanOf s.dev (leadOf s.dev u)
    let r := leadRoom s.dev u n
    let d := pendingDev .pinAdapter p s.dev
    let experts := BitVec.ofNat 64 (par a.params 256 64)
    Accepts .pinAdapter p s ∧ suiteDraining s.dev u = false ∧ suiteExists s.dev u = true ∧
    reservedClear a.params [(0, 11), (16, 12), (32, 12), (48, 16), (64, 4), (128, 64), (192, 64), (256, 64)] = true ∧ mayName a r = true ∧
    r.prog.isSome = true ∧ kind ≠ 3 ∧ (∀ i ∈ expertsOf experts, i < r.adp.xexpN.toNat) ∧ (kind = 1 → par a.params 48 16 < r.adp.warmMax.toNat) ∧
    (kind = 2 ↔ r.cfg.kind = 3) ∧ parB a.params 8 = false ∧ regionAllows x [1, 3, 4] 64 (par a.params 64 4) (par a.params 128 64) (par a.params 192 64) = true ∧
    claimHome d u n a.params = q.2.2 ∧ accessFails s.dev x a.data (par a.params 64 4) = false ∧ opens a.data.payload 2 false r.key = true ∧
    contOk r a.data.payload = true ∧ ∀ home ∈ q.2.2, (home < 4096 → (adpOf x home).reg.state ≠ asCache) ∧
      (claimPages (claimEntries a u n home d) u n home (extraPages r 0 0 experts)).isSome = true := by unfold Accepts; decide +kernel
theorem test_w_UnpinAdapter : ∀ q ∈ [(0, asReady, false), (2, asTrain, false), (0, asCache, false), (0, asLoading, false), (1, 0, false), (1, 0, true)],
    let s := bench { hostChan with rooms := [(1, { adpRoom with warm := [(0, { held := true, owner := 9, loading := q.2.2 })] })], slots := [(4095, { reg := { state := q.2.1, room := 1, owner := 3 } })] }
    let p := postOf .unpinAdapter ([(0, 1), (6, q.1)] ++ if q.1 = 1 then [] else [(16, 4095)])
    let a := commandOf .unpinAdapter p s.dev
    let u := a.suite
    let r := leadRoom s.dev u (par a.params 0 6)
    let x := chanOf s.dev (leadOf s.dev u)
    Accepts .unpinAdapter p s ∧ suiteDraining s.dev u = false ∧ suiteExists s.dev u = true ∧ roomState r ≠ rsFree ∧ mayName a r = true ∧
    par a.params 6 2 = q.1 ∧ (q.1 ≠ 1 → reservedClear a.params [(0, 8), (16, 12)] = true ∧ (adpOf x (par a.params 16 12)).reg.room.toNat = 1 ∧
      (adpOf x (par a.params 16 12)).reg.state = q.2.1 ∧ q.2.1 ≠ asFree) ∧
    (q.1 = 1 → reservedClear a.params [(0, 8), (48, 16)] = true ∧ (warmOf r (par a.params 48 16)).held = true ∧
      (warmOf r (par a.params 48 16)).loading = q.2.2) := by unfold Accepts; decide +kernel
/-- Loads of an adapter, a copy and masters, at their last segment and past it. -/
def loadBench (t : LoadTarget) (next : Nat) : State :=
  let s := bench { hostChan with rooms := [(1, adpRoom)], slots := [(0, { reg := { state := asLoading, room := 1, owner := 3 } })],
                                 copies := [(7, { reg := { state := csLoading, model := 3 } })] }
  { s with dev := { s.dev with fy := { s.dev.fy with loads := [{ key := ⟨0, 0, 0⟩, target := t, segs := 2, next := next }] } } }
theorem test_w_LoadsEnd :
    (∀ q ∈ [(0, segBytes), (1, 1)], let s := loadBench (.adapter .c0 1 0) q.1
      ∃ l, loadOf s.dev ⟨0, 0, 0⟩ = some l ∧ l.next < l.segs ∧ (if l.next + 1 < l.segs then q.2 = segBytes else 1 ≤ q.2 ∧ q.2 ≤ segBytes)) ∧
    (let s := loadBench (.adapter .c0 1 0) 2
     ∃ l, loadOf s.dev ⟨0, 0, 0⟩ = some l ∧ l.target = .adapter .c0 1 0 ∧ l.next = l.segs ∧ 0 < 4096 ∧
      (bindingOf (leadRoom s.dev .c0 1) (adpOf (chanOf s.dev .c0) 0).reg.owner.toNat).kind = 0) ∧
    (let s := loadBench (.copy .c0 7) 2
     ∃ l, loadOf s.dev ⟨0, 0, 0⟩ = some l ∧ l.target = .copy .c0 7 ∧ l.next = l.segs ∧ (leadCopy s.dev .c0 7).reg.state = csLoading ∧
      (leadCopy s.dev .c0 7).repairing = [] ∧ (leadCopy s.dev .c0 7).comparing = false ∧ replicasOf (modelOf (chanOf s.dev .c0) 3) = [] ∧
      (∀ n ∈ roomIndexes, usesModel (leadRoom s.dev .c0 n) 3 = false) ∧
      mismatches (rereadCopy s.dev .c0 7) .c0 7 (tableOf l.hdr.fps) = []) ∧
    (let s := loadBench (.masters .c0 1) 2
     ∃ l, loadOf s.dev ⟨0, 0, 0⟩ = some l ∧ l.target = .masters .c0 1 ∧ l.next = l.segs ∧ (leadRoom s.dev .c0 1).upd.nshards1 = 0) :=
  ⟨by intro q h; simp only [List.mem_cons, List.not_mem_nil, or_false] at h; rcases h with rfl | rfl <;> exact ⟨_, rfl, by decide +kernel⟩,
   ⟨_, rfl, by decide +kernel⟩, ⟨_, rfl, by decide +kernel⟩, ⟨_, rfl, by decide +kernel⟩⟩
/-- A copy of one tile of zeros, whose fingerprint is 0 and not 5. -/
theorem test_w_copyMismatches :
    let s := bench { benchChan .c0 with copies := [(7, { reg := { state := csLoading, model := 3, tiles := 1 }, tileLen := 64 })] }
    mismatches (rereadCopy s.dev .c0 7) .c0 7 (tableOf [5]) = [0] ∧ mismatches (rereadCopy s.dev .c0 7) .c0 7 (tableOf [0]) = [] := by decide +kernel
/-- A fetch of a warm adapter whose home has one page in T2, held with a fingerprint of f. -/
def warmBench (f : W64) : State :=
  let home : Pte := { valid := true, t2 := true, t2fp := f }
  bench { benchChan .c0 with rooms := [(1, { adpRoom with pages := [(0, home)] })],
                             slots := [(4095, { reg := { room := 1, owner := 9 }, fetching := true })] }
theorem test_w_WarmAdapterFetchDone :
    let s := bench { benchChan .c0 with rooms := [(1, adpRoom)], slots := [(4095, { reg := { room := 1, owner := 9 }, fetching := true })] }
    let e := adpOf (chanOf s.dev .c0) 4095
    e.fetching = true ∧ sameWarm (warmOf (leadRoom s.dev .c0 e.reg.room.toNat) e.reg.warm.toNat) e.reg.warm.toNat e = true ∧
    homeBroken (chanOf s.dev .c0) 1 0 (homeBack (chanOf s.dev .c0) 0 1 []) = [] := by decide +kernel
/-- A page of zeros has the fingerprint 0, so one held with 1 is broken. -/
theorem test_w_WarmAdapterBroken :
    let s := warmBench 1
    let e := adpOf (chanOf s.dev .c0) 4095
    e.fetching = true ∧ sameWarm (warmOf (leadRoom s.dev .c0 e.reg.room.toNat) e.reg.warm.toNat) e.reg.warm.toNat e = true ∧
    homeBroken (chanOf s.dev .c0) 1 0 (homeBack (chanOf s.dev .c0) 0 1 []) ≠ [] := by
  refine ⟨by decide +kernel, by decide +kernel, ?_⟩
  have zeros : ∀ a, roomByte (chanOf (warmBench 1).dev .c0) 1 a = 0 := by
    intro a
    unfold roomByte
    split <;> rfl
  have back : homeBack (chanOf (warmBench 1).dev .c0) 0 1 [] = List.replicate 0x400000 0 := by
    unfold homeBack readRoom
    rw [List.foldl_nil, List.map_congr_left (g := fun _ => (0 : Byte)) fun i _ => zeros _, List.map_const', List.length_range]
  have crc : ∀ n, crc64 (List.replicate n 0) = 0 := by
    intro n
    unfold crc64
    induction n with
    | zero => rfl
    | succ n ih => rw [List.replicate_succ, List.foldl_cons, show crcByte 0 0 = 0 from by decide]; exact ih
  rw [back]
  unfold homeBroken
  refine List.ne_nil_of_mem (a := 0) (List.mem_filterMap.mpr ⟨(0, 0), by decide +kernel, ?_⟩)
  rw [List.drop_replicate, List.take_replicate, crc]
  rfl
/-! ## Checkpoints -/

theorem test_w_CheckpointNow : ∀ q ∈ [((0, 0) : Nat × Nat), (1, 0), (1, 1)],
    let s := benchRoom { stepRoom with ckp := { atticPages := 1 }, upd := { nshards1 := BitVec.ofNat 16 q.1, shard := BitVec.ofNat 16 q.2 } }
    let p := postOf .checkpointNow [(0, 1)]
    let a := commandOf .checkpointNow p s.dev
    let r := leadRoom s.dev a.suite (par a.params 0 6)
    Accepts .checkpointNow p s ∧ suiteExists s.dev a.suite = true ∧ reservedClear a.params [(0, 8)] = true ∧ parB a.params 6 = false ∧
    parB a.params 7 = false ∧ mayName a r = true ∧ isStarted r = true ∧ hasAttic r = true ∧ r.upd.nshards1 = BitVec.ofNat 16 q.1 ∧ r.upd.shard = BitVec.ofNat 16 q.2 ∧
    servesStreams r = true ∧ r.serve.inStep = true := by unfold Accepts; decide +kernel
/-- CHECKPOINT_POLICY with an Attic that its holder refuses, with one that it takes, and without a change. -/
theorem test_w_CheckpointPolicy : ∀ q ∈ [(1, false), (1, true), (0, false)],
    let s := benchRoom { cfg := { state := 1 } }
    let p := postOf .checkpointPolicy [(0, 1), (64, 2 * q.1), (128, 4 * q.1), (160, q.1)] { holderOk := q.2 }
    let a := commandOf .checkpointPolicy p s.dev
    let u := a.suite
    let r := leadRoom s.dev u (par a.params 0 6)
    let node : BitVec 18 := BitVec.ofNat 18 (par a.params 128 18)
    let pages := par a.params 160 32
    Accepts .checkpointPolicy p s ∧ suiteExists s.dev u = true ∧ reservedClear a.params policyFields = true ∧ parB a.params 6 = false ∧
    par a.params 192 64 % 65536 = 0 ∧ roomState r ≠ rsFree ∧ mayName a r = true ∧ (pages ≠ 0 → onOwnDevice s.dev u node = false) ∧
    r.upd.nshards1 = 0 ∧ r.ckps.capture = none ∧ ((node ≠ r.ckp.atticNode ∨ pages ≠ r.ckp.atticPages.toNat) ↔ q.1 = 1) ∧ a.data.holderOk = q.2 := by
  unfold Accepts; decide +kernel
theorem test_w_AtticRelease :
    let s := benchRoom { cfg := { state := 1 }, ckp := { atticNode := 4, atticPages := 1, aValid := true } }
    let p := postOf .checkpointPolicy [(0, 1)]
    let q : HostPost := { p with params := p.params ||| (1 <<< 6) }
    let a := commandOf .checkpointPolicy q s.dev
    let r := leadRoom s.dev a.suite (par a.params 0 6)
    Accepts .checkpointPolicy q s ∧ suiteExists s.dev a.suite = true ∧ reservedClear a.params policyFields = true ∧ parB a.params 6 = true ∧
    par a.params 192 64 % 65536 = 0 ∧ roomState r ≠ rsFree ∧ mayName a r = true ∧ r.upd.nshards1 = 0 ∧ r.ckps.capture = none := by
  unfold Accepts; decide +kernel
theorem test_w_Restore : ∀ st ∈ [rsLoaded, rsStopped, rsFaulted], ∀ b ∈ [false, true],
    let s := benchRoom { cfg := { state := st, kind := 2 }, key := some 5, prog := some (prog { kind := 2 }) }
    let k : SlotImage := { verifies := true, step := 3, span := 1, kind := 2, progDigest := 7, rooms := Quad.same { key := some 5 } }
    let p := postOf .restore [(0, 1)] { reached := b, slot := k }
    let a := commandOf .restore p s.dev
    let u := a.suite
    let n := par a.params 0 6
    let r := leadRoom s.dev u n
    let d := pendingDev .restore p s.dev
    Accepts .restore p s ∧ suiteDraining s.dev u = false ∧ suiteExists s.dev u = true ∧ reservedClear a.params restoreFields = true ∧ roomState r = st ∧
    mayName a r = true ∧ r.ckps.capture = none ∧ parB a.params 6 = false ∧ a.data.reached = b ∧ slotMatches d u n k (par a.params 64 64) = true ∧
    (restoreChans k d u n).isSome = true ∧ attested d u n k = true ∧ a.data.fails = false ∧ tooNarrowFor d u n k = false ∧ modelEntries k = [] := by
  unfold Accepts; decide +kernel
/-- Two tensors of one element each, of which the shard holds the first. -/
def twoTensors : ProgMeta :=
  { kind := 2, tensors := [0x901 + (1 <<< 32) + (1 <<< 64), 0x901 + (1 <<< 32) + (1 <<< 64) + (0x100000 <<< 160)], lastElem := 1 }
def comes (e : Except Status Device) (f : Device → Option Device) : Bool := match e with | .ok d => (f d).isSome | .error _ => false
theorem test_w_ShrinkJob : ∀ b ∈ [true, false],
    let s := bench { hostChan with rooms := [(1, { cfg := { state := 4, kind := 2 }, tier := { t1max := 9 }, prog := some (prog twoTensors), upd := { nshards1 := 1 } })] }
    let p := postOf .shrinkJob [(0, 1), (128, 15)] { fails := b, mem := [(48, 1)], parts := { verifies := true, step := 0 } }
    let a := commandOf .shrinkJob p s.dev
    let u := a.suite
    let n := par a.params 0 6
    let r := leadRoom s.dev u n
    let d := pendingDev .shrinkJob p s.dev
    let x := chanOf s.dev (leadOf s.dev u)
    let i := metaOf r
    let new := par a.params 16 16 + 1
    let old := r.upd.nshards1.toNat + 1
    let m := readMap a new old
    Accepts .shrinkJob p s ∧ suiteDraining s.dev u = false ∧ suiteExists s.dev u = true ∧
    reservedClear a.params [(0, 6), (16, 16), (32, 16), (64, 64), (128, 4), (192, 64)] = true ∧ mayName a r = true ∧ r.cfg.kind = 2 ∧
    roomState r = rsStopped ∧ r.prog.isSome = true ∧ r.ckps.capture = none ∧
    regionAllows x hostKinds 4096 (par a.params 128 4) (par a.params 192 64) (16 * new + 32 * old) = true ∧ new < old ∧ par a.params 32 16 < new ∧
    accessFails s.dev x a.data (par a.params 128 4) = b ∧
    (b = false → firstsOk i m.firsts = true ∧ firstsOk i m.olds = true ∧
      newParts (i.firstElem, i.lastElem) (shardRange i m.firsts (par a.params 32 16)) = [(1, 2)] ∧
      a.data.partsReached = true ∧ a.data.parts.dirOk = true ∧ a.data.parts.fpsOk = true ∧ a.data.parts.cont = none ∧
      comes (rollBack a d u n (par a.params 64 64)) (fun d1 => (suiteChans d1 u).foldlM (fun d c =>
        (takeParts n i (a.data.parts.rooms.get c).mem [(1, 2)] (chanOf d c)).map fun y => setChan d c y) d1) = true) := by unfold Accepts; decide +kernel

/-! ## Reports, the fabric and drains -/

/-- SCOPE 1 of a STARTED room waits; SCOPE 0 reports at once. -/
theorem test_w_Attest : ∀ q ∈ [0, 1],
    let s := bench { hostChan with rooms := [(1, stepRoom)] }
    let p := postOf .attest [(0, 1), (6, q), (64, 15), (192, 8192)]
    let a := commandOf .attest p s.dev
    let u := Ch.ofNum (par a.params 9 2)
    let rooms := attestRooms s.dev a.params
    let later := rooms.filter fun q => isStarted (leadRoom s.dev q.1 q.2)
    Accepts .attest p s ∧ reservedClear a.params attestFields = true ∧ attestNothing a s.dev = false ∧ signerOf s.dev (par a.params 6 2) u = some .c0 ∧
    regionAllows (chanOf s.dev .c0) hostKinds 4096 (par a.params 64 4) (par a.params 128 64) (par a.params 192 64) = true ∧
    (later ≠ [] ↔ q = 1) ∧ (q = 0 → rooms = []) ∧ par a.params 192 64 = 8192 ∧ a.data.signOk = true ∧ (chanOf s.dev .c0).bootKey.isSome = true ∧
    accessFails s.dev (chanOf s.dev .c0) a.data (par a.params 64 4) = false := by unfold Accepts; decide +kernel
/-- The length of a report without a room's entry. -/
theorem test_w_reportLength (a : Accepted) : (reportBytes idle.dev a .c0 []).length ≤ 8192 := by
  have le : ∀ n v, (leBytes n v).length = n := by
    intro n
    induction n with
    | zero => intro v; rfl
    | succ n ih => intro v; simp [leBytes, ih]
  have ob : ∀ k n, (openBytes k n).length = n := fun k n => by simp [openBytes]
  have hs : (faultSummary idle.dev).length = 56 := by decide +kernel
  unfold reportBytes
  simp only [List.mergeSort_nil, List.map_nil, List.flatten_nil, List.length_append, List.length_flatMap, Ch.all, List.map_cons, apply_ite List.length, le, ob, hs,
    List.length_replicate, List.length_nil, List.sum_cons, List.sum_nil, ite_self]
  decide
theorem test_w_QueryAccounting : ∀ q ∈ [0, 1, 2],
    let s := bench { hostChan with rooms := [(1, { created := true })] }
    let p := postOf .queryAccounting [(0, 1), (6, q), (128, 15), (256, 4096)]
    let a := commandOf .queryAccounting p s.dev
    let scope := par a.params 6 2
    let r := namedRoom s.dev a.suite (par a.params 0 6)
    let x := queryChan a s.dev (scope == 2)
    Accepts .queryAccounting p s ∧ reservedClear a.params [(0, 8), (128, 4), (192, 64), (256, 64)] = true ∧ scope = q ∧ scope ≠ 3 ∧
    suiteExists s.dev a.suite = true ∧ (scope = 0 → r.created = true ∧ mayName a r = true) ∧
    regionAllows x hostKinds 4096 (par a.params 128 4) (par a.params 192 64) (par a.params 256 64) = true ∧
    (accountReport a s.dev).length ≤ par a.params 256 64 ∧ accessFails s.dev x a.data (par a.params 128 4) = false := by unfold Accepts; decide +kernel
theorem test_w_QueryFaults : ∀ n ∈ [0, 4096],
    let s := bench hostChan
    let p := postOf .queryFaults [(128, 15), (256, n)]
    let a := commandOf .queryFaults p s.dev
    let x := queryChan a s.dev true
    Accepts .queryFaults p s ∧ reservedClear a.params [(0, 5), (64, 64), (128, 4), (192, 64), (256, 64)] = true ∧ par a.params 256 64 = n ∧
    regionAllows x hostKinds 4096 (par a.params 128 4) (par a.params 192 64) n = true ∧ accessFails s.dev x a.data (par a.params 128 4) = false := by
  unfold Accepts; decide +kernel
theorem test_w_FabricJoin :
    let s := bench hostChan
    let p := postOf .fabricJoin [(0, 7), (32, 15)]
    let a := commandOf .fabricJoin p s.dev
    let x := queryChan a s.dev true
    Accepts .fabricJoin p s ∧ anyDraining s.dev = false ∧ reservedClear a.params [(0, 36), (64, 64)] = true ∧
    (∀ c ∈ Ch.all, (chanOf s.dev c).node.joined = false) ∧ regionAllows x hostKinds 4096 (par a.params 32 4) (par a.params 64 64) joinBytes = true ∧
    accessFails s.dev x a.data (par a.params 32 4) = false := by unfold Accepts; decide +kernel
theorem test_w_FabricLeave :
    let a := commandOf .fabricLeave (postOf .fabricLeave []) idle.dev
    Accepts .fabricLeave (postOf .fabricLeave []) idle ∧ anyDraining idle.dev = false ∧ reservedClear a.params [] = true ∧ startedRooms idle.dev = [] ∧
    idle.dev.fy.waits = [] := by unfold Accepts; decide +kernel
theorem test_w_DrainDevice : ∀ q ∈ [0, 1],
    let p := postOf .drainDevice [(0, 8), (4, q), (16, 60)]
    let a := commandOf .drainDevice p idle.dev
    Accepts .drainDevice p idle ∧ reservedClear a.params [(0, 6), (16, 16)] = true ∧ parB a.params 5 = false ∧ startedRooms idle.dev = [] ∧
    drainMask a.params = [.c3] ∧ ∀ c ∈ drainMask a.params, (chanOf idle.dev c).drain = none := by unfold Accepts; decide +kernel
theorem test_w_DrainCancel :
    let s := bench { benchChan .c0 with drain := some { cancellable := true, startMs := 0, limitS := 60 } }
    let q : HostPost := { postOf .drainDevice [] with params := (postOf .drainDevice []).params ||| (1 <<< 5) }
    let a := commandOf .drainDevice q s.dev
    Accepts .drainDevice q s ∧ reservedClear a.params [(0, 6), (16, 16)] = true ∧ parB a.params 5 = true ∧
    ∀ c ∈ drainMask a.params, ∀ k ∈ (chanOf s.dev c).drain, k.cancellable = true := by unfold Accepts; decide +kernel

/-! ## The compute island -/

/-- Channel 0 with room 1 on its island: a program window of two bundles at WS 0, of which the first is as given. -/
def islChan (b : Nat) : Channel :=
  { benchChan .c0 with
    rooms := [(1, { cfg := { state := 3 }, tier := { wsSize := 1 }, prog := some (prog { winBundles := 2 }) })]
    island := { room := some 1 }
    ws := writeBytes [] 0 (leBytes 128 b) }
/-- A bundle of no operation, one that waits for a token, one with an opcode that is not given, one that issues a descriptor of kind 0. -/
def nopBundle : Nat := 2
def waitBundle : Nat := 2 + ((3 + (7 <<< 8) + (1 <<< 11) + (1 <<< 18)) <<< 992)
def badBundle : Nat := 2 + (8 <<< 992)
def pumpBundle : Nat := 2 + ((1 + (4 <<< 18)) <<< 800)
def holds : Verdict → Bool | .hold (.token _ _ y) => !y | _ => false
def faults : Verdict → Option (Nat × Nat) | .fault k l => some (k, l) | _ => none
def issues : Verdict → Option (BitVec 1024) | .issue b => some b | _ => none
def enqOk : Enq × Nat → Option Device | (.ok d, _) => some d | _ => none
def enqRejects : Enq × Nat → Bool | (.reject _ _, _) => true | _ => false
def flows (c : Ctx) (win : Nat) (b : BitVec 1024) : Option Flow := match flowOf c win (bCtl b) with | .ok f => some f | .error _ => none
theorem test_w_BundlesIssue_none : ∀ n, ¬((chanOf idle.dev .c0).island.room = some n) := nofun
theorem test_w_BundlesIssue_hold :
    let x := islChan waitBundle
    (x.island.room = some 1 ∧ isStarted (roomOf x 1) = true ∧ x.island.atSwitch = false ∧ x.island.ctx.ended = false ∧ x.issueHold = false) ∧
    x.island.powerHold = false ∧ holds (verdict (bundleMoment x 1) 1) = true := by decide +kernel
theorem test_w_BundlesIssue_fault :
    let x := islChan badBundle
    x.island.powerHold = false ∧ faults (verdict (bundleMoment x 1) 1) = some (0x01, 14) := by decide +kernel
/-- The bundle of room 1 issues whole, is not its end and no switch point. -/
def issuesWhole (s : State) : Bool :=
  let y := bundleMoment (chanOf s.dev .c0) 1
  match issues (verdict y 1) with
  | none => false
  | some b =>
    match flows y.island.ctx (winBundles y 1) b, enqOk (issuePumps .c0 1 b (setChan s.dev .c0 (actedChan 1 (streamOf s.dev .c0) b y))) with
    | some f, some d2 => !f.ended && noPoint (chanOf d2 .c0).island.ctx (bCtl b) && (chanOf d2 .c0).island.ctx.ordinal == y.island.ctx.ordinal
    | _, _ => false
theorem test_w_BundlesIssue_issue : issuesWhole (bench (islChan nopBundle)) = true := by decide +kernel
theorem test_w_BundlesIssue_reject :
    let s := bench (islChan pumpBundle)
    let y := bundleMoment (chanOf s.dev .c0) 1
    let b := BitVec.ofNat 1024 pumpBundle
    issues (verdict y 1) = some b ∧ (flows y.island.ctx (winBundles y 1) b).isSome = true ∧
    enqRejects (issuePumps .c0 1 b (setChan s.dev .c0 (actedChan 1 (streamOf s.dev .c0) b y))) = true := by decide +kernel

/-- A queue of one raw descriptor of a kind: 64 bytes from WS 64 to WS 128. -/
def entryOf (kind : Nat) : PumpEntry :=
  { desc := BitVec.ofNat 512 (kind + (0xF <<< 16) + (64 <<< 32) + (64 <<< 64) + (128 <<< 128)), tok := 63, room := 1, bound := 0, tierMiss := false }
theorem test_w_DescriptorsComplete : (∀ k ∈ [8, 1],
    let e := entryOf k
    let s := bench { islChan 2 with island := { room := some 1, pumps := [(15, [e])] } }
    let x := chanOf s.dev .c0
    nextDone s.dev .c0 (tget [] x.island.pumps 15) [] = some e ∧ x.island.room = some e.room ∧ isStarted (roomOf x e.room) = true ∧ e.dead = false ∧
    e.frame = none ∧ x.island.writes = [] ∧ isCollective e.desc = false ∧ pdRaw e.desc = true ∧ fpRuns e.desc = [] ∧ pdCount e.desc ≠ 0 ∧
    pdKind e.desc = k) ∧ nextDone idle.dev .c0 (tget [] (chanOf idle.dev .c0).island.pumps 0) [] = none := by decide +kernel
theorem test_w_ArrayChecksAndRetries : ∀ ph ∈ [ArrPhase.running, .retrying],
    let a : ArrOp := { slot := 0, room := 1, tensor := 0, issue := 0, passEnd := 8, lastOut := 16, phase := ph }
    let x : Channel := { islChan 2 with island := { room := some 1, arr := some a } }
    x.island.arr = some a ∧ a.phase = ph ∧ foundIn a x = 0 ∧ ({ kind := 3, pcol := some 1023 } : ArrFault).kind ≠ 0 ∧ (arFormats a.slot).isSome = true ∧
    isPermanent x 0x20 (((some 1023 : Option (BitVec 10)).getD 0x3FF).setWidth 16) 0 false = false := by decide +kernel
theorem test_w_RecordsAndAppendsLand :
    let m : SmpRun := { room := 1, tok := 0, out := 64, records := [[1]], due := 0 }
    let x : Channel := { islChan 2 with island := { room := some 1, smp := some m }, ctrlItems := [{ room := 1, tok := 0 }],
                                        rooms := [(63, { staging := [{ key := 5, page := 2, flushing := true }] })] }
    x.island.smp = some m ∧ x.island.room = some m.room ∧ x.ctrlItems ≠ [] ∧ suiteOfChan (bench x).dev .c0 = some .c0 ∧
    ({ x with island := { x.island with room := none } } : Channel).island.room ≠ some m.room ∧
    ((roomOf x 63).staging.find? (fun g => g.key == 5 && g.flushing)).isSome = true := by decide +kernel
/-- Two rooms: 1 runs at its switch point, or none does; 2 is eligible, or not. -/
def switchBench (runs other : Bool) : State :=
  let r : Room := { cfg := { state := 3 }, sch := { sstate := if runs then ssRunning else ssEligible, vt := 9 } }
  let s := bench { benchChan .c0 with rooms := [(1, r)] ++ if other then [(2, { cfg := { state := 3 }, sch := { sstate := ssEligible } })] else [],
                                      porchUs := 2000, island := { room := if runs then some 1 else none, atSwitch := runs } }
  { s with dev := modSuite s.dev .c0 fun u => { u with running := 1, idle := !runs } }
def landedRun (s : State) : Device := chargeRun (modChans s.dev (suiteChans s.dev .c0) fun _ x => landAll x) .c0 1
theorem test_w_RoomsSwitch :
    (∀ q ∈ [(false, true), (true, false), (true, true)],
      let s := switchBench q.1 q.2
      let cs := suiteChans s.dev .c0
      (∀ c ∈ cs, quiet (chanOf s.dev c) = true) ∧ cs ≠ [] ∧ leadOf s.dev .c0 ∈ cs ∧
      (q.1 = false → runningRoom s.dev .c0 = none ∧ nextRoom s.dev .c0 = some 2) ∧
      (q.1 = true → runningRoom s.dev .c0 = some 1 ∧ (∀ c ∈ cs, (chanOf s.dev c).island.atSwitch = true) ∧ pointDue (leadRoom s.dev .c0 1) = false ∧
        nextRoom (landedRun s) .c0 = if q.2 then some 2 else none) ∧
      (q.1 && q.2 → wantsSwitch (landedRun s) .c0 1 (yieldsNow (landedRun s) .c0) = true)) ∧
    (let s := bench { islChan 2 with island := { room := some 1, arr := some { slot := 0, room := 1, tensor := 0, issue := 0, passEnd := 0, lastOut := 0 } } }
     quiet (chanOf s.dev .c0) = false) := by decide +kernel
theorem test_w_WaitLimitExpiry :
    let x : Channel := { islChan 2 with island := { room := some 1, hold := some (.token 7 1 false) } }
    tokenWaits x = [(1, 0)] ∧ x.waitLimit.limitUs ≠ 0 ∧ ({ x with waitLimit := { limitUs := 0 } } : Channel).waitLimit.limitUs = 0 := by decide +kernel

theorem test_w_BundlesIssue_power : let x : Channel := { islChan nopBundle with island := { room := some 1, powerHold := true } }
    x.island.room = some 1 ∧ isStarted (roomOf x 1) = true ∧ x.island.atSwitch = false ∧ x.island.ctx.ended = false ∧ x.issueHold = false ∧
    x.island.powerHold = true := by decide +kernel
def loadBundle : Nat := 2 + ((0x10 + (1 <<< 8) + (256 <<< 26)) <<< 544)
def poisons : Verdict → Option PoisonPlace | .poison p => some p | _ => none
def badLines : Verdict → Option Nat | .badFetch l => some l | _ => none
theorem test_w_BundlesIssue_poison :
    (let x := { islChan loadBundle with wsPoison := [4] }
     x.island.powerHold = false ∧ poisons (verdict (bundleMoment x 1) 1) = some (.ws 1 4)) ∧
    (let x := { islChan nopBundle with wsPoison := [0] }
     x.island.powerHold = false ∧ badLines (verdict (bundleMoment x 1) 1) = some 0) := by decide +kernel
/-- Room 1 issues one descriptor, which lies at WS 256. -/
def descBench (r : Room) (desc : Nat) : Channel :=
  { islChan pumpBundle with
    rooms := [(1, r)], ws := writeBytes (islChan pumpBundle).ws 256 (leBytes 64 desc),
    early := [{ room := 1, node := 5, sroom := 3, tag := 7, total := some 128 }] }
def shadowHold : Enq × Nat → Bool | (.hold .shadow, _) => true | _ => false
def endsRoom : Enq × Nat → Bool | (.roomFault, _) => true | _ => false
/-- A write of a page whose version a reader holds, with no shadow page; and a receive that the early transfer does not fit. -/
theorem test_w_BundlesIssue_ends :
    let r0 := roomOf (islChan nopBundle) 1
    ∀ q ∈ [(3 + (0xF <<< 16) + (64 <<< 32) + (64 <<< 64), true), (6 + (0xF <<< 16) + (64 <<< 32) + (64 <<< 128) + (5 <<< 384) + (3 <<< 402) + (7 <<< 416), false)],
      let r : Room := { r0 with cfg := { state := 3, kind := 2 }, tier := { wsSize := 1, t1max := 9, t2max := 9 }, trn := { vwPages := 1 },
                                train := { refs := [{ reader := 9, wgen := 0, leaseMs := 9 }] } }
      let s := bench (descBench r q.1)
      let y := bundleMoment (chanOf s.dev .c0) 1
      let b := BitVec.ofNat 1024 pumpBundle
      issues (verdict y 1) = some b ∧ (flows y.island.ctx (winBundles y 1) b).isSome = true ∧
      (if q.2 then shadowHold else endsRoom) (issuePumps .c0 1 b (setChan s.dev .c0 (actedChan 1 (streamOf s.dev .c0) b y))) = true := by decide +kernel
/-- A read of a page under a version that the page holds no more. -/
theorem test_w_DescriptorsGone :
    let e := entryOf 2
    let r : Room := { cfg := { state := 3, kind := 2 }, trn := { vwPages := 1 }, train := { verMap := [(0, 5)], held := [{ node := nodeOf (islChan 2), room := 1, wgen := 3, mb := 0 }] } }
    let s := bench { islChan 2 with rooms := [(1, r)], island := { room := some 1, pumps := [(15, [e])] } }
    let x := chanOf s.dev .c0
    nextDone s.dev .c0 (tget [] x.island.pumps 15) [] = some e ∧ versionGone x e = true ∧
    versionGone (modRoomC x 1 fun r => { r with train := { r.train with verMap := [] } }) e = false := by decide +kernel
/-- An operation of one row, one column group and one pass of zeros, whose tag and preloaded residues are not those of zeros. -/
def oddOp : ArrOp :=
  { slot := BitVec.ofNat 128 (2 + (1 <<< 24) + (1 <<< 27) + (1 <<< 42)), room := 1, tensor := 0, issue := 0, passEnd := 8, lastOut := 16,
    buf := some { bfmt := 0, rate := 4, image := [], ready := 0, issued := 0, addr := 0, units := 1, residues := [1] } }
def oddChan : Channel :=
  { islChan 2 with
    island := { room := some 1, arr := some oddOp }
    ws := []
    tags := [(0, { fmt := 0, xorder := false, residues := [1] })] }
theorem memCode_nil (a : Nat) (f : Fmt) (xo : Bool) (l e : Nat) : memCode [] a f xo l e = 0 := by
  have z (k : Nat) : readLe [] k 9 = 0 := by
    have b : readBytes [] k 9 = List.replicate 9 0 := by simp [readBytes, readByte, List.map_const']
    rw [readLe, b]
    decide
  simp only [memCode, z, bitsOf, Nat.zero_div, Nat.zero_mod]
theorem blockInt_nil (ta tb b l n : Nat) : blockInt [] [] (.mx .e4m3) (.mx .e4m3) ta tb b l n = 0 := by
  have z : elemInt (.mx .e4m3) 0 = 0 := by decide
  unfold blockInt
  simp only [memCode_nil, z, Int.mul_zero, Int.add_zero]
  induction List.range 32 with
  | nil => rfl
  | cons _ _ ih => exact ih
theorem test_w_ArrayFinds : foundIn oddOp oddChan ≠ 0 ∧ oddOp.phase = .running := by
  refine ⟨fun h => ?_, rfl⟩
  have bit : (foundIn oddOp oddChan).getLsbD 0 = false := by rw [h]; decide
  have z : (List.range 128).foldl (fun (s : Int) _ => s + 0) 0 = 0 := by decide +kernel
  unfold foundIn at bit
  rw [show arFormats (runSlot oddOp) = some (.mx .e4m3, .mx .e4m3, 4) from by decide +kernel] at bit
  simp only [arrFound, BitVec.getLsbD_append, show (0 : Nat) < 1 from by decide, decide_true, ↓reduceIte, BitVec.getLsbD_ofBool,
    Bool.true_and, Bool.not_eq_false', List.all_eq_true] at bit
  have run := bit 0 (by decide +kernel)
  rw [if_pos (by decide +kernel)] at run
  simp only [passAgrees, List.all_eq_true] at run
  have block := run 0 (by decide +kernel) 0 (by decide +kernel) 0 (by decide +kernel) 0 (by decide +kernel)
  rw [show oddChan.ws = [] from rfl, show opBuf oddOp = [] from rfl] at block
  simp only [blockAgrees, blockInt_nil, z] at block
  revert block
  decide +kernel
/-- The stall is counted once, however long the bundle holds. -/
theorem test_shadow_stalls :
    let r : Room := { cfg := { state := 3, kind := 2 }, tier := { wsSize := 1, t1max := 9, t2max := 9 }, trn := { vwPages := 1 }, prog := some (prog { winBundles := 2 }),
                      train := { refs := [{ reader := 9, wgen := 0, leaseMs := 9 }] } }
    let after := fun (s : State) => match exec (.bundleIssue .c0) s with | .next t => t | _ => s
    let t := after (bench (descBench r (3 + (0xF <<< 16) + (64 <<< 32) + (64 <<< 64))))
    let u := after t
    (chanOf t.dev .c0).island.hold = some .shadow ∧ (roomOf (chanOf t.dev .c0) 1).trn.shadowStalls = 1 ∧ (chanOf t.dev .c0).island.cycle = 1 ∧
    (chanOf u.dev .c0).island.hold = some .shadow ∧ (roomOf (chanOf u.dev .c0) 1).trn.shadowStalls = 1 := by decide +kernel
/-! ## Pages -/

/-- Page 7 of room 1 in T1 frame 3 or in Cellar page 5 of region 14, with a move under way. -/
def moveChan (promote : Bool) : Channel :=
  { hostChan with rooms := [(1, { pages := [(7, { valid := true, t2 := promote, frame := if promote then BitVec.ofNat 32 (cellarPage 14 5) else 3, moving := true })] })],
                  moves := [⟨.room 1 7, promote, 4⟩] }
theorem test_w_PagesMove : idle.dev.chans.c0.started = true ∧ (Channel.reset .c0).started = false ∧
    ∀ b ∈ [true, false], (pteAt (moveChan b) (.room 1 7)).valid = true ∧
      ((moveChan b).moves.find? (fun m => m.page == .room 1 7 && m.promote == b)).isSome = true ∧ (moveChan b).chosen = [] := by decide +kernel
/-- The promoted page is one of zeros, so that the fingerprint held for it is its own, or 1 is not. -/
theorem test_w_promotedPage : pageFp (alterPage (moveChan true) (.room 1 7) []) (.room 1 7) = (pteAt (moveChan true) (.room 1 7)).t2fp ∧
    pageFp (alterPage (moveChan true) (.room 1 7) []) (.room 1 7) ≠ 1 := by
  have zeros : pageContents (alterPage (moveChan true) (.room 1 7) []) (.room 1 7) = List.replicate pageBytes 0 := by
    simp [pageContents, show (roomOf (alterPage (moveChan true) (.room 1 7) []) 1).mem = [] from rfl, readBytes, readByte, List.map_const']
  have crc : ∀ n, crc64 (List.replicate n 0) = 0 := by
    intro n
    unfold crc64
    induction n with
    | zero => rfl
    | succ n ih => rw [List.replicate_succ, List.foldl_cons, show crcByte 0 0 = 0 from by decide]; exact ih
  unfold pageFp
  rw [zeros, crc]
  decide +kernel
theorem test_w_CellarTraffic : pageInCellar (moveChan true) (cellarPage 14 5) = some (.room 1 7) ∧ cellarPage 14 5 ∉ (moveChan true).retried ∧
    cellarPage 14 5 ∈ ({ moveChan true with retried := [cellarPage 14 5] } : Channel).retried := by decide +kernel
/-- How many pages are kept for peers is left open, so that no page of them is surely there. -/
theorem test_w_peerHolds (x : Channel) : peerHolds x 0 ([] : List Byte).length = true := by simp [peerHolds]

/-! ## Boundaries and requests -/

/-- Room 1 in a step whose table has one prompt entry, and its stream, which ends its prompt. -/
def prefillBench : State :=
  let e : LtEntry := { ch := 0, ctx := 65535, slot := 0, ctxLen := 0, qoff := 0, qn := 1, tree := false, recompute := false, sampled := 0, aside := 0, treeAddr := 0 }
  bench { hostChan with rooms := [(1, { stepRoom with serve := { inStep := true, table := [e] } })],
                        ctxs := [(65535, { room := 1, state := .prefill, handle := 65535, slot := some 0 })] }
theorem test_w_StepBoundary :
    let s := prefillBench
    let n := 1
    let r := leadRoom s.dev .c0 n
    (suiteExists s.dev .c0 && isStarted r && servesStreams r && r.serve.inStep && (r.serve.sampled || r.serve.table.all fun e => e.sampled == 0) &&
      landed s.dev .c0 n) = true ∧ isStarted (leadRoom s.dev .c0 2) = false ∧
    let d0 := freeRetired (modLead s.dev .c0 takeSignal) .c0
    (leadRoom d0 .c0 n).serve.table.length = 1 ∧ (∀ e ∈ (leadRoom d0 .c0 n).serve.table, e.sampled = 0 ∧ e.tree = false ∧ e.recompute = false) ∧
    (strm d0 (.c0, 65535)).state = .prefill ∧ (strm d0 (.c0, 65535)).recomp = none ∧ (strm d0 (.c0, 65535)).room = n := by decide +kernel
theorem test_w_Deadlines : ∀ b ∈ [false, true],
    let s := bench { hostChan with rooms := [(1, { stepRoom with serve := { inStep := !b } })],
                                   ctxs := [(65535, { room := 1, state := .held, holdDl := some 5, pinDl := some 5 })] }
    let q : SRef := (.c0, 65535)
    suiteOfChan s.dev .c0 = some .c0 ∧ (strm s.dev q).state = .held ∧ (strm s.dev q).holdDl.isSome = true ∧ (strm s.dev q).pinDl.isSome = true ∧
    (suiteExists s.dev .c0 && isStarted (leadRoom s.dev .c0 1) && servesStreams (leadRoom s.dev .c0 1) && !(leadRoom s.dev .c0 1).serve.inStep) = b := by
  decide +kernel
theorem test_w_BudgetRetestTimer :
    let could := fun (d : Device) (n : Nat) => !(leadRoom d .c0 n).serve.inStep && heldCould d .c0 n
    let s := bench { hostChan with rooms := [(63, { cfg := { state := 3 }, kv := { maxlen := 1 } })], ctxs := [(0, { room := 63, state := .held, slot := some 0 })],
                                   budgets := [(0, { reg := { burst := 65536, level := 65536 } })] }
    (∀ n ∈ roomIndexes, could idle.dev n = false) ∧ could s.dev 63 = true ∧
    ∀ m ∈ roomIndexes, m ≠ 63 → could s.dev m = false ∧ could (idleBoundary s.dev .c0 63) m = false := by decide +kernel
theorem test_w_RingSpaceFree :
    let r : Room := { stepRoom with owner := some pf, srv := { ringEn := true, ringRegion := 15 } }
    let r1 : Room := { r with serve := { inStep := true, ringNow := ringWords r, ringProd := 4, ringCons := 2 } }
    let s0 := bench { hostChan with rooms := [(1, r1)] }
    let s : State := { s0 with dev := setFn s0.dev pf { busMaster := true } }
    let v := (leadRoom s.dev .c0 1).serve
    suiteExists s.dev .c0 = true ∧ v.inStep = true ∧ v.toFabric = [] ∧ ringWords (leadRoom s.dev .c0 1) = v.ringNow ∧ ringOpen s.dev .c0 1 = true ∧
    (∀ k ∈ [2, 4], v.ringCons ≤ k ∧ k ≤ v.ringProd) ∧ (1 < v.ringCons ∧ v.ringProd < 5) := by decide +kernel
theorem test_w_FabricRequestMessage :
    let s := bench { benchChan .c0 with flt := { draining := true } }
    (∀ cnt ∈ [1, 16],
      let p : BitVec 15872 := BitVec.ofNat _ cnt
      (chanOf s.dev .c0).started = true ∧ par p 0 5 = cnt ∧ 1 ≤ cnt ∧ cnt ≤ 16 ∧ reservedClear p (submitFields cnt) = true ∧
      (∀ o ∈ offsetsOf p cnt, o % 64 = 0) ∧ suiteOfChan s.dev .c0 = some .c0 ∧ suiteDraining s.dev .c0 = true ∧
      (laneOf (chanOf s.dev .c0) 4 0).inFlight < 4) ∧ (chanOf State.reset.dev .c0).started = false := by decide +kernel

/-! ## Copies of a weight model -/

/-- Copies 7 ARMED and 6 READY for model 3. -/
def copyBench (arm : BitVec 4) : State :=
  bench { hostChan with copies := [(7, { reg := { state := csArmed, model := 3, base := 8, pages := 4 } }), (6, { reg := { state := csReady, model := 3, base := 4, pages := 4 } })]
                        models := [(3, { source := true, arm := arm })] }
theorem test_w_BroadcastAnnounce : suiteOfChan (copyBench 7).dev .c0 = some .c0 ∧ leadOf (copyBench 7).dev .c0 = .c0 ∧
    bcastCopy (chanOf (copyBench 7).dev .c0) 3 1 4 = some 7 ∧ bcastCopy (chanOf (copyBench 15).dev .c0) 3 1 4 = some 6 ∧
    bcastCopy (chanOf (copyBench 15).dev .c0) 3 0 4 = none ∧ bcastCopy (chanOf (copyBench 7).dev .c0) 2 1 4 = none := by decide +kernel
/-- Copy 7, of one tile of 64 bytes, is loading by broadcast, or has landed. -/
def landing (w : WCopy) : State :=
  bench { hostChan with copies := [(7, { w with reg := { w.reg with model := 3, base := 8, pages := 1, tiles := 1 }, tileLen := 64, source := .broadcast })]
                        colls := [(255, { kind := 2, hasPrev := true, deliver := true, common := true, bytes := 64, destVa := 8 * 65536 })]
                        models := [(3, { replN := 2, repl0 := 5, repl1 := 6 })] }
theorem test_w_BroadcastChunkArrival :
    let s := landing { reg := { state := csLoading } }
    let x := chanOf s.dev .c0
    let e := collOf x 255
    e.kind = 2 ∧ e.hasPrev = true ∧ e.deliver = true ∧ e.common = true ∧ e.nchild = 0 ∧ e.bytes ≠ 0 ∧ (List.replicate 64 (1 : Byte)).length = chunkLen e 0 ∧
    leadOf s.dev .c0 = .c0 ∧ copyAt x e = some 7 ∧ 0 ∉ (copyOf x 7).chunks ∧ 0 ∈ tilesEnding e (copyOf x 7).tileLen (copyOf x 7).chunks 0 := by decide +kernel
theorem test_w_FingerprintTableArrival : ∀ st ∈ [csLoading, csVerifying],
    let s := landing { reg := { state := st }, chunks := [0], fps := [(0, 9)] }
    let w := leadCopy s.dev .c0 7
    w.source = .broadcast ∧ (w.reg.state = csLoading ∨ w.reg.state = csVerifying) ∧ w.repairing = [] ∧ w.comparing = false ∧ allLanded s.dev .c0 7 = true ∧
    [9].length = w.reg.tiles.toNat ∧ mismatches s.dev .c0 7 (tableOf [9]) = [] ∧ mismatches s.dev .c0 7 (tableOf [5]) = [0] ∧
    loadOfCopy s.dev .c0 7 = none ∧ suiteExists s.dev .c0 = true := by decide +kernel
theorem test_w_noIdleUser (w : WCopy) : NoIdleUser (landing w).dev .c0 3 := fun n _ => by
  have h : isStarted (leadRoom (landing w).dev .c0 n) = false := rfl
  simp [h]
theorem test_w_CopiesSettle :
    (let s := landing { reg := { state := csVerifying } }
     let x := chanOf s.dev .c0
     suiteExists s.dev .c0 = true ∧ (leadCopy s.dev .c0 7).reg.state ≠ csFree ∧ (leadCopy s.dev .c0 7).comparing = false ∧ (laneOf x 5 1).inFlight < 4) ∧
    (let s := landing { reg := { state := csVerifying }, comparing := true }
     let w := leadCopy s.dev .c0 7
     w.comparing = true ∧ 5 ∈ replicasOf (modelOf (chanOf s.dev .c0) w.reg.model.toNat) ∧ w.answers = [] ∧
     6 ∈ replicasOf (modelOf (chanOf s.dev .c0) w.reg.model.toNat) ∧ w.reg.state = csVerifying ∧ w.repairing = [] ∧ loadOfCopy s.dev .c0 7 = none ∧
     ∀ o ∈ suiteChans s.dev .c0, ∀ i, i < w.reg.tiles.toNat → tget 0 (copyOf (chanOf s.dev o) 7).fps i = tget 0 w.fps i) ∧
    (let s := landing { reg := { state := csReady }, repairing := [0] }
     let w := leadCopy s.dev .c0 7
     0 ∈ w.repairing ∧ (List.replicate 64 (1 : Byte)).length = w.tileLen ∧ w.reg.state ≠ csVerifying ∧ leadOf s.dev .c0 ∈ suiteChans s.dev .c0) := by
  decide +kernel

/-! ## Updates, steps, versions, trajectories -/

/-- A started training room of one unit, on pages 0 and 1. -/
def trainRoom : Room := { cfg := { state := 3, kind := 2 }, tier := { t1max := 9, t2max := 9 }, prog := some (prog twoTensors) }
/-- The room on both channels of a suite. -/
def pairBench (r : Room) : State :=
  { idle with dev := { idle.dev with
      chans := ⟨{ benchChan .c0 with rooms := [(1, r)] }, { benchChan .c1 with rooms := [(1, r)] }, benchChan .c2, benchChan .c3⟩,
      suites := { c0 := { mask := 3 }, c1 := {}, c2 := {}, c3 := {} } } }
def aRecord (skip : Bool) : NormRec := { step := 1, sumsq := 0, kclip := 0, lr := 0, skip := skip }
theorem test_w_UpdateUnitsArrive :
    (∀ b ∈ [false, true],
      let r : Room := { trainRoom with pages := if b then [(1, { valid := true, t2 := true })] else [], ckps := { capture := if b then some { slotB := false, point := false, step := 0, toSend := [] } else none } }
      let s := benchRoom r
      suiteOfChan s.dev .c0 = some .c0 ∧ isStarted r = true ∧ trains r = true ∧ r.update.updating = false ∧ r.update.held = false ∧ mbRetired (chanOf s.dev .c0) 1 = true ∧
      stepCapture (leadRoom s.dev .c0 1) = b ∧ (unitsOf r).any (·.any (pageInT2 (chanOf s.dev .c0) 1)) = b) ∧
    (∀ g ∈ [true, false],
      let r : Room := { trainRoom with update := { updating := true, deferred := [0], group := g, record := some (aRecord false) } }
      let x := chanOf (benchRoom r).dev .c0
      0 ∈ r.update.deferred ∧ ((unitsOf r).getD 0 []).any (pageInT2 x 1) = false ∧ r.update.group = g ∧ (r.update.record).isSome = true) ∧
    ({ trainRoom with update := { group := true, arrived := [0], record := some (aRecord false) } } : Room).update.group = true ∧
    (let s := benchRoom trainRoom
     leadOf s.dev .c0 = .c0 ∧ trainRoom.upd.shard = 0 ∧ (0 : BitVec 16).toNat ∉ trainRoom.update.shards ∧ trainRoom.upd.nshards1 = 0 ∧
     trainRoom.update.record = none) ∧
    (let r : Room := { trainRoom with upd := { nshards1 := 65535 } }
     0 ≤ r.upd.nshards1.toNat ∧ 0 ∉ r.update.shards ++ [(65535 : BitVec 16).toNat]) := by decide +kernel
/-- A job of one shard on two channels: the record goes to the other channel. -/
theorem test_w_NormRecord :
    let s := pairBench trainRoom
     let x := chanOf s.dev .c0
     suiteOfChan s.dev .c0 = some .c0 ∧ suiteOfChan s.dev .c1 = some .c0 ∧ leadOf s.dev .c0 ≠ .c1 ∧ Ch.c1 ∈ suiteChans s.dev .c0 ∧
     (∀ a ∈ suiteChans s.dev .c0, ∀ b ∈ suiteChans s.dev .c0, nodeOf (chanOf s.dev a) = nodeOf (chanOf s.dev b) → a = b) ∧
     (laneOf x (nodeOf (chanOf s.dev .c1)) 1).inFlight < 4 ∧ isStarted (roomOf (chanOf s.dev .c1) 1) = true ∧ trains (roomOf (chanOf s.dev .c1) 1) = true ∧
     (roomOf (chanOf s.dev .c1) 1).update.record = none ∧ ({ trainRoom with update := { record := some (aRecord false) } } : Room).update.record.isSome = true := by
  decide +kernel
theorem test_w_TrainingStepsEnd :
    (let x := chanOf (benchRoom trainRoom).dev .c0
     (isStarted (roomOf x 1) && trains (roomOf x 1) && mbDone x 1) = true ∧ (isStarted (roomOf x 63) && trains (roomOf x 63) && mbDone x 63) = false) ∧
    (∀ b ∈ [true, false],
      let r : Room := { trainRoom with update := { updating := true, record := some (aRecord b) } }
      isStarted r = true ∧ trains r = true ∧ r.update.deferred = [] ∧ r.train.frames = []) ∧
    (let r : Room := { trainRoom with train := { frames := [{ id := 0, off := 0, size := 1, tag := 0, seg := 0, mb := 0, kind := 0, fmt := 0, dropped := false, count := 0, wgen := 0, prev := 0xFFFFFFFF }] } }
     r.update.deferred = [] ∧ r.train.frames ≠ []) := by decide +kernel
theorem test_w_Versions :
    let r : Room := { trainRoom with trn := { vwPages := 1, wgen := 5, leaseMs := 10 }, train := { verMap := [(0, 5)], refs := [⟨7, 5, 10⟩] } }
    let x := chanOf (benchRoom r).dev .c0
    (isStarted (roomOf x 1) && trains (roomOf x 1)) = true ∧ (laneOf x ((7 : W64).extractLsb' 0 18) 1).inFlight < 4 ∧
    regRefused r.train r.trn.vwPages.toNat 5 = false ∧ regRefused r.train r.trn.vwPages.toNat 4 = true ∧ (isStarted (roomOf x 0) && trains (roomOf x 0)) = false := by
  decide +kernel
/-- A first read of another device's weights, and of this room's own; an answer that names the version asked for, and another. -/
theorem test_w_VersionReader :
    let x := chanOf (benchRoom trainRoom).dev .c0
    let y := chanOf (benchRoom { trainRoom with train := { held := [⟨9, 2, 5, 0⟩] } }).dev .c0
    let known := fun (z : Channel) (node : BitVec 18) => (roomOf z 1).train.held.find? fun h => h.node == node && h.room == 2 && h.mb == (roomOf z 1).train.mb
    isStarted (roomOf x 1) = true ∧ trains (roomOf x 1) = true ∧ (roomOf x 1).update.updating = false ∧ known x 9 = none ∧ (9 : BitVec 18) ≠ nodeOf x ∧
    (laneOf x 9 1).inFlight < 4 ∧ known x (nodeOf x) = none ∧ regRefused (roomOf x 1).train (roomOf x 1).trn.vwPages.toNat 0 = false ∧
    (known y 9).isSome = true ∧ ((known y 9).all fun h => h.wgen == 5) = true ∧ (∃ h, known y 9 = some h ∧ h.wgen ≠ 6) ∧ (laneOf y 9 1).inFlight < 4 := by
  refine ⟨rfl, rfl, rfl, rfl, by decide, by decide +kernel, rfl, rfl, rfl, rfl, ⟨_, rfl, by decide⟩, by decide +kernel⟩
/-- A store of one slot in room 1, on channel 0, for offers of 128 bytes. -/
def storeBench (g : TrnXs) (slots : Tab (Option Nat)) : State :=
  bench { hostChan with rooms := [(1, { trainRoom with trn := { wgen := 9 } })],
                        stores := [(15, { reg := { g with room := 1, en := true, slotPages := 1, nslots := 1 }, slots := slots })] }
def offer : TrajOffer := { node := 77, room := 0, handle := 0, bytes := List.replicate 128 0, wgenFirst := 1 }
theorem test_w_Trajectories : ∀ q ∈ [(storeBench { maxLag := 7 } [], true, some 0), (storeBench {} [(0, some 0)], false, none), (storeBench { maxLag := 8 } [], false, some 0)],
    let x := chanOf q.1.dev .c0
    let e := storeOf x 15
    let r := roomOf x e.reg.room.toNat
    e.reg.en = true ∧ isStarted r = true ∧ 128 ≤ offer.bytes.length ∧ offer.bytes.length ≤ e.reg.slotPages.toNat * pageBytes ∧
    (∀ k ∈ Ch.all, nodeOf (chanOf q.1.dev k) ≠ offer.node) ∧
    decide (e.reg.maxLag ≠ 0 ∧ offer.wgenFirst.toNat + e.reg.maxLag.toNat < r.trn.wgen.toNat) = q.2.1 ∧ freeStoreSlot e = q.2.2 ∧ e.reg.fullPolicy = false := by
  decide +kernel
/-- A stream of this device that ends offers its own trajectory; an offer may be too short or too long. -/
theorem test_w_OwnTrajectory :
    let s := bench { hostChan with rooms := [(1, trainRoom)], ctxs := [(65535, { handle := 65535, room := 1, state := .ending, deliver := 2 })],
                                   stores := [(15, { reg := { room := 1, en := true, slotPages := 1, nslots := 1 } })] }
    let o : TrajOffer := { offer with node := nodeOf (chanOf s.dev .c0), room := 1, handle := 65535 }
    let q := refOfHandle o.handle
    let m := strm s.dev q
    let e := storeOf (chanOf s.dev .c0) 15
    let bytes := trajectory s.dev .c0 o.room.toNat q
    suiteOfNode s.dev o.node = some .c0 ∧ m.handle = o.handle ∧ m.state = .ending ∧ m.room = o.room.toNat ∧ m.deliver = 2 ∧ e.reg.en = true ∧
    isStarted (roomOf (chanOf s.dev .c0) e.reg.room.toNat) = true ∧ 128 ≤ bytes.length ∧ bytes.length ≤ e.reg.slotPages.toNat * pageBytes ∧
    e.reg.maxLag = 0 ∧ freeStoreSlot e = some 0 ∧ (commitInto s.dev .c0 15 0 bytes).isSome = true ∧
    ([] : List Byte).length < 128 ∧ (storeOf (chanOf s.dev .c0) 14).reg.en = false := by decide +kernel
theorem test_w_TrajectoryCommits : (commitInto (storeBench { maxLag := 8 } []).dev .c0 15 0 offer.bytes).isSome = true := by decide +kernel
theorem test_w_SlotRequestRetry :
    let r : Room := { stepRoom with slotWaits := [⟨0, 65535⟩], storeNode := 9 }
    let s := bench { benchChan .c0 with rooms := [(1, r)], ctxs := [(65535, { handle := 65535, room := 1, state := .ending })] }
    suiteOfChan s.dev .c0 = some .c0 ∧ (⟨0, 65535⟩ : SlotWait) ∈ (leadRoom s.dev .c0 1).slotWaits ∧ (strm s.dev (.c0, 65535)).state = .ending ∧
    (laneOf (chanOf s.dev (leadOf s.dev .c0)) (leadRoom s.dev .c0 1).storeNode 1).inFlight < 4 := by decide +kernel

/-! ## Fabric -/

/-- Port 3 of channel 0 in a state, with its link as given, and a route to device 5 by ports 2 and 3. -/
def portBench (st : BitVec 3) (k : LinkState) : State :=
  bench { hostChan with ports := [(3, { state := st, peer := 20 }), (2, { state := 2 })], links := [(3, k)],
                        routes := [(0, { matchVal := 20, plen := 16, valid := true, ports := 12 })], rooms := [(1, { cfg := { state := 3 } })] }
/-- The header of a REQUEST frame with SEQ 0 to a node, which carries no chunk descriptor. -/
def header (dst : Nat) : BitVec 128 := BitVec.ofNat 128 (1 + (dst <<< 16))
def crcOf (h : BitVec 128) (p : List Byte) : W32 := crc32 (leBytes 16 h.toNat ++ p)
theorem test_w_FramesArrive :
    (linkCarries (portBench 2 { session := true }).dev .c0 (.port 3) = true ∧ linkCarries (portBench 2 {}).dev .c0 (.port 3) = false ∧
      linkCarries idle.dev .c0 (.pack .c1) = true) ∧
    (∀ dst ∈ [0, 2], ((frameOf (header dst) [1]).map fun f => (f.seq, f.dst == nodeOf (chanOf idle.dev .c0), refuseCause (chanOf idle.dev .c0) f)) =
      some (0, dst == 0, none)) ∧
    (∀ k ∈ [({ session := true, unverified := [{ seq := 4095 }], tagFails := 8 } : LinkState), { session := true, unverified := [{}], tagFails := 9 }],
      let x := chanOf (portBench 2 k).dev .c0
      linkCarries (portBench 2 k).dev .c0 (.port 3) = true ∧ (k.tagFails + 1 = 10 ∨ k.tagFails + 1 ≠ 10) ∧
      ∀ f ∈ k.unverified, f.dst = nodeOf x ∧ (f.src, f.xid, f.fidx) ∉ x.placed ∧ refuseCause x f = none) := by decide +kernel
/-- A frame that names a room which has not started is refused, as cause 2. -/
theorem test_w_refused : refuseCause (chanOf idle.dev .c0) { desc := some {}, droom := 63 } = some 2 := by decide +kernel
/-- A frame's CRC is met by itself, and by no other value. -/
theorem test_w_crc : crcOf (header 0) [] = crc32 (leBytes 16 (header 0).toNat ++ []) ∧ crcOf (header 0) [] ≠ crcOf (header 0) [] + 1 := by decide +kernel
theorem test_w_FramesAreReplayed :
    let h : HeldFrame := { frame := { seq := 7, dst := 20 }, replays := 15, up := some (.pack .c1, 4) }
    let s := portBench 2 { session := true, held := [h] }
    let k := linkOf (chanOf s.dev .c0) (.port 3)
    k.held = [h] ∧ (k.held.dropWhile fun h => h.frame.seq != 7) = [h] ∧ (k.held.dropWhile fun h => h.frame.seq != 8) = [] ∧
    (routeLink s.dev .c0 h.frame.dst h.frame.xid.toNat (some (.port 3))).map Prod.fst = some (.port 2) ∧
    routeLink s.dev .c0 24 h.frame.xid.toNat (some (.port 3)) = none := by decide +kernel
theorem test_w_PortsTrainAndSetUp :
    (∀ st ∈ [2, 4],
      let s := portBench st {}
      let x := chanOf s.dev .c0
      let q := portOf x 3
      (q.state = 2 ∨ q.state = 4) ∧ q.pers = false ∧ (linkOf x (.port 3)).session = false ∧ nodeOf x < 20 ∧ x.sec.trngOk = true ∧
      x.sec.minPeer ≤ (255 : BitVec 8) ∧ (portOf x 0).state ≠ 2) ∧
    (linkOf (chanOf (portBench 2 { session := true }).dev .c0) (.port 3)).session = true ∧
    (∀ st ∈ [2, 3],
      let x := chanOf (portBench st {}).dev .c0
      let q := portOf x 3
      q.pers = false ∧ (q.state = 2 ∨ q.state = 3) ∧ (7 : BitVec 4).toNat < 8 ∧ q.spareUsed = false ∧ isPermanent x 0x40 (BitVec.ofNat 16 (9 * 3 + 7)) 0 false = false) ∧
    (let q : FabPort := { state := 2, spareUsed := true, spareFor := 7 }
     q.pers = false ∧ (q.state = 2 ∨ q.state = 3) ∧ (8 : BitVec 4).toNat ≤ 8 ∧ q.spareUsed = true ∧ q.spareFor ≠ 8) ∧
    (portOf (chanOf (portBench 3 {}).dev .c0) 3).state = 3 ∧ (portOf (chanOf (portBench 1 {}).dev .c0) 3).state = 1 := by decide +kernel
theorem test_w_MsgCreditReturn : ∀ n ∈ [1, 4],
    let m : Msg := { node := 20, queue := 1, reply := 0, bytes := [1] }
    let x : Channel := { benchChan .c0 with lanes := [{ node := 20, queue := 1, inFlight := n, waiting := [m] }] }
    let l := laneOf x 20 1
    l.waiting = [m] ∧ m.node = 20 ∧ m.queue = 1 ∧ 0 < l.inFlight ∧ l.inFlight ≤ 4 ∧ (laneOf x 20 0).waiting = [] := by decide +kernel
theorem test_w_DataChunkArrival : ∀ len ∈ [64, 63],
    let p : Posted := { room := 1, node := 20, sroom := 2, tag := 3, bytes := 64, seq := 0 }
    let x : Channel := { hostChan with posted := [p], rooms := [(1, { cfg := { state := 3 } })] }
    isStarted (roomOf x 1) = true ∧ x.posted = [] ++ p :: [] ∧ recvDone p = false ∧ chunkFits p.bytes 0 len true = (len == 64) ∧ x.early = [] ∧
    isStarted (roomOf x 0) = false := by decide +kernel
/-- A transfer that comes before its receive overflows an arrival area of no page, and fits into one page. -/
theorem test_w_early : ∀ q ∈ [((0 : Nat), true), (1, false)],
    let x : Channel := { hostChan with rooms := [(1, { cfg := { state := 3 }, fab := { arrPages := BitVec.ofNat 32 q.1 } })] }
    isStarted (roomOf x 1) = true ∧
    decide ((roomOf x 1).fab.arrPages.toNat < earlyPages { x with early := [{ room := 1, node := 20, sroom := 2, tag := 4, chunks := [(0, [1], false)] }] } 1 % 2 ^ 32) = q.2 := by
  decide +kernel
theorem test_w_ReduceChunkArrival : ∀ q ∈ [((16 : Nat), (0 : Nat), true), (15, 2032, false)],
    let e : FabColl := { kind := 1, room := 1, hasPrev := true, bytes := 64, fmt := 0 }
    let x : Channel := { hostChan with rooms := [(1, { cfg := { state := 3 } })], colls := [(255, e)], red := { free := BitVec.ofNat 9 q.1, fbUsed := BitVec.ofNat 32 q.2.1 } }
    collOf x 255 = e ∧ e.kind = 1 ∧ isStarted (roomOf x 1) = true ∧ (List.replicate 64 (0 : Byte)).length = chunkLen e 0 ∧ e.hasPrev = true ∧ x.redChunks = [] ∧
    (instOf x 255 9).armed = false ∧ decide (16 ≤ x.red.free.toNat) = q.2.2 ∧ x.red.fbUsed.toNat + 16 ≤ x.red.fbPages.toNat ∧
    x.red.fbPages.toNat < (2033 : BitVec 32).toNat + 16 := by decide +kernel
theorem test_w_FallbackCombineDone :
    let r : RedChunk := { k := 255, tag := 9, chunk := 0, granted := false, data := [0, 0, 0, 0] }
    let x : Channel := { hostChan with redChunks := [r], insts := [{ k := 255, tag := 9, armed := true }] }
    x.redChunks = [] ++ r :: [] ∧ r.granted = false ∧ (instOf x 255 9).armed = true := by decide +kernel

/-- Both ports' traffic may fall on port 2; ports 0 and 1 have trained. -/
theorem test_w_TagFailure :
    let s := bench { hostChan with ports := [(0, { state := 2 }), (1, { state := 2 }), (2, { state := 2 }), (3, { state := 2, peer := 20 })],
                                   links := [(3, { session := true, unverified := [{}], tagFails := 9, nextRx := some 1 })] }
    let x := chanOf s.dev .c0
    linkCarries s.dev .c0 (.port 3) = true ∧ (linkOf x (.port 3)).tagFails + 1 = 10 ∧ portsOut x = 0 ∧ isPermanent x 0x41 ((3 : BitVec 2).setWidth 16) 0 false = false ∧
    (linkOf x (.port 3)).nextRx.isSome = true ∧ (linkOf (chanOf (portBench 2 { session := true }).dev .c0) (.port 3)).nextRx = none := by decide +kernel
/-- A first frame of a chunk for room 63, which has not started. -/
theorem test_w_refusedFrame :
    let s := portBench 2 {}
    let f := frameOf (BitVec.ofNat 128 (1 + (1 <<< 6) + (63 <<< 52))) (List.replicate 64 0)
    linkCarries s.dev .c0 (.pack .c1) = true ∧
    (f.map fun f => (f.seq == (linkOf (chanOf s.dev .c0) (.pack .c1)).expectSeq && f.dst == nodeOf (chanOf s.dev .c0), refuseCause (chanOf s.dev .c0) f)) = some (true, some 2) := by
  decide +kernel
/-- A frame waits for the output; an on-package link holds a frame; port 2 holds as many frames as it can. -/
theorem test_w_WaitingFrames :
    (let k : LinkState := { session := true, held := [{ frame := { seq := 7, dst := 20 } }], waiting := [{ frame := { dst := 20 }, input := 8 }] }
     ∀ st ∈ [2, 3],
     let s := portBench st k
     let l := linkOf (chanOf s.dev .c0) (.port 3)
     l.waiting = [{ frame := { dst := 20 }, input := 8 }] ∧ l.held.length < 1024 ∧ (portOf (chanOf s.dev .c0) 3).state = st) ∧
    (let s := bench { hostChan with links := [(5, { held := [{ frame := { seq := 7, dst := 1 } }] })] }
     (linkOf (chanOf s.dev .c0) (.pack .c1)).held ≠ []) ∧
    1024 ≤ (List.replicate 1024 ({ frame := { dst := 20 } } : HeldFrame)).length := by
  exact ⟨by decide +kernel, by decide +kernel, Nat.le_of_eq List.length_replicate.symm⟩
/-- A rekey with frames sent since the last TAG, and with frames that wait for one. -/
theorem test_w_Rekeys :
    let k : LinkState := { session := true, setup := 1, sinceTag := 1, unverified := [{}] }
    let x := chanOf (portBench 2 k).dev .c0
    let l := linkOf x (.port 3)
    (portOf x 3).state = 2 ∧ (portOf x 3).pers = false ∧ l.session = true ∧ l.sinceTag ≠ 0 ∧ l.unverified ≠ [] ∧ x.sec.trngOk = true ∧ l.setup = 1 := by decide +kernel
/-- An Ethernet port that has trained loses a lane. -/
theorem test_w_EthernetLane :
    let x : Channel := { hostChan with ports := [(3, { state := 2, pers := true })] }
    ((portOf x 3).state = 2 ∨ (portOf x 3).state = 3) ∧ (portOf x 3).pers = true ∧ (7 : BitVec 4) ≠ 8 ∧ (portOf x 3).spareUsed = false := by decide +kernel
/-! ## Checkpoint events -/

theorem test_w_CheckpointTimer : ∀ q ∈ [((0, 0) : Nat × Nat), (1, 0), (65535, 65535)],
    let r : Room := { stepRoom with ckp := { en := true, everyMs := 1, atticPages := 1 }, upd := { nshards1 := BitVec.ofNat 16 q.1, shard := BitVec.ofNat 16 q.2 } }
    suiteExists (benchRoom r).dev .c0 = true ∧ leadRoom (benchRoom r).dev .c0 1 = r ∧ isStarted r = true ∧ r.ckp.en = true ∧ r.ckp.everyMs ≠ 0 ∧
    hasAttic r = true ∧ (r.upd.nshards1 = 0 ↔ q.1 = 0) ∧ suiteExists (benchRoom r).dev .c3 = false := by decide +kernel
theorem test_w_JobCuts :
    let r : Room := { trainRoom with upd := { nshards1 := 1 }, ckps := { jobRunning := true, reports := [0] } }
    isStarted r = true ∧ trains r = true ∧ r.upd.nshards1 ≠ 0 ∧ r.upd.shard = 0 ∧ r.ckps.jobRunning = true ∧ stepRoom.ckps.capture = none ∧
    ({ r with upd := { shard := 1 } } : Room).upd.shard ≠ 0 := by decide +kernel
theorem test_w_CaptureStages : ∀ g ∈ [CapStage.zero, .pages, .directory, .commit],
    let k : Capture := { slotB := true, point := false, step := 4, stage := g, toSend := [0], dir := [(0, 0)] }
    let r : Room := { stepRoom with memKey := some 5, ckps := { capture := some k, mirroring := true } }
    (leadRoom (benchRoom r).dev .c0 1).ckps.capture = some k ∧ k.stage = g ∧ k.forDrain = false ∧ r.upd.nshards1 = 0 ∧ r.ckps.mirroring = true ∧
    k.dir[0]? = some (0, 0) ∧ 0 ∈ k.toSend ∧ ckpKey (chanOf (benchRoom r).dev (capChan 0)) 1 r.cont = some 5 := by
  decide +kernel

/-- How many pages hold the controller's state is left open; a directory of at least one entry takes a page. -/
theorem test_w_dirPages (k : Capture) (h : 0 < k.dir.length) : 0 < dirPages k := by
  rw [dirPages, cdiv, if_neg (by decide)]
  omega

/-! ## Faults -/

theorem test_w_MemoryFaults :
    (∀ b ∈ [true, false], isPermanent (benchChan .c0) 0x10 0 0 b = b) ∧
    (let x : Channel := { benchChan .c0 with memStacks := Quad.same { benchStack with reg := { up := true, sparesUsed := 8 } } }
     isPermanent x 0x10 511 0 true = true ∧ (x.memStacks.get .c3).reg.sparesUsed = 8 ∧ (x.memStacks.get .c3).reg.up = true) ∧
    ((Channel.reset .c0).memStacks.get .c3).reg.up = false ∧
    (let s := landing { reg := { state := csReady } }
     let w := leadCopy s.dev .c0 7
     suiteOfChan s.dev .c0 = some .c0 ∧ w.reg.state ≠ csFree ∧ 0 < w.reg.tiles.toNat ∧ w.reg.tiles.toNat ≤ 1 ∧ 0 ∉ w.repairing ∧
     (leadCopy s.dev .c0 0).reg.state = csFree) := by decide +kernel
/-- A word of the page in frame 7, and a migration that ends. -/
theorem test_w_StackWords :
    let x : Channel := { benchChan .c0 with rooms := [(1, { pages := [(2, { valid := true, frame := 7 })] })],
                                            memStacks := Quad.same { benchStack with reg := { up := true, migrating := true } } }
    (lineAt x .c3 127 511).isSome = true ∧ ((lineAt x .c3 0 512).map Prod.fst = some 4 ∧ (lineAt x .c3 127 (512 + 511)).map Prod.fst = some 7) ∧
    pageInFrame x 7 = some (.room 1 2) ∧ (x.memStacks.get .c3).reg.migrating = true ∧ ((benchChan .c0).memStacks.get .c3).reg.migrating = false := by decide +kernel
theorem test_w_PumpControlMismatch : ∀ q ∈ [(12, 2, true), (0, 1, false)],
    let u := (BitVec.ofNat 4 q.1).setWidth 16
    let x : Channel := { benchChan .c0 with pumps := { working := 0xFFFF, count := 13 },
                                            hist := { table := [{ cls := 0x30, unit := u, addr := 0, times := List.replicate q.2.1 0 }] } }
    x.pumps.working.getLsbD q.1 = true ∧ isPermanent x 0x30 u 0 false = q.2.2 ∧ 13 ≤ x.pumps.count.toNat ∧ (bench x).dev.fy.replace.drainAny = false := by decide +kernel
theorem test_w_Cores : ∀ hk ∈ [true, false],
    let x := benchChan .c0
    let unit : BitVec 16 := if x.flt.cmdCore = hk then 0 else 1
    (coreOf x hk).up = true ∧ (coreOf x (!hk)).up = true ∧ isPermanent x 0x50 unit 0 false = false ∧
    isPermanent { x with hist := { table := [{ cls := 0x50, unit := unit, addr := 0, times := [0, 0, 0] }] } } 0x50 unit 0 false = true ∧
    (coreOf (setCore x (!hk) {}) hk).up = true ∧ (coreOf (setCore x (!hk) {}) (!hk)).up = false ∧
    (coreOf { x with hkCore := { testing := true } } true).testing = true := by decide +kernel
theorem test_w_HistoryAndDrains :
    let x := benchChan .c0
    x.imageOk = true ∧ (Channel.reset .c0).imageOk = false ∧ x.hist.missSeen < ({ x with issueCount := { x.issueCount with boundMiss := 1 } } : Channel).issueCount.boundMiss.toNat ∧
    x.issueCount.boundMiss.toNat ≤ x.hist.missSeen ∧
    ({ x with drain := some ⟨true, 0, 1, false⟩ } : Channel).drain = some ⟨true, 0, 1, false⟩ ∧
    (idle.dev.fy.mgmtLost = false ∧ startedRooms idle.dev = [] ∧ ∀ o ∈ Ch.all, (chanOf idle.dev o).drain = none) ∧
    (x.started = true ∧ x.lost = false) ∧ (Channel.reset .c0).started = false := by decide +kernel

/-! ## Interrupts -/

theorem test_w_Interrupts :
    let x := benchChan .c0
    let one : Channel := { x with hkCore := {}, flt := { x.flt with oneCore := true } }
    (∀ hk ∈ [true, false], (coreOf x hk).up = true ∧ nextSource x hk = none) ∧ x.flt.oneCore = false ∧
    (one.flt.oneCore = true ∧ (coreOf one true).up = false ∧ (coreOf one false).up = true ∧ nextSource one false = none) ∧
    (coreOf x true).stack = [] ∧
    (let y : Channel := { x with hkCore := { up := true, stack := [7, 7], waiting := [6] } }
     (coreOf y true).stack = 7 :: [7] ∧ (coreOf y true).up = true ∧ (coreOf y true).waiting = [6] ∧ 6 < [7].headD 8 ∧ levelMasked y true 6 = false) ∧
    ({ up := true, stack := [0] } : Core).waiting = [] ∧ idle.board.vaux = true ∧ State.reset.board.vaux = false := by decide +kernel

/-! ## A few steps -/

theorem test_watchdog_leaves_one_core : (match exec (.watchdogExpiry .c0 false) idle with
    | .next t => (chanOf t.dev .c0).flt.oneCore && (chanOf t.dev .c0).cmdCore.up && (chanOf t.dev .c0).hkCore.testing
    | _ => false) = true := by decide +kernel
theorem test_interrupt_is_delivered : (match exec (.irqSourceSignal .c0 0) idle with
    | .next t => (chanOf t.dev .c0).cmdCore.stack == [0] && (chanOf t.dev .c0).hkCore.stack == [0]
    | _ => false) = true := by decide +kernel
theorem test_lane_is_steered : (match exec (.laneFault .c0 3 7) (portBench 2 {}) with
    | .next t => (portOf (chanOf t.dev .c0) 3).state == 3 && (portOf (chanOf t.dev .c0) 3).spareFor == 7
    | _ => false) = true := by decide +kernel
theorem test_version_is_registered : (match exec (.versionRegistration .c0 1 (.message 9) 3) (benchRoom { trainRoom with trn := { leaseMs := 10 } }) with
    | .next t => (roomOf (chanOf t.dev .c0) 1).train.refs == [⟨9, 3, 10⟩]
    | _ => false) = true := by decide +kernel

/-- The digest of "abc", as FIPS 202's examples give it. -/
theorem test_sha3_abc : sha3 [0x61, 0x62, 0x63] = 0x3215431145e2bf465b529d3e6e085f85bd90d36b2d175c04b225e24fa75d983a := by decide +kernel
end Sys2Proof.Tests
end

section

namespace Sys2Proof.Machine

/-- Whether a write reaches bit k: an RW bit always, an RW-L bit only while its room is not STARTED (Table 0.10, R15). -/
def WordMask.takesBit (m : WordMask) (locked : Bool) (k : Nat) : Bool :=
  m.rw.getLsbD k || (!locked && m.rwl.getLsbD k)

/-- Joining two words under a mask takes a bit of the second where the mask holds it, and of the first elsewhere. -/
theorem getLsbD_or_masked {n k : Nat} (mask old v : BitVec n) (hk : k < n) :
    (old &&& ~~~mask ||| v &&& mask).getLsbD k = if mask.getLsbD k then v.getLsbD k else old.getLsbD k := by
  rw [BitVec.getLsbD_or, BitVec.getLsbD_and, BitVec.getLsbD_and, BitVec.getLsbD_not, decide_eq_true hk]
  cases mask.getLsbD k <;> simp

/-- Table 0.10 bit by bit: a bit the write reaches takes the value written and any other keeps its own; then a 1 clears a W1C bit. -/
theorem getLsbD_writtenWord (m : WordMask) (locked : Bool) (old v : W64) {k : Nat} (hk : k < 64) :
    (writtenWord m locked old v).getLsbD k =
      ((if m.takesBit locked k then v.getLsbD k else old.getLsbD k) && !(v.getLsbD k && m.w1c.getLsbD k)) := by
  have hreach : (if locked then m.rw else m.rw ||| m.rwl).getLsbD k = m.takesBit locked k := by
    cases locked <;> simp [WordMask.takesBit]
  unfold writtenWord
  rw [BitVec.getLsbD_and, getLsbD_or_masked _ old v hk, hreach, BitVec.getLsbD_not, BitVec.getLsbD_and, decide_eq_true hk, Bool.true_and]

/-- Outside the W1C bits only the reach of the write decides. -/
theorem getLsbD_writtenWord_of_not_w1c {m : WordMask} {k : Nat} (locked : Bool) (old v : W64) (hk : k < 64)
    (hc : m.w1c.getLsbD k = false) :
    (writtenWord m locked old v).getLsbD k = if m.takesBit locked k then v.getLsbD k else old.getLsbD k := by
  rw [getLsbD_writtenWord m locked old v hk, hc, Bool.and_false, Bool.not_false, Bool.and_true]

/-- A 1 written to a W1C bit clears it, whatever the bit's other codes. -/
theorem getLsbD_writtenWord_of_w1c {m : WordMask} {k : Nat} (locked : Bool) (old : W64) {v : W64} (hk : k < 64)
    (hc : m.w1c.getLsbD k = true) (hv : v.getLsbD k = true) : (writtenWord m locked old v).getLsbD k = false := by
  rw [getLsbD_writtenWord m locked old v hk, hc, hv, Bool.and_true, Bool.not_true, Bool.and_false]

/-- Settles O20, one access code of Table 0.10 after another, from the bit that `writtenWord` leaves. -/
theorem accessCodesDecideWrites : Obligations.AccessCodesDecideWrites := by
  unfold Obligations.AccessCodesDecideWrites
  intro w locked old v k hk m
  refine ⟨fun hro => ?ro, fun hc hrw => ?rw, fun hc hrw hrwl => ?rwl, fun hc hv => ?w1c⟩
  case ro =>
    obtain ⟨⟨hrw, hrwl⟩, hc⟩ :
        (m.rw.getLsbD k = false ∧ m.rwl.getLsbD k = false) ∧ m.w1c.getLsbD k = false := by simpa using hro
    rw [getLsbD_writtenWord_of_not_w1c locked old v hk hc]
    simp [WordMask.takesBit, hrw, hrwl]
  case rw =>
    rw [getLsbD_writtenWord_of_not_w1c locked old v hk hc]
    simp [WordMask.takesBit, hrw]
  case rwl =>
    rw [getLsbD_writtenWord_of_not_w1c locked old v hk hc]
    cases locked <;> simp [WordMask.takesBit, hrw, hrwl]
  case w1c => exact getLsbD_writtenWord_of_w1c locked old hk hc hv

end Sys2Proof.Machine

end

section

namespace Sys2Proof.Machine

/-! ## Setting one channel of a device -/

@[simp] theorem setChan_setChan (d : Device) (c : Ch) (x y : Channel) : setChan (setChan d c x) c y = setChan d c y := by
  cases c <;> rfl

@[simp] theorem modChan_setChan (d : Device) (c : Ch) (x : Channel) (f : Channel → Channel) :
    modChan (setChan d c x) c f = setChan d c (f x) := by
  rw [modChan, chanOf_setChan_same, setChan_setChan]

@[simp] theorem suiteOfChan_setChan (d : Device) (c : Ch) (x : Channel) (o : Ch) :
    suiteOfChan (setChan d c x) o = suiteOfChan d o := rfl

@[simp] theorem streamOf_setChan (d : Device) (c : Ch) (x : Channel) (o : Ch) :
    streamOf (setChan d c x) o = streamOf d o := rfl

theorem onlyChannel_setChan (c : Ch) (s : State) (x : Channel) : OnlyChannel c s { s with dev := setChan s.dev c x } :=
  ⟨rfl, rfl, rfl, rfl, rfl, rfl, fun _ ho => chanOf_setChan_ne s.dev x ho⟩

/-! ## A hold -/

/-- A hold costs one cycle and shows in the island's `hold`; pumps, memory and rooms stay (R33). -/
theorem holdBundle_spec (h : Hold) (y : Channel) :
    (holdBundle h y).island.hold = some h ∧ (holdBundle h y).island.cycle = y.island.cycle + 1 ∧
    (holdBundle h y).island.ctx = { y.island.ctx with scyc := y.island.ctx.scyc + 1 } ∧
    (holdBundle h y).island.pumps = y.island.pumps ∧ (holdBundle h y).ws = y.ws ∧ (holdBundle h y).rooms = y.rooms := by
  unfold holdBundle addCycles
  cases y.island.hold <;> exact ⟨rfl, rfl, rfl, rfl, rfl, rfl⟩

/-- A hold that is neither a yielding wait nor one for a shadow does nothing but hold. -/
theorem holdAt_plain (d : Device) (c : Ch) (n : Nat) (y : Channel) {h : Hold} (hy : ∀ t k, h ≠ .token t k true) (hs : h ≠ .shadow) :
    holdAt c n h (setChan d c y) = setChan d c (holdBundle h y) := by
  have stall : (h == .shadow) = false := by simpa using hs
  unfold holdAt
  simp only [stall, Bool.false_and, Bool.false_eq_true, ↓reduceIte, modChan_setChan]

/-- A hold for a shadow counts in SHADOW_STALLS when it begins (R390). -/
def countStall (n : Nat) (y z : Channel) : Channel :=
  if y.island.hold.isNone then modRoomC z n fun r => { r with trn := { r.trn with shadowStalls := satInc r.trn.shadowStalls } } else z

theorem holdAt_shadow (d : Device) (c : Ch) (n : Nat) (y : Channel) :
    holdAt c n .shadow (setChan d c y) = setChan d c (countStall n y (holdBundle .shadow y)) := by
  unfold holdAt countStall
  simp only [beq_self_eq_true, Bool.true_and, chanOf_setChan_same, modChan_setChan]

@[simp] theorem countStall_island (n : Nat) (y z : Channel) : (countStall n y z).island = z.island := by
  unfold countStall; split <;> rfl
@[simp] theorem countStall_ws (n : Nat) (y z : Channel) : (countStall n y z).ws = z.ws := by
  unfold countStall; split <;> rfl
theorem roomOf_countStall_ne (y z : Channel) {n m : Nat} (h : m ≠ n) : roomOf (countStall n y z) m = roomOf z m := by
  unfold countStall
  split
  · exact roomOf_modRoomC_ne z _ h
  · rfl
theorem shadowStalls_countStall (n : Nat) (y z : Channel) :
    (roomOf (countStall n y z) n).trn.shadowStalls =
      if y.island.hold = none then satInc (roomOf z n).trn.shadowStalls else (roomOf z n).trn.shadowStalls := by
  unfold countStall
  cases y.island.hold <;> simp

/-! ## Recorded ends of a room -/

/-- A stream fault records itself on its channel, and then ends the room with its status (R150). -/
theorem streamFaultAs_setChan (d : Device) (c : Ch) (y : Channel) (n kind slot : Nat) (st cause : Status) :
    ∃ d1, streamFaultAs (setChan d c y) c n kind slot st cause = faultOn d1 c n st ∧ FaultNoted y n kind slot (chanOf d1 c) := by
  refine ⟨_, rfl, ?_⟩
  rw [modChan_setChan, chanOf_setChan_same]
  exact ⟨rfl, _, _, rfl, rfl, rfl, rfl⟩

/-- Another record does not move the bundle that a stream fault notes. -/
theorem faultNoted_record (y z : Channel) (r : FaultRec) (n kind slot : Nat) :
    FaultNoted (record y r) n kind slot z ↔ FaultNoted y n kind slot z := Iff.rfl

/-- Poison consumed is recorded with its origin, and then ends the room (R594). -/
theorem consumePoison_setChan (d : Device) (c : Ch) (y : Channel) (n : Nat) (p : PoisonPlace) :
    ∃ d1 e l, consumePoison (setChan d c y) c n p = faultOn d1 c n .poisonConsumed ∧ (chanOf d1 c).hist.buffer = e :: l ∧
      e.cls = (poisonRecord y n p).cls ∧ e.unit = (poisonRecord y n p).unit ∧ e.kind = 8 ∧
      e.room = BitVec.ofNat 6 n ∧ e.status = .poisonConsumed := by
  refine ⟨setChan d c (record y (poisonRecord y n p)), ?_⟩
  rw [consumePoison, modChan_setChan, chanOf_setChan_same]
  exact ⟨_, _, rfl, rfl, rfl, rfl, rfl, rfl, rfl⟩

/-! ## The moment of issue -/

theorem exec_bundleIssue (c : Ch) (s : State) : exec (.bundleIssue c) s = .next { s with dev := bundleIssue c s.dev } := rfl

/-- Room n is on the island and may issue. -/
def MayIssue (x : Channel) (n : Nat) : Prop :=
  x.island.room = some n ∧ isStarted (roomOf x n) = true ∧ x.island.atSwitch = false ∧ x.island.ctx.ended = false ∧ x.issueHold = false

theorem bundleIssue_of_not_mayIssue (c : Ch) (d : Device) (h : ∀ n, ¬MayIssue (chanOf d c) n) : bundleIssue c d = d := by
  unfold bundleIssue
  dsimp only
  split
  · rfl
  next n hroom =>
    rw [if_pos]
    refine Decidable.byContradiction fun hgo => ?_
    simp only [Bool.or_eq_true, Bool.not_eq_true', not_or, Bool.not_eq_false, Bool.not_eq_true] at hgo
    obtain ⟨⟨⟨hst, hsw⟩, hend⟩, hhold⟩ := hgo
    exact h n ⟨hroom, hst, hsw, hend, hhold⟩

/-- In a power hold a cycle passes; otherwise the bundle is settled by the verdict at the moment of its issue. -/
theorem bundleIssue_of_mayIssue {c : Ch} {d : Device} {n : Nat} (h : MayIssue (chanOf d c) n) :
    bundleIssue c d = if (chanOf d c).island.powerHold then modChan d c (addCycles 1)
      else settleBundle c n (setChan d c (bundleMoment (chanOf d c) n)) (verdict (bundleMoment (chanOf d c) n) n) := by
  obtain ⟨hroom, hst, hsw, hend, hhold⟩ := h
  have landed : modChan d c landDue = setChan d c (landDue (chanOf d c)) := rfl
  unfold bundleIssue bundleMoment
  simp only [hroom, hst, hsw, hend, hhold, landed, chanOf_setChan_same, modChan_setChan, Bool.not_true, Bool.or_self,
    Bool.false_eq_true, ↓reduceIte]
  cases hv : verdict (landDue (chanOf d c)) n with
  | issue b =>
    by_cases hk : bankDelay (landDue (chanOf d c)) b = 0
    · simp only [hk, ↓reduceIte, hv, settleBundle]
    · simp only [hk, ↓reduceIte]
  | fault | badFetch | poison | hold => simp only [hv]

/-! ## A legal bundle -/

/-- A LOOP that takes the Loop room touches no clock, queue or result of the island. -/
theorem newRegion_keeps (a l : Nat) (i : Island) :
    (newRegion a l i).cycle = i.cycle ∧ (newRegion a l i).writes = i.writes ∧ (newRegion a l i).pumps = i.pumps := by
  unfold newRegion
  split <;> exact ⟨rfl, rfl, rfl⟩

/-- The control slot moves the program counter and the loop stack, and leaves clock, results, queues and memory. -/
theorem actControl_spec (s : BitVec 32) (f : Flow) (x : Channel) :
    (actControl s f x).island.ctx.pc = f.next ∧ (actControl s f x).island.ctx.loops = f.loops ∧
    (actControl s f x).island.cycle = x.island.cycle ∧ (actControl s f x).island.writes = x.island.writes ∧
    (actControl s f x).island.pumps = x.island.pumps ∧ (actControl s f x).ws = x.ws := by
  unfold actControl
  cases f.body with
  | none => exact ⟨rfl, rfl, rfl, rfl, rfl, rfl⟩
  | some r =>
    obtain ⟨hc, hw, hp⟩ := newRegion_keeps r.1 r.2 x.island
    exact ⟨rfl, rfl, hc, hw, hp, rfl⟩

/-- A bundle that is no switch point leaves the count of switch points (R535). -/
theorem actControl_ordinal {s : BitVec 32} (f : Flow) {x : Channel} (h : noPoint x.island.ctx s = true) :
    (actControl s f x).island.ctx.ordinal = x.island.ctx.ordinal := by
  have point : (ctActs x.island.ctx s && (ctOp s == 0x04 || (ctOp s == 0x03 && ctYield s))) = false := by
    simpa only [noPoint, Bool.not_eq_true'] using h
  unfold actControl
  simp only [point, Bool.false_eq_true, ↓reduceIte]
  split
  · rfl
  · split <;> rfl

/-- What a bundle does once its descriptors have been taken, or one of them has not. -/
def afterPumps (c : Ch) (n : Nat) (b : BitVec 1024) (f : Flow) (d : Device) : Enq × Nat → Device
  | (.reject st cause, slot) => streamFaultAs d c n 0x0E slot st cause
  | (.roomFault, _) => faultOn d c n .roomFault
  | (.hold h, _) => holdAt c n h d
  | (.ok d2, _) =>
    let d3 := modChan d2 c fun x => addCycles (issueCycles b f) (actControl (bCtl b) f x)
    let k := (chanOf d3 c).island.ctx.ordinal
    if f.ended then endProgram c n d3
    else if k != (chanOf d c).island.ctx.ordinal then reachPoint c n k (chanOf d c).island.ctx.pc false d3
    else d3

/-- A bundle whose control slot is legal acts with its slots, and then with its descriptors (R104). -/
theorem issueBundle_of_flow {y : Channel} {b : BitVec 1024} {f : Flow} {n : Nat} (c : Ch) (d : Device)
    (hf : flowOf y.island.ctx (winBundles y n) (bCtl b) = .ok f) :
    issueBundle c n b (setChan d c y) =
      afterPumps c n b f (setChan d c y) (issuePumps c n b (setChan d c (actedChan n (streamOf d c) b y))) := by
  unfold issueBundle actedChan
  simp only [chanOf_setChan_same, hf, streamOf_setChan, modChan_setChan]
  rcases issuePumps c n b _ with ⟨_ | _ | _ | _, slot⟩
  case ok d2 => simp only [afterPumps, chanOf_setChan_same]
  all_goals rfl

/-- Past a bundle that neither ends the program nor is a switch point, issue just goes on. -/
theorem afterPumps_ok {c : Ch} {n : Nat} {b : BitVec 1024} {f : Flow} {d d2 : Device} (slot : Nat) (he : f.ended = false)
    (hn : noPoint (chanOf d2 c).island.ctx (bCtl b) = true) (ho : (chanOf d2 c).island.ctx.ordinal = (chanOf d c).island.ctx.ordinal) :
    afterPumps c n b f d (.ok d2, slot) = setChan d2 c (addCycles (issueCycles b f) (actControl (bCtl b) f (chanOf d2 c))) := by
  have same : (chanOf (modChan d2 c fun x => addCycles (issueCycles b f) (actControl (bCtl b) f x)) c).island.ctx.ordinal =
      (chanOf d c).island.ctx.ordinal := by
    rw [chanOf_modChan_same]
    exact (actControl_ordinal f hn).trans ho
  simp only [afterPumps, he, same, bne_self_eq_false, Bool.false_eq_true, ↓reduceIte]
  rfl

/-! ## BUNDLE_ISSUE -/

/-- Settles O38: each verdict at the moment of issue, and of a legal bundle each outcome of its descriptors. -/
theorem bundlesIssue : Obligations.BundlesIssue := by
  unfold Obligations.BundlesIssue
  intro c s
  refine ⟨fun hidle => ?idle, fun n hrun hpower => ?power, fun n hrun hpower => ?issues⟩
  case idle =>
    rw [exec_bundleIssue, bundleIssue_of_not_mayIssue c s.dev hidle]
  case power =>
    refine ⟨_, exec_bundleIssue c s, ?_⟩
    rw [bundleIssue_of_mayIssue hrun, if_pos hpower]
    exact ⟨onlyChannel_setChan c s _, chanOf_modChan_same ..⟩
  case issues =>
    intro y
    have runs : exec (.bundleIssue c) s = .next { s with dev := settleBundle c n (setChan s.dev c y) (verdict y n) } := by
      rw [exec_bundleIssue, bundleIssue_of_mayIssue hrun, hpower]
      rfl
    refine ⟨fun h hv hy hs => ?hold, fun k slot hv hk => ?fault, fun p hv => ?poison, fun l hv => ?badFetch, fun b f hv hf => ?issue⟩
    case hold =>
      rw [hv, settleBundle, holdAt_plain s.dev c n y hy hs] at runs
      refine ⟨_, runs, onlyChannel_setChan c s _, ?_⟩
      dsimp only
      rw [chanOf_setChan_same]
      obtain ⟨hhold, hcycle, hctx, hpumps, hws, hrooms⟩ := holdBundle_spec h y
      exact ⟨hhold, hcycle, hctx, hws, hrooms, hpumps⟩
    case fault =>
      rw [hv, settleBundle, streamFault, if_neg hk] at runs
      obtain ⟨d1, hd, noted⟩ := streamFaultAs_setChan s.dev c y n k slot .roomFault .roomFault
      exact ⟨_, d1, runs, hd, noted⟩
    case poison =>
      rw [hv, settleBundle] at runs
      obtain ⟨d1, e, l, hd, noted⟩ := consumePoison_setChan s.dev c y n p
      exact ⟨_, d1, e, l, runs, hd, noted⟩
    case badFetch =>
      rw [hv, settleBundle, modChan_setChan, streamFault, if_pos rfl] at runs
      obtain ⟨d1, hd, noted⟩ :=
        streamFaultAs_setChan s.dev c (record y (poisonRecord y n (.ws n l))) n 0x0B 15 .poisonConsumed .poisonConsumed
      exact ⟨_, d1, runs, hd, (faultNoted_record ..).mp noted⟩
    case issue =>
      intro d1
      rw [hv, settleBundle, issueBundle_of_flow c s.dev hf] at runs
      refine ⟨fun d2 slot hp he hn ho => ?acts, fun st cause slot hp => ?reject, fun slot hp => ?roomFault, fun slot hp => ?shadow⟩
      case acts =>
        rw [hp, afterPumps_ok slot he hn (by rwa [chanOf_setChan_same])] at runs
        refine ⟨_, runs, rfl, rfl, fun o hoc => chanOf_setChan_ne d2 _ hoc, ?_⟩
        dsimp only
        rw [chanOf_setChan_same]
        obtain ⟨hpc, hloops, hcycle, hwrites, hpumps, hws⟩ := actControl_spec (bCtl b) f (chanOf d2 c)
        exact ⟨hpc, hloops, congrArg (· + issueCycles b f) hcycle, hws, hwrites, hpumps⟩
      case reject =>
        rw [hp, afterPumps] at runs
        obtain ⟨e, hd, noted⟩ := streamFaultAs_setChan s.dev c y n 0x0E slot st cause
        exact ⟨_, e, runs, hd, noted⟩
      case roomFault =>
        rw [hp, afterPumps] at runs
        exact ⟨_, runs, rfl⟩
      case shadow =>
        rw [hp, afterPumps, holdAt_shadow] at runs
        refine ⟨_, runs, onlyChannel_setChan c s _, ?_⟩
        dsimp only
        rw [chanOf_setChan_same, countStall_island, countStall_ws, shadowStalls_countStall]
        obtain ⟨hhold, hcycle, -, hpumps, hws, hrooms⟩ := holdBundle_spec .shadow y
        rw [roomOf_congr hrooms]
        exact ⟨hhold, hcycle, hws, hpumps, fun m hm => (roomOf_countStall_ne y _ hm).trans (roomOf_congr hrooms m), rfl⟩

end Sys2Proof.Machine

end

section

namespace Sys2Proof.Machine

/-! ## Interrupts: the cores and their registers alone -/

/-- A channel but for its two cores and the registers that show them. -/
def SameButCores (x y : Channel) : Prop := y = { x with cmdCore := y.cmdCore, hkCore := y.hkCore, irq := y.irq }

theorem SameButCores.refl (x : Channel) : SameButCores x x := rfl
theorem SameButCores.trans {x y z : Channel} (h : SameButCores x y) (g : SameButCores y z) : SameButCores x z := by
  unfold SameButCores at *; rw [g, h]

theorem sameButCores_setCore (x : Channel) (hk : Bool) (k : Core) : SameButCores x (setCore x hk k) := by cases hk <;> rfl

theorem sameButCores_deliverIrq (hk : Bool) (fuel : Nat) (x : Channel) : SameButCores x (deliverIrq hk fuel x) := by
  induction fuel generalizing x with
  | zero => rfl
  | succ fuel ih =>
    unfold deliverIrq
    extract_lets k
    split
    · rfl
    · split
      · rfl
      next l _ =>
        extract_lets y
        have delivered : SameButCores x y := sameButCores_setCore ..
        refine SameButCores.trans ?_ (ih _)
        split
        · exact delivered.trans rfl
        · exact delivered

theorem sameButCores_pendSource (hk : Bool) (l : Nat) (x : Channel) : SameButCores x (pendSource hk l x) := by
  unfold pendSource
  extract_lets k
  split
  · exact sameButCores_setCore ..
  · exact .refl x

/-- An interrupt source reaches the cores and nothing else of the channel (R690 to R692). -/
theorem sameButCores_raiseIrq (l : Nat) (x : Channel) : SameButCores x (raiseIrq l x) := by
  unfold raiseIrq deliverBoth
  refine SameButCores.trans ?_ ((sameButCores_deliverIrq ..).trans (sameButCores_deliverIrq ..))
  split
  · exact sameButCores_pendSource ..
  · split
    · exact (sameButCores_pendSource ..).trans (sameButCores_pendSource ..)
    · exact sameButCores_pendSource ..

/-! ## Records and judgements (R600, R604) -/

/-- The channel after a fault has been noted in the unit table and recorded with its judgement. -/
def judgedChan (r : FaultRec) (survives : Bool) (x : Channel) : Channel :=
  let times := recentTimes x r.cls r.unit r.addr
  record (noteTimes r.cls r.unit r.addr times x)
    { r with judge := if isPermanent x r.cls r.unit r.addr survives then 1 else 0, count := BitVec.ofNat 16 times.length }

theorem judgeFault_of_judged {r : FaultRec} (d : Device) (c : Ch) (survives : Bool) (h : unjudged r = false) :
    judgeFault d c r survives =
      if isPermanent (chanOf d c) r.cls r.unit r.addr survives then meetPermanent (modChan d c (judgedChan r survives)) c r.cls r.unit r.addr
      else modChan d c (judgedChan r survives) := by
  unfold judgeFault judgedChan
  simp only [h, modChan, Bool.false_eq_true, ↓reduceIte]

/-- Every fault that is judged at all leaves the device as R604 describes. -/
theorem judged_judgeFault {r : FaultRec} (d : Device) (c : Ch) (survives : Bool) (h : unjudged r = false) :
    Judged c r survives d (judgeFault d c r survives) := by
  rw [judgeFault_of_judged d c survives h]
  refine ⟨modChan d c (judgedChan r survives), ?_⟩
  rw [chanOf_modChan_same]
  unfold judgedChan record
  exact ⟨_, rfl, rfl, rfl, rfl, rfl, rfl, rfl, fun o ho => chanOf_modChan_ne d _ ho, rfl⟩

/-- Of a judged fault only class, unit, address and KIND count. -/
theorem Judged.of_same_unit {c : Ch} {r q : FaultRec} {survives : Bool} {d d' : Device} (h : Judged c r survives d d')
    (hc : r.cls = q.cls) (hu : r.unit = q.unit) (ha : r.addr = q.addr) (hk : r.kind = q.kind) : Judged c q survives d d' := by
  unfold Judged at *
  rwa [hc, hu, ha, hk] at h

/-- The judgement looks at the unit table and the life clock alone. -/
theorem isPermanent_congr {x y : Channel} (hh : y.hist.table = x.hist.table) (hb : y.hist.lifeBase = x.hist.lifeBase)
    (ha : y.hist.lifeAtMs = x.hist.lifeAtMs) (hp : y.porchUs = x.porchUs) (cls : Byte) (unit : BitVec 16) (addr : W64) (survives : Bool) :
    isPermanent y cls unit addr survives = isPermanent x cls unit addr survives := by
  unfold isPermanent recentTimes lifeMs nowMs
  rw [hh, hb, ha, hp]

/-- Fault r is the newest of the channel's buffer, and beside fault history, fault status and causal counter the channel is as it was. -/
structure Logged (r : FaultRec) (x y : Channel) : Prop where
  frame : y = { x with hist := y.hist, flt := y.flt, node := y.node }
  newest : ∃ w l, y.hist.buffer = w :: l ∧ w.cls = r.cls ∧ w.unit = r.unit ∧ w.kind = r.kind ∧ w.room = r.room

theorem logged_record (r : FaultRec) (x : Channel) : Logged r x (record x r) := ⟨rfl, _, _, rfl, rfl, rfl, rfl, rfl⟩
theorem logged_judgedChan (r : FaultRec) (survives : Bool) (x : Channel) : Logged r x (judgedChan r survives x) := by
  unfold judgedChan
  extract_lets times
  exact ⟨(logged_record _ (noteTimes r.cls r.unit r.addr times x)).frame, _, _, rfl, rfl, rfl, rfl, rfl⟩

/-! ## Poison of WS lines -/

/-- A list that takes what it lacks of another then holds all of it. -/
theorem mem_append_filter_not_contains {α : Type} [DecidableEq α] {l new : List α} {k : α} (h : k ∈ new) :
    k ∈ l ++ new.filter fun j => !l.contains j := by
  by_cases hl : k ∈ l <;> simp [hl, h]

theorem mem_addAll {l new : List Nat} {k : Nat} (h : k ∈ new) : k ∈ addAll l new := mem_append_filter_not_contains h

theorem poisonWs_eq (n : Nat) (ls : List Nat) (o : Option Arose) (x : Channel) :
    poisonWs n ls o x = { x with wsPoison := addAll x.wsPoison ls, arose := (poisonWs n ls o x).arose } := by
  have origins : ∀ (ls : List Nat) (y : Channel),
      ls.foldl (fun y l => setArose (.ws n l) o y) y = { y with arose := (ls.foldl (fun y l => setArose (.ws n l) o y) y).arose } := by
    intro ls
    induction ls with
    | nil => exact fun _ => rfl
    | cons l ls ih => exact fun y => ih (setArose (.ws n l) o y)
  exact origins ls { x with wsPoison := addAll x.wsPoison ls }

/-! ## Tokens -/

theorem ctxOn_of_same {x y : Channel} (hi : y.island = x.island) (hr : y.rooms = x.rooms) (n : Nat) : ctxOn y n = ctxOn x n :=
  ctxOn_congr n hi (congrArg Room.ctx (roomOf_congr hr n))

/-- Posting a token reads the counters alone. -/
theorem incTk_congr {k j : Ctx} (t : Nat) (h : k.tk = j.tk) (ho : k.tkOver = j.tkOver) :
    (incTk k t).tk = (incTk j t).tk ∧ (incTk k t).tkOver = (incTk j t).tkOver := by
  unfold incTk readTk writeTk
  rw [h]
  split
  · exact ⟨rfl, rfl⟩
  · exact ⟨rfl, ho⟩

/-! ## The end of an operation: outputs, locks and token (R93, R119, R121) -/

/-- An operation's outputs change bytes, tags and poison of WS alone. -/
theorem writeOutputs_eq (a : ArrOp) (x : Channel) :
    writeOutputs a x =
      { x with ws := (writeOutputs a x).ws, tags := (writeOutputs a x).tags, wsPoison := (writeOutputs a x).wsPoison } := by
  unfold writeOutputs
  dsimp only
  split <;> rfl

/-- What an operation leaves in WS depends on WS and on its room. -/
theorem writeOutputs_congr (a : ArrOp) {x y : Channel} (hr : y.rooms = x.rooms) (hw : y.ws = x.ws) (hp : y.wsPoison = x.wsPoison) :
    (writeOutputs a y).ws = (writeOutputs a x).ws ∧ (writeOutputs a y).wsPoison = (writeOutputs a x).wsPoison := by
  unfold writeOutputs
  rw [roomOf_congr hr, hw, hp]
  dsimp only
  split
  · exact ⟨rfl, rfl⟩
  · exact ⟨hw, hp⟩

/-- The end of the locks shows in the held bundle's miss alone. -/
theorem arrayMiss_eq (a : ArrOp) (x : Channel) :
    arrayMiss a x = { x with island := { x.island with miss := (arrayMiss a x).island.miss } } := by
  unfold arrayMiss
  split
  · split <;> rfl
  · split <;> rfl
  · rfl

/-- A channel at the release of a check token, before the token is posted. -/
def releasedChan (a : ArrOp) (x : Channel) : Channel :=
  let y := writeOutputs a (arrayMiss a (cyclesTo (a.lastOut + 64) x))
  { y with island := { y.island with arr := none } }

theorem releaseCheck_eq (d : Device) (c : Ch) (a : ArrOp) :
    releaseCheck d c a =
      if a.dead then modChan d c (releasedChan a) else postToken (modChan d c (releasedChan a)) c a.room (arCtok a.slot) := rfl

/-- The operation is over with its outputs in WS, no earlier than its check token is due, and the check registers are as before. -/
structure Released (a : ArrOp) (x z : Channel) : Prop where
  arr : z.island.arr = none
  cycle : a.lastOut + 64 ≤ z.island.cycle
  ws : z.ws = (writeOutputs a x).ws
  wsPoison : z.wsPoison = (writeOutputs a x).wsPoison
  status : z.arrStatus = x.arrStatus
  count : z.arrCount = x.arrCount

/-- A token posted afterwards, which reaches rooms and contexts alone, leaves an operation as it ended. -/
theorem Released.of_outside {a : ArrOp} {x y z : Channel} (r : Released a x y) (h : outside z = outside y) : Released a x z := by
  have field {α : Type} (g : Channel → α) : g (outside z) = g (outside y) := congrArg g h
  exact ⟨(field (·.island.arr)).trans r.arr, Nat.le_trans r.cycle (Nat.le_of_eq (field (·.island.cycle)).symm),
    (field (·.ws)).trans r.ws, (field (·.wsPoison)).trans r.wsPoison,
    (field (·.arrStatus)).trans r.status, (field (·.arrCount)).trans r.count⟩

theorem releasedChan_eq (a : ArrOp) (x : Channel) :
    releasedChan a x =
      { x with
        island := { x.island with
          arr := none, miss := (releasedChan a x).island.miss, ps := (releasedChan a x).island.ps,
          ctx := { x.island.ctx with scyc := (releasedChan a x).island.ctx.scyc },
          cycle := x.island.cycle + (a.lastOut + 64 - x.island.cycle) },
        ws := (writeOutputs a x).ws, tags := (releasedChan a x).tags, wsPoison := (writeOutputs a x).wsPoison } := by
  obtain ⟨hws, hpoison⟩ :=
    writeOutputs_congr a (x := x) (y := arrayMiss a (cyclesTo (a.lastOut + 64) x)) (by rw [arrayMiss_eq]; rfl)
      (by rw [arrayMiss_eq]; rfl) (by rw [arrayMiss_eq]; rfl)
  unfold releasedChan
  rw [← hws, ← hpoison, writeOutputs_eq, arrayMiss_eq]
  rfl

/-- Up to the token, a release moves no counter of any room. -/
theorem ctxOn_releasedChan (a : ArrOp) (x : Channel) (n : Nat) :
    (ctxOn (releasedChan a x) n).tk = (ctxOn x n).tk ∧ (ctxOn (releasedChan a x) n).tkOver = (ctxOn x n).tkOver := by
  rw [releasedChan_eq]
  unfold ctxOn
  dsimp only
  split <;> exact ⟨rfl, rfl⟩

theorem released_releasedChan (a : ArrOp) (x : Channel) : Released a x (releasedChan a x) := by
  rw [releasedChan_eq]
  exact ⟨rfl, by dsimp only; omega, rfl, rfl, rfl, rfl⟩

/-- The release of a check token ends the operation and posts its token, unless the room has left for good; other islands stay. -/
theorem releaseCheck_spec (d : Device) (c : Ch) (a : ArrOp) :
    Released a (chanOf d c) (chanOf (releaseCheck d c a) c) ∧
    (a.dead = false → TokenPosted a.room (arCtok a.slot) (chanOf d c) (chanOf (releaseCheck d c a) c)) ∧
    ∀ o, o ≠ c → (chanOf (releaseCheck d c a) o).island = (chanOf d o).island := by
  rw [releaseCheck_eq]
  have ended : Released a (chanOf d c) (chanOf (modChan d c (releasedChan a)) c) := by
    rw [chanOf_modChan_same]
    exact released_releasedChan a (chanOf d c)
  cases a.dead with
  | true => exact ⟨ended, nofun, fun o ho => congrArg Channel.island (chanOf_modChan_ne d _ ho)⟩
  | false =>
    rw [if_neg Bool.false_ne_true]
    obtain ⟨-, keeps, posted, others, -⟩ := postToken_spec (modChan d c (releasedChan a)) c a.room (arCtok a.slot)
    refine ⟨ended.of_outside (keeps.chans c), fun _ => ?_, fun o ho => ?_⟩
    · unfold TokenPosted
      rw [posted, chanOf_modChan_same]
      obtain ⟨htk, hover⟩ := ctxOn_releasedChan a (chanOf d c) a.room
      exact incTk_congr _ htk hover
    · rw [others o ho, chanOf_modChan_ne d _ ho]

/-- Only check registers, history, fault status and causal counter have changed, which neither outputs nor tokens look at. -/
def SameButChecks (x y : Channel) : Prop :=
  y = { x with arrStatus := y.arrStatus, arrCount := y.arrCount, hist := y.hist, flt := y.flt, node := y.node }

theorem SameButChecks.island {x y : Channel} (h : SameButChecks x y) : y.island = x.island := by rw [h]
theorem SameButChecks.rooms {x y : Channel} (h : SameButChecks x y) : y.rooms = x.rooms := by rw [h]

theorem writeOutputs_sameButChecks (a : ArrOp) {x y : Channel} (h : SameButChecks x y) :
    (writeOutputs a y).ws = (writeOutputs a x).ws ∧ (writeOutputs a y).wsPoison = (writeOutputs a x).wsPoison :=
  writeOutputs_congr a h.rooms (by rw [h]) (by rw [h])

theorem TokenPosted.of_sameButChecks {n t : Nat} {x y z : Channel} (p : TokenPosted n t y z) (h : SameButChecks x y) :
    TokenPosted n t x z := by
  unfold TokenPosted at *
  rwa [ctxOn_of_same h.island h.rooms] at p

/-! ## ARRAY_CHECK_TOKEN -/

theorem exec_arrayCheckToken (c : Ch) (s : State) :
    exec (.arrayCheckToken c) s = .next { s with dev := checkToken c s.dev } := rfl

theorem checkToken_of_arr {c : Ch} {d : Device} {a : ArrOp} (h : (chanOf d c).island.arr = some a) :
    checkToken c d = if a.phase = .running ∧ foundIn a (chanOf d c) = 0 then releaseCheck d c a else d := by
  unfold checkToken
  rw [h]
  simp only [Bool.and_eq_true, decide_eq_true_eq]

/-! ## ARRAY_FAULT (R94, R95) -/

theorem exec_arrayFault (c : Ch) (f : ArrFault) (s : State) :
    exec (.arrayFault c f) s = .next { s with board := showPower s.board (arrayFault c f s.dev), dev := arrayFault c f s.dev } := rfl

/-- The record that ARRAY_FAULT leaves (R94). -/
def mismatchRecord (a : ArrOp) (f : ArrFault) : FaultRec :=
  { cls := 0x20, unit := (f.pcol.getD 0x3FF).setWidth 16, kind := 2, room := BitVec.ofNat 6 a.room, detail := f.kind.setWidth 192 }

/-- The channel once a mismatch is counted, the retry under way and the controller signalled. -/
def faultedChan (a : ArrOp) (f : ArrFault) (x : Channel) : Channel :=
  raiseIrq 2 (startRetry a f (countMismatch f (cyclesTo a.lastOut x)))

theorem arrayFault_of_arr {c : Ch} {d : Device} {a : ArrOp} {f : ArrFault} (h : (chanOf d c).island.arr = some a) (hp : a.phase = .running)
    (hk : f.kind ≠ 0) :
    arrayFault c f d =
      if f.pcol.isSome then judgeFault (modChan d c (faultedChan a f)) c (mismatchRecord a f) false
      else modChan (modChan d c (faultedChan a f)) c fun x => record x (mismatchRecord a f) := by
  unfold arrayFault
  have awaited : (a.phase != .running || decide (f.kind = 0)) = false := by rw [hp, decide_eq_false hk]; rfl
  simp only [h, awaited]
  rfl

/-- Unit table and life clock of a faulted channel are as before, so that its judgement is. -/
theorem isPermanent_faultedChan (a : ArrOp) (f : ArrFault) (x : Channel) (cls : Byte) (unit : BitVec 16) (addr : W64) (survives : Bool) :
    isPermanent (faultedChan a f x) cls unit addr survives = isPermanent x cls unit addr survives := by
  have cores : SameButCores _ (faultedChan a f x) := sameButCores_raiseIrq ..
  have retry : ∀ y, (startRetry a f y).hist = y.hist ∧ (startRetry a f y).porchUs = y.porchUs := by
    intro y
    unfold startRetry
    split <;> exact ⟨rfl, rfl⟩
  obtain ⟨hhist, hporch⟩ := retry (countMismatch f (cyclesTo a.lastOut x))
  have hist := (congrArg Channel.hist cores).trans hhist
  exact isPermanent_congr (congrArg History.table hist) (congrArg History.lifeBase hist) (congrArg History.lifeAtMs hist)
    ((congrArg Channel.porchUs cores).trans hporch) ..

/-- A mismatch that is not judged permanent is logged, and nothing else follows. -/
theorem arrayFault_logged {c : Ch} {d : Device} {a : ArrOp} {f : ArrFault} (h : (chanOf d c).island.arr = some a) (hp : a.phase = .running)
    (hk : f.kind ≠ 0) (ht : isPermanent (chanOf d c) 0x20 ((f.pcol.getD 0x3FF).setWidth 16) 0 false = false) :
    ∃ g : Channel → Channel, arrayFault c f d = modChan d c g ∧
      Logged (mismatchRecord a f) (faultedChan a f (chanOf d c)) (g (chanOf d c)) := by
  rw [arrayFault_of_arr h hp hk]
  cases hcol : f.pcol with
  | none =>
    rw [if_neg (by simp)]
    refine ⟨fun x => record (faultedChan a f x) (mismatchRecord a f), ?_, logged_record ..⟩
    simp only [modChan, chanOf_setChan_same, setChan_setChan]
  | some k =>
    have transient : isPermanent (chanOf (modChan d c (faultedChan a f)) c) (mismatchRecord a f).cls (mismatchRecord a f).unit
        (mismatchRecord a f).addr false = false := by
      rw [chanOf_modChan_same, isPermanent_faultedChan]
      exact ht
    rw [Option.isSome_some, if_pos rfl, judgeFault_of_judged _ _ _ rfl, transient, if_neg Bool.false_ne_true]
    refine ⟨fun x => judgedChan (mismatchRecord a f) false (faultedChan a f x), ?_, logged_judgedChan ..⟩
    simp only [modChan, chanOf_setChan_same, setChan_setChan]

/-- The check registers of a faulted channel, its retry, and what the fault leaves alone (R94, R95). -/
theorem faultedChan_spec {a : ArrOp} {fa fb : Fmt} {r : Nat} (f : ArrFault) (x : Channel) (h : arFormats a.slot = some (fa, fb, r)) :
    let z := faultedChan a f x
    z.island.ctx.tk = x.island.ctx.tk ∧ z.ws = x.ws ∧ z.arrStatus.lastKind = f.kind ∧ z.arrStatus.lastPcol = f.pcol.getD 0x3FF ∧
    z.arrStatus.lastRetryOk = false ∧
    (∀ k, f.pcol = some k → spareColumn x = true → k ∈ z.island.steered ∧ z.arrStatus.steered = true) ∧
    (∃ b, z.island.arr = some b ∧ b.phase = .retrying ∧ b.slot = a.slot ∧
      b.lastOut = a.lastOut + 64 + opCycles (a.slot &&& ~~~(BitVec.ofNat 128 (2 ^ 24))) r) ∧
    z.arrCount.resMismatch = (if f.kind.getLsbD 0 then satInc x.arrCount.resMismatch else x.arrCount.resMismatch) ∧
    z.arrCount.addMismatch = (if f.kind.getLsbD 1 then satInc x.arrCount.addMismatch else x.arrCount.addMismatch) := by
  intro z
  have cores : SameButCores _ z := sameButCores_raiseIrq ..
  rw [cores]
  simp only [startRetry, h]
  refine ⟨rfl, rfl, rfl, rfl, rfl, fun k hcol hspare => ?_, ⟨_, rfl, rfl, rfl, rfl⟩, rfl, rfl⟩
  have free : spareColumn (countMismatch f (cyclesTo a.lastOut x)) = true := hspare
  rw [free, if_pos rfl, hcol]
  exact ⟨mem_append_filter_not_contains (List.mem_singleton_self k), Bool.or_true _⟩

/-! ## ARRAY_RETRY_DONE (R95, R96, R98) -/

theorem exec_arrayRetryDone (c : Ch) (f : ArrFault) (s : State) :
    exec (.arrayRetryDone c f) s = .next { s with dev := retryDone c f s.dev } := rfl

/-- The channel once a retry that passed is counted and reported (R96). -/
def passedChan (a : ArrOp) (x : Channel) : Channel := reportRetried a.room (countRetry true x)

/-- The channel once a retry that mismatched is counted and recorded (R98). -/
def failedChan (a : ArrOp) (f : ArrFault) (x : Channel) : Channel :=
  record (countRetry false (countMismatch f x)) { mismatchRecord a f with kind := 1 }

theorem retryDone_of_passed {c : Ch} {d : Device} {a : ArrOp} {f : ArrFault} (h : (chanOf d c).island.arr = some a) (hp : a.phase = .retrying)
    (hk : f.kind = 0) (hf : foundIn a (chanOf d c) = 0) : retryDone c f d = releaseCheck (modChan d c (passedChan a)) c a := by
  unfold retryDone
  simp only [h, hp, hk, hf]
  rfl

theorem retryDone_of_failed {c : Ch} {d : Device} {a : ArrOp} {f : ArrFault} (h : (chanOf d c).island.arr = some a) (hp : a.phase = .retrying)
    (hk : f.kind ≠ 0) :
    retryDone c f d = modChan (releaseCheck (modChan d c (failedChan a f)) c a) c
      (poisonWs a.room (arrTileLines a.slot) (some { cls := 0x20, unit := (f.pcol.getD 0x3FF).setWidth 16, addr := 0 })) := by
  unfold retryDone
  simp only [h, hp, hk]
  rfl

/-- A report of a retry changes the history alone. -/
theorem reportRetried_eq (n : Nat) (x : Channel) : reportRetried n x = { x with hist := (reportRetried n x).hist } := by
  unfold reportRetried
  extract_lets on
  split <;> rfl

theorem passedChan_eq (a : ArrOp) (x : Channel) :
    passedChan a x =
      { x with
        arrStatus := { x.arrStatus with lastRetryOk := true }, arrCount := { x.arrCount with retryOk := satInc x.arrCount.retryOk },
        hist := (passedChan a x).hist } :=
  reportRetried_eq a.room (countRetry true x)

theorem sameButChecks_passedChan (a : ArrOp) (x : Channel) : SameButChecks x (passedChan a x) := by
  unfold SameButChecks
  rw [passedChan_eq]

theorem sameButChecks_failedChan (a : ArrOp) (f : ArrFault) (x : Channel) : SameButChecks x (failedChan a f x) :=
  (logged_record { mismatchRecord a f with kind := 1 } (countRetry false (countMismatch f x))).frame

/-! ## The array's events -/

/-- Settles O40: each event of the array's checks, by what the release of a token and the start of a retry leave. -/
theorem arrayChecksAndRetries : Obligations.ArrayChecksAndRetries := by
  unfold Obligations.ArrayChecksAndRetries
  intro c s a x harr
  refine ⟨fun hrun hfound => ?passes, fun hstay => ?stays, fun f fa fb r hrun hkind hfmt hperm => ?faults,
    fun f k hrun hkind hcol => ?judged, fun f hretry hfound => ?retried⟩
  case passes =>
    have runs := exec_arrayCheckToken c s
    rw [checkToken_of_arr harr, if_pos ⟨hrun, hfound⟩] at runs
    obtain ⟨released, token, others⟩ := releaseCheck_spec s.dev c a
    exact ⟨_, runs, released.arr, released.ws, released.cycle, token, others⟩
  case stays =>
    have waits : ¬(a.phase = .running ∧ foundIn a (chanOf s.dev c) = 0) := by
      rintro ⟨hrun, hfound⟩
      rcases hstay with hretry | hmismatch
      · exact absurd (hrun.symm.trans hretry) nofun
      · exact hmismatch hfound
    rw [exec_arrayCheckToken, checkToken_of_arr harr, if_neg waits]
  case faults =>
    obtain ⟨g, hg, frame, newest⟩ := arrayFault_logged harr hrun hkind hperm
    have runs := exec_arrayFault c f s
    rw [hg] at runs
    refine ⟨_, runs, ?_⟩
    dsimp only
    rw [chanOf_modChan_same, frame]
    obtain ⟨htk, hws, hlast, hpcol, hretry, hsteer, hop, hres, hadd⟩ := faultedChan_spec f (chanOf s.dev c) hfmt
    exact ⟨htk, hws, hlast, hpcol, hretry, hsteer, hop, hres, hadd, newest, fun o ho => chanOf_modChan_ne s.dev g ho⟩
  case judged =>
    have runs := exec_arrayFault c f s
    rw [arrayFault_of_arr harr hrun hkind, hcol, Option.isSome_some, if_pos rfl] at runs
    have unit : (mismatchRecord a f).unit = k.setWidth 16 := by
      unfold mismatchRecord
      rw [hcol, Option.getD_some]
    have judged := judged_judgeFault (r := mismatchRecord a f) (modChan s.dev c (faultedChan a f)) c false rfl
    exact ⟨_, runs, judged.of_same_unit rfl unit rfl rfl⟩
  case retried =>
    have runs := exec_arrayRetryDone c f s
    by_cases hkind : f.kind = 0
    case pos =>
      rw [retryDone_of_passed harr hretry hkind (hfound hkind)] at runs
      have checks := sameButChecks_passedChan a (chanOf s.dev c)
      obtain ⟨released, token, -⟩ := releaseCheck_spec (modChan s.dev c (passedChan a)) c a
      rw [chanOf_modChan_same] at released token
      obtain ⟨hws, hpoison⟩ := writeOutputs_sameButChecks a checks
      refine ⟨_, runs, ?_⟩
      dsimp only
      rw [released.status, released.count, passedChan_eq]
      exact ⟨released.arr, released.ws.trans hws, (decide_eq_true hkind).symm, fun hd => (token hd).of_sameButChecks checks,
        (if_pos hkind).symm, (if_pos hkind).symm, fun _ => ⟨released.wsPoison.trans hpoison, rfl, rfl⟩, fun hbad => absurd hkind hbad⟩
    case neg =>
      rw [retryDone_of_failed harr hretry hkind] at runs
      have checks := sameButChecks_failedChan a f (chanOf s.dev c)
      obtain ⟨released, token, -⟩ := releaseCheck_spec (modChan s.dev c (failedChan a f)) c a
      rw [chanOf_modChan_same] at released token
      obtain ⟨hws, -⟩ := writeOutputs_sameButChecks a checks
      refine ⟨_, runs, ?_⟩
      dsimp only
      rw [chanOf_modChan_same, poisonWs_eq]
      dsimp only
      rw [released.status, released.count]
      exact ⟨released.arr, released.ws.trans hws, (decide_eq_false hkind).symm, fun hd => (token hd).of_sameButChecks checks,
        (if_neg hkind).symm, (if_neg hkind).symm, fun hok => absurd hok hkind, fun _ => ⟨fun l hl => mem_addAll hl, rfl, rfl, rfl, rfl⟩⟩

end Sys2Proof.Machine

end

section

namespace Sys2Proof.Machine

/-! ## Views through folds and tokens -/

/-- A fold whose every step leaves a view alone leaves it alone. -/
theorem foldl_view {α β γ : Type} (v : β → γ) {f : β → α → β} (h : ∀ y a, v (f y a) = v y) (l : List α) (x : β) :
    v (l.foldl f x) = v x :=
  List.foldlRecOn l f (motive := fun y => v y = v x) rfl fun y hy a _ => (h y a).trans hy

/-- A token posted anywhere leaves what a channel holds beside its rooms and its context. -/
theorem postToken_view (d : Device) (c o : Ch) (n t : Nat) {α : Type} (g : Channel → α) (hg : ∀ x, g (outside x) = g x) :
    g (chanOf (postToken d c n t) o) = g (chanOf d o) := by
  rw [← hg, (postToken_spec d c n t).2.1.chans o, hg]

@[simp] theorem postToken_ws (d : Device) (c o : Ch) (n t : Nat) : (chanOf (postToken d c n t) o).ws = (chanOf d o).ws :=
  postToken_view d c o n t (·.ws) fun _ => rfl
@[simp] theorem postToken_pumps (d : Device) (c o : Ch) (n t : Nat) :
    (chanOf (postToken d c n t) o).island.pumps = (chanOf d o).island.pumps :=
  postToken_view d c o n t (·.island.pumps) fun _ => rfl
@[simp] theorem postToken_smp (d : Device) (c o : Ch) (n t : Nat) : (chanOf (postToken d c n t) o).island.smp = (chanOf d o).island.smp :=
  postToken_view d c o n t (·.island.smp) fun _ => rfl
@[simp] theorem postToken_ctrlItems (d : Device) (c o : Ch) (n t : Nat) :
    (chanOf (postToken d c n t) o).ctrlItems = (chanOf d o).ctrlItems :=
  postToken_view d c o n t (·.ctrlItems) fun _ => rfl
@[simp] theorem postToken_arrivals (d : Device) (c o : Ch) (n t m : Nat) :
    (roomOf (chanOf (postToken d c n t) o) m).arrivals = (roomOf (chanOf d o) m).arrivals :=
  ((postToken_spec d c n t).2.2.2.2 m _ Room.arrivals (fun _ _ _ _ _ => rfl) fun _ _ => rfl).chans o

/-- Room n's token counters stand as they did, wherever its context is. -/
structure SameTokens (n : Nat) (x y : Channel) : Prop where
  tk : (ctxOn y n).tk = (ctxOn x n).tk
  tkOver : (ctxOn y n).tkOver = (ctxOn x n).tkOver

theorem SameTokens.trans {n : Nat} {x y z : Channel} (h : SameTokens n x y) (g : SameTokens n y z) : SameTokens n x z :=
  ⟨g.tk.trans h.tk, g.tkOver.trans h.tkOver⟩

theorem sameTokens_of_ctxOn {n : Nat} {x y : Channel} (h : ctxOn y n = ctxOn x n) : SameTokens n x y :=
  ⟨congrArg Ctx.tk h, congrArg Ctx.tkOver h⟩

/-- Where neither the room on the island nor a counter changes, every room's counters stand. -/
theorem sameTokens_of_island {n : Nat} {x y : Channel} (hroom : y.island.room = x.island.room) (htk : y.island.ctx.tk = x.island.ctx.tk)
    (hover : y.island.ctx.tkOver = x.island.ctx.tkOver) (hctx : (roomOf y n).ctx = (roomOf x n).ctx) : SameTokens n x y := by
  by_cases h : x.island.room = some n
  · have on : ∀ z : Channel, z.island.room = some n → ctxOn z n = z.island.ctx := fun z hz => if_pos hz
    constructor
    · rw [on x h, on y (hroom.trans h), htk]
    · rw [on x h, on y (hroom.trans h), hover]
  · apply sameTokens_of_ctxOn
    rw [ctxOn, ctxOn, hroom, if_neg h, if_neg h, hctx]

/-- A token posted to a channel whose counters are those of x goes up by one from x. -/
theorem SameTokens.posted {d : Device} {c : Ch} {n : Nat} {x : Channel} (t : Nat) (h : SameTokens n x (chanOf d c)) :
    TokenPosted n t x (chanOf (postToken d c n t) c) := by
  unfold TokenPosted
  rw [(postToken_spec d c n t).2.2.1]
  exact incTk_congr t h.tk h.tkOver

end Sys2Proof.Machine

end

section

namespace Sys2Proof.Machine

/-! ## Bytes for a room's WS, on the island or off it (R537) -/

/-- The runs have come to room n: in WS while it is on the island, and else behind its arrivals. -/
structure Reached (n : Nat) (runs : List (Nat × List Byte)) (x z : Channel) : Prop where
  on : x.island.room = some n → z.ws = runs.foldl (fun m w => writeBytes m w.1 w.2) x.ws
  off : x.island.room ≠ some n →
    z.ws = x.ws ∧ (roomOf z n).arrivals = (roomOf x n).arrivals ++ runs.map fun w => { addr := w.1, bytes := w.2 }

/-- Runs reach z as they reach y, where both hold the same bytes and arrivals. -/
theorem Reached.of_same {n : Nat} {runs : List (Nat × List Byte)} {w x y z : Channel} (h : Reached n runs x y)
    (hroom : x.island.room = w.island.room) (hws : x.ws = w.ws) (harr : (roomOf x n).arrivals = (roomOf w n).arrivals)
    (kws : z.ws = y.ws) (karr : (roomOf z n).arrivals = (roomOf y n).arrivals) : Reached n runs w z where
  on := by rw [← hroom, ← hws, kws]; exact h.on
  off := by rw [← hroom, ← hws, ← harr, kws, karr]; exact h.off

/-- Runs of bytes one after another, as a controller writes them. -/
def putRuns (n : Nat) (runs : List (Nat × List Byte)) (x : Channel) : Channel :=
  runs.foldl (fun x w => putRoomWs x n w.1 w.2) x

/-- Writing to a room's WS moves neither islands nor contexts. -/
theorem putRoomWs_view {α : Type} (g : Channel → α) (n a : Nat) (bs : List Byte) (x : Channel)
    (hws : ∀ m t p, g { x with ws := m, tags := t, wsPoison := p } = g x)
    (harr : ∀ l, g (modRoomC x n fun r => { r with arrivals := r.arrivals ++ l }) = g x) : g (putRoomWs x n a bs) = g x := by
  unfold putRoomWs
  split
  · exact hws ..
  · exact harr _

theorem putRoomWs_island (n a : Nat) (bs : List Byte) (x : Channel) : (putRoomWs x n a bs).island = x.island :=
  putRoomWs_view _ n a bs x (fun _ _ _ => rfl) fun _ => rfl

theorem putRoomWs_ctrlItems (n a : Nat) (bs : List Byte) (x : Channel) : (putRoomWs x n a bs).ctrlItems = x.ctrlItems :=
  putRoomWs_view _ n a bs x (fun _ _ _ => rfl) fun _ => rfl

theorem putRoomWs_ctx (n a m : Nat) (bs : List Byte) (x : Channel) : (roomOf (putRoomWs x n a bs) m).ctx = (roomOf x m).ctx :=
  putRoomWs_view (roomView m Room.ctx) n a bs x (fun _ _ _ => rfl) fun _ => roomView_modRoomC x m n _ _ fun _ => rfl

@[simp] theorem putRuns_island (n : Nat) (runs : List (Nat × List Byte)) (x : Channel) : (putRuns n runs x).island = x.island :=
  foldl_view Channel.island (f := fun y (w : Nat × List Byte) => putRoomWs y n w.1 w.2) (fun y w => putRoomWs_island n w.1 w.2 y) runs x

@[simp] theorem putRuns_ctrlItems (n : Nat) (runs : List (Nat × List Byte)) (x : Channel) :
    (putRuns n runs x).ctrlItems = x.ctrlItems :=
  foldl_view Channel.ctrlItems (f := fun y (w : Nat × List Byte) => putRoomWs y n w.1 w.2) (fun y w => putRoomWs_ctrlItems n w.1 w.2 y) runs x

theorem ctxOn_putRuns (n m : Nat) (runs : List (Nat × List Byte)) (x : Channel) : ctxOn (putRuns n runs x) m = ctxOn x m :=
  ctxOn_congr m (putRuns_island n runs x)
    (foldl_view (fun y => (roomOf y m).ctx) (f := fun y (w : Nat × List Byte) => putRoomWs y n w.1 w.2)
      (fun y w => putRoomWs_ctx n w.1 m w.2 y) runs x)

theorem reached_putRuns (n : Nat) (runs : List (Nat × List Byte)) (x : Channel) : Reached n runs x (putRuns n runs x) := by
  induction runs generalizing x with
  | nil => exact ⟨fun _ => rfl, fun _ => ⟨rfl, (List.append_nil _).symm⟩⟩
  | cons w l ih =>
    obtain ⟨on, off⟩ := ih (putRoomWs x n w.1 w.2)
    rw [putRoomWs_island] at on off
    refine ⟨fun hroom => (on hroom).trans ?_, fun hroom => ?_⟩
    · rw [putRoomWs, if_pos hroom]
      rfl
    · obtain ⟨hws, harr⟩ := off hroom
      have step : putRoomWs x n w.1 w.2 = modRoomC x n fun r => { r with arrivals := r.arrivals ++ [{ addr := w.1, bytes := w.2 }] } :=
        if_neg hroom
      refine ⟨hws.trans (by rw [step]; rfl), harr.trans ?_⟩
      rw [step, roomOf_modRoomC_same]
      exact List.append_assoc ..

/-! ## SAMPLING_TOKEN (R115) -/

theorem exec_samplingToken (c : Ch) (s : State) : exec (.samplingToken c) s = .next { s with dev := samplingToken c s.dev } := rfl

/-- The channel once the sampling unit is done, with k draws made. -/
def sampledChan (m : SmpRun) (k : Nat) (x : Channel) : Channel :=
  countDraws m.room k { cyclesTo m.due x with island := { (cyclesTo m.due x).island with smp := none } }

/-- The runs that the unit's records are: one, where VSMP asked for them. -/
def recordRuns (m : SmpRun) : List (Nat × List Byte) := [(m.out, m.records.flatMap id)]

/-- Room n's step has sampled, as its lead channel notes. -/
def noteSampled (d : Device) (c : Ch) (n : Nat) : Device :=
  match suiteOfChan d c with
  | some u => modLeadRoom d u n fun r => { r with serve := { r.serve with sampled := true } }
  | none => d

/-- The device with the records written and the step's note made, before the token. -/
def recordedDev (d : Device) (c : Ch) (m : SmpRun) (k : Nat) : Device :=
  noteSampled (modChan d c fun x => putRuns m.room (recordRuns m) (sampledChan m k x)) c m.room

theorem samplingToken_of_smp {c : Ch} {d : Device} {m : SmpRun} (h : (chanOf d c).island.smp = some m) (hd : m.dead = false) :
    ∃ k, samplingToken c d = postToken (recordedDev d c m k) c m.room m.tok := by
  unfold samplingToken
  simp only [h, hd]
  exact ⟨_, rfl⟩

theorem noteSampled_noRooms (d : Device) (c : Ch) (n : Nat) : Keeps noRooms d (noteSampled d c n) := by
  unfold noteSampled
  split
  · exact noRooms_modLeadRoom ..
  · exact .refl d

theorem noteSampled_room (d : Device) (c : Ch) (n m : Nat) {α : Type} (w : Room → α) (hw : ∀ r v, w { r with serve := v } = w r) :
    Keeps (roomView m w) d (noteSampled d c n) := by
  unfold noteSampled
  split
  · exact keeps_modLeadRoom _ _ _ _ fun r => hw r _
  · exact .refl d

theorem noteSampled_sampled {d : Device} {c u : Ch} (n : Nat) (h : suiteOfChan d c = some u) :
    (leadRoom (noteSampled d c n) u n).serve.sampled = true := by
  simp only [noteSampled, h, leadRoom_modLeadRoom]

theorem sameTokens_sampledChan (m : SmpRun) (k n : Nat) (x : Channel) : SameTokens n x (sampledChan m k x) :=
  sameTokens_of_island rfl rfl rfl (roomView_modRoomC _ n m.room Room.ctx _ fun _ => rfl)

/-- Beside its rooms the channel is as the records left it. -/
theorem recordedDev_beside (d : Device) (c : Ch) (m : SmpRun) (k : Nat) {α : Type} (g : Channel → α) (hg : ∀ x, g (noRooms x) = g x) :
    g (chanOf (recordedDev d c m k) c) = g (putRuns m.room (recordRuns m) (sampledChan m k (chanOf d c))) := by
  unfold recordedDev
  rw [← hg, (noteSampled_noRooms ..).chans c, hg, chanOf_modChan_same]

/-- What the step's note leaves of a room is as the records left it. -/
theorem recordedDev_room (d : Device) (c : Ch) (m : SmpRun) (k : Nat) {α : Type} (w : Room → α)
    (hw : ∀ r v, w { r with serve := v } = w r) :
    w (roomOf (chanOf (recordedDev d c m k) c) m.room) =
      w (roomOf (putRuns m.room (recordRuns m) (sampledChan m k (chanOf d c))) m.room) := by
  have noted := (noteSampled_room (modChan d c fun x => putRuns m.room (recordRuns m) (sampledChan m k x)) c m.room m.room w hw).chans c
  rw [chanOf_modChan_same] at noted
  exact noted

theorem sameTokens_recordedDev (d : Device) (c : Ch) (m : SmpRun) (k : Nat) :
    SameTokens m.room (chanOf d c) (chanOf (recordedDev d c m k) c) := by
  refine (sameTokens_sampledChan m k m.room (chanOf d c)).trans (sameTokens_of_ctxOn ?_)
  exact (ctxOn_congr m.room (recordedDev_beside d c m k Channel.island fun _ => rfl)
    (recordedDev_room d c m k Room.ctx fun _ _ => rfl)).trans (ctxOn_putRuns ..)

/-- SAMPLING_TOKEN of a room that has not left for good: records, token, and the step's note. -/
theorem samplingToken_spec {c : Ch} {d : Device} {m : SmpRun} (h : (chanOf d c).island.smp = some m) (hd : m.dead = false) :
    (chanOf (samplingToken c d) c).island.smp = none ∧
    TokenPosted m.room m.tok (chanOf d c) (chanOf (samplingToken c d) c) ∧
    Reached m.room (recordRuns m) (chanOf d c) (chanOf (samplingToken c d) c) ∧
    ∀ u, suiteOfChan d c = some u → (leadRoom (samplingToken c d) u m.room).serve.sampled = true := by
  obtain ⟨k, run⟩ := samplingToken_of_smp h hd
  rw [run]
  refine ⟨?done, (sameTokens_recordedDev d c m k).posted m.tok, ?records, fun u hu => ?sampled⟩
  case done =>
    rw [postToken_smp, recordedDev_beside d c m k (·.island.smp) fun _ => rfl, putRuns_island]
    rfl
  case records =>
    refine (reached_putRuns m.room (recordRuns m) (sampledChan m k (chanOf d c))).of_same rfl rfl
      (roomView_modRoomC _ m.room m.room Room.arrivals _ fun _ => rfl) ?_ ?_
    · rw [postToken_ws, recordedDev_beside d c m k (·.ws) fun _ => rfl]
    · rw [postToken_arrivals, recordedDev_room d c m k Room.arrivals fun _ _ => rfl]
  case sampled =>
    have posted := (postToken_spec (recordedDev d c m k) c m.room m.tok).2.2.2.2 m.room _ (fun r => r.serve.sampled)
      (fun _ _ _ _ _ => rfl) fun _ _ => rfl
    exact (posted.leadRoom u).trans (noteSampled_sampled m.room hu)

/-! ## CONTROLLER_QUEUE_ITEM (R136) -/

theorem exec_controllerQueueItem (c : Ch) (s : State) :
    exec (.controllerQueueItem c) s = .next { s with dev := controllerItem c s.dev } := rfl

theorem controllerItem_of_cons {c : Ch} {d : Device} {i : CtrlItem} {l : List CtrlItem} (h : (chanOf d c).ctrlItems = i :: l) :
    controllerItem c d =
      postToken (modChan d c fun x => putRuns i.room i.writes { x with ctrlItems := x.ctrlItems.drop 1 }) c i.room i.tok := by
  unfold controllerItem ctrlQueue
  simp only [h, List.take_succ_cons, modChan, chanOf_setChan_same, setChan_setChan]
  rfl

/-! ## SUMP_PAGE_FLUSH (R227) -/

theorem exec_sumpPageFlush (c : Ch) (n : BitVec 6) (key : Nat) (s : State) :
    exec (.sumpPageFlush c n key) s = .next { s with dev := modChan s.dev c (sumpPageFlush n.toNat key) } := rfl

theorem OnlyStore.staging {x y : Channel} (h : OnlyStore x y) (n : Nat) : (roomOf y n).staging = (roomOf x n).staging := by
  have room := h.1 n
  unfold SameButStore at room
  rw [room]

theorem staging_setArose (n : Nat) (p : PoisonPlace) (o : Option Arose) (x : Channel) :
    (roomOf (setArose p o x) n).staging = (roomOf x n).staging := rfl

theorem staging_showPoison (n : Nat) (x : Channel) (r : PageRef) : (roomOf (showPoison x r) n).staging = (roomOf x n).staging :=
  (onlyPages_modPte ..).store.staging n

theorem staging_poisonLines (n : Nat) (x : Channel) (r : PageRef) (ls : List Nat) (o : Option Arose) :
    (roomOf (poisonLines x r ls o) n).staging = (roomOf x n).staging := by
  cases r with
  | room m k =>
    refine (foldl_view (fun y => (roomOf y n).staging) (fun _ _ => staging_setArose ..) _ _).trans ?_
    exact (staging_showPoison ..).trans (roomView_modRoomC x n m Room.staging _ fun _ => rfl)
  | common i =>
    refine (foldl_view (fun y => (roomOf y n).staging) (fun _ _ => staging_setArose ..) _ _).trans ?_
    exact staging_showPoison ..

theorem staging_poisonRoom (n m : Nat) (run : Nat × Nat) (o : Option Arose) (x : Channel) :
    (roomOf (poisonRoom m run o x) n).staging = (roomOf x n).staging :=
  foldl_view (fun y => (roomOf y n).staging) (fun _ _ => staging_poisonLines ..) _ _

theorem staging_setRoomSump (n m : Nat) (b : Memory) (x : Channel) :
    (roomOf (setRoomSump m b x) n).staging = (roomOf x n).staging := by
  unfold setRoomSump
  split
  · rfl
  · exact roomView_modRoomC x n m Room.staging _ fun _ => rfl

theorem staging_dropSumpPoison (n m : Nat) (ls : List Nat) (x : Channel) :
    (roomOf (dropSumpPoison m ls x) n).staging = (roomOf x n).staging := by
  unfold dropSumpPoison
  split
  · rfl
  · exact roomView_modRoomC x n m Room.staging _ fun _ => rfl

/-- A staged page that lands frees its Sump slot; what it moves into room memory, poison with it, frees no other. -/
theorem staging_flushLands {n key page : Nat} {x : Channel}
    (h : ((roomOf x n).staging.find? fun g => g.key == key && g.page == page).isSome) :
    (roomOf (flushLands n key page x) n).staging = (roomOf x n).staging.filter fun g => !(g.key == key && g.page == page) := by
  obtain ⟨g, hg⟩ := Option.isSome_iff_exists.mp h
  unfold flushLands
  simp only [hg]
  refine (foldl_view (fun y => (roomOf y n).staging) (fun _ _ => staging_poisonRoom ..) _ _).trans ?_
  rw [(onlyStore_writeRoom ..).staging, staging_dropSumpPoison, staging_setRoomSump, roomOf_modRoomC_same]

theorem staging_sumpPageFlush {n key : Nat} {x : Channel} {g : Staging}
    (h : ((roomOf x n).staging.find? fun g => g.key == key && g.flushing) = some g) :
    (roomOf (sumpPageFlush n key x) n).staging = (roomOf x n).staging.filter fun e => !(e.key == key && e.page == g.page) := by
  unfold sumpPageFlush
  simp only [h]
  apply staging_flushLands
  have hkey : (g.key == key) = true := by
    have := List.find?_some h
    exact (Bool.and_eq_true_iff.mp this).1
  rw [List.find?_isSome]
  exact ⟨g, List.mem_of_find?_eq_some h, by rw [hkey, beq_self_eq_true]; rfl⟩

/-! ## WRITE_THROUGH_APPEND_LAND (R231) -/

theorem exec_writeThroughAppendLand (c : Ch) (n : BitVec 6) (s : State) :
    exec (.writeThroughAppendLand c n) s = .next { s with dev := modChan s.dev c (appendLands n.toNat) } := rfl

/-! ## What arrives beside the streams -/

/-- Settles O41: records and items by what reaches a room's WS, a flush by what becomes of the staging table. -/
theorem recordsAndAppendsLand : Obligations.RecordsAndAppendsLand := by
  unfold Obligations.RecordsAndAppendsLand
  intro c s x
  refine ⟨fun m hsmp hlive => ?sampling, fun i l hitems => ?item, fun n k g hg => ?flush, fun n => ?append⟩
  case sampling =>
    obtain ⟨done, token, records, sampled⟩ := samplingToken_spec hsmp hlive
    exact ⟨_, exec_samplingToken c s, done, token, records.on, records.off, sampled⟩
  case item =>
    refine ⟨_, exec_controllerQueueItem c s, ?_⟩
    dsimp only
    rw [controllerItem_of_cons hitems, postToken_ctrlItems, postToken_ws, postToken_arrivals]
    have written := chanOf_modChan_same s.dev c fun x => putRuns i.room i.writes { x with ctrlItems := x.ctrlItems.drop 1 }
    obtain ⟨on, off⟩ := reached_putRuns i.room i.writes { x with ctrlItems := x.ctrlItems.drop 1 }
    refine ⟨?_, SameTokens.posted i.tok ?_, ?_, ?_⟩
    · rw [written, putRuns_ctrlItems]
      exact congrArg (List.drop 1) hitems
    · rw [written]
      exact sameTokens_of_ctxOn (ctxOn_putRuns ..)
    · rw [written]
      exact on
    · rw [written]
      exact off
  case flush =>
    refine ⟨_, exec_sumpPageFlush c n k s, onlyChannel_setChan c s _, ?_⟩
    rw [chanOf_modChan_same]
    exact staging_sumpPageFlush hg
  case append => exact ⟨_, exec_writeThroughAppendLand c n s, onlyChannel_setChan c s _, chanOf_modChan_same ..⟩

end Sys2Proof.Machine

end

section

namespace Sys2Proof.Machine

/-! ## PUMP_DESCRIPTOR_COMPLETE in steps (R128, R132) -/

theorem exec_pumpDescriptorComplete (c : Ch) (q : BitVec 4) (s : State) :
    exec (.pumpDescriptorComplete c q) s = .next { s with dev := pumpDone c q.toNat s.dev } := rfl

/-- The device once the stores that a descriptor's runs meet have landed. -/
def landedFor (d : Device) (c : Ch) (e : PumpEntry) : Device :=
  if (chanOf d c).island.room = some e.room then modChan d c fun x => landStores x (entryReads x e ++ entryWrites e) else d

/-- The device once a descriptor's data have moved, if there is still a job to move them for. -/
def movedFor (d : Device) (c : Ch) (e : PumpEntry) : Device :=
  if isStarted (roomOf (chanOf (landedFor d c e) c) e.room) || e.dead then moveData (landedFor d c e) c e else landedFor d c e

/-- The hold that a descriptor's end resolves is noted with what it counts as (R754). -/
def noteMiss (ends : Bool) (e : PumpEntry) (x : Channel) : Channel :=
  if ends then { x with island := { x.island with miss := some (if e.tierMiss then .tier else .bound) } } else x

/-- The channel once a descriptor is accounted for and out of its queue. -/
def closedChan (q : Nat) (e : PumpEntry) (frame : List (Nat × Nat)) (x : Channel) : Channel :=
  dropEntry q e (noteMiss (endsHold x q e) e (releaseHeld e (accountEntry e frame x)))

/-- The device once a descriptor is closed, before its token. -/
def closedFor (d : Device) (c : Ch) (q : Nat) (e : PumpEntry) : Device :=
  modChan (movedFor d c e) c (closedChan q e (frameRuns (chanOf (landedFor d c e) c) e))

theorem pumpDone_of_none {c : Ch} {q : Nat} {d : Device} (h : nextDone d c (tget [] (chanOf d c).island.pumps q) [] = none) :
    pumpDone c q d = d := by
  unfold pumpDone
  rw [h]

theorem pumpDone_of_some {c : Ch} {q : Nat} {d : Device} {e : PumpEntry}
    (h : nextDone d c (tget [] (chanOf d c).island.pumps q) [] = some e) :
    pumpDone c q d =
      if versionGone (chanOf d c) e then faultOn d c e.room .roomFault
      else if e.dead then closedFor d c q e else postToken (closedFor d c q e) c e.room e.tok.toNat := by
  unfold pumpDone
  rw [h]
  rfl

/-! ## What closing a descriptor leaves alone -/

/-- Island and WS are as before, and so is every room's context. -/
structure SameWork (x y : Channel) : Prop where
  island : y.island = x.island
  ws : y.ws = x.ws
  ctx : ∀ n, (roomOf y n).ctx = (roomOf x n).ctx

theorem OnlyStore.sameWork {x y : Channel} (h : OnlyStore x y) : SameWork x y := by
  obtain ⟨rooms, rest⟩ := h
  refine ⟨by rw [rest], by rw [rest], fun n => ?_⟩
  have room := rooms n
  unfold SameButStore at room
  rw [room]

/-- Heat and accounting touch page entries and accounts alone (R194). -/
theorem onlyStore_accountEntry (e : PumpEntry) (frame : List (Nat × Nat)) (x : Channel) : OnlyStore x (accountEntry e frame x) := by
  have heated : OnlyStore x (heatRuns x e.room (pageReads e.desc ++ pageWrites e.desc ++ frame)) :=
    (onlyPages_foldl _ (fun _ _ => onlyPages_modPte ..) _ _).store
  have counted := heated.trans (onlyStore_modRoomC _ e.room _ fun _ => rfl : OnlyStore _ (countMem e.room (pageReads e.desc ++ pageWrites e.desc) _))
  unfold accountEntry
  dsimp only
  split
  · exact counted.trans (onlyStore_modRoomC _ _ _ fun _ => rfl)
  · exact counted

/-- Units of state pages come free in the room's update alone (R424). -/
theorem sameWork_releaseHeld (e : PumpEntry) (x : Channel) : SameWork x (releaseHeld e x) := by
  unfold releaseHeld
  dsimp only
  split
  · exact ⟨rfl, rfl, fun _ => rfl⟩
  · exact ⟨rfl, rfl, fun n => roomView_modRoomC x n e.room Room.ctx _ fun _ => rfl⟩

theorem noteMiss_spec (ends : Bool) (e : PumpEntry) (x : Channel) :
    (noteMiss ends e x).island.pumps = x.island.pumps ∧ (noteMiss ends e x).ws = x.ws ∧ ∀ n, SameTokens n x (noteMiss ends e x) := by
  unfold noteMiss
  split <;> exact ⟨rfl, rfl, fun n => sameTokens_of_island rfl rfl rfl rfl⟩

/-- Closing a descriptor leaves WS and the counters alone, and of the queues all but its own entry. -/
theorem closedChan_spec (q : Nat) (e : PumpEntry) (frame : List (Nat × Nat)) (x : Channel) :
    (closedChan q e frame x).island.pumps = tset [] x.island.pumps q ((tget [] x.island.pumps q).filter fun f => f.seq != e.seq) ∧
    (closedChan q e frame x).ws = x.ws ∧ ∀ n, SameTokens n x (closedChan q e frame x) := by
  have account := (onlyStore_accountEntry e frame x).sameWork
  have release := sameWork_releaseHeld e (accountEntry e frame x)
  obtain ⟨pumps, ws, tokens⟩ := noteMiss_spec (endsHold x q e) e (releaseHeld e (accountEntry e frame x))
  rw [release.island, account.island] at pumps
  rw [release.ws, account.ws] at ws
  refine ⟨?_, ws, fun n => ?_⟩
  · rw [← pumps]
    rfl
  · have drop : SameTokens n (noteMiss (endsHold x q e) e (releaseHeld e (accountEntry e frame x))) (closedChan q e frame x) :=
       sameTokens_of_island rfl rfl rfl rfl
    refine SameTokens.trans (sameTokens_of_ctxOn ?_) ((tokens n).trans drop)
    exact ctxOn_congr n (release.island.trans account.island) ((release.ctx n).trans (account.ctx n))

/-! ## A descriptor that completes -/

/-- Descriptor e of queue q is over on channel c: its entry is gone, its token posted, and every WS and other queue as its data left them. -/
structure Completed (c : Ch) (q : Nat) (e : PumpEntry) (d d' : Device) : Prop where
  queue : tget [] (chanOf d' c).island.pumps q = (tget [] (chanOf d c).island.pumps q).filter fun f => f.seq != e.seq
  queues : ∀ k, k ≠ q → tget [] (chanOf d' c).island.pumps k = tget [] (chanOf d c).island.pumps k
  token : e.dead = false → TokenPosted e.room e.tok.toNat (chanOf d c) (chanOf d' c)
  ws : (chanOf d' c).ws = (chanOf d c).ws
  others : ∀ o, o ≠ c → (chanOf d' o).ws = (chanOf d o).ws ∧ (chanOf d' o).island.pumps = (chanOf d o).island.pumps

theorem completed_pumpDone {c : Ch} {q : Nat} {d : Device} {e : PumpEntry}
    (h : nextDone d c (tget [] (chanOf d c).island.pumps q) [] = some e) (hg : versionGone (chanOf d c) e = false) :
    Completed c q e (movedFor d c e) (pumpDone c q d) := by
  have closed : chanOf (closedFor d c q e) c = closedChan q e (frameRuns (chanOf (landedFor d c e) c) e) (chanOf (movedFor d c e) c) :=
    chanOf_modChan_same ..
  obtain ⟨pumps, ws, tokens⟩ := closedChan_spec q e (frameRuns (chanOf (landedFor d c e) c) e) (chanOf (movedFor d c e) c)
  rw [← closed] at pumps ws tokens
  have queue : tget [] (chanOf (closedFor d c q e) c).island.pumps q = _ := (congrArg (tget [] · q) pumps).trans (tget_tset_same ..)
  have queues : ∀ k, k ≠ q → tget [] (chanOf (closedFor d c q e) c).island.pumps k = _ :=
    fun k hk => (congrArg (tget [] · k) pumps).trans (tget_tset_ne _ _ _ _ _ hk)
  have others : ∀ o, o ≠ c → chanOf (closedFor d c q e) o = chanOf (movedFor d c e) o := fun o ho => chanOf_modChan_ne _ _ ho
  rw [pumpDone_of_some h, hg, if_neg Bool.false_ne_true]
  cases hdead : e.dead with
  | true =>
    rw [if_pos rfl]
    exact ⟨queue, queues, fun alive => absurd (hdead.symm.trans alive) nofun, ws, fun o ho => by rw [others o ho]; exact ⟨rfl, rfl⟩⟩
  | false =>
    rw [if_neg Bool.false_ne_true]
    exact {
      queue := by rw [postToken_pumps]; exact queue
      queues := by rw [postToken_pumps]; exact queues
      token := fun _ => (tokens e.room).posted e.tok.toNat
      ws := (postToken_ws ..).trans ws
      others := fun o ho => by rw [postToken_ws, postToken_pumps, others o ho]; exact ⟨rfl, rfl⟩ }

/-! ## Raw descriptors within WS (Table 4.9) -/

theorem setChan_chanOf (d : Device) (c : Ch) : setChan d c (chanOf d c) = d := by
  unfold setChan chanOf
  rw [Quad.set_get]

/-- With no result in flight no store has to land. -/
theorem landStores_of_empty {x : Channel} (runs : List (Nat × Nat)) (h : x.island.writes = []) : landStores x runs = x := by
  unfold landStores
  simp only [h, List.filter_nil, List.mergeSort_nil, List.foldl_nil]
  rw [← h]

theorem landedFor_of_empty {d : Device} {c : Ch} (e : PumpEntry) (h : (chanOf d c).island.writes = []) : landedFor d c e = d := by
  unfold landedFor modChan
  dsimp only
  rw [landStores_of_empty _ h, setChan_chanOf, ite_self]

/-- A raw descriptor that moves any byte has one run at each end. -/
theorem runs_of_raw {desc : BitVec 512} (hraw : pdRaw desc = true) (hcount : pdCount desc ≠ 0) :
    srcRuns desc = [((pdSrc desc).toNat, pdCount desc)] ∧ dstRuns desc = [((pdDst desc).toNat, pdCount desc)] := by
  have tiles : pdTiles desc = 1 := by rw [pdTiles, if_pos hraw, if_neg hcount]
  have tile : pdTile desc = pdCount desc := by simp only [pdTile, pdFmt, hraw, if_true]
  unfold srcRuns dstRuns runStarts
  rw [tiles, tile]
  exact ⟨rfl, rfl⟩

/-- A descriptor within WS, without fingerprints, reads no page whose version could be gone. -/
theorem versionGone_of_ws {e : PumpEntry} (x : Channel) (hk : pdKind e.desc = 8 ∨ pdKind e.desc = 1) (hfp : fpRuns e.desc = []) :
    versionGone x e = false := by
  have reads : pageReads e.desc = [] := by
    unfold pageReads memReads
    rcases hk with hk | hk <;> simp [hk, hfp]
  unfold versionGone
  rw [reads, List.any_nil, Bool.and_false]

/-- A piece for the room on the island lands in WS, byte for byte. -/
theorem putWs_ws {n : Nat} {x : Channel} (desc : BitVec 512) (a : Nat) (p : Piece) (h : x.island.room = some n) :
    (putWs n false desc a p x).ws = writeBytes x.ws a p.bytes := by
  unfold putWs
  rw [if_neg Bool.false_ne_true, if_pos h]
  dsimp only
  rw [poisonWs_eq]
  dsimp only
  split <;> rfl

theorem shape_raw {desc : BitVec 512} (p : Piece) (hraw : pdRaw desc = true) : shape desc p = p := by
  unfold shape pdFmt
  rw [if_pos hraw]

section
variable {d : Device} {c : Ch} {e : PumpEntry} (hraw : pdRaw e.desc = true) (hcount : pdCount e.desc ≠ 0) (hfp : fpRuns e.desc = [])
include hraw hcount hfp

theorem moveFill_raw : moveFill d c e =
    modChan d c (putWs e.room e.dead e.desc (pdDst e.desc).toNat { bytes := List.replicate (pdCount e.desc) 0 }) := by
  unfold moveFill
  simp only [(runs_of_raw hraw hcount).2, shape_raw _ hraw, hfp]
  rfl

theorem moveCopy_raw (hk : pdKind e.desc = 1) : moveCopy d c e =
    modChan d c (putWs e.room e.dead e.desc (pdDst e.desc).toNat (wsPiece (chanOf d c) e.desc ((pdSrc e.desc).toNat, pdCount e.desc))) := by
  unfold moveCopy
  simp only [(runs_of_raw hraw hcount).1, (runs_of_raw hraw hcount).2, shape_raw _ hraw, hfp, hk]
  rfl

end

/-- A plain descriptor of a started room on the island, with no store in flight, moves its data from the device as it stands. -/
theorem movedFor_of_started {d : Device} {c : Ch} {e : PumpEntry} (hs : isStarted (roomOf (chanOf d c) e.room) = true)
    (hw : (chanOf d c).island.writes = []) : movedFor d c e = moveData d c e := by
  unfold movedFor
  rw [landedFor_of_empty e hw, hs, Bool.true_or, if_pos rfl]

theorem moveData_fill {d : Device} {c : Ch} {e : PumpEntry} (hc : isCollective e.desc = false) (hf : e.frame = none)
    (hk : pdKind e.desc = 8) : moveData d c e = moveFill d c e := by
  unfold moveData
  simp only [hc, hf, hk]
  rfl

theorem moveData_copy {d : Device} {c : Ch} {e : PumpEntry} (hc : isCollective e.desc = false) (hf : e.frame = none)
    (hk : pdKind e.desc = 1) : moveData d c e = moveCopy d c e := by
  unfold moveData
  simp only [hc, hf, hk]
  rfl

/-! ## The queue's next descriptor -/

/-- Settles O39: the completion in steps, and for a fill and a copy within WS the bytes that its data leave. -/
theorem descriptorsComplete : Obligations.DescriptorsComplete := by
  unfold Obligations.DescriptorsComplete
  intro c q s x queue
  refine ⟨fun hnone => ?none, fun e hnext => ⟨fun hgone => ?gone, fun hkept => ?completes,
    fun hroom hstarted halive hframe hwrites hplain hraw hfp hcount => ?raw⟩⟩
  case none => rw [exec_pumpDescriptorComplete, pumpDone_of_none hnone]
  case gone =>
    refine ⟨_, exec_pumpDescriptorComplete c q s, ?_⟩
    dsimp only
    rw [pumpDone_of_some hnext, if_pos hgone]
  case completes =>
    obtain ⟨gone, stay, token, ws, others⟩ := completed_pumpDone hnext hkept
    exact ⟨_, exec_pumpDescriptorComplete c q s, gone, stay, token, ws, others⟩
  case raw =>
    have lands (p : Piece) (hk : pdKind e.desc = 8 ∨ pdKind e.desc = 1)
        (hmoved : moveData s.dev c e = modChan s.dev c (putWs e.room e.dead e.desc (pdDst e.desc).toNat p)) :
        ∃ t, exec (.pumpDescriptorComplete c q) s = .next t ∧ (chanOf t.dev c).ws = writeBytes x.ws (pdDst e.desc).toNat p.bytes := by
      refine ⟨_, exec_pumpDescriptorComplete c q s, ?_⟩
      dsimp only
      rw [(completed_pumpDone hnext (versionGone_of_ws x hk hfp)).ws, movedFor_of_started hstarted hwrites, hmoved,
        chanOf_modChan_same, halive, putWs_ws _ _ _ hroom]
    refine ⟨fun hfill => ?fill, fun hcopy => ?copy⟩
    case fill => exact lands _ (.inl hfill) ((moveData_fill hplain hframe hfill).trans (moveFill_raw hraw hcount hfp))
    case copy => exact lands _ (.inr hcopy) ((moveData_copy hplain hframe hcopy).trans (moveCopy_raw hraw hcount hfp hcopy))

end Sys2Proof.Machine

end

section

namespace Sys2Proof.Machine

/-! ## Results that land (R107, R146) -/

/-- Results reach registers and WS: rooms and the room on the island stay. -/
theorem landDue_view (x : Channel) : (landDue x).rooms = x.rooms ∧ (landDue x).island.room = x.island.room := by
  have step (y : Channel) (t : Target) : ((landOne y t).rooms, (landOne y t).island.room) = (y.rooms, y.island.room) := by
    cases t <;> rfl
  have view := foldl_view (fun y : Channel => (y.rooms, y.island.room)) (fun y (w : PendWrite) => step y w.target)
    ((x.island.writes.filter fun w => w.due ≤ x.island.cycle).mergeSort fun a b => a.due ≤ b.due)
    { x with island := { x.island with writes := x.island.writes.filter fun w => !(w.due ≤ x.island.cycle) } }
  exact ⟨congrArg Prod.fst view, congrArg Prod.snd view⟩

theorem landAll_rooms (x : Channel) : (landAll x).rooms = x.rooms := (landDue_view _).1
theorem landAll_room (x : Channel) : (landAll x).island.room = x.island.room := (landDue_view _).2

/-! ## Charges: the suites are not theirs (R533, R542) -/

@[simp] theorem chargeRun_suites (d : Device) (u : Ch) (n : Nat) : (chargeRun d u n).suites = d.suites := by
  unfold chargeRun modAcctAll modSuiteRoom
  exact modChans_suites ..
@[simp] theorem chargeSwitch_suites (d : Device) (u : Ch) (n t : Nat) : (chargeSwitch d u n t).suites = d.suites := by
  unfold chargeSwitch modAcctAll modSuiteRoom
  exact modChans_suites ..
@[simp] theorem chargeWait_suites (d : Device) (u : Ch) (n : Nat) : (chargeWait d u n).suites = d.suites := by
  unfold chargeWait modAcctAll modSuiteRoom
  exact modChans_suites ..

theorem suiteOf_congr {d d' : Device} (h : d'.suites = d.suites) (u : Ch) : suiteOf d' u = suiteOf d u := by unfold suiteOf; rw [h]
theorem suiteChans_congr {d d' : Device} (h : d'.suites = d.suites) (u : Ch) : suiteChans d' u = suiteChans d u := by
  unfold suiteChans
  rw [suiteOf_congr h]

/-- A room's context does not read the schedule. -/
theorem noSched_ctx : NoSched Room.ctx := fun _ _ _ _ _ => rfl

theorem Keeps.island {d d' : Device} (h : Keeps noRooms d d') (c : Ch) : (chanOf d' c).island = (chanOf d c).island := by
  have view := congrArg Channel.island (h.chans c)
  exact view

/-! ## Arrival and departure of a room (R535 to R539) -/

theorem switchIn_spec (x : Channel) (n : Nat) :
    (switchIn x n).island.room = some n ∧ (switchIn x n).island.ctx = (roomOf x n).ctx ∧
    ∀ m, m ≠ n → roomOf (switchIn x n) m = roomOf x m := by
  unfold switchIn
  extract_lets r first ws0 tags bad status island y z
  have marks (w : Channel) (a : Arrival) :
      let v := (a.bad.map (a.addr / 64 + ·)).foldl (fun w l => setArose (.ws n l) a.arose w) w
      (v.island, v.rooms) = (w.island, w.rooms) :=
    foldl_view (fun w : Channel => (w.island, w.rooms)) (f := fun w l => setArose (.ws n l) a.arose w) (fun _ _ => rfl) _ w
  have view : (z.island, z.rooms) = (y.island, y.rooms) :=
    foldl_view (fun w : Channel => (w.island, w.rooms)) marks r.arrivals y
  have islands : z.island = y.island := congrArg Prod.fst view
  have rooms : z.rooms = x.rooms := congrArg Prod.snd view
  refine ⟨congrArg Island.room islands, congrArg Island.ctx islands, fun m hm => ?_⟩
  exact (roomOf_modRoomC_ne z _ hm).trans (roomOf_congr rooms m)

/-- Of the rooms a switch-out changes room n alone, which keeps the island's context with its count of switch points begun anew. -/
theorem switchOut_rooms (x : Channel) (n : Nat) :
    ∃ r : Room, (switchOut x n).rooms = (setRoom x n r).rooms ∧ r.ctx = { x.island.ctx with ordinal := 0 } :=
  ⟨_, rfl, rfl⟩

theorem switchOut_same (x : Channel) (n : Nat) : (roomOf (switchOut x n) n).ctx = { x.island.ctx with ordinal := 0 } := by
  obtain ⟨r, rooms, ctx⟩ := switchOut_rooms x n
  rw [roomOf_congr rooms, roomOf_setRoom_same, ctx]
theorem switchOut_ne (x : Channel) {n m : Nat} (h : m ≠ n) : roomOf (switchOut x n) m = roomOf x m := by
  obtain ⟨r, rooms, -⟩ := switchOut_rooms x n
  rw [roomOf_congr rooms, roomOf_setRoom_ne _ _ h]

/-- Room n has come to the islands of suite u: the suite runs it, and each channel holds it with the context that was saved. -/
structure Arrived (u : Ch) (n : Nat) (d d' : Device) : Prop where
  suite : suiteOf d' u = { suiteOf d u with running := BitVec.ofNat 6 n, idle := false, switches := (suiteOf d u).switches + 1 }
  sstate : (leadRoom d' u n).sch.sstate = ssRunning
  island : ∀ c ∈ suiteChans d u, (chanOf d' c).island.room = some n ∧ (chanOf d' c).island.ctx = (roomOf (chanOf d c) n).ctx
  others : ∀ c m, m ≠ n → (roomOf (chanOf d' c) m).ctx = (roomOf (chanOf d c) m).ctx

theorem arrived_arrive (d : Device) (u : Ch) (n : Nat) (leaving : List Nat) : Arrived u n d (arrive d u n leaving) := by
  unfold arrive
  extract_lets cs terms own time d1 d2 now d3
  have saved : ∀ m, Keeps (roomView m Room.ctx) d d1 := fun m =>
    (sched_chargeWait noSched_ctx d u n).trans (sched_chargeSwitch noSched_ctx _ u n _)
  have restored : ∀ c, chanOf d2 c = if c ∈ cs then switchIn (chanOf d1 c) n else chanOf d1 c := fun c =>
    chanOf_modChans cs _ d1 c (suiteChans_nodup d u)
  have island : ∀ c, (chanOf d3 c).island = (chanOf d2 c).island := (noRooms_modLeadRoom d2 u n _).island
  have ctx : ∀ c m, (roomOf (chanOf d3 c) m).ctx = (roomOf (chanOf d2 c) m).ctx := fun c m =>
    (show Keeps (roomView m Room.ctx) d2 d3 from keeps_modLeadRoom _ _ _ _ fun _ => rfl).chans c
  have suites : d3.suites = d.suites := by
    show (modChans d1 cs fun _ x => switchIn x n).suites = d.suites
    rw [modChans_suites]
    exact (chargeSwitch_suites ..).trans (chargeWait_suites ..)
  refine ⟨?suite, ?sstate, fun c hc => ?island, fun c m hm => ?others⟩
  case suite => rw [suiteOf_modSuite_same, suiteOf_congr suites]
  case sstate =>
    have lead :
        leadOf (modSuite d3 u fun s => { s with running := BitVec.ofNat 6 n, idle := false, switches := s.switches + 1 }) u = leadOf d3 u := by
      unfold leadOf
      rw [suiteOf_modSuite_same]
    unfold leadRoom
    rw [lead, chanOf_modSuite]
    exact congrArg (·.sch.sstate) (leadRoom_modLeadRoom d2 u n _)
  case island =>
    obtain ⟨room, context, -⟩ := switchIn_spec (chanOf d1 c) n
    rw [chanOf_modSuite, island, restored, if_pos hc]
    exact ⟨room, context.trans ((saved n).chans c)⟩
  case others =>
    rw [chanOf_modSuite, ctx, restored]
    split
    · rw [(switchIn_spec (chanOf d1 c) n).2.2 m hm]
      exact (saved m).chans c
    · exact (saved m).chans c

/-- Room n has left the islands of suite u: each channel has saved its context, with the count of switch points begun anew. -/
structure Departed (u : Ch) (n : Nat) (d d' : Device) : Prop where
  suite : suiteOf d' u = { suiteOf d u with idle := true }
  saved : ∀ c ∈ suiteChans d u, (roomOf (chanOf d' c) n).ctx = { (chanOf d c).island.ctx with ordinal := 0 }
  others : ∀ c m, m ≠ n → (roomOf (chanOf d' c) m).ctx = (roomOf (chanOf d c) m).ctx

theorem departed_depart (d : Device) (u : Ch) (n : Nat) : Departed u n d (depart d u n) := by
  unfold depart
  extract_lets cs d0 d1 terms units d2 blocked d3 d4
  have before : ∀ m, Keeps (roomView m Room.ctx) d d0 := fun m => sched_chargeRun noSched_ctx d u n
  have left : ∀ c, chanOf d1 c = if c ∈ cs then switchOut (chanOf d0 c) n else chanOf d0 c := fun c =>
    chanOf_modChans cs _ d0 c (suiteChans_nodup d u)
  have after : ∀ m, Keeps (roomView m Room.ctx) d1 d4 := fun m =>
    ((sched_chargeSwitch noSched_ctx d1 u n _).trans
      (show Keeps (roomView m Room.ctx) d2 d3 from keeps_modSuiteRoom _ _ _ _ fun _ => rfl)).trans
        (show Keeps (roomView m Room.ctx) d3 d4 from keeps_modLeadRoom _ _ _ _ fun _ => rfl)
  have suites : d4.suites = d.suites := by
    show (modChans d2 (suiteChans d2 u) _).suites = d.suites
    rw [modChans_suites]
    exact (chargeSwitch_suites ..).trans ((modChans_suites ..).trans (chargeRun_suites ..))
  refine ⟨?suite, fun c hc => ?saved, fun c m hm => ?others⟩
  case suite => rw [suiteOf_modSuite_same, suiteOf_congr suites]
  case saved =>
    refine ((after n).chans c).trans ?_
    rw [left, if_pos hc, ← (noRooms_chargeRun d u n).island c]
    exact switchOut_same ..
  case others =>
    refine ((after m).chans c).trans (Eq.trans ?_ ((before m).chans c))
    rw [left]
    split
    · exact congrArg Room.ctx (switchOut_ne _ hm)
    · rfl

/-! ## ROOM_SWITCH (R146, R535) -/

theorem exec_roomSwitch (u : Ch) (s : State) : exec (.roomSwitch u) s = .next { s with dev := roomSwitch u s.dev } := rfl

theorem roomSwitch_of_busy {u : Ch} {d : Device} (h : ∃ c ∈ suiteChans d u, quiet (chanOf d c) = false) : roomSwitch u d = d := by
  have busy : ((suiteChans d u).all fun c => quiet (chanOf d c)) = false := by simpa using h
  unfold roomSwitch
  dsimp only
  rw [busy, if_pos (by simp)]

/-- The device at the switch point: every result in flight has landed, and the running room is charged up to now. -/
def settledDev (d : Device) (u : Ch) (r : Nat) : Device := chargeRun (modChans d (suiteChans d u) fun _ x => landAll x) u r

theorem pointCut_of_not_due {d : Device} {u : Ch} {r : Nat} (h : pointDue (leadRoom d u r) = false) : pointCut d u r = d := by
  unfold pointDue at h
  unfold pointCut
  dsimp only
  rw [h, if_neg Bool.false_ne_true]

theorem settledDev_suites (d : Device) (u : Ch) (r : Nat) : (settledDev d u r).suites = d.suites :=
  (chargeRun_suites ..).trans (modChans_suites ..)

theorem settledDev_island (d : Device) (u c : Ch) (r : Nat) (hc : c ∈ suiteChans d u) :
    (chanOf (settledDev d u r) c).island = (landAll (chanOf d c)).island := by
  have charged := (noRooms_chargeRun (modChans d (suiteChans d u) fun _ x => landAll x) u r).island c
  rw [chanOf_modChans _ _ _ _ (suiteChans_nodup d u), if_pos hc] at charged
  exact charged

/-- A view of a room that reads no schedule is as it was before results landed and charges fell due. -/
theorem settledDev_room (d : Device) (u : Ch) (r n : Nat) {α : Type} {w : Room → α} (hw : NoSched w) :
    Keeps (roomView n w) d (settledDev d u r) :=
  (keeps_modChans d _ _ fun _ x => roomView_rooms n w (landAll_rooms x)).trans (sched_chargeRun hw _ u r)

theorem settledDev_pointDue {d : Device} {u : Ch} {r : Nat} (h : pointDue (leadRoom d u r) = false) :
    pointDue (leadRoom (settledDev d u r) u r) = false :=
  ((settledDev_room d u r r (w := pointDue) fun _ _ _ _ _ => rfl).leadRoom u).trans h

section
variable {u : Ch} {d : Device} (hquiet : ∀ c ∈ suiteChans d u, quiet (chanOf d c) = true) (hsome : suiteChans d u ≠ [])
include hquiet hsome

theorem not_waiting : ((suiteChans d u).isEmpty || !((suiteChans d u).all fun c => quiet (chanOf d c))) = false := by
  rw [List.all_eq_true.mpr hquiet, List.isEmpty_eq_false_iff.mpr hsome]
  rfl

/-- With the waits of R146 over, a suite without a room on its islands takes the next one. -/
theorem roomSwitch_of_idle {n : Nat} (hrun : runningRoom d u = none) (hnext : nextRoom d u = some n) :
    roomSwitch u d = arrive d u n ((suiteChans d u).map fun _ => 0) := by
  unfold roomSwitch
  dsimp only
  rw [not_waiting hquiet hsome, if_neg Bool.false_ne_true]
  simp only [hrun, hnext]

variable {r : Nat} (hrun : runningRoom d u = some r)
  (hpoint : ∀ c ∈ suiteChans d u, (chanOf d c).island.atSwitch = true ∨ (chanOf d c).island.ctx.ended = true)
  (hdue : pointDue (leadRoom d u r) = false)
include hrun hpoint hdue

/-- With every channel at its switch point and no cut due, the scheduler decides from the settled device. -/
theorem roomSwitch_of_running :
    roomSwitch u d =
      match nextRoom (settledDev d u r) u with
      | none => resume (settledDev d u r) u
      | some n =>
        if wantsSwitch (settledDev d u r) u r (yieldsNow (settledDev d u r) u) then
          arrive (depart (settledDev d u r) u r) u n
            ((suiteChans d u).map fun c => savedTerm (roomOf (chanOf (depart (settledDev d u r) u r) c) r))
        else resume (settledDev d u r) u := by
  have points : ((suiteChans d u).all fun c => (chanOf d c).island.atSwitch || (chanOf d c).island.ctx.ended) = true :=
    List.all_eq_true.mpr fun c hc => Bool.or_eq_true_iff.mpr (hpoint c hc)
  have cut := pointCut_of_not_due (settledDev_pointDue hdue)
  unfold settledDev at cut
  unfold roomSwitch settledDev
  dsimp only
  rw [not_waiting hquiet hsome, if_neg Bool.false_ne_true]
  simp only [hrun, points, cut]
  rfl

end

/-- The channels of a suite go on from their switch point. -/
theorem chanOf_resume {d : Device} {u c : Ch} (hc : c ∈ suiteChans d u) :
    chanOf (resume d u) c =
      { chanOf d c with island := { (chanOf d c).island with atSwitch := false, switchAt := none } } := by
  unfold resume
  rw [chanOf_modChans _ _ _ _ (suiteChans_nodup d u), if_pos hc]

/-! ## WAIT_LIMIT_EXPIRY (R152) -/

theorem exec_waitLimitExpiry (c : Ch) (s : State) : exec (.waitLimitExpiry c) s = .next { s with dev := waitLimit c s.dev } := rfl

/-- The older of a wait found so far and another one. -/
def olderWait (b : Option (Nat × Nat)) (w : Nat × Nat) : Option (Nat × Nat) :=
  match b with
  | none => some w
  | some v => if w.2 < v.2 then some w else some v

theorem waitLimit_eq (c : Ch) (d : Device) :
    waitLimit c d =
      match (tokenWaits (chanOf d c)).foldl olderWait none with
      | some w => if (chanOf d c).waitLimit.limitUs = 0 then d else streamFault d c w.1 0x0C 14
      | none => d := rfl

theorem waitLimit_of_zero {c : Ch} {d : Device} (h : (chanOf d c).waitLimit.limitUs = 0) : waitLimit c d = d := by
  rw [waitLimit_eq]
  split
  · exact if_pos h
  · rfl

/-- The one wait that began before all others is found, wherever it stands in the list. -/
theorem foldl_olderWait {l : List (Nat × Nat)} {w : Nat × Nat} (hw : w ∈ l) (oldest : ∀ v ∈ l, v = w ∨ w.2 < v.2) :
    l.foldl olderWait none = some w := by
  obtain ⟨before, after, rfl⟩ := List.append_of_mem hw
  have found : ∀ v ∈ before.foldl olderWait none, v = w ∨ w.2 < v.2 := by
    refine List.foldlRecOn before olderWait (motive := fun b => ∀ v ∈ b, v = w ∨ w.2 < v.2) nofun fun b hb a ha v hv => ?_
    have later := oldest a (List.mem_append_left _ ha)
    cases b with
    | none => cases hv; exact later
    | some k =>
      simp only [olderWait] at hv
      split at hv
      · cases hv; exact later
      · exact hb v hv
  have takes : olderWait (before.foldl olderWait none) w = some w := by
    cases hb : before.foldl olderWait none with
    | none => rfl
    | some k =>
      rcases found k hb with same | hk
      · rw [same]
        exact ite_self _
      · exact if_pos hk
  rw [List.foldl_append, List.foldl_cons, takes]
  refine List.foldlRecOn after olderWait (motive := fun b => b = some w) rfl fun b hb a ha => ?_
  rw [hb]
  rcases oldest a (List.mem_append_right _ (List.mem_cons_of_mem _ ha)) with same | hk
  · rw [same]
    exact ite_self _
  · exact if_neg (Nat.lt_asymm hk)

theorem waitLimit_of_oldest {c : Ch} {d : Device} {w : Nat × Nat} (hw : w ∈ tokenWaits (chanOf d c))
    (oldest : ∀ v ∈ tokenWaits (chanOf d c), v = w ∨ w.2 < v.2) (hlimit : (chanOf d c).waitLimit.limitUs ≠ 0) :
    waitLimit c d = streamFaultAs (setChan d c (chanOf d c)) c w.1 0x0C 14 .roomFault .roomFault := by
  rw [waitLimit_eq, foldl_olderWait hw oldest, setChan_chanOf]
  exact if_neg hlimit

/-! ## Switches and waits -/

/-- Settles O42: a switch as departure and arrival from the settled device, and the wait limit as a fault of the oldest wait. -/
theorem roomsSwitchAndWait : Obligations.RoomsSwitchAndWait := by
  unfold Obligations.RoomsSwitchAndWait
  intro s
  refine ⟨fun u => ?switch, fun c => ⟨fun hzero => ?unlimited, fun w hw oldest hlimit => ?expiry⟩⟩
  case switch =>
    intro cs rests resumes
    refine ⟨fun hbusy => ?busy, fun hquiet hsome _ => ⟨fun n hrun hnext => ?idle, fun r hrun hpoint hdue => ?running⟩⟩
    case busy => rw [exec_roomSwitch, roomSwitch_of_busy hbusy]
    case idle =>
      have runs := exec_roomSwitch u s
      rw [roomSwitch_of_idle hquiet hsome hrun hnext] at runs
      obtain ⟨suite, sstate, island, -⟩ := arrived_arrive s.dev u n (cs.map fun _ => 0)
      exact ⟨_, runs, congrArg SchSuite.running suite, congrArg SchSuite.idle suite, congrArg SchSuite.switches suite, sstate, island⟩
    case running =>
      have runs := exec_roomSwitch u s
      rw [roomSwitch_of_running hquiet hsome hrun hpoint hdue] at runs
      have chans : suiteChans (settledDev s.dev u r) u = cs := suiteChans_congr (settledDev_suites ..) u
      refine ⟨fun hnext => ?resumes, fun n hnext hne hwants => ?switches⟩
      case resumes =>
        rw [show nextRoom (settledDev s.dev u r) u = none from hnext] at runs
        refine ⟨_, runs, fun c hc => ?_, fun c hc => ?_⟩
        · dsimp only
          rw [chanOf_resume (chans ▸ hc)]
          exact ⟨rfl, rfl⟩
        · dsimp only
          rw [chanOf_resume (chans ▸ hc)]
          exact (congrArg Island.room (settledDev_island s.dev u c r hc)).trans (landAll_room _)
      case switches =>
        rw [show nextRoom (settledDev s.dev u r) u = some n from hnext] at runs
        have wants : wantsSwitch (settledDev s.dev u r) u r (yieldsNow (settledDev s.dev u r) u) = true := hwants
        simp only [wants, if_true] at runs
        obtain ⟨left, saved, kept⟩ := departed_depart (settledDev s.dev u r) u r
        obtain ⟨suite, sstate, island, others⟩ := arrived_arrive (depart (settledDev s.dev u r) u r) u n
          (cs.map fun c => savedTerm (roomOf (chanOf (depart (settledDev s.dev u r) u r) c) r))
        have members : suiteChans (depart (settledDev s.dev u r) u r) u = cs :=
          (congrArg (fun v : SchSuite => chansOf v.mask) left).trans chans
        rw [left, suiteOf_congr (settledDev_suites ..)] at suite
        rw [members] at island
        rw [chans] at saved
        refine ⟨_, runs, ⟨congrArg SchSuite.running suite, congrArg SchSuite.idle suite, congrArg SchSuite.switches suite, sstate,
          fun c hc => ?_⟩, fun c hc => ?_⟩
        · obtain ⟨room, ctx⟩ := island c hc
          exact ⟨room, ctx.trans ((kept c n hne).trans ((settledDev_room s.dev u r n noSched_ctx).chans c))⟩
        · refine (others c r hne.symm).trans ((saved c hc).trans ?_)
          rw [settledDev_island s.dev u c r hc]
  case unlimited => rw [exec_waitLimitExpiry, waitLimit_of_zero hzero]
  case expiry =>
    have runs := exec_waitLimitExpiry c s
    rw [waitLimit_of_oldest hw oldest hlimit] at runs
    obtain ⟨d1, ended, noted⟩ := streamFaultAs_setChan s.dev c (chanOf s.dev c) w.1 0x0C 14 .roomFault .roomFault
    exact ⟨_, d1, runs, ended, noted⟩

end Sys2Proof.Machine

end

section

namespace Sys2Proof.Machine

/-! ## Page tables and the bytes of pages -/

@[simp] theorem pteAt_setPte_same (x : Channel) (r : PageRef) (p : Pte) : pteAt (setPte x r p) r = p := by
  cases r with
  | room n k => simp [pteAt, setPte]
  | common i => simp [pteAt, setPte]

theorem pteAt_setPte_ne (x : Channel) {r o : PageRef} (p : Pte) (h : o ≠ r) : pteAt (setPte x r p) o = pteAt x o := by
  cases r with
  | common i =>
    cases o with
    | common j => exact tget_tset_ne _ _ _ _ _ fun e => h (congrArg _ e)
    | room m j => rfl
  | room n k =>
    cases o with
    | common j => rfl
    | room m j =>
      by_cases hm : m = n
      · subst hm
        simp only [pteAt, setPte, roomOf_modRoomC_same]
        exact tget_tset_ne _ _ _ _ _ fun e => h (congrArg _ e)
      · exact congrArg (fun q : Room => tget {} q.pages j) (roomOf_modRoomC_ne _ _ hm)

/-- Page tables and the bytes of pages stand as they were. -/
structure SamePages (x y : Channel) : Prop where
  pte : ∀ r, pteAt y r = pteAt x r
  commonMem : y.commonMem = x.commonMem
  mem : ∀ n, (roomOf y n).mem = (roomOf x n).mem

/-- Page r has entry p; the other entries and the bytes of all pages stand as they were. -/
structure PageSet (r : PageRef) (p : Pte) (x y : Channel) : Prop where
  entry : pteAt y r = p
  others : ∀ o, o ≠ r → pteAt y o = pteAt x o
  commonMem : y.commonMem = x.commonMem
  mem : ∀ n, (roomOf y n).mem = (roomOf x n).mem

theorem SamePages.refl (x : Channel) : SamePages x x := ⟨fun _ => rfl, rfl, fun _ => rfl⟩

theorem SamePages.set {r : PageRef} {p : Pte} {x y z : Channel} (h : SamePages x y) (g : PageSet r p y z) : PageSet r p x z :=
  ⟨g.entry, fun o ho => (g.others o ho).trans (h.pte o), g.commonMem.trans h.commonMem, fun n => (g.mem n).trans (h.mem n)⟩

theorem PageSet.same {r : PageRef} {p : Pte} {x y z : Channel} (h : PageSet r p x y) (g : SamePages y z) : PageSet r p x z :=
  ⟨(g.pte r).trans h.entry, fun o ho => (g.pte o).trans (h.others o ho), g.commonMem.trans h.commonMem,
    fun n => (g.mem n).trans (h.mem n)⟩

theorem PageSet.trans {r : PageRef} {p q : Pte} {x y z : Channel} (h : PageSet r p x y) (g : PageSet r q y z) : PageSet r q x z :=
  ⟨g.entry, fun o ho => (g.others o ho).trans (h.others o ho), g.commonMem.trans h.commonMem, fun n => (g.mem n).trans (h.mem n)⟩

theorem pageSet_setPte (x : Channel) (r : PageRef) (p : Pte) : PageSet r p x (setPte x r p) := by
  refine ⟨pteAt_setPte_same x r p, fun o => pteAt_setPte_ne x p, ?_, fun n => ?_⟩
  · cases r <;> rfl
  · cases r with
    | room m k => exact roomView_modRoomC x n m Room.mem _ fun _ => rfl
    | common i => rfl

theorem pageSet_modPte (x : Channel) (r : PageRef) (f : Pte → Pte) : PageSet r (f (pteAt x r)) x (modPte x r f) := pageSet_setPte ..

theorem samePages_of_rooms {x y : Channel} (hr : y.rooms = x.rooms) (hp : y.commonPages = x.commonPages) (hm : y.commonMem = x.commonMem) :
    SamePages x y := by
  refine ⟨fun r => ?_, hm, fun n => congrArg Room.mem (roomOf_congr hr n)⟩
  cases r with
  | room n k => exact congrArg (fun q : Room => tget {} q.pages k) (roomOf_congr hr n)
  | common i => exact congrArg (fun t => tget {} t i) hp

theorem samePages_withMoves (x : Channel) (l : List MoveJob) : SamePages x { x with moves := l } := samePages_of_rooms rfl rfl rfl

theorem pteAt_modRoomC (x : Channel) (n : Nat) (f : Room → Room) (r : PageRef) (hp : ∀ q, (f q).pages = q.pages) :
    pteAt (modRoomC x n f) r = pteAt x r := by
  cases r with
  | room m k => exact congrArg (tget {} · k) (roomView_modRoomC x m n Room.pages f hp)
  | common i => rfl

theorem samePages_modRoomC (x : Channel) (n : Nat) (f : Room → Room) (hp : ∀ q, (f q).pages = q.pages) (hm : ∀ q, (f q).mem = q.mem) :
    SamePages x (modRoomC x n f) :=
  ⟨fun r => pteAt_modRoomC x n f r hp, rfl, fun m => roomView_modRoomC x m n Room.mem f hm⟩

theorem samePages_modAcct (x : Channel) (a : Nat) (f : TierAcct → TierAcct) : SamePages x (modAcct x a f) := by
  unfold modAcct
  split
  · exact samePages_modRoomC _ _ _ (fun _ => rfl) fun _ => rfl
  · exact samePages_of_rooms rfl rfl rfl

theorem samePages_chargeMove (x : Channel) (a : Nat) : SamePages x (chargeMove x a) := by
  unfold chargeMove
  split
  · exact samePages_modRoomC _ _ _ (fun _ => rfl) fun _ => rfl
  · exact .refl x

/-! ## The lists of moves under the updates of entries, pools and accounts -/

@[simp] theorem moves_giveCellar (x : Channel) (f : BitVec 32) : (giveCellar x f).moves = x.moves := rfl
@[simp] theorem moves_giveFrame (x : Channel) (f : BitVec 32) : (giveFrame x f).moves = x.moves := rfl
@[simp] theorem chosen_giveFrame (x : Channel) (f : BitVec 32) : (giveFrame x f).chosen = x.chosen := rfl
@[simp] theorem moves_setPte (x : Channel) (r : PageRef) (p : Pte) : (setPte x r p).moves = x.moves := by cases r <;> rfl
@[simp] theorem chosen_setPte (x : Channel) (r : PageRef) (p : Pte) : (setPte x r p).chosen = x.chosen := by cases r <;> rfl
@[simp] theorem moves_modAcct (x : Channel) (a : Nat) (f : TierAcct → TierAcct) : (modAcct x a f).moves = x.moves := by
  unfold modAcct; split <;> rfl
@[simp] theorem chosen_modAcct (x : Channel) (a : Nat) (f : TierAcct → TierAcct) : (modAcct x a f).chosen = x.chosen := by
  unfold modAcct; split <;> rfl
@[simp] theorem moves_chargeMove (x : Channel) (a : Nat) : (chargeMove x a).moves = x.moves := by
  unfold chargeMove; split <;> rfl
@[simp] theorem chosen_chargeMove (x : Channel) (a : Nat) : (chargeMove x a).chosen = x.chosen := by
  unfold chargeMove; split <;> rfl

/-! ## Poison of a page -/

/-- Poisoning a page sets POISON in its entry; bytes and other entries stay (R592). -/
theorem pageSet_poisonPage (o : Option Arose) (x : Channel) (r : PageRef) :
    PageSet r { pteAt x r with poison := true } x (poisonPage o x r) := by
  have marked : ∀ y, SamePages x y → PageSet r { pteAt x r with poison := true } x
      (setArose (.page r) o (modPte y r fun p => { p with poison := true })) := by
    intro y same
    rw [← same.pte r]
    exact (same.set (pageSet_modPte y r fun p => { p with poison := true })).same (samePages_of_rooms rfl rfl rfl)
  cases r with
  | room n k => exact marked _ (samePages_modRoomC _ _ _ (fun _ => rfl) fun _ => rfl)
  | common i => exact marked _ (samePages_of_rooms rfl rfl rfl)

@[simp] theorem moves_poisonPage (o : Option Arose) (x : Channel) (r : PageRef) : (poisonPage o x r).moves = x.moves := by
  cases r <;> rfl

/-! ## The ends of moves (R195) -/

/-- A page that has come back lies in its frame, with its fingerprint no longer held. -/
theorem pageSet_landPage (x : Channel) (r : PageRef) (frame : Nat) :
    PageSet r { pteAt x r with t2 := false, moving := false, frame := BitVec.ofNat 32 frame, t2fp := 0 } x (landPage x r frame) := by
  unfold landPage
  extract_lets p y z
  have freed : SamePages x (giveCellar x p.frame) := samePages_of_rooms rfl rfl rfl
  have charged : SamePages y z := samePages_modAcct ..
  exact (((freed.set (pageSet_setPte _ r _)).same charged).same (samePages_withMoves z _)).same (samePages_chargeMove ..)

theorem moves_landPage (x : Channel) (r : PageRef) (frame : Nat) :
    (landPage x r frame).moves = x.moves.filter fun k => k.page != r := by
  simp only [landPage, moves_chargeMove, moves_modAcct, moves_setPte, moves_giveCellar]

/-- An evicted page lies in its Cellar page with the fingerprint of its bytes. -/
theorem pageSet_endEvict (x : Channel) (r : PageRef) (place : Nat) :
    PageSet r { pteAt x r with t2 := true, moving := false, frame := BitVec.ofNat 32 place, t2fp := pageFp x r } x (endEvict x r place) := by
  unfold endEvict
  extract_lets p a y z
  have freed : SamePages x (giveFrame x p.frame) := samePages_of_rooms rfl rfl rfl
  have charged : SamePages y z := samePages_modAcct ..
  exact (((freed.set (pageSet_setPte _ r _)).same charged).same (samePages_chargeMove z a)).same (samePages_of_rooms rfl rfl rfl)

theorem moves_endEvict (x : Channel) (r : PageRef) (place : Nat) :
    (endEvict x r place).moves = x.moves.filter fun k => k.page != r := by
  simp only [endEvict, moves_modAcct, moves_setPte, moves_giveFrame]

theorem chosen_endEvict (x : Channel) (r : PageRef) (place : Nat) : (endEvict x r place).chosen = x.chosen := by
  simp only [endEvict, chosen_chargeMove, chosen_modAcct, chosen_setPte, chosen_giveFrame]

/-- No move of a page is left once its moves have been filtered out. -/
theorem page_ne_of_mem_filter {l : List MoveJob} {r : PageRef} {k : MoveJob} (h : k ∈ l.filter fun k => k.page != r) : k.page ≠ r := by
  simpa using (List.mem_filter.mp h).2

theorem pteAt_alterPage (x : Channel) (r o : PageRef) (back : List (Nat × Byte)) : pteAt (alterPage x r back) o = pteAt x o := by
  cases r with
  | room n k => exact pteAt_modRoomC x n _ o fun _ => rfl
  | common i => cases o <;> rfl

/-- A broken page is poisoned, and the history's newest record names it (R191, R195). -/
theorem brokenPage_spec (a : Nat) (r : PageRef) (x : Channel) :
    PageSet r { pteAt x r with poison := true } x (brokenPage a r x) ∧ (brokenPage a r x).moves = x.moves ∧
    ∃ w l, (brokenPage a r x).hist.buffer = w :: l ∧ w.cls = 0xA0 ∧ w.kind = 1 ∧ w.addr = BitVec.ofNat 64 (pageNum r) := by
  unfold brokenPage
  exact ⟨(pageSet_poisonPage (some { cls := 0xA0, unit := 0, addr := BitVec.ofNat 64 (pageNum r) }) x r).same
    (samePages_of_rooms rfl rfl rfl), (record_moves ..).trans (moves_poisonPage ..), _, _, rfl, rfl, rfl, rfl⟩

/-- A promotion's end: the page in its frame, poisoned and recorded where its bytes do not have the fingerprint held (R195). -/
theorem promotionDone_spec {x : Channel} {r : PageRef} {m : MoveJob} (back : List (Nat × Byte))
    (h : x.moves.find? (fun m => m.page == r && m.promote) = some m) :
    let good := pageFp (alterPage x r back) r = (pteAt x r).t2fp
    PageSet r { pteAt x r with
      t2 := false, moving := false, frame := BitVec.ofNat 32 m.place, t2fp := 0, poison := !decide good || (pteAt x r).poison }
      (alterPage x r back) (promotionDone x r back) ∧
    (∀ k ∈ (promotionDone x r back).moves, k.page ≠ r) ∧
    (¬good → ∃ w l, (promotionDone x r back).hist.buffer = w :: l ∧ w.cls = 0xA0 ∧ w.kind = 1 ∧ w.addr = BitVec.ofNat 64 (pageNum r)) := by
  intro good
  have landed := pageSet_landPage (alterPage x r back) r m.place
  rw [pteAt_alterPage] at landed
  unfold promotionDone
  simp only [h]
  by_cases hg : good
  · rw [if_pos hg, decide_eq_true hg, Bool.not_true, Bool.false_or]
    refine ⟨landed, fun k hk => ?_, fun bad => absurd hg bad⟩
    rw [moves_landPage] at hk
    exact page_ne_of_mem_filter hk
  · rw [if_neg hg, decide_eq_false hg, Bool.not_false, Bool.true_or]
    obtain ⟨poisoned, moves, newest⟩ := brokenPage_spec (ownerOf (pteAt x r)) r (landPage (alterPage x r back) r m.place)
    rw [landed.entry] at poisoned
    refine ⟨landed.trans poisoned, fun k hk => ?_, fun _ => newest⟩
    rw [moves, moves_landPage] at hk
    exact page_ne_of_mem_filter hk

/-- With no promotion queued, an eviction's end starts nothing. -/
theorem evictionDone_of_none_chosen {x : Channel} {r : PageRef} {m : MoveJob}
    (h : x.moves.find? (fun m => m.page == r && !m.promote) = some m) (hc : x.chosen = []) :
    evictionDone x r = endEvict x r m.place := by
  unfold evictionDone startChosen
  simp only [h, chosen_endEvict, hc, List.foldl_nil]

end Sys2Proof.Machine

end

section

namespace Sys2Proof.Machine

/-! ## Moves that begin (R195, R196) -/

/-- Promotions under way, and those that wait for a frame. -/
def rising (x : Channel) : Nat := (x.moves.filter fun m => m.promote).length + x.chosen.length

/-- Moves have begun, at most k of them promotions: heat and place of every page and its bytes stand, and so do the tiering registers. -/
structure Begun (k : Nat) (x y : Channel) : Prop where
  heat : ∀ r, (pteAt y r).heat = (pteAt x r).heat
  frame : ∀ r, (pteAt y r).frame = (pteAt x r).frame
  t2 : ∀ r, (pteAt y r).t2 = (pteAt x r).t2
  commonMem : y.commonMem = x.commonMem
  mem : ∀ n, (roomOf y n).mem = (roomOf x n).mem
  tierCtl : y.tierCtl = x.tierCtl
  promotions : rising y ≤ rising x + k

theorem Begun.refl (x : Channel) : Begun 0 x x := ⟨fun _ => rfl, fun _ => rfl, fun _ => rfl, rfl, fun _ => rfl, rfl, Nat.le_refl _⟩

theorem Begun.trans {j k : Nat} {x y z : Channel} (h : Begun j x y) (g : Begun k y z) : Begun (j + k) x z where
  heat r := (g.heat r).trans (h.heat r)
  frame r := (g.frame r).trans (h.frame r)
  t2 r := (g.t2 r).trans (h.t2 r)
  commonMem := g.commonMem.trans h.commonMem
  mem n := (g.mem n).trans (h.mem n)
  tierCtl := g.tierCtl.trans h.tierCtl
  promotions := by have := h.promotions; have := g.promotions; omega

theorem Begun.mono {j k : Nat} {x y : Channel} (h : Begun j x y) (hk : j ≤ k) : Begun k x y :=
  { h with promotions := Nat.le_trans h.promotions (Nat.add_le_add_left hk _) }

theorem Begun.of_same {k : Nat} {x y : Channel} (h : SamePages x y) (ht : y.tierCtl = x.tierCtl) (hr : rising y ≤ rising x + k) : Begun k x y :=
  ⟨fun r => congrArg Pte.heat (h.pte r), fun r => congrArg Pte.frame (h.pte r), fun r => congrArg Pte.t2 (h.pte r), h.commonMem, h.mem, ht, hr⟩

/-- MOVING is set in a page's entry, and the move is listed. -/
def markMoving (r : PageRef) (promote : Bool) (place : Nat) (x : Channel) : Channel :=
  let y := modPte x r fun p => { p with moving := true }
  { y with moves := y.moves ++ [⟨r, promote, place⟩] }

theorem begun_markMoving (r : PageRef) (promote : Bool) (place : Nat) (x : Channel) :
    Begun (if promote then 1 else 0) x (markMoving r promote place x) := by
  have set := pageSet_modPte x r fun p => { p with moving := true }
  have listed : SamePages (modPte x r fun p => { p with moving := true }) (markMoving r promote place x) := samePages_withMoves _ _
  obtain ⟨entry, others, commonMem, mem⟩ := set.same listed
  have kept {α : Type} (v : Pte → α) (hv : ∀ p : Pte, v { p with moving := true } = v p) (o : PageRef) :
      v (pteAt (markMoving r promote place x) o) = v (pteAt x o) := by
    by_cases ho : o = r
    · rw [ho, entry, hv]
    · rw [others o ho]
  refine ⟨kept Pte.heat fun _ => rfl, kept Pte.frame fun _ => rfl, kept Pte.t2 fun _ => rfl, commonMem, mem, ?_, ?_⟩
  · cases r <;> rfl
  · have moves : (markMoving r promote place x).moves = x.moves ++ [⟨r, promote, place⟩] :=
      congrArg (· ++ _) (moves_setPte x r _)
    have chosen : (markMoving r promote place x).chosen = x.chosen := chosen_setPte x r _
    unfold rising
    rw [moves, chosen]
    cases promote <;> simp +arith

theorem begun_takeCellar {x : Channel} {t : BitVec 32 × Channel} (h : takeCellar x = some t) : Begun 0 x t.2 := by
  unfold takeCellar at h
  obtain ⟨r, -, rfl⟩ := Option.map_eq_some_iff.mp h
  exact .of_same (samePages_of_rooms rfl rfl rfl) rfl (Nat.le_refl _)

theorem begun_grabFrame {x : Channel} {t : BitVec 32 × Channel} (h : grabFrame x = some t) : Begun 0 x t.2 := by
  unfold grabFrame at h
  split at h
  · cases h
  · cases h
    exact .of_same (samePages_of_rooms rfl rfl rfl) rfl (Nat.le_refl _)

theorem begun_startPromote {x y : Channel} {r : PageRef} (h : startPromote x r = some y) : Begun 1 x y := by
  unfold startPromote at h
  dsimp only at h
  split at h
  · obtain ⟨t, ht, rfl⟩ := Option.map_eq_some_iff.mp h
    exact (begun_grabFrame ht).trans (begun_markMoving r true t.1.toNat t.2)
  · cases h

theorem begun_startEvict {x y : Channel} {r : PageRef} (h : startEvict x r = some y) : Begun 0 x y := by
  unfold startEvict at h
  split at h
  · obtain ⟨t, ht, rfl⟩ := Option.map_eq_some_iff.mp h
    exact (begun_takeCellar ht).trans (begun_markMoving r false t.1.toNat t.2)
  · cases h

theorem begun_queue (x : Channel) (m : Move) : Begun 1 x { x with chosen := x.chosen ++ [m] } := by
  refine .of_same (samePages_of_rooms rfl rfl rfl) rfl ?_
  simp only [rising, List.length_append, List.length_singleton]
  omega

/-! ## The epoch pass (R196) -/

/-- One candidate begins promotions against as many moves of the budget at least. -/
theorem passOne_begun (st : Channel × Nat) (e : PageRef × Pte) : ∃ k, Begun k st.1 (passOne st e).1 ∧ (passOne st e).2 + k ≤ st.2 := by
  have stays : ∃ k, Begun k st.1 st.1 ∧ st.2 + k ≤ st.2 := ⟨0, .refl _, Nat.le_refl _⟩
  unfold passOne
  extract_lets x a
  split
  · exact stays
  · split
    next y hy => exact ⟨1, begun_startPromote hy, by dsimp only; omega⟩
    next =>
      split
      · exact stays
      · split
        next y hy =>
          obtain ⟨v, -, hv⟩ := Option.bind_eq_some_iff.mp hy
          exact ⟨1, (begun_startEvict hv).trans (begun_queue y _) |>.mono (by omega), by dsimp only; omega⟩
        next => exact stays

theorem foldl_passOne_begun (l : List (PageRef × Pte)) (st : Channel × Nat) :
    ∃ k, Begun k st.1 (l.foldl passOne st).1 ∧ (l.foldl passOne st).2 + k ≤ st.2 :=
  List.foldlRecOn l passOne (motive := fun y => ∃ k, Begun k st.1 y.1 ∧ y.2 + k ≤ st.2) ⟨0, .refl _, Nat.le_refl _⟩
    fun y ⟨j, hj, budget⟩ e _ =>
      have ⟨k, hk, spent⟩ := passOne_begun y e
      ⟨j + k, hj.trans hk, by omega⟩

theorem foldl_begun {α : Type} {f : Channel → α → Channel} (h : ∀ x a, Begun 0 x (f x a)) (l : List α) (x : Channel) :
    Begun 0 x (l.foldl f x) :=
  List.foldlRecOn l f (motive := Begun 0 x) (.refl x) fun y hy a _ => hy.trans (h y a)

/-- Shedding evicts only (R205). -/
theorem begun_shedOne (a : Nat) (x : Channel) (i : Nat) : Begun 0 x (shedOne a x i) := by
  unfold shedOne
  extract_lets t
  split
  · exact .refl x
  · split
    next y hy =>
      obtain ⟨v, -, hv⟩ := Option.bind_eq_some_iff.mp hy
      exact begun_startEvict hv
    next => exact .refl x

/-! ## The end of the epoch -/

/-- What a view reads of a table whose every entry has been changed. -/
theorem view_tget_map {α β : Type} {d : α} (v : α → β) (g : β → β) {f : α → α} (hf : ∀ a, v (f a) = g (v a)) (hd : v d = g (v d))
    (t : Tab α) (k : Nat) : v (tget d (t.map fun p => (p.1, f p.2)) k) = g (v (tget d t k)) := by
  induction t with
  | nil => exact hd
  | cons p l ih =>
    unfold tget at ih ⊢
    by_cases hp : p.1 = k
    · simp [hp, hf]
    · simpa [hp] using ih

/-- A page's entry with its heat halved (R196). -/
def halved (p : Pte) : Pte := { p with heat := BitVec.ushiftRight p.heat 1 }

theorem tget_halve (t : Tab Pte) (k : Nat) : tget {} (halve t) k = halved (tget {} t k) :=
  view_tget_map id halved (f := halved) (fun _ => rfl) rfl t k

/-- A room at the end of an epoch: its pages' heat halved, its epochs counted. -/
def halvedRoom (q : Room) : Room := { q with pages := halve q.pages, epochs := countEpoch q.epochs }

/-- A channel at the end of an epoch, once its moves have begun. -/
def endEpoch (z : Channel) : Channel :=
  { z with
    tierCtl := { z.tierCtl with epochs := z.tierCtl.epochs + 1 }, commonPages := halve z.commonPages,
    commonEpochs := countEpoch z.commonEpochs, rooms := z.rooms.map fun r => (r.1, halvedRoom r.2) }

theorem pteAt_endEpoch (z : Channel) (r : PageRef) : pteAt (endEpoch z) r = halved (pteAt z r) := by
  cases r with
  | common i => exact tget_halve z.commonPages i
  | room n k =>
    have pages : (roomOf (endEpoch z) n).pages = halve (roomOf z n).pages :=
      view_tget_map Room.pages halve (f := halvedRoom) (fun _ => rfl) rfl z.rooms n
    exact (congrArg (tget {} · k) pages).trans (tget_halve _ k)

theorem mem_endEpoch (z : Channel) (n : Nat) : (roomOf (endEpoch z) n).mem = (roomOf z n).mem :=
  view_tget_map Room.mem id (f := halvedRoom) (fun _ => rfl) rfl z.rooms n

/-- An epoch ends with the moves of its pass begun, within the budget. -/
theorem heatEpoch_spec (x : Channel) : ∃ y, Begun x.tierCtl.moveBudget.toNat x y ∧ heatEpoch x = endEpoch y := by
  obtain ⟨k, passed, budget⟩ := foldl_passOne_begun (candidates x) (x, x.tierCtl.moveBudget.toNat)
  have begun_shed : ∀ y a, Begun 0 y (shed y a) := fun y a => foldl_begun (begun_shedOne a) _ y
  exact ⟨_, (passed.trans (foldl_begun begun_shed allAccts _)).mono (by dsimp only at budget; omega), rfl⟩

/-! ## HEAT_EPOCH, PAGE_PROMOTION_DONE, PAGE_EVICTION_DONE -/

theorem exec_heatEpoch (c : Ch) (s : State) :
    exec (.heatEpoch c) s = .next { s with dev := if (chanOf s.dev c).started then modChan s.dev c heatEpoch else s.dev } := rfl

theorem exec_pagePromotionDone (c : Ch) (r : PageRef) (back : List (Nat × Byte)) (s : State) :
    exec (.pagePromotionDone c r back) s = .next { s with dev := modChan s.dev c fun x => promotionDone x r back } := rfl

theorem exec_pageEvictionDone (c : Ch) (r : PageRef) (s : State) :
    exec (.pageEvictionDone c r) s = .next { s with dev := pageEvicted c r s.dev } := rfl

/-- The page lands in the Cellar, and its ciphertext is on its way there (R181, R195). -/
theorem pageEvicted_of_find {c : Ch} {r : PageRef} {d : Device} {m : MoveJob}
    (h : (chanOf d c).moves.find? (fun m => m.page == r && !m.promote) = some m) (hc : (chanOf d c).chosen = []) :
    pageEvicted c r d = send (setChan d c (endEvict (chanOf d c) r m.place))
      (cellarAccess (chanOf d c) c (some (pageCipher (chanOf d c) r)) (m.place / 2 ^ 28) (m.place % 2 ^ 28)) := by
  unfold pageEvicted
  simp only [h, evictionDone_of_none_chosen h hc]

/-- Settles O43: the pass as moves that begin within the budget, and each end of a move as one entry that is set. -/
theorem pagesMove : Obligations.PagesMove := by
  unfold Obligations.PagesMove
  intro c s x rises
  refine ⟨fun hoff => ?off, fun hon => ?epoch, fun r _ => ⟨fun m back hm => ?promotion, fun m hm hc => ?eviction⟩⟩
  case off => rw [exec_heatEpoch, if_neg (by simpa using hoff)]
  case epoch =>
    have runs := exec_heatEpoch c s
    rw [if_pos hon] at runs
    refine ⟨_, runs, onlyChannel_setChan c s _, ?_⟩
    dsimp only
    rw [chanOf_modChan_same]
    obtain ⟨y, ⟨heat, frame, t2, commonMem, mem, tierCtl, risen⟩, ended⟩ := heatEpoch_spec x
    rw [ended]
    refine ⟨congrArg (fun q : TierCtl => q.epochs + 1) tierCtl, risen, commonMem, fun n => (mem_endEpoch y n).trans (mem n), fun r => ?_⟩
    rw [pteAt_endEpoch]
    exact ⟨congrArg (BitVec.ushiftRight · 1) (heat r), frame r, t2 r⟩
  case promotion =>
    refine ⟨_, exec_pagePromotionDone c r back s, onlyChannel_setChan c s _, ?_⟩
    dsimp only
    rw [chanOf_modChan_same]
    obtain ⟨⟨entry, others, commonMem, mem⟩, moves, newest⟩ := promotionDone_spec back hm
    exact ⟨entry, moves, commonMem, mem, fun o ho => (others o ho).trans (pteAt_alterPage x r o back), newest⟩
  case eviction =>
    have runs := exec_pageEvictionDone c r s
    rw [pageEvicted_of_find hm hc] at runs
    refine ⟨_, runs, rfl, rfl, rfl, fun o ho => chanOf_setChan_ne s.dev _ ho, rfl, ?_⟩
    dsimp only
    rw [chanOf_send, chanOf_setChan_same]
    obtain ⟨entry, others, commonMem, mem⟩ := pageSet_endEvict x r m.place
    refine ⟨entry, fun k hk => ?_, commonMem, mem, others⟩
    rw [moves_endEvict] at hk
    exact page_ne_of_mem_filter hk

end Sys2Proof.Machine

end

section

namespace Sys2Proof.Machine

/-! ## SRAM_PATROL_SCRUB (R144, R584, R585, R592, R604, R606) -/

theorem exec_sramPatrolScrub (c : Ch) (f : Option SramFinding) (s : State) :
    exec (.sramPatrolScrub c f) s = .next { s with board := showPower s.board (sramScrub c f s.dev), dev := sramScrub c f s.dev } := rfl

/-- Class of the unit that a finding names (Table 15.5). -/
def sramClass (f : SramFinding) : Byte := if f.bank then 0x01 else 0x02

/-- The fault of a finding. -/
def sramRecord (f : SramFinding) : FaultRec := { cls := sramClass f, unit := f.unit, kind := if f.double then 1 else 0, addr := f.row }

/-- The WS line of a finding in a bank (R156). -/
def bankLine (f : SramFinding) : Nat := f.row.toNat * 1024 + f.unit.toNat

/-- What a finding poisons, and nothing where it was corrected. -/
def sramMet (f : SramFinding) (x : Channel) : Channel := if f.double then poisonSram f x else x

/-- The channel as the judgement of a finding meets it. -/
def scrubbedChan (f : SramFinding) (x : Channel) : Channel := holdLine f (isPermanent x (sramClass f) f.unit f.row f.survives) (sramMet f x)

theorem sramScrub_some (c : Ch) (f : SramFinding) (d : Device) :
    sramScrub c (some f) d = judgeFault (modChan d c (scrubbedChan f)) c (sramRecord f) f.survives := by
  simp only [sramScrub, scrubbedChan, sramMet, sramRecord, sramClass, modChan]

theorem unjudged_sramRecord (f : SramFinding) : unjudged (sramRecord f) = false := by
  unfold sramRecord sramClass
  cases f.bank <;> cases f.double <;> rfl

theorem holdLine_eq (f : SramFinding) (perm : Bool) (x : Channel) :
    holdLine f perm x = { x with island := { x.island with lineHolds := (holdLine f perm x).island.lineHolds } } := by
  unfold holdLine
  dsimp only
  split <;> rfl

theorem foundLine_of_bank {f : SramFinding} (h : f.bank = true) : foundLine f = some (.ws, bankLine f) := if_pos h

theorem lineHolds_holdLine_of_bank {f : SramFinding} (h : f.bank = true) (perm : Bool) (x : Channel) :
    (holdLine f perm x).island.lineHolds = x.island.lineHolds.filter (fun k => decide (x.island.ps < k.til)) ++
      [{ store := .ws, line := bankLine f, til := x.island.ps + (if f.double then 0 else linePs) + (if perm then linePs else 0) }] := by
  unfold holdLine
  rw [foundLine_of_bank h]

/-- An uncorrectable word of a bank poisons its WS line, and leaves the island alone. -/
theorem poisonSram_of_bank {f : SramFinding} (h : f.bank = true) (x : Channel) :
    poisonSram f x = poisonWs (x.island.room.getD 0) [bankLine f] none x := by
  unfold poisonSram
  simp only [foundLine_of_bank h]

theorem sramMet_island_of_bank {f : SramFinding} (h : f.bank = true) (x : Channel) : (sramMet f x).island = x.island := by
  unfold sramMet
  split
  · rw [poisonSram_of_bank h, poisonWs_eq]
  · rfl

/-- An uncorrectable word poisons what it held: a line of WS, Sump or Cistern, or it drops an entry of the Loop room (R144, R592). -/
theorem poisonSram_spec (f : SramFinding) (x : Channel) :
    (f.bank = true → bankLine f ∈ (poisonSram f x).wsPoison) ∧
    (f.bank = false → f.unit = 0 → f.line ∈ (poisonSram f x).sumpPoison) ∧
    (f.bank = false → f.unit = 1 → f.line ∈ (poisonSram f x).cisPoison) ∧
    (f.bank = false → f.unit = 2 → ∀ l, (poisonSram f x).island.loopRoom = some l → ∀ e ∈ l.bundles, e.1 ≠ f.line) := by
  refine ⟨fun hb => ?_, fun hb hu => ?_, fun hb hu => ?_, fun hb hu l hl e he => ?_⟩
  · rw [poisonSram_of_bank hb, poisonWs_eq]
    exact mem_addAll (List.mem_singleton_self _)
  · have found : foundLine f = some (.sump, f.line) := by simp [foundLine, hb, hu]
    simp only [poisonSram, found]
    exact mem_addAll (List.mem_singleton_self _)
  · have found : foundLine f = some (.cistern, f.line) := by simp [foundLine, hb, hu]
    simp only [poisonSram, found]
    exact mem_addAll (List.mem_singleton_self _)
  · have found : foundLine f = none := by simp [foundLine, hb, hu]
    have dropped : poisonSram f x = dropLoopEntry f.line x := by simp [poisonSram, found, hu]
    rw [dropped] at hl
    obtain ⟨k, -, rfl⟩ := Option.map_eq_some_iff.mp hl
    simpa using (List.mem_filter.mp he).2

/-- What a finding leaves of the channel before it is judged: holds on the line, and poison of what cannot be corrected. -/
theorem scrubbedChan_spec (f : SramFinding) (x : Channel) :
    let y := scrubbedChan f x
    (f.double = false → y = { x with island := { x.island with lineHolds := y.island.lineHolds } }) ∧
    (f.bank = true → y.island.lineHolds = x.island.lineHolds.filter (fun h => decide (x.island.ps < h.til)) ++ [{ store := .ws, line := bankLine f, til :=
      x.island.ps + (if f.double then 0 else linePs) + (if isPermanent x 0x01 f.unit f.row f.survives then linePs else 0) }]) ∧
    (f.double = true → (f.bank = true → bankLine f ∈ y.wsPoison) ∧ (f.bank = false → f.unit = 0 → f.line ∈ y.sumpPoison) ∧
      (f.bank = false → f.unit = 1 → f.line ∈ y.cisPoison) ∧
      (f.bank = false → f.unit = 2 → ∀ l, y.island.loopRoom = some l → ∀ e ∈ l.bundles, e.1 ≠ f.line)) := by
  intro y
  have held : y = { sramMet f x with island := { (sramMet f x).island with lineHolds := y.island.lineHolds } } := holdLine_eq ..
  refine ⟨fun hd => ?_, fun hb => ?_, fun hd => ?_⟩
  · have corrected : sramMet f x = x := if_neg (by simp [hd])
    rwa [corrected] at held
  · have cls : sramClass f = 0x01 := if_pos hb
    refine (lineHolds_holdLine_of_bank hb _ _).trans ?_
    rw [sramMet_island_of_bank hb, cls]
  · have lost : sramMet f x = poisonSram f x := if_pos hd
    rw [held, lost]
    exact poisonSram_spec f x

/-! ## Lines and pages of T1 that are lost (R172, R175, R592, R595) -/

theorem roomOf_setPte (x : Channel) (r : PageRef) (p : Pte) (n : Nat) {α : Type} (w : Room → α) (hw : ∀ q t, w { q with pages := t } = w q) :
    w (roomOf (setPte x r p) n) = w (roomOf x n) := by
  cases r with
  | room m k => exact roomView_modRoomC x n m w _ fun q => hw q _
  | common i => rfl

theorem mem_addAll_iff {l new : List Nat} {k : Nat} : k ∈ addAll l new ↔ k ∈ l ∨ k ∈ new := by
  constructor
  · intro h
    rcases List.mem_append.mp h with hl | hn
    · exact .inl hl
    · exact .inr (List.mem_filter.mp hn).1
  · rintro (hl | hn)
    · exact List.mem_append_left _ hl
    · exact mem_addAll hn

/-- A line of a room's page that is poisoned is the one line that its poison gains; its bytes stay (R592). -/
theorem poisonLines_room_spec (x : Channel) (n k l : Nat) (o : Option Arose) :
    (∀ m, m ∈ (roomOf (poisonLines x (.room n k) [l] o) n).poison ↔ m ∈ (roomOf x n).poison ∨ m = k * 1024 + l) ∧
    (roomOf (poisonLines x (.room n k) [l] o) n).mem = (roomOf x n).mem := by
  have shown {α : Type} (w : Room → α) (hw : ∀ q t, w { q with pages := t } = w q) :
      w (roomOf (poisonLines x (.room n k) [l] o) n) = w { roomOf x n with poison := addAll (roomOf x n).poison [k * 1024 + l] } :=
    (roomOf_setPte _ (.room n k) _ n w hw).trans (congrArg w (roomOf_modRoomC_same ..))
  refine ⟨fun m => ?_, shown Room.mem fun _ _ => rfl⟩
  rw [shown Room.poison fun _ _ => rfl, mem_addAll_iff, List.mem_singleton]

theorem loseLine_of_room {d : Device} {c st : Ch} {chan byte f l n p : Nat} (o : Arose) (hl : lineAt (chanOf d c) st chan byte = some (f, l))
    (hp : pageInFrame (chanOf d c) f = some (.room n p)) :
    loseLine o d c st chan byte = modChan d c fun x => poisonLines x (.room n p) [l] (some o) := by
  unfold loseLine
  simp only [hl, hp]

/-! ## T1_PATROL_SCRUB: words (R176, R178, R604) -/

theorem exec_t1PatrolScrub (c : Ch) (f : Option T1Finding) (s : State) :
    exec (.t1PatrolScrub c f) s = .next { s with board := showPower s.board (t1Scrub c f s.dev), dev := t1Scrub c f s.dev } := rfl

/-- The unit of a data channel (Table 15.5). -/
def dataUnit (stack : BitVec 2) (chan : BitVec 7) : BitVec 16 := BitVec.ofNat 16 (128 * stack.toNat + chan.toNat)

/-- A word that was corrected counts in its stack's CE_COUNT. -/
def countCorrected (st : Ch) (x : Channel) : Channel :=
  { x with memStacks := x.memStacks.set st { x.memStacks.get st with reg := { (x.memStacks.get st).reg with
      ceCount := satInc (x.memStacks.get st).reg.ceCount } } }

/-- A word of a data channel before it is judged: counted, or its line poisoned. -/
def wordMet (d : Device) (c : Ch) (stack : BitVec 2) (chan : BitVec 7) (byte : W64) (double : Bool) : Device :=
  if double then loseLine { cls := 0x10, unit := dataUnit stack chan, addr := byte } d c (Ch.ofNum stack.toNat) chan.toNat byte.toNat
  else modChan d c (countCorrected (Ch.ofNum stack.toNat))

/-- The fault of a word. -/
def wordRecord (stack : BitVec 2) (chan : BitVec 7) (byte : W64) (double : Bool) : FaultRec :=
  { cls := 0x10, unit := dataUnit stack chan, kind := if double then 1 else 0, addr := byte }

theorem unjudged_wordRecord (stack : BitVec 2) (chan : BitVec 7) (byte : W64) (double : Bool) :
    unjudged (wordRecord stack chan byte double) = false := by
  cases double <;> rfl

/-- A word is judged, and a ninth steering loses the stack (R176). -/
theorem t1Word_eq (d : Device) (c : Ch) (stack : BitVec 2) (chan : BitVec 7) (byte : W64) (double survives : Bool) :
    t1Word d c stack chan byte double survives =
      let d2 := judgeFault (wordMet d c stack chan byte double) c (wordRecord stack chan byte double) survives
      if isPermanent (chanOf d c) 0x10 (dataUnit stack chan) byte survives = true ∧
        ((chanOf d c).memStacks.get (Ch.ofNum stack.toNat)).reg.sparesUsed = 8 then loseStack d2 c (Ch.ofNum stack.toNat) else d2 := by
  have ninth (v : BitVec 4) : (v.toNat == 8) = decide (v = 8) := by
    rw [Bool.eq_iff_iff, beq_iff_eq, decide_eq_true_iff, ← BitVec.toNat_inj]
    rfl
  unfold t1Word
  simp only [ninth, Bool.and_eq_true, decide_eq_true_iff]
  rfl

theorem wordMet_double {d : Device} {c : Ch} {stack : BitVec 2} {chan : BitVec 7} {byte : W64} {f l n p : Nat}
    (hl : lineAt (chanOf d c) (Ch.ofNum stack.toNat) chan.toNat byte.toNat = some (f, l)) (hp : pageInFrame (chanOf d c) f = some (.room n p)) :
    chanOf (wordMet d c stack chan byte true) c =
      poisonLines (chanOf d c) (.room n p) [l] (some { cls := 0x10, unit := dataUnit stack chan, addr := byte }) := by
  rw [wordMet, if_pos rfl, loseLine_of_room _ hl hp, chanOf_modChan_same]

/-! ## T1_PATROL_SCRUB: tiles (R448, R449) -/

theorem leadCopy_modLeadCopy (d : Device) (u : Ch) (k : Nat) (f : WCopy → WCopy) : leadCopy (modLeadCopy d u k f) u k = f (leadCopy d u k) := by
  unfold leadCopy modLeadCopy modLead
  rw [leadOf_modChan, chanOf_modChan_same]
  exact tget_tmod_same ..

theorem Keeps.leadCopy {d d' : Device} (h : Keeps Channel.copies d d') (u : Ch) (k : Nat) : leadCopy d' u k = Machine.leadCopy d u k := by
  unfold Machine.leadCopy copyOf
  rw [h.leadOf, h.chans]

/-- The device once a tile waits for its repair, counted in REPAIRS. -/
def tileMet (d : Device) (u : Ch) (k t : Nat) : Device :=
  modLeadCopy (replaceTiles d u k [t]) u k fun w => { w with reg := { w.reg with repairs := satInc w.reg.repairs } }

theorem replaceTiles_singleton (d : Device) (u : Ch) (k t : Nat) :
    replaceTiles d u k [t] = modLeadCopy (modChans d (suiteChans d u) fun _ x => poisonTile (leadCopy d u k) true x t) u k fun w =>
      { w with repairing := addAll w.repairing [t], reg := { w.reg with suspect := true } } := rfl

theorem leadCopy_tileMet {d : Device} {u : Ch} {k t : Nat} (h : t ∉ (leadCopy d u k).repairing) :
    leadCopy (tileMet d u k t) u k = { leadCopy d u k with
      repairing := (leadCopy d u k).repairing ++ [t],
      reg := { (leadCopy d u k).reg with suspect := true, repairs := satInc (leadCopy d u k).reg.repairs } } := by
  have poisoned : Keeps Channel.copies d (modChans d (suiteChans d u) fun _ x => poisonTile (leadCopy d u k) true x t) :=
    keeps_modChans _ _ _ fun _ _ => rfl
  have new : addAll (leadCopy d u k).repairing [t] = (leadCopy d u k).repairing ++ [t] := by simp [addAll, h]
  rw [tileMet, replaceTiles_singleton, leadCopy_modLeadCopy, leadCopy_modLeadCopy, poisoned.leadCopy, new]

theorem commonPoison_tileMet {d : Device} {u o : Ch} (k t : Nat) (ho : o ∈ suiteChans d u) {l : Nat} (hl : l ∈ linesOf (tileRun (leadCopy d u k) t)) :
    l ∈ (chanOf (tileMet d u k t) o).commonPoison := by
  have copies : ∀ d' f, Keeps Channel.commonPoison d' (modLeadCopy d' u k f) := fun d' f => keeps_modLead d' u _ fun _ => rfl
  rw [tileMet, (copies _ _).chans o, replaceTiles_singleton, (copies _ _).chans o, chanOf_modChans _ _ _ _ (suiteChans_nodup d u), if_pos ho]
  exact mem_addAll hl

theorem leadOf_tileMet (d : Device) (u : Ch) (k t : Nat) : leadOf (replaceTiles d u k [t]) u = leadOf d u :=
  congrArg (fun s : SchSuite => Ch.ofNum s.lead.toNat) (suiteOf_congr (modChans_suites ..) u)

/-- A tile is replaced from its source and recorded (R448, R449). -/
theorem t1Scrub_tile (d : Device) (c u : Ch) (k : BitVec 3) (t : Nat) (hu : suiteOfChan d c = some u) :
    t1Scrub c (some (.tile k t)) d =
      if (leadCopy d u k.toNat).reg.state = csFree ∨ (leadCopy d u k.toNat).reg.tiles.toNat ≤ t ∨ t ∈ (leadCopy d u k.toNat).repairing then d
      else modChan (tileMet d u k.toNat t) (leadOf d u) fun y =>
        record y { cls := 0xA0, unit := BitVec.ofNat 16 k.toNat, kind := 1, addr := BitVec.ofNat 64 t } := by
  have noted : noteSettled u k.toNat (replaceTiles d u k.toNat [t]) t = modChan (tileMet d u k.toNat t) (leadOf d u) fun y =>
      record y { cls := 0xA0, unit := BitVec.ofNat 16 k.toNat, kind := 1, addr := BitVec.ofNat 64 t } := by
    rw [← leadOf_tileMet d u k.toNat t]
    rfl
  unfold t1Scrub
  simp only [hu, Bool.or_eq_true, decide_eq_true_iff, List.contains_eq_mem, or_assoc, noted]

end Sys2Proof.Machine

end

section

namespace Sys2Proof.Machine

/-! ## STACK_LOSS (R172, R173) -/

theorem exec_stackLoss (c st : Ch) (s : State) :
    exec (.stackLoss c st) s = .next { s with board := showPower s.board (loseStack s.dev c st), dev := loseStack s.dev c st } := rfl

/-- The channel with a stack out of service. -/
def stackDown (st : Ch) (x : Channel) : Channel :=
  { x with memStacks := x.memStacks.set st { x.memStacks.get st with reg := { (x.memStacks.get st).reg with up := false, migrating := false } } }

/-- Training rooms end, and their T1 pages are given up (Table 1.8). -/
def loseT1Rooms (d : Device) (c : Ch) : Device :=
  match suiteOfChan d c with
  | some u => roomIndexes.foldl (loseT1Room u c) d
  | none => d

/-- The pages of T1 lose their contents. -/
def losePages (o : Arose) (d : Device) (c : Ch) : Device := (t1Pages (chanOf d c)).foldl (fun d r => poisonData o d c r) d

/-- Where the poison of a lost stack arose. -/
def stackArose (st : Ch) : Arose := { cls := 0x11, unit := BitVec.ofNat 16 st.num, addr := 0 }

theorem loseStack_of_up {d : Device} {c st : Ch} (h : ((chanOf d c).memStacks.get st).reg.up = true) :
    loseStack d c st = meetPermanent (modChan (losePages (stackArose st) (loseT1Rooms (modChan d c (stackDown st)) c) c) c relay)
      c 0x11 (BitVec.ofNat 16 st.num) 0 := by
  unfold loseStack
  simp only [h, Bool.not_true, Bool.false_eq_true, ↓reduceIte]
  rfl

theorem loseStack_of_down {d : Device} {c st : Ch} (h : ((chanOf d c).memStacks.get st).reg.up = false) : loseStack d c st = d := by
  unfold loseStack
  simp only [h, Bool.not_false, ↓reduceIte]

/-- Tiles that wait for their repair leave every room as it is (R595). -/
theorem rooms_replaceTiles (d : Device) (u : Ch) (k : Nat) (l : List Nat) : Keeps Channel.rooms d (replaceTiles d u k l) := by
  unfold replaceTiles
  split
  · exact .refl d
  · extract_lets w d1
    have poisoned : Keeps Channel.rooms d d1 := keeps_modChans d _ _ fun _ x => foldl_view Channel.rooms (f := poisonTile w true) (fun _ _ => rfl) l x
    exact poisoned.trans (keeps_modLead d1 u _ fun _ => rfl)

theorem rooms_repairShared (d : Device) (c : Ch) (i a b : Nat) : Keeps Channel.rooms d (repairShared d c i a b) := by
  unfold repairShared
  split
  · exact .refl d
  · refine keeps_foldl _ (fun d k => ?_) _ _
    dsimp only
    split
    · exact rooms_replaceTiles ..
    · exact .refl d

/-- The loss of a page touches entries and poison of rooms, and no more of them. -/
theorem room_poisonData (o : Arose) (d : Device) (c : Ch) (r : PageRef) (n : Nat) {α : Type} {w : Room → α}
    (hw : ∀ q t l, w { q with pages := t, poison := l } = w q) : Keeps (roomView n w) d (poisonData o d c r) := by
  cases r with
  | common i => exact ⟨(rooms_repairShared ..).suites, fun k => roomView_rooms n w ((rooms_repairShared ..).chans k)⟩
  | room m k =>
    refine keeps_modChan d c (fun x => poisonPage (some o) x (.room m k)) fun x => ?_
    exact (roomOf_setPte _ (.room m k) _ n w fun q t => hw q t q.poison).trans (roomView_modRoomC x n m w _ fun q => hw q q.pages _)

/-- Every line of a room's page is poison, and its entry shows it; nothing is said of a common page. -/
def RoomPagePoisoned (x : Channel) : PageRef → Prop
  | .room n p => (pteAt x (.room n p)).poison = true ∧ ∀ l ∈ pageLines p, l ∈ (roomOf x n).poison
  | .common _ => True

theorem poison_poisonPage (o : Option Arose) (x : Channel) (n p m : Nat) :
    (roomOf (poisonPage o x (.room n p)) m).poison = if m = n then addAll (roomOf x m).poison (pageLines p) else (roomOf x m).poison := by
  refine (roomOf_setPte _ (.room n p) _ m Room.poison fun _ _ => rfl).trans ?_
  by_cases h : m = n
  · rw [if_pos h, h, roomOf_modRoomC_same]
  · rw [if_neg h, roomOf_modRoomC_ne _ _ h]

theorem roomPagePoisoned_poisonPage (o : Option Arose) (x : Channel) (r : PageRef) : RoomPagePoisoned (poisonPage o x r) r := by
  cases r with
  | common i => trivial
  | room n p =>
    refine ⟨congrArg Pte.poison (pageSet_poisonPage o x (.room n p)).entry, fun l hl => ?_⟩
    rw [poison_poisonPage, if_pos rfl]
    exact mem_addAll hl

/-- Poison of one page takes none from another. -/
theorem RoomPagePoisoned.poisonPage {x : Channel} {q : PageRef} (h : RoomPagePoisoned x q) (o : Option Arose) (n p : Nat) :
    RoomPagePoisoned (poisonPage o x (.room n p)) q := by
  cases q with
  | common i => trivial
  | room m k =>
    obtain ⟨entry, lines⟩ := h
    have set := pageSet_poisonPage o x (.room n p)
    refine ⟨?_, fun l hl => ?_⟩
    · by_cases same : PageRef.room m k = .room n p
      · rw [same, set.entry]
      · rw [set.others _ same, entry]
    · rw [poison_poisonPage]
      split
      · exact mem_addAll_iff.mpr (.inl (lines l hl))
      · exact lines l hl

theorem RoomPagePoisoned.congr {x y : Channel} {q : PageRef} (h : RoomPagePoisoned x q) (hr : y.rooms = x.rooms) : RoomPagePoisoned y q := by
  cases q with
  | common i => trivial
  | room m k =>
    obtain ⟨entry, lines⟩ := h
    have room := roomOf_congr hr m
    exact ⟨(congrArg (fun q : Room => (tget ({} : Pte) q.pages k).poison) room).trans entry, fun l hl => room ▸ lines l hl⟩

theorem RoomPagePoisoned.poisonData {d : Device} {c : Ch} {q : PageRef} (h : RoomPagePoisoned (chanOf d c) q) (o : Arose) (r : PageRef) :
    RoomPagePoisoned (chanOf (poisonData o d c r) c) q := by
  cases r with
  | common i => exact h.congr ((rooms_repairShared ..).chans c)
  | room n p =>
    rw [Machine.poisonData, chanOf_modChan_same]
    exact h.poisonPage ..

theorem roomPagePoisoned_poisonData (o : Arose) (d : Device) (c : Ch) (r : PageRef) : RoomPagePoisoned (chanOf (poisonData o d c r) c) r := by
  cases r with
  | common i => trivial
  | room n p =>
    rw [poisonData, chanOf_modChan_same]
    exact roomPagePoisoned_poisonPage ..

/-- What each step of a fold makes true of its own element, and keeps true of every other, holds of all at the end. -/
theorem foldl_forall_mem {α β : Type} {f : β → α → β} {P : β → α → Prop} (own : ∀ y a, P (f y a) a) (keeps : ∀ y a b, P y b → P (f y a) b)
    (l : List α) (x : β) : ∀ a ∈ l, P (l.foldl f x) a := by
  intro a ha
  obtain ⟨before, after, rfl⟩ := List.append_of_mem ha
  rw [List.foldl_append, List.foldl_cons]
  exact List.foldlRecOn after f (motive := (P · a)) (own _ a) fun y hy b _ => keeps y b a hy

/-- Every page of a room that lay in T1 is poisoned; memories and schedules of rooms stay. -/
theorem losePages_spec (o : Arose) (d : Device) (c : Ch) :
    (∀ r ∈ t1Pages (chanOf d c), RoomPagePoisoned (chanOf (losePages o d c) c) r) ∧
    ∀ n, (roomOf (chanOf (losePages o d c) c) n).mem = (roomOf (chanOf d c) n).mem ∧
      (roomOf (chanOf (losePages o d c) c) n).sch = (roomOf (chanOf d c) n).sch := by
  have kept (n : Nat) {α : Type} (w : Room → α) (hw : ∀ q t l, w { q with pages := t, poison := l } = w q) :
      Keeps (roomView n w) d (losePages o d c) := keeps_foldl _ (fun d r => room_poisonData o d c r n hw) _ d
  exact ⟨foldl_forall_mem (P := fun d r => RoomPagePoisoned (chanOf d c) r) (fun d r => roomPagePoisoned_poisonData o d c r)
      (fun d r q h => h.poisonData o r) (t1Pages (chanOf d c)) d,
    fun n => ⟨(kept n Room.mem fun _ _ _ => rfl).chans c, (kept n Room.sch fun _ _ _ => rfl).chans c⟩⟩

/-! ## MIGRATION_DONE (R174, R175) -/

theorem exec_migrationDone (c : Ch) (m : MigrationEnd) (s : State) :
    exec (.migrationDone c m) s = .next { s with board := showPower s.board (migrationDone c m s.dev), dev := migrationDone c m s.dev } := rfl

/-- A stack's migration is over. -/
def migrationEnded (st : Ch) (x : Channel) : Channel :=
  { x with memStacks := x.memStacks.set st { x.memStacks.get st with reg := { (x.memStacks.get st).reg with migrating := false } } }

/-- What a migration cannot read is lost as a scrub would find it, and then the migration ends. -/
theorem migrationDone_eq (c st : Ch) (bad : List W64) (d : Device) :
    migrationDone c { stack := st, bad := bad } d =
      if ((chanOf d c).memStacks.get st).reg.migrating then
        modChan (bad.foldl (fun e b => t1Word e c (BitVec.ofNat 2 st.num) ((chanOf d c).memStacks.get st).reg.migCh b true false) d) c (migrationEnded st)
      else d := by
  unfold migrationDone
  cases h : ((chanOf d c).memStacks.get st).reg.migrating with
  | true => simp only [h, Bool.not_true, Bool.false_eq_true, ↓reduceIte]; rfl
  | false => simp only [h, Bool.not_false, Bool.false_eq_true, ↓reduceIte]

/-! ## PUMP_CONTROL_MISMATCH (R130, R605, R608) -/

/-- A pump's fault. -/
def pumpRecord (pump : BitVec 4) : FaultRec := { cls := 0x30, unit := pump.setWidth 16, kind := 2 }

/-- PUMP_CONTROL_MISMATCH on the device. -/
def pumpMismatch (c : Ch) (pump : BitVec 4) (d : Device) : Device :=
  if (chanOf d c).pumps.working.getLsbD pump.toNat then judgeFault d c (pumpRecord pump) false else d

theorem exec_pumpControlMismatch (c : Ch) (pump : BitVec 4) (s : State) :
    exec (.pumpControlMismatch c pump) s =
      .next { s with board := showPower s.board (pumpMismatch c pump s.dev), dev := pumpMismatch c pump s.dev } := rfl

/-- The channel once a permanent judgement is recorded and kept for every boot (R605). -/
def permanentChan (cls : Byte) (unit : BitVec 16) (addr : W64) (x : Channel) : Channel :=
  let y := record (noteTimes cls unit addr [] x) { cls := cls, unit := unit, addr := addr, kind := 9, judge := 1 }
  { y with hist := { y.hist with perm := y.hist.perm ++ [{ cls := cls, unit := unit, addr := addr }] } }

@[simp] theorem permanentChan_pumps (cls : Byte) (unit : BitVec 16) (addr : W64) (x : Channel) :
    (permanentChan cls unit addr x).pumps = x.pumps := by
  dsimp only [permanentChan]
  exact record_pumps ..
@[simp] theorem permanentChan_rooms (cls : Byte) (unit : BitVec 16) (addr : W64) (x : Channel) :
    (permanentChan cls unit addr x).rooms = x.rooms := by
  dsimp only [permanentChan]
  exact record_rooms ..

/-- A permanent fault whose response starts no drain leaves its channel as the response does, with a record of it (R605, R608). -/
theorem chanOf_meetPermanent_of_no_drain {d : Device} {c : Ch} {cls : Byte} {unit : BitVec 16} {addr : W64} {k : BitVec 4}
    (hk : responseKind cls = some k) (hr : (respond cls unit (permanentChan cls unit addr (chanOf d c))).2 = false)
    (hd : d.fy.replace.drainAny = false) :
    chanOf (meetPermanent d c cls unit addr) c =
      record (respond cls unit (permanentChan cls unit addr (chanOf d c))).1 { cls := cls, unit := unit, addr := addr, kind := k, judge := 1 } := by
  unfold meetPermanent
  extract_lets d1 d2 t d3
  obtain ⟨chans, -, -, fy⟩ : OnlyFns d1 d2 := onlyFns_postAll ..
  have before : chanOf d2 c = permanentChan cls unit addr (chanOf d c) :=
    (congrArg (·.get c) chans).trans (chanOf_modChan_same d c (permanentChan cls unit addr))
  have replace : d3.fy.replace = d.fy.replace := by
    show d2.fy.replace = _
    rw [fy]
    rfl
  have quiet : (t.2 || d3.fy.replace.drainAny) = false := by
    rw [replace, hd, Bool.or_false]
    simp only [t, before, hr]
  rw [quiet, if_neg Bool.false_ne_true, chanOf_refresh]
  simp only [d3, hk, t, before, chanOf_setChan_same]

theorem retirePump_of_working {p : Nat} {x : Channel} (h : x.pumps.working.getLsbD p = true) :
    retirePump p x = { x with pumps := { working := x.pumps.working &&& ~~~(BitVec.ofNat 16 (2 ^ p)), count := x.pumps.count - 1 } } := if_pos h

theorem getLsbD_retired (w : BitVec 16) (p j : Nat) :
    (w &&& ~~~(BitVec.ofNat 16 (2 ^ p))).getLsbD j = (w.getLsbD j && decide (j ≠ p)) := by
  by_cases hj : j < 16
  · rw [BitVec.getLsbD_and, BitVec.getLsbD_not, BitVec.getLsbD_ofNat, Nat.testBit_two_pow]
    simp [hj, eq_comm]
  · have out : ∀ v : BitVec 16, v.getLsbD j = false := fun v => BitVec.getLsbD_of_ge v j (by omega)
    rw [out, out, Bool.false_and]

/-- With twelve pumps left and no drain asked for, a permanent pump fault retires that pump and nothing else of the channel's units. -/
theorem pumpMismatch_retires {d : Device} {c : Ch} {pump : BitVec 4} (hw : (chanOf d c).pumps.working.getLsbD pump.toNat = true)
    (hp : isPermanent (chanOf d c) 0x30 (pump.setWidth 16) 0 false = true) (hn : 13 ≤ (chanOf d c).pumps.count.toNat)
    (hd : d.fy.replace.drainAny = false) :
    (chanOf (pumpMismatch c pump d) c).pumps =
      { working := (chanOf d c).pumps.working &&& ~~~(BitVec.ofNat 16 (2 ^ pump.toNat)), count := (chanOf d c).pumps.count - 1 } ∧
    (chanOf (pumpMismatch c pump d) c).rooms = (chanOf d c).rooms := by
  have unit : (pump.setWidth 16).toNat = pump.toNat := BitVec.toNat_setWidth_of_le (by omega)
  have judged := logged_judgedChan (pumpRecord pump) false (chanOf d c)
  have retired (y : Channel) (hy : y.pumps = (chanOf d c).pumps) :
      respond 0x30 (pump.setWidth 16) y = ({ y with pumps := {
        working := (chanOf d c).pumps.working &&& ~~~(BitVec.ofNat 16 (2 ^ pump.toNat)), count := (chanOf d c).pumps.count - 1 } }, false) := by
    have twelve : ¬((chanOf d c).pumps.count - 1).toNat < 12 := by bv_omega
    show (retirePump _ y, decide ((retirePump _ y).pumps.count.toNat < 12)) = _
    rw [unit, retirePump_of_working (by rw [hy]; exact hw), hy, decide_eq_false twelve]
  have before : (permanentChan 0x30 (pump.setWidth 16) 0 (judgedChan (pumpRecord pump) false (chanOf d c))).pumps = (chanOf d c).pumps := by
    rw [permanentChan_pumps, judged.frame]
  have met : pumpMismatch c pump d = meetPermanent (modChan d c (judgedChan (pumpRecord pump) false)) c 0x30 (pump.setWidth 16) 0 := by
    rw [pumpMismatch, if_pos hw, judgeFault_of_judged d c false rfl]
    exact if_pos hp
  have response := chanOf_meetPermanent_of_no_drain (d := modChan d c (judgedChan (pumpRecord pump) false)) (c := c) (cls := 0x30)
    (unit := pump.setWidth 16) (addr := 0) (k := 4) rfl (by rw [chanOf_modChan_same, retired _ before]) hd
  rw [chanOf_modChan_same, retired _ before] at response
  rw [met, response, record_pumps, record_rooms]
  refine ⟨rfl, ?_⟩
  dsimp only
  rw [permanentChan_rooms, judged.frame]

end Sys2Proof.Machine

end

section

namespace Sys2Proof.Machine

/-! ## Faults of memories and pumps -/

/-- Settles O58: each finding as what it leaves before its judgement and the judgement itself, the loss of a stack step by step, and a pump's response. -/
theorem memoryAndPumpFaultsAreMet : Obligations.MemoryAndPumpFaultsAreMet := by
  unfold Obligations.MemoryAndPumpFaultsAreMet
  intro s c x same
  refine ⟨⟨_, exec_sramPatrolScrub c none s, rfl⟩, fun f => ?sram, ⟨_, exec_t1PatrolScrub c none s, chanOf_modChan_same ..⟩,
    fun stack data byte double survives => ?word, fun u k t0 hu => ?tile,
    fun st => ⟨fun bad hidle => ?idle, fun hmig => ?ended, fun b m hmig hm => ?unread, fun hdown => ?down, fun hup => ?lost⟩,
    fun pump => ⟨fun hoff => ?retired, fun hon => ⟨?judged, fun hperm hcount hdrain => ?retires⟩⟩⟩
  case sram =>
    have runs := exec_sramPatrolScrub c (some f) s
    rw [sramScrub_some] at runs
    refine ⟨_, modChan s.dev c (scrubbedChan f), runs, judged_judgeFault _ c f.survives (unjudged_sramRecord f),
      fun o ho => chanOf_modChan_ne s.dev _ ho, ?_⟩
    rw [chanOf_modChan_same]
    exact scrubbedChan_spec f x
  case word =>
    have runs := exec_t1PatrolScrub c (some (.word stack data byte double survives)) s
    rw [show t1Scrub c (some (.word stack data byte double survives)) s.dev = _ from t1Word_eq ..] at runs
    refine ⟨_, wordMet s.dev c stack data byte double, judgeFault (wordMet s.dev c stack data byte double) c (wordRecord stack data byte double) survives,
      runs, fun hsingle => ?_, fun f l n p hdouble hl hp => ?_, judged_judgeFault _ c survives (unjudged_wordRecord ..), rfl⟩
    · rw [hsingle, wordMet, if_neg Bool.false_ne_true, chanOf_modChan_same]
      rfl
    · rw [hdouble, wordMet_double hl hp]
      obtain ⟨lines, mem⟩ := poisonLines_room_spec x n p l (some { cls := 0x10, unit := dataUnit stack data, addr := byte })
      exact ⟨(lines _).mpr (.inr rfl), fun m hm => (lines m).trans (or_iff_left hm), mem⟩
  case tile =>
    have runs := exec_t1PatrolScrub c (some (.tile k t0)) s
    rw [t1Scrub_tile s.dev c u k t0 hu] at runs
    refine ⟨fun hstays => ?_, fun hused hin hnew => ?_⟩
    · rw [if_pos hstays] at runs
      exact ⟨_, runs, rfl⟩
    · rw [if_neg (not_or.mpr ⟨hused, not_or.mpr ⟨Nat.not_le.mpr hin, hnew⟩⟩)] at runs
      exact ⟨_, tileMet s.dev u k.toNat t0, runs, leadCopy_tileMet hnew, fun o ho l hl => commonPoison_tileMet k.toNat t0 ho hl, rfl⟩
  case idle =>
    have runs := exec_migrationDone c { stack := st, bad := bad } s
    rw [migrationDone_eq, if_neg (by simpa using hidle)] at runs
    exact ⟨_, runs, rfl⟩
  case ended =>
    have runs := exec_migrationDone c { stack := st } s
    rw [migrationDone_eq, if_pos hmig] at runs
    exact ⟨_, runs, chanOf_modChan_same .., fun o ho => chanOf_modChan_ne s.dev _ ho⟩
  case unread =>
    have runs := exec_migrationDone c { stack := st, bad := [b] } s
    rw [migrationDone_eq, if_pos hmig] at runs
    cases hm
    exact ⟨_, runs, rfl⟩
  case down =>
    have runs := exec_stackLoss c st s
    rw [loseStack_of_down hdown] at runs
    exact ⟨_, runs, rfl⟩
  case lost =>
    have runs := exec_stackLoss c st s
    rw [loseStack_of_up hup] at runs
    obtain ⟨poisoned, kept⟩ := losePages_spec (stackArose st) (loseT1Rooms (modChan s.dev c (stackDown st)) c) c
    refine ⟨_, modChan s.dev c (stackDown st), loseT1Rooms (modChan s.dev c (stackDown st)) c,
      losePages (stackArose st) (loseT1Rooms (modChan s.dev c (stackDown st)) c) c, runs, chanOf_modChan_same s.dev c (stackDown st),
      fun o ho => chanOf_modChan_ne s.dev _ ho, rfl, fun n p hp => poisoned (.room n p) hp, kept, ?_⟩
    dsimp only
  case retired =>
    have runs := exec_pumpControlMismatch c pump s
    rw [pumpMismatch, if_neg (by simpa using hoff)] at runs
    exact ⟨_, runs, rfl⟩
  case judged =>
    have runs := exec_pumpControlMismatch c pump s
    rw [pumpMismatch, if_pos hon] at runs
    exact ⟨_, runs, judged_judgeFault s.dev c false rfl⟩
  case retires =>
    obtain ⟨pumps, rooms⟩ := pumpMismatch_retires hon hperm hcount hdrain
    refine ⟨_, exec_pumpControlMismatch c pump s, ?_⟩
    dsimp only
    rw [pumps]
    refine ⟨?_, fun p hp => ?_, rfl, rooms⟩
    · rw [getLsbD_retired, decide_eq_false (not_not_intro rfl), Bool.and_false]
    · rw [getLsbD_retired, decide_eq_true hp, Bool.and_true]

end Sys2Proof.Machine

end

section

namespace Sys2Proof.Machine

/-! ## What a change of the lead channel leaves of streams and rooms -/

@[simp] theorem strm_modLeadRoom (d : Device) (s : Ch) (n : Nat) (f : Room → Room) (q : SRef) : strm (modLeadRoom d s n f) q = strm d q :=
  strm_congr (keeps_modLead (v := Channel.ctxs) d s (fun x => modRoomC x n f) fun _ => rfl).chans q

/-- Credits that return to a customer are not the streams'. -/
@[simp] theorem strm_credit (d : Device) (s : Ch) (customer amount : Nat) (q : SRef) :
    strm (modLead d s fun x => credit x customer amount) q = strm d q :=
  strm_congr (keeps_modLead (v := Channel.ctxs) d s (fun x => credit x customer amount) fun _ => rfl).chans q
@[simp] theorem leadRoom_credit (d : Device) (s : Ch) (n customer amount : Nat) :
    leadRoom (modLead d s fun x => credit x customer amount) s n = leadRoom d s n :=
  (keeps_modLead (v := roomView n id) d s (fun x => credit x customer amount) fun _ => rfl).leadRoom s

/-! ## The end of the table (R261) -/

theorem stepWord_view {α : Type} (v : Room → α) (h : ∀ r a b c, v { r with srv := a, adp := b, upd := c } = v r) (w : RegWord) (lk : Bool)
    (x : W64) (r : Room) : v (stepWord w lk x r) = v r := by
  unfold stepWord
  dsimp only
  split <;> exact h r _ _ _

/-- The writes that waited for the step's end leave the room's serving state and its count of steps. -/
@[simp] theorem takeLater_serve (r : Room) : (takeLater r).serve = r.serve :=
  foldl_view Room.serve (fun y _ => stepWord_view Room.serve (fun _ _ _ _ => rfl) _ _ _ y) r.later r
@[simp] theorem takeLater_steps (r : Room) : (takeLater r).steps = r.steps :=
  foldl_view Room.steps (fun y _ => stepWord_view Room.steps (fun _ _ _ _ => rfl) _ _ _ y) r.later r

/-- The device once every entry of a room's table has ended. -/
def entriesEnded (d : Device) (s : Ch) (n : Nat) : Device := ((leadRoom d s n).serve.table.foldl (endEntry s n) (d, 0)).1

/-- A room whose table is done. -/
def tableDone (r : Room) : Room :=
  takeLater { r with serve := { r.serve with table := [], inStep := false, sampled := false }, steps := r.steps + 1 }

theorem endTable_eq (d : Device) (s : Ch) (n : Nat) : endTable d s n = modLeadRoom (entriesEnded d s n) s n tableDone := rfl

theorem leadRoom_endTable (d : Device) (s : Ch) (n : Nat) : leadRoom (endTable d s n) s n = tableDone (leadRoom (entriesEnded d s n) s n) :=
  leadRoom_modLeadRoom ..

@[simp] theorem tableDone_serve (r : Room) : (tableDone r).serve = { r.serve with table := [], inStep := false, sampled := false } :=
  takeLater_serve _
@[simp] theorem tableDone_steps (r : Room) : (tableDone r).steps = r.steps + 1 := takeLater_steps _

theorem strm_endTable (d : Device) (s : Ch) (n : Nat) (p : SRef) : strm (endTable d s n) p = strm (entriesEnded d s n) p :=
  strm_modLeadRoom ..

/-! ## A prompt chunk that ends (R261, step 3) -/

/-- A context whose prompt has run up to position p: its state goes on to DECODE where that is the whole prompt. -/
def promptAt (prompt p : Nat) (c : StreamCtx) : StreamCtx :=
  setUnder { c with len := p, recomp := none } (if prompt ≤ p then .decode else under c)

@[simp] theorem promptAt_len (prompt p : Nat) (c : StreamCtx) : (promptAt prompt p c).len = p := by
  unfold promptAt setUnder
  split <;> rfl

theorem promptAt_state {prompt p : Nat} {c : StreamCtx} (h : c.state = .prefill) :
    (promptAt prompt p c).state = if prompt ≤ p then .decode else .prefill := by
  simp [promptAt, setUnder, under, outer, h]

/-- An entry of prompt rows alone, without a tree and without a sampled record, of a stream in PREFILL of the room. -/
structure PromptChunk (d : Device) (n : Nat) (e : LtEntry) : Prop where
  sampled : e.sampled = 0
  tree : e.tree = false
  recompute : e.recompute = false
  state : (strm d (Ch.ofNum e.ch, e.ctx)).state = .prefill
  recomp : (strm d (Ch.ofNum e.ch, e.ctx)).recomp = none
  room : (strm d (Ch.ofNum e.ch, e.ctx)).room = n

/-- The room whose KV registers count k more relinked positions. -/
def relinksAdded (k : Nat) (m : Room) : Room := { m with kv := { m.kv with relinks := satAdd m.kv.relinks k } }

/-- Such an entry lengthens its stream and returns what its customer had set aside; no position is relinked. -/
theorem endEntry_promptChunk {d : Device} {s : Ch} {n : Nat} {e : LtEntry} (k : Nat) (h : PromptChunk d n e) :
    let q : SRef := (Ch.ofNum e.ch, e.ctx)
    (endEntry s n (d, k) e).1 =
      modLead (modStrm (modLeadRoom d s n (relinksAdded 0)) q (promptAt (reqPrompt (reqHdr d n q)) (e.ctxLen + e.qn))) s
        fun x => credit x (strm d q).customer.toNat e.aside := by
  obtain ⟨sampled, tree, recompute, state, recomp, room⟩ := h
  unfold endEntry promptAt relinksAdded
  simp [takeRecords, sampled, tree, recompute, state, recomp, room]

/-- The table of a lone prompt chunk changes one stream, and not the count of steps. -/
theorem entriesEnded_promptChunk {d : Device} {s : Ch} {n : Nat} {e : LtEntry} (alone : (leadRoom d s n).serve.table = [e])
    (h : PromptChunk d n e) :
    let q : SRef := (Ch.ofNum e.ch, e.ctx)
    (leadRoom (entriesEnded d s n) s n).steps = (leadRoom d s n).steps ∧
    ∀ p, strm (entriesEnded d s n) p =
      if p = q then promptAt (reqPrompt (reqHdr d n q)) (e.ctxLen + e.qn) (strm d q) else strm d p := by
  intro q
  rw [entriesEnded, alone, List.foldl_cons, List.foldl_nil, endEntry_promptChunk 0 h]
  constructor
  · rw [leadRoom_credit, leadRoom_modStrm, leadRoom_modLeadRoom]
    rfl
  · intro p
    rw [strm_credit, strm_modStrm, strm_modLeadRoom, strm_modLeadRoom]

/-! ## STEP_BOUNDARY (R261) -/

theorem exec_stepBoundary (u : Ch) (room : BitVec 6) (s : State) :
    exec (.stepBoundary u room) s = .next { s with dev := stepBoundary u room.toNat s.dev } := rfl

/-- A serving room's step whose records and appends are all there. -/
def stepComplete (d : Device) (u : Ch) (n : Nat) : Bool :=
  let r := leadRoom d u n
  suiteExists d u && isStarted r && servesStreams r && r.serve.inStep && (r.serve.sampled || r.serve.table.all fun e => e.sampled == 0) &&
    landed d u n

theorem stepBoundary_eq (u : Ch) (n : Nat) (d : Device) :
    stepBoundary u n d =
      if stepComplete d u n then
        spread u n 8 d (boundaryTail (stepTrigger (endTable (freeRetired (modLead d u takeSignal) u) u n) u n) u n)
      else d := rfl

/-! ## Boundaries of idle rooms (R748) -/

/-- A STARTED serving room of a suite, with no step in progress. -/
def idleServing (d : Device) (u : Ch) (n : Nat) : Bool :=
  suiteExists d u && isStarted (leadRoom d u n) && servesStreams (leadRoom d u n) && !(leadRoom d u n).serve.inStep

theorem idleOnce_eq (d : Device) (u : Ch) (n : Nat) :
    idleOnce d u n = if idleServing d u n then boundaryTail (freeRetired d u) u n else d := rfl

theorem idleBoundary_of_idle {d : Device} {u : Ch} {n : Nat} (h : idleServing d u n = true) :
    idleBoundary d u n = spread u n 8 d (boundaryTail (freeRetired d u) u n) := by
  rw [idleBoundary, idleOnce_eq, h, if_pos rfl]

theorem idleBoundary_of_busy {d : Device} {u : Ch} {n : Nat} (h : idleServing d u n = false) : idleBoundary d u n = d := by
  rw [idleBoundary, idleOnce_eq, h, if_neg Bool.false_ne_true, spread_self]

theorem idleServing_modStrm (d : Device) (q : SRef) (f : StreamCtx → StreamCtx) (u : Ch) (n : Nat) :
    idleServing (modStrm d q f) u n = idleServing d u n := by
  unfold idleServing
  rw [leadRoom_modStrm]
  rfl

/-! ## HOLD_DL_EXPIRY and PIN_DL_EXPIRY (R270, R296) -/

theorem exec_holdDlExpiry (c : Ch) (i : BitVec 16) (s : State) :
    exec (.holdDlExpiry c i) s = .next { s with dev := holdExpiry c i.toNat s.dev } := rfl
theorem exec_pinDlExpiry (c : Ch) (i : BitVec 16) (s : State) :
    exec (.pinDlExpiry c i) s = .next { s with dev := pinExpiry c i.toNat s.dev } := rfl

/-- From s to t the context q has become k, and nothing else has changed. -/
def OnlyStream (q : SRef) (k : StreamCtx) (s t : State) : Prop :=
  OnlyChannel q.1 s t ∧ strm t.dev q = k ∧ ∀ j, j ≠ q → strm t.dev j = strm s.dev j

theorem onlyStream_modStrm (s : State) (q : SRef) (f : StreamCtx → StreamCtx) :
    OnlyStream q (f (strm s.dev q)) s { s with dev := modStrm s.dev q f } :=
  ⟨⟨rfl, rfl, rfl, rfl, rfl, rfl, fun _ ho => chanOf_modChan_ne s.dev _ ho⟩, by rw [strm_modStrm, if_pos rfl],
    fun j hj => by rw [strm_modStrm, if_neg hj]⟩

/-- A stream is changed and its room offered a boundary: a room that is not idle leaves it at the change, an idle one holds the boundary. -/
theorem idleBoundary_modStrm (s : State) (q : SRef) (f : StreamCtx → StreamCtx) (u : Ch) (n : Nat) {o : Out}
    (runs : o = .next { s with dev := idleBoundary (modStrm s.dev q f) u n }) :
    (idleServing s.dev u n = false → ∃ t, o = .next t ∧ OnlyStream q (f (strm s.dev q)) s t) ∧
    (idleServing s.dev u n = true → ∃ t m, o = .next t ∧ OnlyStream q (f (strm s.dev q)) s m ∧
      t.dev = spread u n 8 m.dev (boundaryTail (freeRetired m.dev u) u n)) := by
  have changed := onlyStream_modStrm s q f
  constructor
  · intro busy
    rw [idleBoundary_of_busy ((idleServing_modStrm ..).trans busy)] at runs
    exact ⟨_, runs, changed⟩
  · intro idle
    exact ⟨_, _, runs, changed, idleBoundary_of_idle ((idleServing_modStrm ..).trans idle)⟩

theorem holdExpiry_of_held {c u : Ch} {i : Nat} {d : Device} (hu : suiteOfChan d c = some u) (held : (strm d (c, i)).state = .held)
    (limited : (strm d (c, i)).holdDl.isSome = true) :
    holdExpiry c i d = idleBoundary (modStrm d (c, i) fun k => { k with holdDl := some 0 }) u (strm d (c, i)).room := by
  simp [holdExpiry, hu, held, limited]

theorem pinExpiry_of_pinned {c u : Ch} {i : Nat} {d : Device} (hu : suiteOfChan d c = some u) (used : (strm d (c, i)).state ≠ .free)
    (lives : (strm d (c, i)).state ≠ .ending) (limited : (strm d (c, i)).pinDl.isSome = true) :
    pinExpiry c i d = idleBoundary (modStrm d (c, i) fun k => { k with pinDl := some 0 }) u (strm d (c, i)).room := by
  simp [pinExpiry, hu, used, lives, limited]

/-! ## BUDGET_RETEST_TIMER (R748) -/

theorem exec_budgetRetestTimer (u : Ch) (s : State) : exec (.budgetRetestTimer u) s = .next { s with dev := budgetRetest u s.dev } := rfl

section
variable {α β : Type} (p : β → α → Bool) (f : β → α → β)

/-- A fold that acts only where a test holds, over a list where it holds nowhere. -/
theorem foldl_ite_of_none {l : List α} {x : β} (h : ∀ a ∈ l, p x a = false) : l.foldl (fun y a => if p y a then f y a else y) x = x := by
  refine List.foldlRecOn l _ (motive := fun y => y = x) rfl fun y hy a ha => ?_
  rw [hy, h a ha]
  exact if_neg Bool.false_ne_true

/-- Over a list where the test holds at one member, before and after that member's turn, the fold acts once. -/
theorem foldl_ite_of_one {l : List α} (nodup : l.Nodup) {x : β} {b : α} (hb : b ∈ l) (holds : p x b = true)
    (others : ∀ a ∈ l, a ≠ b → p x a = false ∧ p (f x b) a = false) :
    l.foldl (fun y a => if p y a then f y a else y) x = f x b := by
  obtain ⟨before, after, rfl⟩ := List.append_of_mem hb
  have parts := List.nodup_append.mp nodup
  have first : ∀ a ∈ before, p x a = false := fun a ha =>
    (others a (List.mem_append_left _ ha) (parts.2.2 a ha b List.mem_cons_self)).1
  have last : ∀ a ∈ after, p (f x b) a = false := fun a ha =>
    (others a (List.mem_append_right _ (List.mem_cons_of_mem _ ha))
      (fun e => (List.nodup_cons.mp parts.2.1).1 (e ▸ ha))).2
  rw [List.foldl_append, foldl_ite_of_none p f first, List.foldl_cons, if_pos holds, foldl_ite_of_none p f last]

end

/-- An idle room with a held stream that could go on. -/
def retestHolds (u : Ch) (d : Device) (n : Nat) : Bool := !(leadRoom d u n).serve.inStep && heldCould d u n

theorem budgetRetest_eq (u : Ch) (d : Device) :
    budgetRetest u d = roomIndexes.foldl (fun d n => if retestHolds u d n then idleBoundary d u n else d) d := rfl

theorem budgetRetest_of_none {u : Ch} {d : Device} (h : ∀ n ∈ roomIndexes, retestHolds u d n = false) : budgetRetest u d = d :=
  foldl_ite_of_none (retestHolds u) (fun d n => idleBoundary d u n) h

theorem budgetRetest_of_one {u : Ch} {d : Device} {n : Nat} (hn : n ∈ roomIndexes) (holds : retestHolds u d n = true)
    (others : ∀ m ∈ roomIndexes, m ≠ n → retestHolds u d m = false ∧ retestHolds u (idleBoundary d u n) m = false) :
    budgetRetest u d = idleBoundary d u n :=
  foldl_ite_of_one (retestHolds u) (fun d n => idleBoundary d u n) List.nodup_range hn holds others

/-! ## Boundaries and their timers -/

/-- Settles O45: a step's end by what ending its table leaves, a deadline as a stream's change followed by its room's boundary, and the retest
as a fold that acts at one room. -/
theorem boundariesRun : Obligations.BoundariesRun := by
  unfold Obligations.BoundariesRun
  intro s
  refine ⟨fun u room => ⟨?waits, ?ends⟩, fun c u i hu => ⟨?hold, ?pin⟩, fun u => ⟨?none, ?one⟩⟩
  case waits =>
    intro unready
    have runs := exec_stepBoundary u room s
    rw [stepBoundary_eq, show stepComplete s.dev u room.toNat = false from unready, if_neg Bool.false_ne_true] at runs
    exact runs
  case ends =>
    intro ready d0
    have runs := exec_stepBoundary u room s
    rw [stepBoundary_eq, show stepComplete s.dev u room.toNat = true from ready, if_pos rfl] at runs
    refine ⟨_, endTable d0 u room.toNat, runs, rfl, ?_⟩
    rw [leadRoom_endTable, tableDone_serve, tableDone_steps]
    refine ⟨rfl, rfl, rfl, fun e alone hsampled htree hrecompute => ?_⟩
    intro q hstate hrecomp hroom
    obtain ⟨steps, streams⟩ := entriesEnded_promptChunk alone ⟨hsampled, htree, hrecompute, hstate, hrecomp, hroom⟩
    have grown := (strm_endTable d0 u room.toNat q).trans ((streams q).trans (if_pos rfl))
    refine ⟨congrArg (· + 1) steps, ?_, ?_, fun p hp => (strm_endTable ..).trans ((streams p).trans (if_neg hp))⟩
    · rw [grown, promptAt_len]
    · rw [grown, promptAt_state hstate]
  case hold =>
    intro held limited
    have runs := exec_holdDlExpiry c i s
    rw [holdExpiry_of_held hu held limited] at runs
    exact idleBoundary_modStrm s (c, i.toNat) _ u _ runs
  case pin =>
    intro used lives limited
    have runs := exec_pinDlExpiry c i s
    rw [pinExpiry_of_pinned hu used lives limited] at runs
    exact idleBoundary_modStrm s (c, i.toNat) _ u _ runs
  case none =>
    intro nowhere
    have runs := exec_budgetRetestTimer u s
    rw [budgetRetest_of_none nowhere] at runs
    exact runs
  case one =>
    intro n hn holds others
    have runs := exec_budgetRetestTimer u s
    rw [budgetRetest_of_one hn holds others] at runs
    exact ⟨_, runs, rfl⟩

end Sys2Proof.Machine

end

section

namespace Sys2Proof.Machine

/-! ## What one command changes of channels, and what it sends -/

theorem onlyChannel_modChan (c : Ch) (s : State) (f : Channel → Channel) : OnlyChannel c s { s with dev := modChan s.dev c f } :=
  onlyChannel_setChan c s _

theorem onlyChannels_refl (s : State) : OnlyChannels [] [] s s := ⟨rfl, rfl, rfl, rfl, rfl, rfl, fun _ _ => rfl⟩

theorem onlyChannels_modChan (c : Ch) (s : State) (f : Channel → Channel) : OnlyChannels [c] [] s { s with dev := modChan s.dev c f } :=
  ⟨rfl, rfl, rfl, rfl, rfl, rfl, fun _ ho => chanOf_modChan_ne s.dev f (by simpa using ho)⟩

/-- A further change of the one channel that a command changes. -/
theorem OnlyChannels.modChan {c : Ch} {msgs : List OutMsg} {s : State} {d : Device} (h : OnlyChannels [c] msgs s { s with dev := d })
    (f : Channel → Channel) : OnlyChannels [c] msgs s { s with dev := Machine.modChan d c f } := by
  obtain ⟨pending, board, fy, suites, free, out, others⟩ := h
  exact ⟨pending, board, fy, suites, free, out, fun o ho => (chanOf_modChan_ne d f (by simpa using ho)).trans (others o ho)⟩

/-! ## Control messages (R496, R509) -/

/-- A channel names itself, finds its Ethernet peers and owes credits as another does. -/
structure SameSender (x y : Channel) : Prop where
  started : y.started = x.started
  node : nodeOf y = nodeOf x
  way : ∀ q, ethWay y q = ethWay x q

theorem SameSender.refl (x : Channel) : SameSender x x := ⟨rfl, rfl, fun _ => rfl⟩
theorem SameSender.trans {x y z : Channel} (h : SameSender x y) (g : SameSender y z) : SameSender x z :=
  ⟨g.started.trans h.started, g.node.trans h.node, fun q => (g.way q).trans (h.way q)⟩

theorem sameSender_modRoomC (x : Channel) (n : Nat) (f : Room → Room) : SameSender x (modRoomC x n f) := ⟨rfl, rfl, fun _ => rfl⟩

/-- Pages, their pools and memories are no part of what sends. -/
theorem OnlyStore.sameSender {x y : Channel} (h : OnlyStore x y) : SameSender x y := by rw [h.2]; exact ⟨rfl, rfl, fun _ => rfl⟩
theorem OnlyPages.sameSender {x y : Channel} (h : OnlyPages x y) : SameSender x y := h.store.sameSender

/-- A change of one channel that leaves its node leaves every channel's. -/
theorem nodeOf_modChan {d : Device} {c : Ch} {f : Channel → Channel} (h : nodeOf (f (chanOf d c)) = nodeOf (chanOf d c)) (o : Ch) :
    nodeOf (chanOf (modChan d c f) o) = nodeOf (chanOf d o) := by
  rw [chanOf_modChan]
  split
  next ho => rw [h, ho]
  next => rfl

theorem msgOf_congr {d d' : Device} {c : Ch} (h : SameSender (chanOf d c) (chanOf d' c)) (node : BitVec 18) (queue : W32) (bytes : List Byte) :
    msgOf d' c node queue bytes = msgOf d c node queue bytes := by
  unfold msgOf
  rw [h.way]

theorem laneOf_congr {x y : Channel} (h : y.lanes = x.lanes) (node : BitVec 18) (queue : W32) : laneOf y node queue = laneOf x node queue := by
  unfold laneOf
  rw [h]

/-- A lane set for one receiver and queue leaves that of another. -/
theorem laneOf_setLane_ne (x : Channel) (l : MsgLane) {node : BitVec 18} {queue : W32} (h : ¬(l.node = node ∧ l.queue = queue)) :
    laneOf (setLane x l) node queue = laneOf x node queue := by
  have new : [l].find? (fun k => k.node == node && k.queue == queue) = none := by
    rw [List.find?_singleton, if_neg (by simpa using h)]
  have old : (x.lanes.filter fun k => !(k.node == l.node && k.queue == l.queue)).find? (fun k => k.node == node && k.queue == queue) =
      x.lanes.find? fun k => k.node == node && k.queue == queue := by
    rw [List.find?_filter]
    congr 1
    funext k
    rw [Bool.eq_iff_iff]
    simp only [decide_eq_true_eq, Bool.and_eq_true, Bool.not_eq_true', Bool.and_eq_false_iff, beq_iff_eq, beq_eq_false_iff_ne]
    refine ⟨And.right, fun hk => ⟨Decidable.not_and_iff_not_or_not.mp fun g => h ⟨g.1.symm.trans hk.1, g.2.symm.trans hk.2⟩, hk⟩⟩
  unfold laneOf setLane
  dsimp only
  rw [List.find?_append, new, old, Option.or_none]

/-- The channel once a message has left it: one more in flight on its lane, and the causal counter raised. -/
def messageLeaves (m : Msg) (x : Channel) : Channel :=
  causalUp (setLane x { laneOf x m.node m.queue with inFlight := (laneOf x m.node m.queue).inFlight + 1 })

/-- While fewer than four are in flight to its receiver and queue a message leaves at once. -/
theorem sendMsg_of_credit {d : Device} {c : Ch} {m : Msg} (h : (laneOf (chanOf d c) m.node m.queue).inFlight < 4) :
    sendMsg d c m = send (modChan d c (messageLeaves m)) (msgOf d c m.node m.queue m.bytes) := by
  have left : sendMsg d c m = putMsg (modChan d c (messageLeaves m)) c m := if_pos h
  have way : ethWay (chanOf (modChan d c (messageLeaves m)) c) m.node = ethWay (chanOf d c) m.node := by rw [chanOf_modChan_same]; rfl
  rw [left]
  unfold putMsg msgOf
  rw [way]
  cases ethWay (chanOf d c) m.node with
  | some j => rfl
  | none => rfl

/-- With four in flight it is kept. -/
theorem sendMsg_of_full {d : Device} {c : Ch} {m : Msg} (h : ¬(laneOf (chanOf d c) m.node m.queue).inFlight < 4) :
    sendMsg d c m = modChan d c fun x => setLane x { laneOf x m.node m.queue with waiting := (laneOf x m.node m.queue).waiting ++ [m] } :=
  if_neg h

/-- A channel but for its lanes and its causal counter. -/
def SameButLanes (x y : Channel) : Prop := y = { x with lanes := y.lanes, node := { x.node with count := y.node.count } }

theorem SameButLanes.trans {x y z : Channel} (h : SameButLanes x y) (g : SameButLanes y z) : SameButLanes x z := by
  unfold SameButLanes at *; rw [g, h]
theorem SameButLanes.rooms {x y : Channel} (h : SameButLanes x y) : y.rooms = x.rooms := by rw [h]
theorem SameButLanes.ctrlItems {x y : Channel} (h : SameButLanes x y) : y.ctrlItems = x.ctrlItems := by rw [h]
theorem SameButLanes.sameSender {x y : Channel} (h : SameButLanes x y) : SameSender x y := by rw [h]; exact ⟨rfl, rfl, fun _ => rfl⟩

/-- Messages of one channel: lanes and causal counter of it change, and what had been sent before has been. -/
structure MessagesOnly (c : Ch) (d d' : Device) : Prop where
  fy : d'.fy = d.fy
  suites : d'.suites = d.suites
  free : d'.free = d.free
  chan : SameButLanes (chanOf d c) (chanOf d' c)
  others : ∀ o, o ≠ c → chanOf d' o = chanOf d o
  sent : d.out <:+ d'.out

theorem MessagesOnly.refl (c : Ch) (d : Device) : MessagesOnly c d d := ⟨rfl, rfl, rfl, rfl, fun _ _ => rfl, List.suffix_refl _⟩
theorem MessagesOnly.trans {c : Ch} {d e f : Device} (h : MessagesOnly c d e) (g : MessagesOnly c e f) : MessagesOnly c d f where
  fy := g.fy.trans h.fy
  suites := g.suites.trans h.suites
  free := g.free.trans h.free
  chan := h.chan.trans g.chan
  others o ho := (g.others o ho).trans (h.others o ho)
  sent := h.sent.trans g.sent

theorem messagesOnly_sendMsg (d : Device) (c : Ch) (m : Msg) : MessagesOnly c d (sendMsg d c m) := by
  by_cases h : (laneOf (chanOf d c) m.node m.queue).inFlight < 4
  · rw [sendMsg_of_credit h]
    refine ⟨rfl, rfl, rfl, ?_, fun o ho => chanOf_modChan_ne d _ ho, List.suffix_cons _ _⟩
    rw [chanOf_send, chanOf_modChan_same]
    rfl
  · rw [sendMsg_of_full h]
    refine ⟨rfl, rfl, rfl, ?_, fun o ho => chanOf_modChan_ne d _ ho, List.suffix_refl _⟩
    rw [chanOf_modChan_same]
    rfl

theorem messagesOnly_foldl {α : Type} {c : Ch} {f : Device → α → Device} (h : ∀ d a, MessagesOnly c d (f d a)) (l : List α) (d : Device) :
    MessagesOnly c d (l.foldl f d) :=
  List.foldlRecOn l f (motive := MessagesOnly c d) (.refl c d) fun e he a _ => he.trans (h e a)

theorem laneOf_sendMsg_ne {d : Device} {c : Ch} {m : Msg} {node : BitVec 18} {queue : W32} (h : ¬(m.node = node ∧ m.queue = queue)) :
    laneOf (chanOf (sendMsg d c m) c) node queue = laneOf (chanOf d c) node queue := by
  have named : (laneOf (chanOf d c) m.node m.queue).node = m.node ∧ (laneOf (chanOf d c) m.node m.queue).queue = m.queue := by
    unfold laneOf
    split
    next l found => simpa using List.find?_some found
    next => exact ⟨rfl, rfl⟩
  by_cases credit : (laneOf (chanOf d c) m.node m.queue).inFlight < 4
  · rw [sendMsg_of_credit credit, chanOf_send, chanOf_modChan_same]
    exact laneOf_setLane_ne _ _ (by simpa only [named] using h)
  · rw [sendMsg_of_full credit, chanOf_modChan_same]
    exact laneOf_setLane_ne _ _ (by simpa only [named] using h)

/-- Of several messages each of another receiver or queue than m leaves m's lane, so that m leaves at once when its turn comes. -/
theorem mem_out_foldl_sendMsg {c : Ch} {m : Msg} (l : List Msg) (d : Device) (hm : m ∈ l)
    (alone : ∀ k ∈ l, k.node = m.node ∧ k.queue = m.queue → k = m) (credit : (laneOf (chanOf d c) m.node m.queue).inFlight < 4) :
    msgOf d c m.node m.queue m.bytes ∈ (l.foldl (fun d k => sendMsg d c k) d).out := by
  induction l generalizing d with
  | nil => cases hm
  | cons k l ih =>
    rw [List.foldl_cons]
    by_cases hk : k = m
    · have rest := messagesOnly_foldl (c := c) (fun d k => messagesOnly_sendMsg d c k) l (sendMsg d c m)
      rw [hk]
      refine rest.sent.subset ?_
      rw [sendMsg_of_credit credit]
      exact List.mem_cons_self
    · have apart : ¬(k.node = m.node ∧ k.queue = m.queue) := fun h => hk (alone k List.mem_cons_self h)
      have sent := ih (sendMsg d c k) ((List.mem_cons.mp hm).resolve_left (Ne.symm hk))
        (fun j hj => alone j (List.mem_cons_of_mem k hj)) (by rwa [laneOf_sendMsg_ne apart])
      rwa [msgOf_congr (messagesOnly_sendMsg d c k).chan.sameSender] at sent

/-! ## The credit of a message that has been consumed (R496) -/

theorem consumed_eq {c : Ch} {node : BitVec 18} {d d' : Device} (h : SameSender (chanOf d c) (chanOf d' c)) :
    consumed c node d' = { d' with out := creditOf d c node ++ d'.out } := by
  unfold consumed creditOf
  rw [h.started, h.node]
  by_cases hs : (chanOf d c).started = true <;> by_cases hn : node = nodeOf (chanOf d c) <;> simp [hs, hn, send]

theorem consumed_chans (c : Ch) (node : BitVec 18) (d : Device) : (consumed c node d).chans = d.chans := by
  rw [consumed_eq (.refl (chanOf d c))]
@[simp] theorem chanOf_consumed (c : Ch) (node : BitVec 18) (d : Device) (o : Ch) : chanOf (consumed c node d) o = chanOf d o := by
  unfold chanOf; rw [consumed_chans]

theorem OnlyChannels.consumed {l : List Ch} {msgs : List OutMsg} {s : State} {d : Device} {c : Ch} (node : BitVec 18)
    (h : OnlyChannels l msgs s { s with dev := d }) (same : SameSender (chanOf s.dev c) (chanOf d c)) :
    OnlyChannels l (creditOf s.dev c node ++ msgs) s { s with dev := Machine.consumed c node d } := by
  obtain ⟨pending, board, fy, suites, free, out, others⟩ := h
  rw [consumed_eq same]
  refine ⟨pending, board, fy, suites, free, ?_, others⟩
  rw [List.append_assoc, ← out]

/-- A message that is consumed without any effect returns its credit. -/
theorem onlyChannels_consumed_self (s : State) (c : Ch) (node : BitVec 18) :
    OnlyChannels [] (creditOf s.dev c node) s { s with dev := consumed c node s.dev } := by
  simpa using (onlyChannels_refl s).consumed node (.refl (chanOf s.dev c))

/-- A message that changes its receiver alone, and sends nothing. -/
theorem onlyChannels_consumed_modChan (s : State) (c : Ch) (node : BitVec 18) {f : Channel → Channel}
    (same : SameSender (chanOf s.dev c) (f (chanOf s.dev c))) :
    OnlyChannels [c] (creditOf s.dev c node) s { s with dev := consumed c node (modChan s.dev c f) } := by
  simpa using (onlyChannels_modChan c s f).consumed node (by rwa [chanOf_modChan_same])

/-- A message that leaves at once. -/
theorem onlyChannels_sendMsg {s : State} {c : Ch} {m : Msg} (h : (laneOf (chanOf s.dev c) m.node m.queue).inFlight < 4) :
    OnlyChannels [c] [msgOf s.dev c m.node m.queue m.bytes] s { s with dev := sendMsg s.dev c m } := by
  rw [sendMsg_of_credit h]
  exact ⟨rfl, rfl, rfl, rfl, rfl, rfl, fun o ho => chanOf_modChan_ne s.dev _ (by simpa using ho)⟩

end Sys2Proof.Machine

end

section

namespace Sys2Proof.Machine

/-! ## State pages on their way into T1 (R424) -/

theorem onlyPages_markMoving (r : PageRef) (promote : Bool) (place : Nat) (x : Channel) : OnlyPages x (markMoving r promote place x) :=
  (onlyPages_modPte x r _).trans (onlyPages_withMoves _ _)

theorem onlyPages_startPromote {x y : Channel} {r : PageRef} (h : startPromote x r = some y) : OnlyPages x y := by
  unfold startPromote at h
  dsimp only at h
  split at h
  · obtain ⟨t, ht, rfl⟩ := Option.map_eq_some_iff.mp h
    exact (onlyPages_grabFrame x t ht).trans (onlyPages_markMoving r true t.1.toNat t.2)
  · cases h

theorem onlyPages_startEvict {x y : Channel} {r : PageRef} (h : startEvict x r = some y) : OnlyPages x y := by
  unfold startEvict at h
  split at h
  · obtain ⟨t, ht, rfl⟩ := Option.map_eq_some_iff.mp h
    exact (onlyPages_takeCellar x t ht).trans (onlyPages_markMoving r false t.1.toNat t.2)
  · cases h

theorem onlyPages_windowPage (n : Nat) (keep : List Nat) (x : Channel) (page : Nat) : OnlyPages x (windowPage n keep x page) := by
  unfold windowPage
  extract_lets r p shared inWindow vs
  split
  · exact onlyPages_cancelEvict x r
  · split
    · exact .refl x
    · split
      next y hy => exact onlyPages_startPromote hy
      next =>
        split
        next y hy =>
          obtain ⟨v, -, hv⟩ := Option.bind_eq_some_iff.mp hy
          exact (onlyPages_startEvict hv).trans (onlyPages_withBoth y _ _)
        next => exact .refl x

theorem onlyPages_fetchState (n : Nat) (x : Channel) (p : Nat) : OnlyPages x (fetchState n x p) := by
  unfold fetchState
  split
  · exact .refl x
  · exact onlyPages_windowPage n [] x p

theorem onlyPages_fetchDeferred (n : Nat) (x : Channel) : OnlyPages x (fetchDeferred n x) :=
  onlyPages_foldl _ (onlyPages_fetchState n) _ x

theorem SameButPages.update {r q : Room} (h : SameButPages r q) : q.update = r.update := by rw [h]
theorem SameButPages.upd {r q : Room} (h : SameButPages r q) : q.upd = r.upd := by rw [h]
theorem SameButPages.prog {r q : Room} (h : SameButPages r q) : q.prog = r.prog := by rw [h]
theorem OnlyPages.ctrlItems {x y : Channel} (h : OnlyPages x y) : y.ctrlItems = x.ctrlItems := by rw [h.2]

/-! ## The next group of arrived units (R426) -/

/-- A list of arrived units as it goes onto the controller queue: behind the bitmap and the units listed before, with one token. -/
def groupItem (n : Nat) (r : Room) (l : List Nat) : CtrlItem :=
  { room := n, tok := (Config.ctrlTok 1).toNat, writes := [(r.upd.recAddr.toNat + 64 + 64 * bitmapLines r + 4 * r.update.listed, l.flatMap (leBytes 4))] }

/-- The place of a list follows from the record's address, the program's units, and how many units are listed. -/
theorem groupItem_congr {r q : Room} (n : Nat) (l : List Nat) (upd : q.upd.recAddr = r.upd.recAddr) (prog : q.prog = r.prog)
    (listed : q.update.listed = r.update.listed) : groupItem n q l = groupItem n r l := by
  unfold groupItem bitmapLines unitsOf
  rw [upd, prog, listed]

/-- A room that has posted its next group of at most 4,096 units. -/
def groupPosted (r : Room) : Room := { r with update := { r.update with
  group := true, arrived := r.update.arrived.drop 4096, listed := r.update.listed + (r.update.arrived.take 4096).length } }

/-- A group may be posted: none is open, units have arrived, and the record stands. -/
def GroupDue (u : UpdState) : Prop := u.group = false ∧ u.arrived ≠ [] ∧ u.record.isSome = true

/-- One more item on the controller queue. -/
def queueItem (i : CtrlItem) (x : Channel) : Channel := { x with ctrlItems := x.ctrlItems ++ [i] }

@[simp] theorem roomOf_queueItem (i : CtrlItem) (x : Channel) (n : Nat) : roomOf (queueItem i x) n = roomOf x n := rfl
@[simp] theorem ctrlItems_queueItem (i : CtrlItem) (x : Channel) : (queueItem i x).ctrlItems = x.ctrlItems ++ [i] := rfl

theorem groupDue_iff (u : UpdState) : (u.group || u.arrived.isEmpty || u.record.isNone) = false ↔ GroupDue u := by
  unfold GroupDue
  simp only [Bool.or_eq_false_iff, List.isEmpty_eq_false_iff, Option.isNone_eq_false_iff, and_assoc, ne_eq]

theorem postGroup_of_due {n : Nat} {x : Channel} (h : GroupDue (roomOf x n).update) :
    postGroup n x = queueItem (groupItem n (roomOf x n) ((roomOf x n).update.arrived.take 4096)) (modRoomC x n groupPosted) :=
  if_neg (by rw [(groupDue_iff _).mpr h]; exact Bool.false_ne_true)

theorem postGroup_of_not_due {n : Nat} {x : Channel} (h : ¬GroupDue (roomOf x n).update) : postGroup n x = x :=
  if_pos (by rwa [← groupDue_iff, Bool.not_eq_false] at h)

/-- What posting leaves of a room: its update but for the group, and its record registers. -/
theorem postGroup_keeps (n : Nat) (x : Channel) :
    (roomOf (postGroup n x) n).upd = (roomOf x n).upd ∧ (roomOf (postGroup n x) n).update.record = (roomOf x n).update.record ∧
    ∃ l, (postGroup n x).ctrlItems = x.ctrlItems ++ l := by
  by_cases h : GroupDue (roomOf x n).update
  · rw [postGroup_of_due h, roomOf_queueItem, roomOf_modRoomC_same]
    exact ⟨rfl, rfl, _, rfl⟩
  · rw [postGroup_of_not_due h]
    exact ⟨rfl, rfl, [], (List.append_nil _).symm⟩

/-! ## UPDATE_START_SIGNAL (R355, R424, R643) -/

theorem exec_updateStartSignal (c : Ch) (room : BitVec 6) (s : State) :
    exec (.updateStartSignal c room) s = .next { s with dev := updateStart c room.toNat s.dev } := rfl

/-- The room may begin its update: it trains, no update has begun or is held, and its last micro-batch has retired. -/
def MayUpdate (x : Channel) (n : Nat) : Prop :=
  isStarted (roomOf x n) = true ∧ trains (roomOf x n) = true ∧ (roomOf x n).update.updating = false ∧ (roomOf x n).update.held = false ∧
  mbRetired x n = true

theorem mayUpdate_iff (x : Channel) (n : Nat) :
    (!isStarted (roomOf x n) || !trains (roomOf x n) || (roomOf x n).update.updating || (roomOf x n).update.held || !mbRetired x n) = false ↔
      MayUpdate x n := by
  unfold MayUpdate
  simp only [Bool.or_eq_false_iff, Bool.not_eq_false', and_assoc]

theorem updateStart_of_not {c : Ch} {n : Nat} {d : Device} (h : ¬MayUpdate (chanOf d c) n) : updateStart c n d = d := by
  rw [← mayUpdate_iff, Bool.not_eq_false] at h
  unfold updateStart
  split
  · rfl
  · exact if_pos h

theorem updateStart_of_may {c u : Ch} {n : Nat} {d : Device} (hu : suiteOfChan d c = some u) (h : MayUpdate (chanOf d c) n) :
    updateStart c n d =
      if stepCapture (leadRoom d u n) then modChan d c fun x => modRoomC (takeSignal x) n fun r => { r with update := { r.update with held := true } }
      else modChan d c fun x => startUpdate n (takeSignal x) := by
  rw [← mayUpdate_iff] at h
  unfold updateStart
  simp only [hu, h, Bool.false_eq_true, ↓reduceIte]

/-- The units of a room's shard with a state page in T2. -/
def coldUnits (x : Channel) (n : Nat) : List Nat :=
  (List.range (unitsOf (roomOf x n)).length).filter fun k => ((unitsOf (roomOf x n)).getD k []).any (pageInT2 x n)

theorem startUpdate_spec (n : Nat) (x : Channel) :
    let q := roomOf (startUpdate n x) n
    q.update.updating = true ∧ q.update.deferred = coldUnits x n ∧ q.update.arrived = [] ∧ q.update.listed = 0 ∧
    q.upd = { (roomOf x n).upd with deferred := satAdd (roomOf x n).upd.deferred (coldUnits x n).length } := by
  unfold startUpdate
  extract_lets us cold warm
  have same := (onlyPages_fetchDeferred n (modRoomC x n fun r => { r with
    update := { r.update with
      updating := true, held := false, deferred := cold, arrived := [], listed := 0, group := false, holds := warm.map fun u => (us.getD u [], us.getD u []) },
    upd := { r.upd with deferred := satAdd r.upd.deferred cold.length } })).1 n
  rw [roomOf_modRoomC_same] at same
  rw [same.update, same.upd]
  exact ⟨rfl, rfl, rfl, rfl, rfl⟩

/-! ## DEFERRED_UNIT_ARRIVAL, CONSUMED_GROUP_SIGNAL (R426) -/

theorem exec_deferredUnitArrival (c : Ch) (room : BitVec 6) (k : Nat) (s : State) :
    exec (.deferredUnitArrival c room k) s = .next { s with dev := modChan s.dev c (unitArrives room.toNat k) } := rfl

theorem exec_consumedGroupSignal (c : Ch) (room : BitVec 6) (s : State) :
    exec (.consumedGroupSignal c room) s = .next { s with dev := modChan s.dev c (groupConsumed room.toNat) } := rfl

/-- A room with one of its deferred units arrived. -/
def unitArrived (k : Nat) (r : Room) : Room := { r with update := { r.update with
  deferred := r.update.deferred.filter (· != k), arrived := r.update.arrived ++ [k] } }

/-- A unit none of whose pages is left in T2 arrives: from a channel on which only pages move, the next group is posted. -/
theorem unitArrives_of_in_t1 {n k : Nat} {x : Channel} (hk : k ∈ (roomOf x n).update.deferred)
    (ht : ((unitsOf (roomOf x n)).getD k []).any (pageInT2 x n) = false) :
    ∃ y, OnlyPages (modRoomC x n (unitArrived k)) y ∧ unitArrives n k x = postGroup n y := by
  have arrives : ((roomOf x n).update.deferred.contains k && !((unitsOf (roomOf x n)).getD k []).any (pageInT2 x n)) = true := by
    rw [ht, List.contains_iff_mem.mpr hk]
    rfl
  exact ⟨_, onlyPages_fetchDeferred n _, if_pos arrives⟩

theorem groupConsumed_of_closed {n : Nat} {x : Channel} (h : (roomOf x n).update.group = false) : groupConsumed n x = x :=
  if_neg (by rw [h]; exact Bool.false_ne_true)

/-- A channel once the program has consumed a group. -/
def groupClosed (n : Nat) (x : Channel) : Channel := modRoomC (takeSignal x) n fun r => { r with update := { r.update with group := false } }

theorem groupConsumed_of_open {n : Nat} {x : Channel} (h : (roomOf x n).update.group = true) :
    groupConsumed n x = postGroup n (groupClosed n x) := if_pos h

theorem roomOf_groupClosed (n : Nat) (x : Channel) :
    roomOf (groupClosed n x) n = { roomOf x n with update := { (roomOf x n).update with group := false } } := roomOf_modRoomC_same ..

end Sys2Proof.Machine

end

section

namespace Sys2Proof.Machine

/-! ## What the record is formed from (R406) -/

/-- A byte of room memory follows from the room's windows, pages and bytes, and from the common pages. -/
theorem roomByte_congr {x y : Channel} {n : Nat} (windows : (roomOf y n).windows = (roomOf x n).windows)
    (pages : (roomOf y n).pages = (roomOf x n).pages) (mem : (roomOf y n).mem = (roomOf x n).mem) (common : y.commonMem = x.commonMem) (a : Nat) :
    roomByte y n a = roomByte x n a := by
  unfold roomByte resolve
  rw [windows, pages, mem, common]

/-- A room with its update changed. -/
def withUpdate (f : UpdState → UpdState) (r : Room) : Room := { r with update := f r.update }

/-- The record does not depend on what the root keeps of its update. -/
theorem formRecord_withUpdate (x : Channel) (n : Nat) (f : UpdState → UpdState) (sums : List SubSum) :
    formRecord (modRoomC x n (withUpdate f)) n sums = formRecord x n sums := by
  have same := roomOf_modRoomC_same x n (withUpdate f)
  have bytes : roomByte (modRoomC x n (withUpdate f)) n = roomByte x n := funext fun a =>
    roomByte_congr (x := x) (y := modRoomC x n (withUpdate f)) (by rw [same]; rfl) (by rw [same]; rfl) (by rw [same]; rfl) rfl a
  unfold formRecord learnRate readRoomLe readRoom
  rw [bytes, same]
  rfl

/-! ## The record at a channel (R405) -/

/-- The record and the bitmap of the units deferred or arrived, as they go onto the controller queue. -/
def recordItem (nr : NormRec) (n : Nat) (r : Room) : CtrlItem :=
  { room := n, tok := (Config.ctrlTok 1).toNat,
    writes := [(r.upd.recAddr.toNat, recordBytes nr), (r.upd.recAddr.toNat + 64, bitmapBytes r (r.update.deferred ++ r.update.arrived))] }

/-- A room that has the record. -/
def recordPlaced (nr : NormRec) (r : Room) : Room :=
  { r with update := { r.update with record := some nr }, upd := { r.upd with lastSumsq := nr.sumsq } }

theorem placeRecord_eq (nr : NormRec) (n : Nat) (x : Channel) :
    placeRecord nr n x = postGroup n (queueItem (recordItem nr n (roomOf x n)) (modRoomC x n (recordPlaced nr))) := rfl

theorem placeRecord_spec (nr : NormRec) (n : Nat) (x : Channel) :
    let r := roomOf x n
    let q := roomOf (placeRecord nr n x) n
    q.update.record = some nr ∧ q.upd = { r.upd with lastSumsq := nr.sumsq } ∧
    ∃ i l, (placeRecord nr n x).ctrlItems = x.ctrlItems ++ i :: l ∧ i.room = n ∧ (r.upd.recAddr.toNat, recordBytes nr) ∈ i.writes := by
  intro r q
  obtain ⟨upd, record, l, items⟩ := postGroup_keeps n (queueItem (recordItem nr n r) (modRoomC x n (recordPlaced nr)))
  rw [← placeRecord_eq] at upd record items
  rw [roomOf_queueItem, roomOf_modRoomC_same] at upd record
  exact ⟨record, upd, recordItem nr n r, l, items.trans (List.append_assoc ..), rfl, List.mem_cons_self⟩

/-- Posting a group and placing a record leave what a channel sends with. -/
theorem postGroup_lanes (n : Nat) (x : Channel) : SameSender x (postGroup n x) ∧ (postGroup n x).lanes = x.lanes := by
  by_cases h : GroupDue (roomOf x n).update
  · rw [postGroup_of_due h]
    exact ⟨⟨rfl, rfl, fun _ => rfl⟩, rfl⟩
  · rw [postGroup_of_not_due h]
    exact ⟨.refl x, rfl⟩

theorem placeRecord_lanes (nr : NormRec) (n : Nat) (x : Channel) :
    SameSender x (placeRecord nr n x) ∧ (placeRecord nr n x).lanes = x.lanes := by
  have queued : SameSender x (queueItem (recordItem nr n (roomOf x n)) (modRoomC x n (recordPlaced nr))) := ⟨rfl, rfl, fun _ => rfl⟩
  obtain ⟨sender, lanes⟩ := postGroup_lanes n (queueItem (recordItem nr n (roomOf x n)) (modRoomC x n (recordPlaced nr)))
  rw [placeRecord_eq]
  exact ⟨queued.trans sender, lanes⟩

/-! ## The record on its way (R405) -/

/-- The message that brings a record to a node and a room. -/
def recordOut (nr : NormRec) (q : BitVec 18 × BitVec 6) : Msg := { node := q.1, queue := 1, reply := 0, bytes := leBytes 1 q.2.toNat ++ recordBytes nr }

theorem messagesOnly_recordMsg (d : Device) (c : Ch) (nr : NormRec) (q : BitVec 18 × BitVec 6) : MessagesOnly c d (recordMsg c nr d q) :=
  messagesOnly_sendMsg d c (recordOut nr q)

theorem messagesOnly_recordMsgs {α : Type} (c : Ch) (nr : NormRec) (g : α → BitVec 18 × BitVec 6) (l : List α) (d : Device) :
    MessagesOnly c d (l.foldl (fun d a => recordMsg c nr d (g a)) d) :=
  messagesOnly_foldl (fun d a => messagesOnly_recordMsg d c nr (g a)) l d

/-- Records to several nodes, each of another node than a's. -/
theorem mem_out_recordMsgs {α : Type} {c : Ch} {nr : NormRec} {g : α → BitVec 18 × BitVec 6} {l : List α} {d : Device} {a : α} (ha : a ∈ l)
    (alone : ∀ b ∈ l, (g b).1 = (g a).1 → b = a) (credit : (laneOf (chanOf d c) (g a).1 1).inFlight < 4) :
    msgOf d c (g a).1 1 (leBytes 1 (g a).2.toNat ++ recordBytes nr) ∈ (l.foldl (fun d a => recordMsg c nr d (g a)) d).out := by
  have sent := mem_out_foldl_sendMsg (l.map fun b => recordOut nr (g b)) d (List.mem_map_of_mem ha) (fun k hk same => ?_) credit
  · rwa [List.foldl_map] at sent
  · obtain ⟨b, hb, rfl⟩ := List.mem_map.mp hk
    rw [alone b hb same.1]

/-- The suite's other channels, as a record's lead channel serves them. -/
def otherChans (d : Device) (s c : Ch) : List Ch := (suiteChans d s).filter (· != c)

/-- A channel's node is read anew for each record, and no record moves it. -/
theorem foldl_recordMsg_nodes (c : Ch) (nr : NormRec) (room : BitVec 6) {d : Device} (l : List Ch) (e : Device)
    (h : ∀ b, nodeOf (chanOf e b) = nodeOf (chanOf d b)) :
    l.foldl (fun e b => recordMsg c nr e (nodeOf (chanOf e b), room)) e = l.foldl (fun e b => recordMsg c nr e (nodeOf (chanOf d b), room)) e := by
  induction l generalizing e with
  | nil => rfl
  | cons a l ih =>
    rw [List.foldl_cons, List.foldl_cons, h a]
    have sent := messagesOnly_recordMsg e c nr (nodeOf (chanOf d a), room)
    refine ih _ fun b => ?_
    by_cases hb : b = c
    · rw [hb, ← h c]
      exact sent.chan.sameSender.node
    · rw [← h b]
      exact congrArg nodeOf (sent.others b hb)

theorem handRecord_lead {nr : NormRec} {c u : Ch} {n : Nat} {d : Device} (hu : suiteOfChan d c = some u) (hl : leadOf d u = c) :
    handRecord nr c n d = (otherChans d u c).foldl (fun e b => recordMsg c nr e (nodeOf (chanOf d b), BitVec.ofNat 6 n))
      (modChan d c (placeRecord nr n)) := by
  rw [← foldl_recordMsg_nodes c nr (BitVec.ofNat 6 n) (otherChans d u c) _ (nodeOf_modChan (placeRecord_lanes nr n (chanOf d c)).1.node)]
  unfold handRecord
  simp only [hu, hl, ↓reduceIte]
  rfl

theorem handRecord_other {nr : NormRec} {c u : Ch} {n : Nat} {d : Device} (hu : suiteOfChan d c = some u) (hl : leadOf d u ≠ c) :
    handRecord nr c n d = modChan d c (placeRecord nr n) := by
  unfold handRecord
  simp only [hu, hl, ↓reduceIte]

/-! ## NORM_SUMS_MESSAGE (R25, R405) -/

theorem exec_normSumsMessage (c : Ch) (room : BitVec 6) (shard : BitVec 16) (m : NormMsg) (s : State) :
    exec (.normSumsMessage c room shard m) s =
      .next { s with dev := consumed c (normSender s.dev c room.toNat m) (normMessage c room.toNat shard m s.dev) } := rfl

/-- What the root keeps of its update once a shard's sums have come. -/
def sumsKept (shard : Nat) (at_ : BitVec 18 × BitVec 6) (sums : List SubSum) (w : UpdState) : UpdState := { w with
  shards := w.shards ++ [shard], sums := w.sums ++ sums, nodes := if shard = 0 then w.nodes else w.nodes.filter (·.1 != shard) ++ [(shard, at_)] }

/-- The root with a shard's sums collected. -/
def collect (n shard : Nat) (at_ : BitVec 18 × BitVec 6) (sums : List SubSum) (x : Channel) : Channel :=
  modRoomC x n (withUpdate (sumsKept shard at_ sums))

/-- A shard's first sums come to the root's lead channel: they are collected, and the record is tried. -/
theorem normMessage_sums {c u : Ch} {n : Nat} {shard : BitVec 16} {d : Device} (node : BitVec 18) (home : BitVec 6) (sums : List SubSum)
    (hu : suiteOfChan d c = some u) (hl : leadOf d u = c) (started : isStarted (roomOf (chanOf d c) n) = true)
    (training : trains (roomOf (chanOf d c) n) = true) (root : (roomOf (chanOf d c) n).upd.shard = 0)
    (new : shard.toNat ∉ (roomOf (chanOf d c) n).update.shards) (known : shard.toNat ≤ (roomOf (chanOf d c) n).upd.nshards1.toNat) :
    normMessage c n shard (.sums node home sums) d = tryNorm (modChan d c (collect n shard.toNat (node, home) sums)) c n := by
  unfold normMessage normSums
  simp only [hu, hl, started, training, root, List.contains_eq_mem, new, Nat.not_lt.mpr known, decide_false, bne_self_eq_false, Bool.not_true,
    Bool.or_self, Bool.false_eq_true, ↓reduceIte]
  rfl

theorem tryNorm_of_missing {d : Device} {c : Ch} {n k : Nat} (hk : k ≤ (roomOf (chanOf d c) n).upd.nshards1.toNat)
    (missing : k ∉ (roomOf (chanOf d c) n).update.shards) : tryNorm d c n = d := by
  unfold tryNorm
  dsimp only
  rw [if_neg]
  intro complete
  have every := (Bool.and_eq_true_iff.mp complete).2
  rw [List.all_eq_true] at every
  exact missing (by simpa using every k (List.mem_range.mpr (Nat.lt_succ_of_le hk)))

/-- With every shard's sums the record is formed, handed to the channel, and sent to the other shards. -/
theorem tryNorm_of_complete {d : Device} {c : Ch} {n : Nat} (absent : (roomOf (chanOf d c) n).update.record = none)
    (complete : ∀ k, k ≤ (roomOf (chanOf d c) n).upd.nshards1.toNat → k ∈ (roomOf (chanOf d c) n).update.shards) :
    let r := roomOf (chanOf d c) n
    let nr := formRecord (chanOf d c) n r.update.sums
    tryNorm d c n = (r.update.nodes.map (·.2)).foldl (recordMsg c nr)
      (handRecord nr c n (modRoom d c n fun r => { r with update := { r.update with shards := [], sums := [] } })) := by
  refine if_pos ?_
  rw [absent]
  simp only [Option.isNone_none, Bool.true_and, List.all_eq_true, List.mem_range, List.contains_eq_mem, decide_eq_true_eq]
  exact fun k hk => complete k (Nat.le_of_lt_succ hk)

theorem normSender_other {d : Device} {c u : Ch} (n : Nat) (nr : NormRec) (hu : suiteOfChan d c = some u) (hl : leadOf d u ≠ c) :
    normSender d c n (.record nr) = nodeOf (chanOf d (leadOf d u)) := by
  unfold normSender
  simp only [hu, hl, ↓reduceIte]

theorem normMessage_record {c u : Ch} {n : Nat} {nr : NormRec} {d : Device} (hu : suiteOfChan d c = some u)
    (started : isStarted (roomOf (chanOf d c) n) = true) (training : trains (roomOf (chanOf d c) n) = true) :
    normMessage c n (roomOf (chanOf d c) n).upd.shard (.record nr) d =
      if (roomOf (chanOf d c) n).update.record.isSome then d else handRecord nr c n d := by
  unfold normMessage
  simp only [hu, started, training, bne_self_eq_false, Bool.not_true, Bool.or_self, Bool.false_or, Bool.false_eq_true, ↓reduceIte]

end Sys2Proof.Machine

end

section

namespace Sys2Proof.Machine

/-! ## A unit's arrival and a group's end, by what the room has then -/

/-- A unit that arrives is the last of those arrived, and goes out at once where a group may be posted. -/
theorem unitArrives_spec {n k : Nat} {x : Channel} (hk : k ∈ (roomOf x n).update.deferred)
    (ht : ((unitsOf (roomOf x n)).getD k []).any (pageInT2 x n) = false) :
    let r := roomOf x n
    let y := unitArrives n k x
    let q := (roomOf y n).update
    let now := r.update.arrived ++ [k]
    q.deferred = r.update.deferred.filter (· != k) ∧
    if r.update.group = false ∧ r.update.record.isSome = true then
      q.group = true ∧ q.arrived = now.drop 4096 ∧ q.listed = r.update.listed + (now.take 4096).length ∧
      y.ctrlItems = x.ctrlItems ++ [groupItem n r (now.take 4096)]
    else q.group = r.update.group ∧ q.arrived = now ∧ q.listed = r.update.listed ∧ y.ctrlItems = x.ctrlItems := by
  intro r y q now
  obtain ⟨z, pages, arrives⟩ := unitArrives_of_in_t1 hk ht
  have room := pages.1 n
  rw [roomOf_modRoomC_same] at room
  have update : (roomOf z n).update = (unitArrived k r).update := room.update
  have items : z.ctrlItems = x.ctrlItems := pages.ctrlItems
  have posted : y = postGroup n z := arrives
  by_cases opened : r.update.group = false ∧ r.update.record.isSome = true
  · have due : GroupDue (roomOf z n).update := by
      rw [update]
      exact ⟨opened.1, List.append_ne_nil_of_right_ne_nil _ (List.cons_ne_nil _ _), opened.2⟩
    have item : groupItem n (roomOf z n) ((roomOf z n).update.arrived.take 4096) = groupItem n r (now.take 4096) := by
      rw [update]
      exact groupItem_congr n _ (congrArg UpdRoom.recAddr room.upd) room.prog (by rw [update]; rfl)
    have hq : q = (groupPosted (roomOf z n)).update := by
      show (roomOf y n).update = _
      rw [posted, postGroup_of_due due, roomOf_queueItem, roomOf_modRoomC_same]
    rw [if_pos opened, hq, posted, postGroup_of_due due, ctrlItems_queueItem]
    have changed {α : Type} (v : UpdState → α) : v (roomOf z n).update = v (unitArrived k r).update := congrArg v update
    exact ⟨changed (·.deferred), rfl, changed (·.arrived.drop 4096), changed fun w => w.listed + (w.arrived.take 4096).length,
      by rw [item, show (modRoomC z n groupPosted).ctrlItems = x.ctrlItems from items]⟩
  · have closed : ¬GroupDue (roomOf z n).update := by
      rw [update]
      exact fun h => opened ⟨h.1, h.2.2⟩
    have hq : q = (unitArrived k r).update := by
      show (roomOf y n).update = _
      rw [posted, postGroup_of_not_due closed, update]
    rw [if_neg opened, hq, posted, postGroup_of_not_due closed]
    exact ⟨rfl, rfl, rfl, rfl, items⟩

/-- A group that has been consumed is closed, and the next one goes out where units have arrived and the record stands. -/
theorem groupConsumed_spec {n : Nat} {x : Channel} (h : (roomOf x n).update.group = true) :
    let r := roomOf x n
    let y := groupConsumed n x
    let q := (roomOf y n).update
    if r.update.arrived ≠ [] ∧ r.update.record.isSome = true then
      q.group = true ∧ q.arrived = r.update.arrived.drop 4096 ∧ y.ctrlItems = x.ctrlItems ++ [groupItem n r (r.update.arrived.take 4096)]
    else q.group = false ∧ q.arrived = r.update.arrived ∧ y.ctrlItems = x.ctrlItems := by
  intro r y q
  have consumed : y = postGroup n (groupClosed n x) := groupConsumed_of_open h
  have room := roomOf_groupClosed n x
  by_cases next : r.update.arrived ≠ [] ∧ r.update.record.isSome = true
  · have due : GroupDue (roomOf (groupClosed n x) n).update := by
      rw [room]
      exact ⟨rfl, next⟩
    have hq : q = (groupPosted (roomOf (groupClosed n x) n)).update := by
      show (roomOf y n).update = _
      rw [consumed, postGroup_of_due due, roomOf_queueItem, roomOf_modRoomC_same]
    rw [if_pos next, hq, consumed, postGroup_of_due due, ctrlItems_queueItem, room]
    exact ⟨rfl, rfl, rfl⟩
  · have closed : ¬GroupDue (roomOf (groupClosed n x) n).update := by
      rw [room]
      exact fun h => next h.2
    have hq : q = (roomOf (groupClosed n x) n).update := by
      show (roomOf y n).update = _
      rw [consumed, postGroup_of_not_due closed]
    rw [if_neg next, hq, consumed, postGroup_of_not_due closed, room]
    exact ⟨rfl, rfl, rfl⟩

/-! ## The record of a job of one shard (R25, R405) -/

/-- Record nr has been handed to room n of lead channel c of suite u: it stands in the room and on the controller queue, and is on its way to every other
channel of the suite that may be sent to. -/
structure RecordHanded (u c : Ch) (n : Nat) (nr : NormRec) (d e : Device) : Prop where
  sender : SameSender (chanOf d c) (chanOf e c)
  others : ∀ o, o ≠ c → chanOf e o = chanOf d o
  record : (roomOf (chanOf e c) n).update.record = some nr
  upd : (roomOf (chanOf e c) n).upd = { (roomOf (chanOf d c) n).upd with lastSumsq := nr.sumsq }
  items : ∃ i l, (chanOf e c).ctrlItems = (chanOf d c).ctrlItems ++ i :: l ∧ i.room = n ∧
    ((roomOf (chanOf d c) n).upd.recAddr.toNat, recordBytes nr) ∈ i.writes
  sent : ∀ o ∈ suiteChans d u, o ≠ c → (laneOf (chanOf d c) (nodeOf (chanOf d o)) 1).inFlight < 4 →
    msgOf d c (nodeOf (chanOf d o)) 1 (leBytes 1 (BitVec.ofNat 6 n).toNat ++ recordBytes nr) ∈ e.out

/-- The root's sums once the record has been formed from them. -/
def sumsEnded (w : UpdState) : UpdState := { w with shards := [], sums := [] }

/-- With every shard's sums at the root's lead channel the record is formed from all of them and handed on. -/
theorem tryNorm_lead {c u : Ch} {n : Nat} {d : Device} (hu : suiteOfChan d c = some u) (hl : leadOf d u = c)
    (absent : (roomOf (chanOf d c) n).update.record = none)
    (complete : ∀ k, k ≤ (roomOf (chanOf d c) n).upd.nshards1.toNat → k ∈ (roomOf (chanOf d c) n).update.shards)
    (named : ∀ a ∈ suiteChans d u, ∀ b ∈ suiteChans d u, nodeOf (chanOf d a) = nodeOf (chanOf d b) → a = b) :
    RecordHanded u c n (formRecord (chanOf d c) n (roomOf (chanOf d c) n).update.sums) d (tryNorm d c n) := by
  let r := roomOf (chanOf d c) n
  let nr := formRecord (chanOf d c) n r.update.sums
  let e := tryNorm d c n
  let empty : Room → Room := withUpdate sumsEnded
  let d1 := modRoom d c n empty
  let d2 := modChan d1 c (placeRecord nr n)
  let d3 := handRecord nr c n d1
  have formed : e = (r.update.nodes.map (·.2)).foldl (recordMsg c nr) d3 := tryNorm_of_complete absent complete
  have handed : d3 = _ := handRecord_lead (d := d1) hu hl
  have emptied : chanOf d1 c = modRoomC (chanOf d c) n empty := chanOf_modChan_same ..
  have placed : chanOf d2 c = placeRecord nr n (modRoomC (chanOf d c) n empty) := by
    rw [← emptied]
    exact chanOf_modChan_same ..
  obtain ⟨sender, lanes⟩ := placeRecord_lanes nr n (modRoomC (chanOf d c) n empty)
  obtain ⟨record, upd, items⟩ := placeRecord_spec nr n (modRoomC (chanOf d c) n empty)
  rw [roomOf_modRoomC_same] at upd items
  rw [← placed] at sender lanes record upd items
  have toSuite : MessagesOnly c d2 d3 := by
    rw [handed]
    exact messagesOnly_recordMsgs c nr _ _ d2
  have toShards : MessagesOnly c d3 e := by
    rw [formed]
    exact messagesOnly_recordMsgs c nr id _ d3
  have sent := toSuite.trans toShards
  have room : roomOf (chanOf e c) n = roomOf (chanOf d2 c) n := roomOf_congr sent.chan.rooms n
  have before : SameSender (chanOf d c) (chanOf d2 c) := (sameSender_modRoomC _ n empty).trans sender
  have node (o : Ch) : nodeOf (chanOf d1 o) = nodeOf (chanOf d o) := nodeOf_modChan (f := fun x => modRoomC x n empty) rfl o
  have others {b : Ch} (hb : b ∈ otherChans d1 u c) : b ∈ suiteChans d u := (List.mem_filter.mp hb).1
  refine ⟨before.trans sent.chan.sameSender, fun o ho => ?others, (congrArg (·.update.record) room).trans record, (congrArg Room.upd room).trans upd, ?items,
    fun o ho hne credit => ?sent⟩
  case others =>
    rw [sent.others o ho]
    exact (chanOf_modChan_ne d1 _ ho).trans (chanOf_modChan_ne d _ ho)
  case items =>
    rw [sent.chan.ctrlItems]
    exact items
  case sent =>
    refine toShards.sent.subset ?_
    have goes := mem_out_recordMsgs (c := c) (nr := nr) (g := fun b => (nodeOf (chanOf d1 b), BitVec.ofNat 6 n)) (l := otherChans d1 u c) (d := d2) (a := o)
      (List.mem_filter.mpr ⟨ho, by simpa using hne⟩)
      (fun b hb same => named b (others hb) o ho (by rwa [node, node] at same))
      (by rw [laneOf_congr lanes, node]; exact credit)
    rw [msgOf_congr before, node] at goes
    rw [handed]
    exact goes

/-- The sums of a job's one shard come to its lead channel, and the record is formed at once. -/
theorem normMessage_last {c u : Ch} {n : Nat} {shard : BitVec 16} {d : Device} (node : BitVec 18) (home : BitVec 6) (sums : List SubSum)
    (hu : suiteOfChan d c = some u) (hl : leadOf d u = c) (started : isStarted (roomOf (chanOf d c) n) = true)
    (training : trains (roomOf (chanOf d c) n) = true) (root : (roomOf (chanOf d c) n).upd.shard = 0)
    (new : shard.toNat ∉ (roomOf (chanOf d c) n).update.shards) (known : shard.toNat ≤ (roomOf (chanOf d c) n).upd.nshards1.toNat)
    (one : (roomOf (chanOf d c) n).upd.nshards1 = 0) (absent : (roomOf (chanOf d c) n).update.record = none)
    (named : ∀ a ∈ suiteChans d u, ∀ b ∈ suiteChans d u, nodeOf (chanOf d a) = nodeOf (chanOf d b) → a = b) :
    RecordHanded u c n (formRecord (chanOf d c) n ((roomOf (chanOf d c) n).update.sums ++ sums)) d
      (normMessage c n shard (.sums node home sums) d) := by
  let r := roomOf (chanOf d c) n
  let d1 := modChan d c (collect n shard.toNat (node, home) sums)
  have collected : chanOf d1 c = collect n shard.toNat (node, home) sums (chanOf d c) := chanOf_modChan_same ..
  have kept : roomOf (chanOf d1 c) n = withUpdate (sumsKept shard.toNat (node, home) sums) r := by
    rw [collected]
    exact roomOf_modRoomC_same ..
  have before : SameSender (chanOf d c) (chanOf d1 c) := by
    rw [collected]
    exact sameSender_modRoomC _ n _
  have node_eq (o : Ch) : nodeOf (chanOf d1 o) = nodeOf (chanOf d o) := nodeOf_modChan (f := collect n shard.toNat (node, home) sums) rfl o
  have complete : ∀ k, k ≤ (roomOf (chanOf d1 c) n).upd.nshards1.toNat → k ∈ (roomOf (chanOf d1 c) n).update.shards := by
    rw [kept]
    intro k hk
    have only : r.upd.nshards1.toNat = 0 := congrArg BitVec.toNat one
    have lowest : k = 0 := Nat.le_zero.mp (Nat.le_trans hk (Nat.le_of_eq only))
    have first : shard.toNat = 0 := Nat.le_zero.mp (Nat.le_trans known (Nat.le_of_eq only))
    rw [lowest, ← first]
    exact List.mem_append_right _ (List.mem_singleton_self _)
  have formed : formRecord (chanOf d1 c) n (roomOf (chanOf d1 c) n).update.sums = formRecord (chanOf d c) n (r.update.sums ++ sums) := by
    rw [kept, collected]
    exact formRecord_withUpdate (chanOf d c) n _ _
  obtain ⟨sender, others, record, upd, items, sent⟩ := tryNorm_lead (d := d1) (n := n) hu hl (by rw [kept]; exact absent) complete
    (fun a ha b hb same => named a ha b hb (by rwa [node_eq, node_eq] at same))
  rw [formed] at record upd items sent
  rw [kept] at upd items
  rw [collected] at items
  rw [normMessage_sums node home sums hu hl started training root new known]
  refine ⟨before.trans sender, fun o ho => (others o ho).trans (chanOf_modChan_ne d _ ho), record, upd, items, fun o ho hne credit => ?_⟩
  have goes := sent o ho hne (by
    rw [node_eq, collected]
    exact credit)
  rwa [msgOf_congr before, node_eq] at goes

end Sys2Proof.Machine

end

section

namespace Sys2Proof.Machine

/-- Settles O49: the scan and the groups by what posting leaves, the sums by their collection, and the record where it is placed and sent on. -/
theorem updateUnitsArrive : Obligations.UpdateUnitsArrive := by
  unfold Obligations.UpdateUnitsArrive
  intro s c u room n x r cold posts hu
  refine ⟨fun idle => ?idle, fun started training updating held retired => ?start, fun k hk ht => ?arrival,
    ⟨fun closed => ?closed, fun opened => ?group⟩, fun shard node home sums hl started training root new known =>
      ⟨fun missing => ?sums, fun one absent named => ?last⟩,
    fun nr hl started training => ⟨fun stands => ?again, fun absent => ?record⟩⟩
  case idle =>
    have barred : ¬MayUpdate x n := by
      rintro ⟨started, training, updating, held, retired⟩
      simp only [r] at idle
      simp [started, training, updating, held, retired] at idle
    rw [exec_updateStartSignal, updateStart_of_not barred]
  case start =>
    have runs := exec_updateStartSignal c room s
    rw [updateStart_of_may hu ⟨started, training, updating, held, retired⟩] at runs
    by_cases capture : stepCapture (leadRoom s.dev u n) = true
    · rw [if_pos capture] at runs
      refine ⟨_, runs, onlyChannel_modChan c s _, ?_⟩
      rw [if_pos capture]
      dsimp only
      rw [chanOf_modChan_same]
      exact roomOf_modRoomC_same ..
    · rw [if_neg capture] at runs
      refine ⟨_, runs, onlyChannel_modChan c s _, ?_⟩
      rw [if_neg capture]
      dsimp only
      rw [chanOf_modChan_same]
      exact startUpdate_spec n (takeSignal x)
  case arrival =>
    refine ⟨_, exec_deferredUnitArrival c room k s, onlyChannel_modChan c s _, ?_⟩
    dsimp only [posts]
    rw [chanOf_modChan_same]
    exact unitArrives_spec hk ht
  case closed =>
    rw [exec_consumedGroupSignal, modChan, groupConsumed_of_closed closed, setChan_chanOf]
  case group =>
    refine ⟨_, exec_consumedGroupSignal c room s, onlyChannel_modChan c s _, ?_⟩
    dsimp only [posts]
    rw [chanOf_modChan_same]
    exact groupConsumed_spec opened
  case sums =>
    obtain ⟨k, hk, absent⟩ := missing
    have runs := exec_normSumsMessage c room shard (.sums node home sums) s
    have collected : roomOf (chanOf (modChan s.dev c (collect n shard.toNat (node, home) sums)) c) n =
        withUpdate (sumsKept shard.toNat (node, home) sums) r := by
      rw [chanOf_modChan_same]
      exact roomOf_modRoomC_same ..
    rw [normMessage_sums node home sums hu hl started training root new known,
      tryNorm_of_missing (k := k) (by rw [collected]; exact hk) (by rw [collected]; exact absent)] at runs
    refine ⟨_, runs, onlyChannels_consumed_modChan s c node (sameSender_modRoomC x n _), ?_⟩
    dsimp only
    rw [chanOf_consumed, collected]
    simp only [withUpdate, sumsKept, BitVec.toNat_eq]
    rfl
  case last =>
    have runs := exec_normSumsMessage c room shard (.sums node home sums) s
    obtain ⟨sender, others, record, upd, items, sent⟩ :=
      normMessage_last node home sums hu hl started training root new known one absent named
    have number : BitVec.ofNat 6 n = room := by rw [BitVec.ofNat_toNat, BitVec.setWidth_eq]
    rw [number] at sent
    refine ⟨_, runs, ?_⟩
    dsimp only
    simp only [chanOf_consumed]
    refine ⟨record, congrArg UpdRoom.lastSumsq upd, items, others, fun o ho hne credit => ?_⟩
    rw [consumed_eq sender]
    exact List.mem_append_right _ (sent o ho hne credit)
  case again =>
    have runs := exec_normSumsMessage c room r.upd.shard (.record nr) s
    rw [normMessage_record hu started training, if_pos stands, normSender_other n nr hu hl] at runs
    exact ⟨_, runs, onlyChannels_consumed_self s c _⟩
  case record =>
    have runs := exec_normSumsMessage c room r.upd.shard (.record nr) s
    have new : ¬(roomOf x n).update.record.isSome = true := by
      rw [show (roomOf x n).update.record = none from absent]
      exact Bool.false_ne_true
    rw [normMessage_record hu started training, if_neg new, normSender_other n nr hu hl, handRecord_other hu hl] at runs
    refine ⟨_, runs, onlyChannels_consumed_modChan s c _ (placeRecord_lanes nr n x).1, ?_⟩
    dsimp only
    rw [chanOf_consumed, chanOf_modChan_same]
    exact placeRecord_spec nr n x

end Sys2Proof.Machine

end

section

namespace Sys2Proof.Machine

/-! ## References end: the owner (R388, R393) -/

/-- A room with other references: of its shadows those stay that a reference needs, and SHADOWS counts them. -/
def withRefs (refs : List VerRef) (r : Room) : Room := { r with
  train := { r.train with refs := refs, shadows := keptShadows refs r.train.shadows },
  trn := { r.trn with shadows := BitVec.ofNat 32 (keptShadows refs r.train.shadows).length } }

/-- The references of a room beside one reader's to one version. -/
def otherRefs (reader : W64) (wgen : W32) (r : Room) : List VerRef := r.train.refs.filter fun q => !sameRef reader wgen q

/-- Shadows that are freed give up their pages, and those alone. -/
theorem setRefs_same (x : Channel) (n : Nat) (refs : List VerRef) :
    SameButPages (withRefs refs (roomOf x n)) (roomOf (setRefs x n refs) n) := by
  unfold setRefs showShadows
  extract_lets r keep gone y
  have freed := (onlyPages_freeRoomPages y n (gone.map fun s => r.trn.shdBase.toNat / pageBytes + s.slot)).1 n
  rw [roomOf_modRoomC_same] at freed ⊢
  unfold SameButPages at freed ⊢
  rw [freed]
  rfl

theorem setRefs_ne (x : Channel) {n m : Nat} (refs : List VerRef) (h : m ≠ n) : SameButPages (roomOf x m) (roomOf (setRefs x n refs) m) := by
  unfold setRefs showShadows
  extract_lets r keep gone y
  rw [roomOf_modRoomC_ne _ _ h, ← roomOf_modRoomC_ne x _ h]
  exact (onlyPages_freeRoomPages y n _).1 m

theorem sameSender_setRefs (x : Channel) (n : Nat) (refs : List VerRef) : SameSender x (setRefs x n refs) := by
  unfold setRefs showShadows
  extract_lets r keep gone y
  exact (sameSender_modRoomC x n _).trans ((onlyPages_freeRoomPages y n _).sameSender.trans (sameSender_modRoomC _ n _))

/-- After a release the owner has the reader's reference to the version no more. -/
theorem refs_dropRef (n : Nat) (reader : W64) (wgen : W32) (x : Channel) (m : Nat) :
    (roomOf (dropRef n reader wgen x) m).train.refs = if m = n then otherRefs reader wgen (roomOf x m) else (roomOf x m).train.refs := by
  unfold dropRef
  split
  next h => rw [h, setRefs_same]; rfl
  next h => rw [setRefs_ne x _ h]

/-- A view of a room that reads neither its references and shadows nor its pages and memory. -/
structure NoRefs {α : Type} (w : Room → α) : Prop where
  pages : ∀ r q, SameButPages r q → w q = w r
  refs : ∀ r refs, w (withRefs refs r) = w r

theorem roomView_dropRef {α : Type} {w : Room → α} (hw : NoRefs w) (m n : Nat) (reader : W64) (wgen : W32) (x : Channel) :
    roomView m w (dropRef n reader wgen x) = roomView m w x := by
  unfold roomView dropRef
  by_cases h : m = n
  · rw [h]
    exact (hw.pages _ _ (setRefs_same ..)).trans (hw.refs ..)
  · exact hw.pages _ _ (setRefs_ne x _ h)

/-! ## References begin: the owner (R388, R389) -/

/-- A room with a reader's reference to a version, or with its lease renewed. -/
def referenced (reader : W64) (wgen : W32) (ms : Nat) (r : Room) : Room := { r with train := { r.train with
  refs := otherRefs reader wgen r ++ [⟨reader, wgen, ms + r.trn.leaseMs.toNat⟩] } }

theorem registerRef_of_refused {x : Channel} {n : Nat} (reader : W64) {wgen : W32}
    (h : regRefused (roomOf x n).train (roomOf x n).trn.vwPages.toNat wgen = true) : registerRef x n reader wgen = none := if_pos h

theorem registerRef_of_kept {x : Channel} {n : Nat} (reader : W64) {wgen : W32}
    (h : regRefused (roomOf x n).train (roomOf x n).trn.vwPages.toNat wgen = false) :
    registerRef x n reader wgen = some (modRoomC x n (referenced reader wgen (nowMs x))) := if_neg (by rw [h]; exact Bool.false_ne_true)

/-! ## A reader's messages to an owner (R388, R453) -/

/-- The bytes of a registration, or of a release. -/
def readerBytes (x : Channel) (n : Nat) (h : HeldRef) (release : Bool) : List Byte :=
  leBytes 1 (b2n release) ++ leBytes 1 h.room.toNat ++ leBytes 8 (readerId x n h.mb).toNat ++ leBytes 4 h.wgen.toNat

theorem readerMsg_eq (d : Device) (c : Ch) (n : Nat) (h : HeldRef) (release : Bool) :
    readerMsg d c n h release = sendMsg d c { node := h.node, queue := 1, reply := 0, bytes := readerBytes (chanOf d c) n h release } := rfl

theorem messagesOnly_readerMsg (d : Device) (c : Ch) (n : Nat) (h : HeldRef) (release : Bool) : MessagesOnly c d (readerMsg d c n h release) := by
  rw [readerMsg_eq]
  exact messagesOnly_sendMsg d c _

/-- Messages leave every room as it is. -/
theorem MessagesOnly.keeps {α : Type} {c : Ch} {d d' : Device} (h : MessagesOnly c d d') (m : Nat) (w : Room → α) : Keeps (roomView m w) d d' :=
  .of_suites h.suites fun o => by
    by_cases ho : o = c
    · rw [ho]; exact roomView_rooms m w h.chan.rooms
    · rw [h.others o ho]

/-! ## References held: the reader (R388, R453) -/

/-- A room that holds a reference, in place of what its micro-batch held of the same owner. -/
def keptRef (g : HeldRef) (r : Room) : Room := { r with train := { r.train with
  held := r.train.held.filter (fun k => !(k.node == g.node && k.room == g.room && k.mb == g.mb)) ++ [g] } }

theorem askRef_of_far {c : Ch} {n : Nat} {h : HeldRef} {d : Device} (far : h.node ≠ nodeOf (chanOf d c)) :
    askRef c n h d = modChan (readerMsg d c n h false) c fun x => modRoomC x n (keptRef h) := if_pos (by simpa using far)

/-- The version under which a room registers a reader: the one asked for, or the owner's own where that is refused. -/
def versionGiven (o : Room) (wgen : W32) : W32 := if regRefused o.train o.trn.vwPages.toNat wgen then o.trn.wgen else wgen

/-- A channel on which a micro-batch of room n has registered for a version with room m. -/
def registeredHere (n m : Nat) (g : HeldRef) (x : Channel) : Channel :=
  modRoomC (modRoomC x m (referenced (readerId x n g.mb) g.wgen (nowMs x))) n (keptRef g)

theorem askRef_of_own {c : Ch} {n : Nat} {h : HeldRef} {d : Device} (own : h.node = nodeOf (chanOf d c)) :
    let o := roomOf (chanOf d c) h.room.toNat
    let w := versionGiven o h.wgen
    askRef c n h d = if regRefused o.train o.trn.vwPages.toNat w then d
      else modChan d c (registeredHere n h.room.toNat { h with wgen := w }) := by
  intro o w
  have near : (h.node != nodeOf (chanOf d c)) = false := by rw [own]; exact bne_self_eq_false _
  unfold askRef
  simp only [near, Bool.false_eq_true, ↓reduceIte]
  by_cases first : regRefused o.train o.trn.vwPages.toNat h.wgen = true
  · have hw : w = o.trn.wgen := if_pos first
    rw [registerRef_of_refused _ first, hw]
    dsimp only
    by_cases again : regRefused o.train o.trn.vwPages.toNat o.trn.wgen = true
    · rw [registerRef_of_refused _ again, if_pos again]
    · rw [registerRef_of_kept _ (by simpa using again), if_neg again]
      exact modChan_setChan d c _ _
  · have hw : w = h.wgen := if_neg first
    rw [registerRef_of_kept _ (by simpa using first), hw, if_neg first]
    exact modChan_setChan d c _ _

theorem chanOf_askRef_ne (c : Ch) (n : Nat) (h : HeldRef) (d : Device) {o : Ch} (ho : o ≠ c) : chanOf (askRef c n h d) o = chanOf d o := by
  by_cases own : h.node = nodeOf (chanOf d c)
  · rw [askRef_of_own own]
    split
    · rfl
    · exact chanOf_modChan_ne d _ ho
  · rw [askRef_of_far own, chanOf_modChan_ne _ _ ho]
    exact (messagesOnly_readerMsg d c n h false).others o ho

/-- A view of a room that reads neither its references nor those it holds. -/
def NoAsked {α : Type} (w : Room → α) : Prop := ∀ (r : Room) refs held, w { r with train := { r.train with refs := refs, held := held } } = w r

theorem keeps_askRef {α : Type} {w : Room → α} (hw : NoAsked w) (m : Nat) (c : Ch) (n : Nat) (h : HeldRef) (d : Device) :
    Keeps (roomView m w) d (askRef c n h d) := by
  have kept (g : HeldRef) (x : Channel) : roomView m w (modRoomC x n (keptRef g)) = roomView m w x :=
    roomView_modRoomC x m n w _ fun r => hw r r.train.refs _
  by_cases own : h.node = nodeOf (chanOf d c)
  · rw [askRef_of_own own]
    split
    · exact .refl d
    · exact keeps_modChan d c _ fun x => (kept _ _).trans (roomView_modRoomC x m _ w _ fun r => hw r _ r.train.held)
  · rw [askRef_of_far own]
    exact ((messagesOnly_readerMsg d c n h false).keeps m w).trans (keeps_modChan _ c _ (kept h))

theorem keeps_renewRefs {α : Type} {w : Room → α} (hw : NoAsked w) (m : Nat) (c : Ch) (n : Nat) (d : Device) :
    Keeps (roomView m w) d (renewRefs c n d) := keeps_foldl _ (fun d h => keeps_askRef hw m c n h d) _ d

theorem chanOf_renewRefs_ne (c : Ch) (n : Nat) (d : Device) {o : Ch} (ho : o ≠ c) : chanOf (renewRefs c n d) o = chanOf d o :=
  foldl_view (chanOf · o) (fun d h => chanOf_askRef_ne c n h d ho) _ d

theorem renewRefs_of_none {c : Ch} {n : Nat} {d : Device} (h : (roomOf (chanOf d c) n).train.held = []) : renewRefs c n d = d := by
  unfold renewRefs
  rw [h]
  rfl

end Sys2Proof.Machine

end

section

namespace Sys2Proof.Machine

/-! ## MICROBATCH_RETIRE (R357, R388) -/

theorem exec_microbatchRetire (c : Ch) (room : BitVec 6) (s : State) :
    exec (.microbatchRetire c room) s = .next { s with dev := retireMb c room.toNat s.dev } := rfl

/-- A room that has counted a micro-batch. -/
def mbCounted (r : Room) : Room := { r with
  train := { r.train with mb := r.train.mb + 1, droppedSegs := [] }, trn := { r.trn with mbRetired := satInc r.trn.mbRetired } }

/-- A room that has given up the references it held. -/
def heldEnded (r : Room) : Room := { r with train := { r.train with held := [] } }

/-- One held reference ends: with the channel's own Ballutos at once, with any other's by message. -/
def releaseRef (c : Ch) (n : Nat) (x : Channel) (d : Device) (h : HeldRef) : Device :=
  if h.node = nodeOf x then modChan d c (dropRef h.room.toNat (readerId x n h.mb) h.wgen) else readerMsg d c n h true

/-- The channel's room with a micro-batch counted and its references given up. -/
def retired (n : Nat) (x : Channel) : Channel := modRoomC (modRoomC (takeSignal x) n mbCounted) n heldEnded

theorem roomOf_retired_same (n : Nat) (x : Channel) : roomOf (retired n x) n = heldEnded (mbCounted (roomOf x n)) := by
  unfold retired
  rw [roomOf_modRoomC_same, roomOf_modRoomC_same]
  rfl

theorem roomOf_retired_ne (x : Channel) {n m : Nat} (h : m ≠ n) : roomOf (retired n x) m = roomOf x m := by
  unfold retired
  rw [roomOf_modRoomC_ne _ _ h, roomOf_modRoomC_ne _ _ h]
  rfl

/-- A micro-batch of which nothing is outstanding is counted, and the references it held end one after another. -/
theorem retireMb_of_done {c : Ch} {n : Nat} {d : Device}
    (h : (isStarted (roomOf (chanOf d c) n) && trains (roomOf (chanOf d c) n) && mbDone (chanOf d c) n) = true) :
    retireMb c n d = (roomOf (chanOf d c) n).train.held.foldl (releaseRef c n (chanOf d c)) (modChan d c (retired n)) := by
  have counted : chanOf (modChan d c fun x => modRoomC (takeSignal x) n mbCounted) c = modRoomC (takeSignal (chanOf d c)) n mbCounted :=
    chanOf_modChan_same ..
  have held : (roomOf (modRoomC (takeSignal (chanOf d c)) n mbCounted) n).train.held = (roomOf (chanOf d c) n).train.held := by
    rw [roomOf_modRoomC_same]
    rfl
  have retires : retireMb c n d = releaseHeldRefs c n (modChan d c fun x => modRoomC (takeSignal x) n mbCounted) := if_pos h
  rw [retires]
  unfold releaseHeldRefs
  dsimp only
  rw [counted, held, show modChan d c _ = setChan d c _ from rfl, modChan_setChan]
  rfl

theorem retireMb_of_not_done {c : Ch} {n : Nat} {d : Device}
    (h : (isStarted (roomOf (chanOf d c) n) && trains (roomOf (chanOf d c) n) && mbDone (chanOf d c) n) = false) : retireMb c n d = d :=
  if_neg (by rw [h]; exact Bool.false_ne_true)

theorem chanOf_releaseRef_ne (c : Ch) (n : Nat) (x : Channel) (d : Device) (h : HeldRef) {o : Ch} (ho : o ≠ c) :
    chanOf (releaseRef c n x d h) o = chanOf d o := by
  unfold releaseRef
  split
  · exact chanOf_modChan_ne d _ ho
  · exact (messagesOnly_readerMsg d c n h true).others o ho

theorem keeps_releaseRef {α : Type} {w : Room → α} (hw : NoRefs w) (m : Nat) (c : Ch) (n : Nat) (x : Channel) (d : Device) (h : HeldRef) :
    Keeps (roomView m w) d (releaseRef c n x d h) := by
  unfold releaseRef
  split
  · exact keeps_modChan d c _ fun y => roomView_dropRef hw m _ _ _ y
  · exact (messagesOnly_readerMsg d c n h true).keeps m w

/-- The channel's rooms hold no reference of a held one's reader to its version any more, where the owner is the channel itself. -/
def RefEnded (c : Ch) (n : Nat) (x : Channel) (d : Device) (h : HeldRef) : Prop :=
  h.node = nodeOf x → ∀ q ∈ (roomOf (chanOf d c) h.room.toNat).train.refs, sameRef (readerId x n h.mb) h.wgen q = false

theorem refEnded_releaseRef (c : Ch) (n : Nat) (x : Channel) (d : Device) (h : HeldRef) : RefEnded c n x (releaseRef c n x d h) h := by
  intro own q hq
  unfold releaseRef at hq
  rw [if_pos own, chanOf_modChan_same, refs_dropRef, if_pos rfl] at hq
  simpa using (List.mem_filter.mp hq).2

/-- No release brings a reference. -/
theorem refs_releaseRef_subset (c : Ch) (n : Nat) (x : Channel) (d : Device) (h : HeldRef) (m : Nat) :
    (roomOf (chanOf (releaseRef c n x d h) c) m).train.refs ⊆ (roomOf (chanOf d c) m).train.refs := by
  unfold releaseRef
  split
  · rw [chanOf_modChan_same, refs_dropRef]
    split
    · exact List.filter_sublist.subset
    · exact List.Subset.refl _
  · rw [roomOf_congr (messagesOnly_readerMsg d c n h true).chan.rooms]
    exact List.Subset.refl _

theorem RefEnded.releaseRef {c : Ch} {n : Nat} {x : Channel} {d : Device} {h : HeldRef} (e : RefEnded c n x d h) (g : HeldRef) :
    RefEnded c n x (releaseRef c n x d g) h := fun own q hq => e own q (refs_releaseRef_subset c n x d g _ hq)

/-- What the retirement of a micro-batch shows of its room. -/
def retireView (r : Room) :=
  (r.train.mb, r.train.droppedSegs, r.train.held, r.trn.mbRetired, r.upd, r.train.frames, r.cfg)

theorem noRefs_retireView : NoRefs retireView := ⟨fun r q h => by rw [h]; rfl, fun _ _ => rfl⟩

end Sys2Proof.Machine

end

section

namespace Sys2Proof.Machine

/-! ## Gradient formats (R382) -/

/-- A room but for its gradient formats, their histories, and what waits for its WS. -/
def SameButFormats (r q : Room) : Prop := q = { r with
  train := { r.train with hist := q.train.hist, gfmt := q.train.gfmt }, trn := { r.trn with fmtChanges := q.trn.fmtChanges },
  arrivals := q.arrivals }

theorem SameButFormats.upd {r q : Room} (h : SameButFormats r q) : q.upd = r.upd := by rw [h]
theorem SameButFormats.later {r q : Room} (h : SameButFormats r q) : q.later = r.later := by rw [h]
theorem SameButFormats.mem {r q : Room} (h : SameButFormats r q) : q.mem = r.mem := by rw [h]
theorem SameButFormats.held {r q : Room} (h : SameButFormats r q) : q.train.held = r.train.held := by rw [h]
theorem SameButFormats.trn {r q : Room} (h : SameButFormats r q) : q.trn = { r.trn with fmtChanges := q.trn.fmtChanges } := by rw [h]

theorem roomOf_putRoomWs_same (x : Channel) (n a : Nat) (bs : List Byte) :
    roomOf (putRoomWs x n a bs) n = { roomOf x n with arrivals := (roomOf (putRoomWs x n a bs) n).arrivals } := by
  unfold putRoomWs
  split
  · rfl
  · rw [roomOf_modRoomC_same]

theorem roomOf_putRoomWs_ne (x : Channel) {n m : Nat} (a : Nat) (bs : List Byte) (h : m ≠ n) : roomOf (putRoomWs x n a bs) m = roomOf x m := by
  unfold putRoomWs
  split
  · rfl
  · exact roomOf_modRoomC_ne x _ h

theorem gradFormats_same (n : Nat) (x : Channel) : SameButFormats (roomOf x n) (roomOf (gradFormats n x) n) := by
  unfold gradFormats
  extract_lets r ts amax hist fmts changed
  split
  · rfl
  · unfold SameButFormats
    rw [roomOf_putRoomWs_same, roomOf_modRoomC_same]

theorem gradFormats_ne (x : Channel) {n m : Nat} (h : m ≠ n) : roomOf (gradFormats n x) m = roomOf x m := by
  unfold gradFormats
  extract_lets r ts amax hist fmts changed
  split
  · rfl
  · rw [roomOf_putRoomWs_ne _ _ _ h, roomOf_modRoomC_ne _ _ h]

/-! ## END_OF_STEP_SIGNAL (R372, R387, R423, R429) -/

/-- Writes that waited for the step's end reach registers of serving, adaptation and update alone (R299, R351, R430). -/
theorem takeLater_view {α : Type} (v : Room → α) (h : ∀ r a b c l, v { r with srv := a, adp := b, upd := c, later := l } = v r) (r : Room) :
    v (takeLater r) = v r := by
  have stepped := foldl_view v (f := fun r (t : RegWord × W64) => stepWord t.1 true t.2 r)
    (fun y t => stepWord_view v (fun r a b c => h r a b c r.later) t.1 true t.2 y) r.later r
  exact (h _ _ _ _ []).trans stepped

@[simp] theorem takeLater_trn (r : Room) : (takeLater r).trn = r.trn := takeLater_view Room.trn (fun _ _ _ _ _ => rfl) r
@[simp] theorem takeLater_train (r : Room) : (takeLater r).train = r.train := takeLater_view Room.train (fun _ _ _ _ _ => rfl) r
@[simp] theorem takeLater_update (r : Room) : (takeLater r).update = r.update := takeLater_view Room.update (fun _ _ _ _ _ => rfl) r
@[simp] theorem takeLater_mem (r : Room) : (takeLater r).mem = r.mem := takeLater_view Room.mem (fun _ _ _ _ _ => rfl) r

/-- The step that a record stands for is applied; the one that it has skipped is not. -/
def recordApplies (nr : Option NormRec) : Bool := match nr with | some k => !k.skip | none => false
def recordSkips (nr : Option NormRec) : Bool := match nr with | some k => k.skip | none => false

/-- A room whose step ends, before it takes the register writes that waited. -/
def stepEnded (q : StepReport) (applied skip : Bool) (r : Room) : Room := { r with
  trn := { r.trn with wgen := if applied then r.trn.wgen + 1 else r.trn.wgen, steps := satInc r.trn.steps },
  upd := { r.upd with
    step := if applied then r.upd.step + 1 else r.upd.step, skipped := if skip then satInc r.upd.skipped else r.upd.skipped,
    fallbacks := satAdd r.upd.fallbacks q.fallbacks, clamped := satAdd r.upd.clamped q.clamped, lastStatus := (stepStatus skip q).code,
    lastFbTensor := if q.fallbacks = 0 then r.upd.lastFbTensor else q.tensor, lastFbBlock := if q.fallbacks = 0 then r.upd.lastFbBlock else q.block },
  train := { r.train with mb := 0 },
  update := { r.update with
    updating := false, held := false, deferred := [], arrived := [], listed := 0, group := false, holds := [], record := none,
    sinceBcast := if applied then r.update.sinceBcast + 1 else r.update.sinceBcast } }

theorem stepStatus_eq (skip : Bool) (q : StepReport) :
    stepStatus skip q = if skip then Status.nonFiniteStep else if q.fallbacks = 0 then Status.ok else Status.singularFallback := by
  unfold stepStatus
  by_cases h : q.fallbacks = 0 <;> simp [h]

/-- The room on a channel whose step ends, before the writes that waited: its formats are chosen, and the step is counted. -/
def endingRoom (n : Nat) (q : StepReport) (x : Channel) : Room :=
  stepEnded q (recordApplies (roomOf x n).update.record) (recordSkips (roomOf x n).update.record) (roomOf (gradFormats n (takeSignal x)) n)

/-- Register writes that wait, memory and held references are no part of a step's count; of TRN_ROOM only WGEN, STEPS and FMT_CHANGES move. -/
theorem endingRoom_spec (n : Nat) (q : StepReport) (x : Channel) :
    let r := roomOf x n
    let e := endingRoom n q x
    e.later = r.later ∧ e.mem = r.mem ∧ e.train.held = r.train.held ∧
    e.trn = { r.trn with
      wgen := if recordApplies r.update.record then r.trn.wgen + 1 else r.trn.wgen, steps := satInc r.trn.steps, fmtChanges := e.trn.fmtChanges } := by
  have formats : SameButFormats (roomOf x n) (roomOf (gradFormats n (takeSignal x)) n) := gradFormats_same n (takeSignal x)
  simp only [endingRoom, stepEnded]
  refine ⟨formats.later, formats.mem, formats.held, ?_⟩
  rw [formats.trn]

/-- UPD_ROOM at the end of a step. -/
theorem endingRoom_upd (n : Nat) (q : StepReport) (x : Channel) :
    let r := roomOf x n
    let skip := recordSkips r.update.record
    (endingRoom n q x).upd = { r.upd with
      step := if recordApplies r.update.record then r.upd.step + 1 else r.upd.step,
      skipped := if skip then satInc r.upd.skipped else r.upd.skipped,
      fallbacks := satAdd r.upd.fallbacks q.fallbacks, clamped := satAdd r.upd.clamped q.clamped,
      lastStatus := (if skip then Status.nonFiniteStep else if q.fallbacks = 0 then Status.ok else Status.singularFallback).code,
      lastFbTensor := if q.fallbacks = 0 then r.upd.lastFbTensor else q.tensor,
      lastFbBlock := if q.fallbacks = 0 then r.upd.lastFbBlock else q.block } := by
  have formats : SameButFormats (roomOf x n) (roomOf (gradFormats n (takeSignal x)) n) := gradFormats_same n (takeSignal x)
  simp only [endingRoom, stepEnded, stepStatus_eq, formats.upd]

theorem roomOf_endStepOn_same (n : Nat) (q : StepReport) (x : Channel) : roomOf (endStepOn n q x) n = takeLater (endingRoom n q x) := by
  unfold endStepOn
  rw [roomOf_modRoomC_same]
  rfl

theorem roomOf_endStepOn_ne (q : StepReport) (x : Channel) {n m : Nat} (h : m ≠ n) : roomOf (endStepOn n q x) m = roomOf x m := by
  unfold endStepOn
  rw [roomOf_modRoomC_ne _ _ h, gradFormats_ne _ h]
  rfl

theorem exec_endOfStepSignal (c : Ch) (room : BitVec 6) (q : StepReport) (s : State) :
    exec (.endOfStepSignal c room q) s =
      .next { s with board := showPower s.board (endOfStep c room.toNat q s.dev), dev := endOfStep c room.toNat q s.dev } := rfl

theorem endOfStep_of_waiting {c u : Ch} {n : Nat} {d : Device} (q : StepReport) (hu : suiteOfChan d c = some u)
    (h : isStarted (roomOf (chanOf d c) n) = false ∨ trains (roomOf (chanOf d c) n) = false ∨ (roomOf (chanOf d c) n).update.deferred ≠ []) :
    endOfStep c n q d = d := by
  have waits : (!isStarted (roomOf (chanOf d c) n) || !trains (roomOf (chanOf d c) n) ||
      !(roomOf (chanOf d c) n).update.deferred.isEmpty) = true := by
    rcases h with h | h | h
    · rw [h]; rfl
    · rw [h, Bool.not_false, Bool.or_true, Bool.true_or]
    · rw [List.isEmpty_eq_false_iff.mpr h, Bool.not_false, Bool.or_true]
  unfold endOfStep
  simp only [hu, waits, ↓reduceIte]

/-- Once every deferred unit has arrived, a frame on the Stairwell ends the room, and else the step ends. -/
theorem endOfStep_of_arrived {c u : Ch} {n : Nat} {d : Device} (q : StepReport) (hu : suiteOfChan d c = some u)
    (started : isStarted (roomOf (chanOf d c) n) = true) (training : trains (roomOf (chanOf d c) n) = true)
    (arrived : (roomOf (chanOf d c) n).update.deferred = []) :
    endOfStep c n q d =
      if (roomOf (chanOf d c) n).train.frames = [] then
        if leadOf d u = c then trainBoundary (renewRefs c n (modChan d c (endStepOn n q))) u n
        else renewRefs c n (modChan d c (endStepOn n q))
      else faultRoom (modChan d c takeSignal) u n .roomFault := by
  unfold endOfStep
  simp only [hu, started, training, arrived, List.isEmpty_nil, Bool.not_true, Bool.or_self, Bool.false_eq_true, ↓reduceIte]
  by_cases frames : (roomOf (chanOf d c) n).train.frames = [] <;> simp [frames]

/-- What the end of a step shows of its room. -/
def endView (r : Room) := (r.upd, r.later, r.trn, r.train.mb, r.update.updating, r.update.record, r.update.holds, r.mem)

theorem noAsked_endView : NoAsked endView := fun _ _ _ => rfl

end Sys2Proof.Machine

end

section

namespace Sys2Proof.Machine

/-- Settles O50: a retirement as a count and releases one after another, the end of a step as what it leaves before references are renewed. -/
theorem trainingStepsEnd : Obligations.TrainingStepsEnd := by
  unfold Obligations.TrainingStepsEnd
  intro s c room n x r
  refine ⟨fun outstanding => ?outstanding, fun done => ?retire,
    fun u q hu => ⟨fun waits => ?waits, fun started training arrived => ⟨fun frames => ?frames, fun empty => ?ends⟩⟩⟩
  case outstanding => rw [exec_microbatchRetire, retireMb_of_not_done outstanding]
  case retire =>
    have runs := exec_microbatchRetire c room s
    rw [retireMb_of_done done] at runs
    have first : chanOf (modChan s.dev c (retired n)) c = retired n x := chanOf_modChan_same ..
    have shown := (keeps_foldl (releaseRef c n x) (keeps_releaseRef noRefs_retireView n c n x) r.train.held (modChan s.dev c (retired n))).chans c
    rw [first, roomView, roomView, roomOf_retired_same] at shown
    simp only [retireView, Prod.mk.injEq] at shown
    obtain ⟨mb, segs, held, count, upd, frames, cfg⟩ := shown
    refine ⟨_, runs, fun o ho => ?_, mb, segs, held, count, upd, frames, cfg, fun h hh => ?_, fun unheld => ?_⟩
    · exact (foldl_view (chanOf · o) (fun d h => chanOf_releaseRef_ne c n x d h ho) _ _).trans (chanOf_modChan_ne s.dev _ ho)
    · exact foldl_forall_mem (refEnded_releaseRef c n x) (fun d g h e => e.releaseRef g) r.train.held _ h hh
    · rw [show (roomOf (chanOf s.dev c) room.toNat).train.held = [] from unheld]
      dsimp only [List.foldl_nil]
      rw [first]
      exact ⟨onlyChannel_modChan c s _, roomOf_retired_same n x, fun m hm => roomOf_retired_ne x hm⟩
  case waits =>
    refine ⟨_, exec_endOfStepSignal c room q s, ?_⟩
    exact endOfStep_of_waiting q hu waits
  case frames =>
    refine ⟨_, exec_endOfStepSignal c room q s, ?_⟩
    exact (endOfStep_of_arrived q hu started training arrived).trans (if_neg frames)
  case ends =>
    let d := modChan s.dev c (endStepOn n q)
    let e := endingRoom n q x
    have runs := exec_endOfStepSignal c room q s
    have ended := (endOfStep_of_arrived q hu started training arrived).trans (if_pos empty)
    have first : chanOf d c = endStepOn n q x := chanOf_modChan_same ..
    have shown := (keeps_renewRefs noAsked_endView n c n d).chans c
    rw [first, roomView, roomView, roomOf_endStepOn_same] at shown
    simp only [endView, Prod.mk.injEq, takeLater_trn, takeLater_train, takeLater_update, takeLater_mem] at shown
    obtain ⟨upd, later, trn, mb, updating, record, holds, mem⟩ := shown
    obtain ⟨waiting, bytes, holding, counted⟩ := endingRoom_spec n q x
    refine ⟨_, { s with dev := renewRefs c n d }, e, runs, fun o ho => ?others, ?boundary, endingRoom_upd n q x, waiting, upd, later, ?versions,
      mb, updating, record, holds, mem.trans bytes, fun unheld => ?alone⟩
    case others => exact (chanOf_renewRefs_ne c n d ho).trans (chanOf_modChan_ne s.dev _ ho)
    case boundary =>
      dsimp only
      rw [ended]
      split <;> rfl
    case versions =>
      rw [trn]
      exact counted
    case alone =>
      have held : (roomOf (chanOf d c) n).train.held = [] := by
        rw [first, roomOf_endStepOn_same, takeLater_train]
        exact holding.trans unheld
      rw [renewRefs_of_none held, first]
      exact ⟨onlyChannel_modChan c s _, fun k hk => roomOf_endStepOn_ne q x hk⟩

end Sys2Proof.Machine

end

section

namespace Sys2Proof.Machine

/-! ## VERSION_REGISTRATION, VERSION_RELEASE, LEASE_LAPSE (R388, R389, R393, R453) -/

theorem exec_versionRegistration (c : Ch) (room : BitVec 6) (e : VersionEvent) (wgen : W32) (s : State) :
    exec (.versionRegistration c room e wgen) s = .next { s with dev := versionEvent c room.toNat e wgen s.dev } := rfl

theorem exec_versionRelease (c : Ch) (room : BitVec 6) (reader : W64) (wgen : W32) (s : State) :
    exec (.versionRelease c room reader wgen) s =
      .next { s with dev := consumed c (reader.extractLsb' 0 18) (modChan s.dev c (dropRef room.toNat reader wgen)) } := rfl

theorem exec_leaseLapse (c : Ch) (room : BitVec 6) (reader : W64) (wgen : W32) (s : State) :
    exec (.leaseLapse c room reader wgen) s = .next { s with dev := modChan s.dev c (dropRef room.toNat reader wgen) } := rfl

/-- The owner's answer to a registration. -/
def answerOut (reader : W64) (wgen : W32) : Msg :=
  { node := reader.extractLsb' 0 18, queue := 1, reply := 0, bytes := leBytes 8 reader.toNat ++ leBytes 4 wgen.toNat }

theorem registerMsg_of_idle {c : Ch} {n : Nat} {reader : W64} {wgen : W32} {d : Device}
    (h : (isStarted (roomOf (chanOf d c) n) && trains (roomOf (chanOf d c) n)) = false) : registerMsg c n reader wgen d = d :=
  if_pos (by rw [h]; rfl)

/-- A registration that is refused changes no room, and its answer names the owner's WGEN. -/
theorem registerMsg_of_refused {c : Ch} {n : Nat} {reader : W64} {wgen : W32} {d : Device}
    (h : (isStarted (roomOf (chanOf d c) n) && trains (roomOf (chanOf d c) n)) = true)
    (refused : regRefused (roomOf (chanOf d c) n).train (roomOf (chanOf d c) n).trn.vwPages.toNat wgen = true) :
    registerMsg c n reader wgen d = sendMsg d c (answerOut reader (roomOf (chanOf d c) n).trn.wgen) := by
  unfold registerMsg
  simp only [h, Bool.not_true, Bool.false_eq_true, ↓reduceIte, registerRef_of_refused reader refused]
  rfl

theorem registerMsg_of_kept {c : Ch} {n : Nat} {reader : W64} {wgen : W32} {d : Device}
    (h : (isStarted (roomOf (chanOf d c) n) && trains (roomOf (chanOf d c) n)) = true)
    (kept : regRefused (roomOf (chanOf d c) n).train (roomOf (chanOf d c) n).trn.vwPages.toNat wgen = false) :
    registerMsg c n reader wgen d =
      sendMsg (modChan d c fun x => modRoomC x n (referenced reader wgen (nowMs x))) c (answerOut reader wgen) := by
  unfold registerMsg
  simp only [h, Bool.not_true, Bool.false_eq_true, ↓reduceIte, registerRef_of_kept reader kept]
  rfl

/-- An answer that leaves at once: rooms stand as they did, the answer follows what had been sent, and the registration's credit comes last. -/
theorem consumed_answer {c : Ch} {reader : W64} {wgen : W32} {d d1 : Device} (sender : SameSender (chanOf d c) (chanOf d1 c))
    (out : d1.out = d.out) (lanes : (chanOf d1 c).lanes = (chanOf d c).lanes)
    (credit : (laneOf (chanOf d c) (reader.extractLsb' 0 18) 1).inFlight < 4) :
    let e := consumed c (reader.extractLsb' 0 18) (sendMsg d1 c (answerOut reader wgen))
    e.out = creditOf d c (reader.extractLsb' 0 18) ++
      msgOf d c (reader.extractLsb' 0 18) 1 (leBytes 8 reader.toNat ++ leBytes 4 wgen.toNat) :: d.out ∧
    (chanOf e c).rooms = (chanOf d1 c).rooms ∧ ∀ o, o ≠ c → chanOf e o = chanOf d1 o := by
  intro e
  have sent := messagesOnly_sendMsg d1 c (answerOut reader wgen)
  have free : (laneOf (chanOf d1 c) (answerOut reader wgen).node (answerOut reader wgen).queue).inFlight < 4 := by
    rw [laneOf_congr lanes]
    exact credit
  refine ⟨?_, ?_, fun o ho => ?_⟩
  · show (consumed c _ (sendMsg d1 c _)).out = _
    rw [consumed_eq (sender.trans sent.chan.sameSender), sendMsg_of_credit free, msgOf_congr sender, ← out]
    rfl
  · rw [chanOf_consumed]
    exact sent.chan.rooms
  · rw [chanOf_consumed]
    exact sent.others o ho

/-- The end of a reference: the reader's is gone, and with it the shadows that no other needs. -/
theorem dropRef_room (n : Nat) (reader : W64) (wgen : W32) (x : Channel) :
    let r := roomOf x n
    let q := roomOf (dropRef n reader wgen x) n
    q.train.refs = otherRefs reader wgen r ∧ q.train.shadows = r.train.shadows.filter (fun v => hasRef (otherRefs reader wgen r) v.wgen) ∧
    q.trn = { r.trn with shadows := BitVec.ofNat 32 q.train.shadows.length } ∧ q.cfg = r.cfg ∧ q.acct = r.acct := by
  intro r q
  have same : SameButPages (withRefs (otherRefs reader wgen r) r) q := setRefs_same x n (otherRefs reader wgen r)
  rw [same]
  exact ⟨rfl, rfl, rfl, rfl, rfl⟩

/-! ## A micro-batch's reference (R388, R453) -/

/-- The references of a room that are none of one micro-batch's to one owner. -/
def otherHeld (node : BitVec 18) (own : BitVec 6) (mb : BitVec 12) (r : Room) : List HeldRef :=
  r.train.held.filter fun h => !(h.node == node && h.room == own && h.mb == mb)

/-- What a micro-batch holds of an owner. -/
def knownHeld (node : BitVec 18) (own : BitVec 6) (r : Room) : Option HeldRef :=
  r.train.held.find? fun h => h.node == node && h.room == own && h.mb == r.train.mb

theorem any_held_eq (node : BitVec 18) (own : BitVec 6) (r : Room) :
    (r.train.held.any fun h => h.node == node && h.room == own && h.mb == r.train.mb) = (knownHeld node own r).isSome := by
  rw [knownHeld, List.isSome_find?]

theorem firstRead_of_not {c : Ch} {n : Nat} {node : BitVec 18} {own : BitVec 6} {wgen : W32} {d : Device}
    (h : isStarted (roomOf (chanOf d c) n) = false ∨ trains (roomOf (chanOf d c) n) = false ∨
      (roomOf (chanOf d c) n).update.updating = true ∨ (knownHeld node own (roomOf (chanOf d c) n)).isSome = true) :
    firstRead c n node own wgen d = d := by
  refine if_pos ?_
  rw [any_held_eq]
  rcases h with h | h | h | h <;> simp [h]

theorem firstRead_of_may {c : Ch} {n : Nat} {node : BitVec 18} {own : BitVec 6} {wgen : W32} {d : Device}
    (started : isStarted (roomOf (chanOf d c) n) = true) (training : trains (roomOf (chanOf d c) n) = true)
    (reads : (roomOf (chanOf d c) n).update.updating = false) (new : knownHeld node own (roomOf (chanOf d c) n) = none) :
    firstRead c n node own wgen d = askRef c n ⟨node, own, wgen, (roomOf (chanOf d c) n).train.mb⟩ d := by
  refine if_neg ?_
  rw [any_held_eq, started, training, reads, new]
  exact Bool.false_ne_true

theorem readAnswer_eq (c : Ch) (n : Nat) (node : BitVec 18) (own : BitVec 6) (wgen : W32) (d : Device) :
    readAnswer c n node own wgen d = (knownHeld node own (roomOf (chanOf d c) n)).elim d fun h =>
      if h.wgen = wgen then d else askRef c n { h with wgen := wgen } d := by
  unfold readAnswer knownHeld
  dsimp only
  split
  next h known => rw [known]; rfl
  next known => rw [known]; rfl

theorem readAnswer_of_same {c : Ch} {n : Nat} {node : BitVec 18} {own : BitVec 6} {wgen : W32} {d : Device}
    (h : ((knownHeld node own (roomOf (chanOf d c) n)).all fun h => h.wgen == wgen) = true) : readAnswer c n node own wgen d = d := by
  rw [readAnswer_eq]
  cases known : knownHeld node own (roomOf (chanOf d c) n) with
  | none => rfl
  | some g =>
    rw [known] at h
    exact if_pos (by simpa using h)

theorem readAnswer_of_other {c : Ch} {n : Nat} {node : BitVec 18} {own : BitVec 6} {wgen : W32} {d : Device} {h : HeldRef}
    (known : knownHeld node own (roomOf (chanOf d c) n) = some h) (other : h.wgen ≠ wgen) :
    readAnswer c n node own wgen d = askRef c n ⟨node, own, wgen, (roomOf (chanOf d c) n).train.mb⟩ d := by
  have named := List.find?_some known
  simp only [Bool.and_eq_true, beq_iff_eq] at named
  obtain ⟨⟨hnode, hroom⟩, hmb⟩ := named
  rw [readAnswer_eq, known, ← hnode, ← hroom, ← hmb]
  exact if_neg other

/-- A reader's message to another channel's owner leaves at once, and the micro-batch holds the version that it asked for. -/
theorem askRef_far_spec {s : State} {c : Ch} {n : Nat} {h : HeldRef} (far : h.node ≠ nodeOf (chanOf s.dev c))
    (credit : (laneOf (chanOf s.dev c) h.node 1).inFlight < 4) :
    let d := askRef c n h s.dev
    OnlyChannels [c] [msgOf s.dev c h.node 1 (readerBytes (chanOf s.dev c) n h false)] s { s with dev := d } ∧
    SameSender (chanOf s.dev c) (chanOf d c) ∧ roomOf (chanOf d c) n = keptRef h (roomOf (chanOf s.dev c) n) := by
  intro d
  have asked : d = modChan (readerMsg s.dev c n h false) c fun x => modRoomC x n (keptRef h) := askRef_of_far far
  have leaves := onlyChannels_sendMsg (m := { node := h.node, queue := 1, reply := 0, bytes := readerBytes (chanOf s.dev c) n h false }) credit
  rw [← readerMsg_eq] at leaves
  have sent := messagesOnly_readerMsg s.dev c n h false
  rw [asked, chanOf_modChan_same]
  refine ⟨leaves.modChan _, sent.chan.sameSender.trans (sameSender_modRoomC _ n _), ?_⟩
  rw [roomOf_modRoomC_same, roomOf_congr sent.chan.rooms]

/-- A micro-batch that registers with its own channel: the owner's room has the reference, the micro-batch's holds it. -/
theorem registeredHere_spec (n m : Nat) (g : HeldRef) (x : Channel) :
    (roomOf (registeredHere n m g x) n).train.held = otherHeld g.node g.room g.mb (roomOf x n) ++ [g] ∧
    (roomOf (registeredHere n m g x) m).train.refs = (referenced (readerId x n g.mb) g.wgen (nowMs x) (roomOf x m)).train.refs := by
  unfold registeredHere
  rw [roomOf_modRoomC_same]
  by_cases h : n = m
  · subst h
    simp only [roomOf_modRoomC_same]
    exact ⟨rfl, rfl⟩
  · rw [roomOf_modRoomC_ne _ _ h, roomOf_modRoomC_ne _ _ (Ne.symm h), roomOf_modRoomC_same]
    exact ⟨rfl, rfl⟩

end Sys2Proof.Machine

end

section

namespace Sys2Proof.Machine

/-! ## Experience stores (R454 to R459) -/

@[simp] theorem storeOf_modStore_same (x : Channel) (j : Nat) (f : XStore → XStore) : storeOf (modStore x j f) j = f (storeOf x j) :=
  tget_tmod_same ..

theorem OnlyStore.storeOf {x y : Channel} (h : OnlyStore x y) (j : Nat) : Machine.storeOf y j = Machine.storeOf x j := by
  unfold Machine.storeOf
  rw [h.2]

/-- A store that has committed a trajectory to slot k. -/
def committed (k : Nat) (e : XStore) : XStore := { e with
  slots := tset none e.slots k (some e.reg.produced.toNat), reg := { e.reg with produced := e.reg.produced + 1 } }

/-- A commit writes room memory, and then moves the store and the causal counter of its channel. -/
theorem commitInto_spec {d d' : Device} {c : Ch} {j k : Nat} {bytes : List Byte} (h : commitInto d c j k bytes = some d') :
    ∃ e, OnlyStores d e ∧ d' = modChan e c fun x => modStore (causalUp x) j fun t =>
      { t with slots := tset none t.slots k (some (storeOf (chanOf d c) j).reg.produced.toNat), reg := { t.reg with produced := t.reg.produced + 1 } } := by
  unfold commitInto at h
  simp only [Option.bind_eq_bind, Option.bind_eq_some_iff] at h
  obtain ⟨d1, h1, d2, h2, d3, h3, d4, h4, done⟩ := h
  exact ⟨d4, (((onlyStores_writeAlloc _ _ _ _ _ _ _ h1).trans (onlyStores_writeAlloc _ _ _ _ _ _ _ h2)).trans
    (onlyStores_writeAlloc _ _ _ _ _ _ _ h3)).trans (onlyStores_writeAlloc _ _ _ _ _ _ _ h4), (Option.some.inj done).symm⟩

theorem storeOf_commitInto {d d' : Device} {c : Ch} {j k : Nat} {bytes : List Byte} (h : commitInto d c j k bytes = some d') :
    storeOf (chanOf d' c) j = committed k (storeOf (chanOf d c) j) := by
  obtain ⟨e, stores, rfl⟩ := commitInto_spec h
  rw [chanOf_modChan_same, storeOf_modStore_same]
  have same : storeOf (causalUp (chanOf e c)) j = storeOf (chanOf d c) j := (stores.1 c).storeOf j
  rw [same]
  rfl

theorem nodeOf_commitInto {d d' : Device} {c : Ch} {j k : Nat} {bytes : List Byte} (h : commitInto d c j k bytes = some d') (o : Ch) :
    nodeOf (chanOf d' o) = nodeOf (chanOf d o) := by
  obtain ⟨e, stores, rfl⟩ := commitInto_spec h
  have same : nodeOf (chanOf e o) = nodeOf (chanOf d o) := (stores.1 o).sameSender.node
  rw [← same]
  exact nodeOf_modChan (by rfl) o

/-! ## TRAJECTORY_SLOT_REQUEST (R294, R457 to R459) -/

theorem exec_trajectorySlotRequest (c : Ch) (j : BitVec 4) (t : TrajOffer) (s : State) :
    exec (.trajectorySlotRequest c j t) s = .next { s with dev := consumed c t.node (slotRequest c j.toNat t s.dev) } := rfl

/-- No channel of the device is the node: the offer is another device's. -/
def Foreign (d : Device) (node : BitVec 18) : Prop := ∀ k, nodeOf (chanOf d k) ≠ node

theorem suiteOfNode_of_foreign {d : Device} {node : BitVec 18} (h : Foreign d node) : suiteOfNode d node = none := by
  have nowhere : (Ch.all.find? fun c => nodeOf (chanOf d c) == node) = none :=
    List.find?_eq_none.mpr fun k _ => by simpa using h k
  unfold suiteOfNode
  rw [nowhere]
  rfl

/-- A change of one channel's stores moves no node. -/
theorem Foreign.modStore {d : Device} {node : BitVec 18} (h : Foreign d node) (c : Ch) (j : Nat) (f : XStore → XStore) :
    Foreign (modChan d c fun x => Machine.modStore x j f) node := fun k => by
  rw [nodeOf_modChan (by rfl)]
  exact h k

theorem offered_of_foreign {d : Device} {t : TrajOffer} (h : Foreign d t.node) : offered d t = t := by
  unfold offered
  rw [suiteOfNode_of_foreign h]

theorem trajectoryDone_of_foreign {d : Device} {t : TrajOffer} (h : Foreign d t.node) : trajectoryDone d t = d := by
  unfold trajectoryDone
  rw [suiteOfNode_of_foreign h]

theorem trajectoryWaits_of_foreign {d : Device} {t : TrajOffer} (h : Foreign d t.node) : trajectoryWaits d t = d := by
  unfold trajectoryWaits
  rw [suiteOfNode_of_foreign h]

/-- A stream of this device that ends offers its own trajectory. -/
theorem offered_of_own {d : Device} {t : TrajOffer} {g : Ch} (hg : suiteOfNode d t.node = some g)
    (handle : (strm d (refOfHandle t.handle)).handle = t.handle) (ending : (strm d (refOfHandle t.handle)).state = .ending)
    (room : (strm d (refOfHandle t.handle)).room = t.room.toNat) (deliver : (strm d (refOfHandle t.handle)).deliver = 2) :
    offered d t = { t with
      bytes := trajectory d g t.room.toNat (refOfHandle t.handle), wgenFirst := (strm d (refOfHandle t.handle)).wgenFirst } := by
  unfold offered
  simp only [hg, handle, ending, room, deliver, decide_true, Bool.and_self, ↓reduceIte]

/-- What a store asks of an offer: it is enabled, its room runs, and the trajectory fits a slot. -/
def Takes (x : Channel) (e : XStore) (bytes : List Byte) : Prop :=
  e.reg.en = true ∧ isStarted (roomOf x e.reg.room.toNat) = true ∧ 128 ≤ bytes.length ∧ bytes.length ≤ e.reg.slotPages.toNat * pageBytes

/-- The trajectory began more versions ago than the store accepts (R458). -/
def Stale (x : Channel) (e : XStore) (wgenFirst : W32) : Prop :=
  e.reg.maxLag ≠ 0 ∧ wgenFirst.toNat + e.reg.maxLag.toNat < (roomOf x e.reg.room.toNat).trn.wgen.toNat

theorem refuses_eq_false_iff (x : Channel) (e : XStore) (bytes : List Byte) :
    (!e.reg.en || !isStarted (roomOf x e.reg.room.toNat) || decide (bytes.length < 128) ||
      decide (e.reg.slotPages.toNat * pageBytes < bytes.length)) = false ↔ Takes x e bytes := by
  unfold Takes
  simp only [Bool.or_eq_false_iff, Bool.not_eq_false', decide_eq_false_iff_not, Nat.not_lt, and_assoc]

theorem stale_iff (x : Channel) (e : XStore) (wgenFirst : W32) :
    (e.reg.maxLag != 0 && decide (wgenFirst.toNat + e.reg.maxLag.toNat < (roomOf x e.reg.room.toNat).trn.wgen.toNat)) = true ↔
      Stale x e wgenFirst := by
  unfold Stale
  simp only [Bool.and_eq_true, bne_iff_ne, decide_eq_true_eq]

section
variable {c : Ch} {j : Nat} {t0 t : TrajOffer} {d : Device} (ht : offered d t0 = t)
include ht

theorem slotRequest_of_not_taken (h : ¬Takes (chanOf d c) (storeOf (chanOf d c) j) t.bytes) : slotRequest c j t0 d = d := by
  rw [← refuses_eq_false_iff, Bool.not_eq_false] at h
  unfold slotRequest
  rw [ht]
  exact if_pos h

variable (takes : Takes (chanOf d c) (storeOf (chanOf d c) j) t.bytes)
include takes

theorem slotRequest_of_stale (stale : Stale (chanOf d c) (storeOf (chanOf d c) j) t.wgenFirst) :
    slotRequest c j t0 d =
      trajectoryDone (modChan d c fun x => modStore x j fun e => { e with reg := { e.reg with stale := satInc e.reg.stale } }) t := by
  rw [← refuses_eq_false_iff] at takes
  rw [← stale_iff] at stale
  unfold slotRequest
  simp only [ht, takes, stale, Bool.false_eq_true, ↓reduceIte]

variable (recent : ¬Stale (chanOf d c) (storeOf (chanOf d c) j) t.wgenFirst)
include recent

theorem slotRequest_of_free {k : Nat} {d1 : Device} (free : freeStoreSlot (storeOf (chanOf d c) j) = some k)
    (commits : commitInto d c j k t.bytes = some d1) : slotRequest c j t0 d = trajectoryDone d1 t := by
  rw [← refuses_eq_false_iff] at takes
  rw [← stale_iff, Bool.not_eq_true] at recent
  unfold slotRequest
  simp only [ht, takes, recent, free, commits, Bool.false_eq_true, ↓reduceIte]

theorem slotRequest_of_full (full : freeStoreSlot (storeOf (chanOf d c) j) = none) (keeps : (storeOf (chanOf d c) j).reg.fullPolicy = false) :
    slotRequest c j t0 d = refuseSlot d c j t := by
  rw [← refuses_eq_false_iff] at takes
  rw [← stale_iff, Bool.not_eq_true] at recent
  unfold slotRequest
  simp only [ht, takes, recent, full, keeps, Bool.false_eq_true, ↓reduceIte]

end

/-! ## SLOT_REQUEST_RETRY (R459) -/

theorem exec_slotRequestRetry (c : Ch) (room : BitVec 6) (i : BitVec 16) (s : State) :
    exec (.slotRequestRetry c room i) s = .next { s with dev := slotRetry c room.toNat i.toNat s.dev } := rfl

theorem slotRetry_of_none {c u : Ch} {n i : Nat} {d : Device} (hu : suiteOfChan d c = some u) (h : ⟨c.num, i⟩ ∉ (leadRoom d u n).slotWaits) :
    slotRetry c n i d = d := by
  have unlisted : (leadRoom d u n).slotWaits.contains ⟨c.num, i⟩ = false := by simpa using h
  unfold slotRetry
  simp only [hu, unlisted, Bool.false_eq_true, ↓reduceIte]

/-- A room without one of its streams' waits for a slot. -/
def waitEnded (w : SlotWait) (r : Room) : Room := { r with slotWaits := r.slotWaits.filter (· != w) }

theorem slotRetry_of_waiting {c u : Ch} {n i : Nat} {d : Device} (hu : suiteOfChan d c = some u) (h : ⟨c.num, i⟩ ∈ (leadRoom d u n).slotWaits)
    (ending : (strm d (c, i)).state = .ending) :
    slotRetry c n i d = askSlot (modLeadRoom d u n (waitEnded ⟨c.num, i⟩)) u n (c, i) := by
  have waits : (leadRoom d u n).slotWaits.contains ⟨c.num, i⟩ = true := List.contains_iff_mem.mpr h
  unfold slotRetry
  simp only [hu, waits, ending, ↓reduceIte]
  rfl

/-- The request for a slot: it begins with the stream's handle. -/
def slotOut (r : Room) (m : StreamCtx) : Msg :=
  { node := r.storeNode, queue := 1, reply := 0, bytes := leBytes 4 m.handle.toNat ++ leBytes 4 m.wgenFirst.toNat ++ leBytes 1 r.store.toNat }

/-- A stream that waits asks its learner again, and waits no more. -/
theorem slotRetry_asks {c u : Ch} {n i : Nat} {d : Device} (hu : suiteOfChan d c = some u) (h : ⟨c.num, i⟩ ∈ (leadRoom d u n).slotWaits)
    (ending : (strm d (c, i)).state = .ending) (credit : (laneOf (chanOf d (leadOf d u)) (leadRoom d u n).storeNode 1).inFlight < 4) :
    leadRoom (slotRetry c n i d) u n = waitEnded ⟨c.num, i⟩ (leadRoom d u n) ∧
    (slotRetry c n i d).out =
      msgOf d (leadOf d u) (leadRoom d u n).storeNode 1 (slotOut (leadRoom d u n) (strm d (c, i))).bytes :: d.out := by
  let d1 := modLeadRoom d u n (waitEnded ⟨c.num, i⟩)
  let m := slotOut (leadRoom d u n) (strm d (c, i))
  have lead : chanOf d1 (leadOf d u) = modRoomC (chanOf d (leadOf d u)) n (waitEnded ⟨c.num, i⟩) := chanOf_modChan_same ..
  have room : leadRoom d1 u n = waitEnded ⟨c.num, i⟩ (leadRoom d u n) := leadRoom_modLeadRoom ..
  have asks : slotRetry c n i d = sendMsg d1 (leadOf d u) m := by
    rw [slotRetry_of_waiting hu h ending]
    show sendMsg d1 (leadOf d u) (slotOut (leadRoom d1 u n) (strm d1 (c, i))) = _
    rw [room, strm_modLeadRoom]
    rfl
  have free : (laneOf (chanOf d1 (leadOf d u)) m.node m.queue).inFlight < 4 := by
    rw [lead]
    exact credit
  have sender : SameSender (chanOf d (leadOf d u)) (chanOf d1 (leadOf d u)) := by
    rw [lead]
    exact sameSender_modRoomC _ n _
  rw [asks]
  refine ⟨(((messagesOnly_sendMsg d1 (leadOf d u) m).keeps n id).leadRoom u).trans room, ?_⟩
  rw [sendMsg_of_credit free, msgOf_congr sender]
  rfl

end Sys2Proof.Machine

end

section

namespace Sys2Proof.Machine

/-- Settles O51: a registration by its owner's room and its answer, a read by what its reader holds, an offer by the store's conditions, and a retry by
its request. -/
theorem versionsAndTrajectories : Obligations.VersionsAndTrajectories := by
  unfold Obligations.VersionsAndTrajectories
  intro s c x
  refine ⟨fun room reader wgen => ?owner, fun room own node wgen => ?reader, fun j o => ?offer, fun room i u hu => ?retry⟩
  case owner =>
    intro n r node refused others
    refine ⟨fun idle => ?idle, fun active credit => ?registers, fun p hp => ?ends⟩
    case idle =>
      have runs := exec_versionRegistration c room (.message reader) wgen s
      rw [versionEvent, registerMsg_of_idle idle] at runs
      exact ⟨_, runs, onlyChannels_consumed_self s c node⟩
    case registers =>
      have runs := exec_versionRegistration c room (.message reader) wgen s
      by_cases gone : refused = true
      · rw [versionEvent, registerMsg_of_refused active gone] at runs
        obtain ⟨out, rooms, beside⟩ := consumed_answer (reader := reader) (wgen := r.trn.wgen) (.refl x) rfl rfl credit
        simp only [if_pos gone]
        exact ⟨_, runs, out, roomOf_congr rooms n, beside⟩
      · have kept : refused = false := by simpa using gone
        rw [versionEvent, registerMsg_of_kept active kept] at runs
        have first : chanOf (modChan s.dev c fun x => modRoomC x n (referenced reader wgen (nowMs x))) c =
            modRoomC x n (referenced reader wgen (nowMs x)) := chanOf_modChan_same ..
        obtain ⟨out, rooms, beside⟩ := consumed_answer (d := s.dev) (reader := reader) (wgen := wgen)
          (d1 := modChan s.dev c fun x => modRoomC x n (referenced reader wgen (nowMs x)))
          (by rw [first]; exact sameSender_modRoomC x n _) rfl (by rw [first]; rfl) credit
        simp only [if_neg gone]
        refine ⟨_, runs, out, ?_, fun o ho => (beside o ho).trans (chanOf_modChan_ne s.dev _ ho)⟩
        rw [roomOf_congr rooms, first]
        exact roomOf_modRoomC_same ..
    case ends =>
      have dropped := dropRef_room n reader wgen x
      rcases List.mem_cons.mp hp with rfl | last
      · refine ⟨_, exec_versionRelease c room reader wgen s, onlyChannels_consumed_modChan s c node (sameSender_setRefs x n _), ?_⟩
        dsimp only
        rw [chanOf_consumed, chanOf_modChan_same]
        exact dropped
      · obtain rfl := List.mem_singleton.mp last
        refine ⟨_, exec_leaseLapse c room reader wgen s, onlyChannels_modChan c s _, ?_⟩
        dsimp only
        rw [chanOf_modChan_same]
        exact dropped
  case reader =>
    intro n r mb ask rest known
    refine ⟨fun idle => ?idle, fun started training reads new => ⟨fun far credit => ?far, fun near => ?near⟩, fun same => ?same,
      fun far credit other => ?other⟩
    case idle =>
      rw [exec_versionRegistration, versionEvent, firstRead_of_not idle]
    case far =>
      have runs := exec_versionRegistration c room (.firstRead node own) wgen s
      rw [versionEvent, firstRead_of_may started training reads new] at runs
      obtain ⟨only, -, holds⟩ := askRef_far_spec (n := n) (h := ⟨node, own, wgen, mb⟩) far credit
      exact ⟨_, runs, only, holds⟩
    case near =>
      intro o w kept
      have runs := exec_versionRegistration c room (.firstRead node own) wgen s
      have asked : askRef c n ⟨node, own, wgen, mb⟩ s.dev = modChan s.dev c (registeredHere n own.toNat ⟨node, own, w, mb⟩) :=
        (askRef_of_own near).trans (if_neg fun again => Bool.false_ne_true (kept.symm.trans again))
      rw [versionEvent, firstRead_of_may started training reads new, asked] at runs
      refine ⟨_, runs, onlyChannel_modChan c s _, ?_⟩
      dsimp only
      rw [chanOf_modChan_same]
      exact registeredHere_spec n own.toNat ⟨node, own, w, mb⟩ x
    case same =>
      have runs := exec_versionRegistration c room (.answer node own) wgen s
      rw [versionEvent, readAnswer_of_same same] at runs
      exact ⟨_, runs, onlyChannels_consumed_self s c node⟩
    case other =>
      obtain ⟨h, hknown, hw⟩ := other
      have runs := exec_versionRegistration c room (.answer node own) wgen s
      rw [versionEvent, readAnswer_of_other hknown hw] at runs
      obtain ⟨only, sender, holds⟩ := askRef_far_spec (n := n) (h := ⟨node, own, wgen, mb⟩) far credit
      refine ⟨_, runs, only.consumed node sender, ?_⟩
      dsimp only
      rw [chanOf_consumed]
      exact holds
  case offer =>
    intro e r stale sent
    have runs := exec_trajectorySlotRequest c j o s
    refine ⟨fun off => ?off, fun en started foreign => ⟨fun size => ?size,
        fun short long => ⟨fun old => ?old, fun recent full keeps => ?full, fun k d recent free commits => ?commits⟩⟩,
      fun g hg => ?own⟩
    case off =>
      have barred : ¬Takes x e (offered s.dev o).bytes := fun takes => by
        rcases off with h | h
        · exact Bool.false_ne_true (h.symm.trans takes.1)
        · exact Bool.false_ne_true (h.symm.trans takes.2.1)
      rw [slotRequest_of_not_taken rfl barred] at runs
      exact ⟨_, runs, onlyChannels_consumed_self s c o.node⟩
    case size =>
      have barred : ¬Takes x e o.bytes := fun ⟨_, _, hshort, hlong⟩ => by omega
      rw [slotRequest_of_not_taken (offered_of_foreign foreign) barred] at runs
      exact ⟨_, runs, onlyChannels_consumed_self s c o.node⟩
    case old =>
      rw [slotRequest_of_stale (offered_of_foreign foreign) ⟨en, started, short, long⟩ old,
        trajectoryDone_of_foreign (Foreign.modStore foreign c j.toNat _)] at runs
      refine ⟨_, runs, onlyChannels_consumed_modChan s c o.node ⟨rfl, rfl, fun _ => rfl⟩, ?_⟩
      dsimp only
      rw [chanOf_consumed, chanOf_modChan_same]
      exact storeOf_modStore_same ..
    case full =>
      rw [slotRequest_of_full (offered_of_foreign foreign) ⟨en, started, short, long⟩ recent full keeps, refuseSlot,
        trajectoryWaits_of_foreign (Foreign.modStore foreign c j.toNat _)] at runs
      refine ⟨_, runs, onlyChannels_consumed_modChan s c o.node ⟨rfl, rfl, fun _ => rfl⟩, ?_⟩
      dsimp only
      rw [chanOf_consumed, chanOf_modChan_same]
      exact storeOf_modStore_same ..
    case commits =>
      have away : Foreign d o.node := fun i => by
        rw [nodeOf_commitInto commits]
        exact foreign i
      rw [slotRequest_of_free (offered_of_foreign foreign) ⟨en, started, short, long⟩ recent free commits, trajectoryDone_of_foreign away] at runs
      refine ⟨_, runs, consumed_chans .., ?_⟩
      dsimp only
      rw [chanOf_consumed]
      exact storeOf_commitInto commits
    case own =>
      intro q m bytes handle ending mroom deliver en started short long lag k d free commits
      have recent : ¬Stale x e m.wgenFirst := fun h => h.1 lag
      rw [slotRequest_of_free (offered_of_own hg handle ending mroom deliver) ⟨en, started, short, long⟩ recent free commits] at runs
      exact ⟨_, runs, consumed_chans ..⟩
  case retry =>
    intro r w
    have runs := exec_slotRequestRetry c room i s
    refine ⟨fun unlisted => ?none, fun waits ending credit => ?asks⟩
    case none =>
      rw [runs, slotRetry_of_none hu unlisted]
    case asks =>
      obtain ⟨ended, out⟩ := slotRetry_asks hu waits ending credit
      exact ⟨_, runs, congrArg Room.slotWaits ended, _, out, rfl⟩

end Sys2Proof.Machine

end

section

namespace Sys2Proof.Machine

/-! ## A posted command finds the suites, and what its checks read, as they were -/

section
variable (op : HostOp) (p : HostPost) (d : Device) (u : Ch)

@[simp] theorem leadOf_pendingDev : leadOf (pendingDev op p d) u = leadOf d u := by unfold leadOf; rw [suiteOf_pendingDev]
@[simp] theorem suiteChans_pendingDev : suiteChans (pendingDev op p d) u = suiteChans d u := by unfold suiteChans; rw [suiteOf_pendingDev]
@[simp] theorem suiteExists_pendingDev : suiteExists (pendingDev op p d) u = suiteExists d u := by unfold suiteExists; rw [suiteOf_pendingDev]
@[simp] theorem leadRoom_pendingDev (n : Nat) : leadRoom (pendingDev op p d) u n = leadRoom d u n := by
  unfold leadRoom; rw [leadOf_pendingDev, chanOf_pendingDev]
@[simp] theorem suiteDraining_pendingDev : suiteDraining (pendingDev op p d) u = suiteDraining d u := by
  unfold suiteDraining; rw [suiteChans_pendingDev]; simp only [chanOf_pendingDev]
@[simp] theorem accessFails_pendingDev (x : Channel) (h : HostData) (reg : Nat) :
    accessFails (pendingDev op p d) x h reg = accessFails d x h reg := by
  unfold accessFails; rw [(pendingDev_only op p d).2.2.2]

end

/-- A command that leaves the functions alone leaves the slot of its post. -/
theorem postSlot_of_fns {op : HostOp} {p : HostPost} {d d1 d2 : Device} (h : d2.fy.fns = d1.fy.fns) : postSlot op p d d2 = postSlot op p d d1 := by
  unfold postSlot slotOf mbxOf fnOf
  rw [h]

/-! ## Folds that may fail -/

/-- What every step of a fold that does not fail keeps, the fold keeps. -/
theorem foldlM_keeps {α β : Type} {f : β → α → Option β} {P : β → Prop} (step : ∀ b a c, P b → f b a = some c → P c) {l : List α} {b c : β}
    (hb : P b) (h : l.foldlM f b = some c) : P c := by
  induction l generalizing b with
  | nil => cases h; exact hb
  | cons a l ih =>
    rw [List.foldlM_cons, Option.bind_eq_bind, Option.bind_eq_some_iff] at h
    obtain ⟨b1, h1, h2⟩ := h
    exact ih (step b a b1 hb h1) h2

end Sys2Proof.Machine

end

section

namespace Sys2Proof.Machine

/-! ## LOAD_WEIGHTS (R437 to R439) -/

/-- What both kinds of LOAD_WEIGHTS ask beside their own conditions. -/
structure LoadLegal (a : Accepted) (d : Device) : Prop where
  undrained : suiteDraining d a.suite = false
  suite : suiteExists d a.suite = true
  reserved : reservedClear a.params loadFields = true
  header : headerAgrees a.data.weights a.params = true
  region : regionAllows (chanOf d (leadOf d a.suite)) [1, 3, 4] 65536 (par a.params 10 4) (par a.params 64 64) (par a.params 128 64) = true
  reaches : accessFails d (chanOf d (leadOf d a.suite)) a.data (par a.params 10 4) = false

theorem namedRoom_of_exists {d : Device} {u : Ch} (h : suiteExists d u = true) (n : Nat) : namedRoom d u n = leadRoom d u n := if_pos h

theorem runLoadWeights_of_copy {a : Accepted} {d : Device} (h : LoadLegal a d) (kind : par a.params 0 2 = 0)
    (opened : opens a.data.payload 1 true (chanOf d (leadOf d a.suite)).suiteKey = true)
    (newer : ∀ k ∈ copyIxs, copyState (chanOf d (leadOf d a.suite)) k ≠ csFree → copyModel (chanOf d (leadOf d a.suite)) k = par a.params 2 2 →
      (wgenOf (chanOf d (leadOf d a.suite)) k).toNat < par a.params 32 32) :
    runLoadWeights a d = loadCopy a a.suite d := by
  have none_old : (copyIxs.any fun k => copyState (chanOf d (leadOf d a.suite)) k != csFree &&
      copyModel (chanOf d (leadOf d a.suite)) k == par a.params 2 2 &&
      decide (par a.params 32 32 ≤ (wgenOf (chanOf d (leadOf d a.suite)) k).toNat)) = false := by
    rw [List.any_eq_false]
    intro k hk hold
    simp only [Bool.and_eq_true, bne_iff_ne, ne_eq, beq_iff_eq, decide_eq_true_iff] at hold
    obtain ⟨⟨used, same⟩, older⟩ := hold
    exact absurd (newer k hk used same) (by omega)
  unfold runLoadWeights
  simp only [h.undrained, h.suite, h.reserved, h.header, h.region, h.reaches, kind, opened, none_old, beq_self_eq_true, ↓reduceIte, Bool.not_true,
    Bool.and_false, Bool.or_false, Nat.reduceLeDiff, Nat.reduceBEq, Bool.false_and, decide_false, Bool.false_eq_true]

theorem runLoadWeights_of_masters {a : Accepted} {d : Device} (h : LoadLegal a d) (kind : par a.params 0 2 = 1)
    (learner : (leadRoom d a.suite (par a.params 4 6)).cfg.kind = 2) (loaded : (leadRoom d a.suite (par a.params 4 6)).prog.isSome = true)
    (named : mayName a (leadRoom d a.suite (par a.params 4 6)) = true)
    (opened : opens a.data.payload 1 false (leadRoom d a.suite (par a.params 4 6)).key = true)
    (cont : contOk (leadRoom d a.suite (par a.params 4 6)) a.data.payload = true) :
    runLoadWeights a d = loadMasters a a.suite (par a.params 4 6) true d := by
  have prog : (leadRoom d a.suite (par a.params 4 6)).prog.isNone = false := by rw [Option.isNone_eq_false_iff]; exact loaded
  unfold runLoadWeights
  simp only [namedRoom_of_exists h.suite, h.undrained, h.suite, h.reserved, h.header, h.region, h.reaches, kind, learner, prog, named, opened, cont,
    Nat.one_ne_zero, Nat.reduceBEq, bne_self_eq_false, ↓reduceIte, Bool.not_true, Bool.and_true, Bool.and_false, Bool.or_false, Nat.reduceLeDiff,
    Bool.false_and, decide_false, Bool.false_eq_true]

/-- A copy that has been claimed is the one asked for, in the state asked for; beside channels nothing of the device changes. -/
theorem claimCopy_spec {d d' : Device} {u : Ch} {m pages k : Nat} {st : BitVec 3} (h : claimCopy d u m pages st = some (k, d')) :
    d'.fy = d.fy ∧ d'.suites = d.suites ∧ (leadCopy d' u k).reg.state = st := by
  unfold claimCopy at h
  extract_lets x ix at h
  split at h
  · cases h
  next j hj =>
    rw [Option.map_eq_some_iff] at h
    obtain ⟨e, got, he⟩ := h
    cases he
    have kept : e.fy = d.fy ∧ e.suites = d.suites := by
      refine foldlM_keeps (P := fun e : Device => e.fy = d.fy ∧ e.suites = d.suites) (fun b c b' hb hc => ?_) ⟨rfl, rfl⟩ got
      rw [Option.map_eq_some_iff] at hc
      obtain ⟨y, -, rfl⟩ := hc
      exact hb
    refine ⟨kept.1, kept.2, ?_⟩
    show (leadCopy (modLeadCopy e u k _) u k).reg.state = st
    rw [leadCopy_modLeadCopy]

@[simp] theorem copyOf_modCopy_same (x : Channel) (k : Nat) (f : WCopy → WCopy) : copyOf (modCopy x k f) k = f (copyOf x k) := tget_tmod_same ..
theorem copyOf_modCopy_ne (x : Channel) {k j : Nat} (f : WCopy → WCopy) (h : j ≠ k) : copyOf (modCopy x k f) j = copyOf x j :=
  tget_tmod_ne _ _ _ _ _ h

theorem leadCopy_modLead (d : Device) (u : Ch) (k : Nat) (f : Channel → Channel) :
    leadCopy (modLead d u f) u k = copyOf (f (chanOf d (leadOf d u))) k := by
  unfold leadCopy modLead
  rw [leadOf_modChan, chanOf_modChan_same]

/-- A device that has begun a load. -/
def withLoad (l : Load) (d : Device) : Device := { d with fy := { d.fy with loads := d.fy.loads ++ [l] } }

theorem mem_loads_withLoad (l : Load) (d : Device) : l ∈ (withLoad l d).fy.loads := List.mem_append_right _ (List.mem_singleton_self l)

theorem withLoad_fy {d d' : Device} (l : Load) (h : d'.fy = d.fy) : (withLoad l d').fy = (withLoad l d).fy := by
  unfold withLoad
  rw [h]

/-- A copy that takes what the header of an image says of it. -/
def withHeader (h : WeightHdr) (w : WCopy) : WCopy := { w with
  layers := h.layers, ppl := h.ppl, source := .image, tileLen := h.tileLen, reg := { w.reg with wgen := h.wgen, tiles := h.tiles, deferred := false } }

/-- The load of a serving copy. -/
def copyLoad (a : Accepted) (u : Ch) (k : Nat) : Load := { key := a.key, target := .copy u k, segs := a.data.payload.segs, hdr := a.data.weights }

/-- A claimed copy with its image's header, and the model with the replicas that the command lists. -/
def copyTaken (a : Accepted) (u : Ch) (k : Nat) (d : Device) : Device :=
  modLead d u fun x => modModel (modCopy x k (withHeader a.data.weights)) (par a.params 2 2) (listReplicas a.params)

theorem leadCopy_copyTaken (a : Accepted) (u : Ch) (k : Nat) (d : Device) :
    leadCopy (copyTaken a u k d) u k = withHeader a.data.weights (leadCopy d u k) :=
  (leadCopy_modLead ..).trans (copyOf_modCopy_same ..)

theorem loadCopy_of_claimed {a : Accepted} {u : Ch} {d d1 : Device} {k : Nat}
    (h : claimCopy d u (par a.params 2 2) a.data.weights.pages.toNat csLoading = some (k, d1)) :
    loadCopy a u d = (withLoad (copyLoad a u k) (copyTaken a u k d1), .wait .load) := by
  unfold loadCopy
  simp only [h]
  rfl

/-- The load of a learner's masters, with the pages that it took. -/
def mastersLoad (a : Accepted) (u : Ch) (n : Nat) (took : List (Ch × Nat × Nat)) : Load :=
  { key := a.key, target := .masters u n, segs := a.data.payload.segs, hdr := a.data.weights, took := took }

theorem loadMasters_of_taken {a : Accepted} {u : Ch} {n : Nat} {d : Device} {t : Device × List (Ch × Nat × Nat)} (h : takeMasters d u n = some t) :
    loadMasters a u n true d = (modSuiteRoom (withLoad (mastersLoad a u n t.2) t.1) u n (setCont a.data.payload), .wait .load) := by
  unfold loadMasters
  simp only [h]
  rfl

theorem takeMasters_onlyStores {d : Device} {u : Ch} {n : Nat} {t : Device × List (Ch × Nat × Nat)} (h : takeMasters d u n = some t) :
    OnlyStores d t.1 := by
  refine foldlM_keeps (P := fun t => OnlyStores d t.1) (fun b q b' hb hq => ?_) (.refl d) h
  refine foldlM_keeps (P := fun t => OnlyStores d t.1) (fun e c e' he hc => ?_) hb hq
  rw [Option.map_eq_some_iff] at hc
  obtain ⟨y, hy, rfl⟩ := hc
  exact he.trans (onlyStores_setChan _ c y (onlyStore_allocRoomPages _ _ _ _ _ hy))

end Sys2Proof.Machine

end

section

namespace Sys2Proof.Machine

/-! ## PIN_ADAPTER (R329, R343, R344, R346) -/

/-- What PIN_ADAPTER asks of its parameters and of the room that it names. -/
structure PinLegal (a : Accepted) (d : Device) : Prop where
  undrained : suiteDraining d a.suite = false
  suite : suiteExists d a.suite = true
  reserved : reservedClear a.params [(0, 11), (16, 12), (32, 12), (48, 16), (64, 4), (128, 64), (192, 64), (256, 64)] = true
  named : mayName a (leadRoom d a.suite (par a.params 0 6)) = true
  loaded : (leadRoom d a.suite (par a.params 0 6)).prog.isSome = true
  kind : par a.params 6 2 ≠ 3
  experts : ∀ i ∈ expertsOf (BitVec.ofNat 64 (par a.params 256 64)), i < (leadRoom d a.suite (par a.params 0 6)).adp.xexpN.toNat
  warm : par a.params 6 2 = 1 → par a.params 48 16 < (leadRoom d a.suite (par a.params 0 6)).adp.warmMax.toNat
  fineTune : par a.params 6 2 = 2 ↔ (leadRoom d a.suite (par a.params 0 6)).cfg.kind = 3
  merged : parB a.params 8 = true → par a.params 6 2 ≠ 2
  region : regionAllows (chanOf d (leadOf d a.suite)) [1, 3, 4] 64 (par a.params 64 4) (par a.params 128 64) (par a.params 192 64) = true

/-- A legal PIN_ADAPTER goes by the home that its claim finds. -/
theorem runPinAdapter_of_legal {a : Accepted} {d : Device} (h : PinLegal a d) :
    runPinAdapter a d = (claimHome d a.suite (par a.params 0 6) a.params).elim (only d .slotBusy) fun home =>
      startAdapter a a.suite (par a.params 0 6) home
        (if home < 4096 && (adpOf (chanOf d (leadOf d a.suite)) home).reg.state = asCache then
          freeSlot d a.suite (adpOf (chanOf d (leadOf d a.suite)) home).reg.room.toNat home else d) := by
  have prog : (leadRoom d a.suite (par a.params 0 6)).prog.isNone = false := by rw [Option.isNone_eq_false_iff]; exact h.loaded
  have kind : (par a.params 6 2 == 3) = false := by rw [beq_eq_false_iff_ne]; exact h.kind
  have experts : ((expertsOf (BitVec.ofNat 64 (par a.params 256 64))).any fun i =>
      decide ((leadRoom d a.suite (par a.params 0 6)).adp.xexpN.toNat ≤ i)) = false := by
    rw [List.any_eq_false]
    intro i hi beyond
    exact absurd (h.experts i hi) (Nat.not_lt.mpr (of_decide_eq_true beyond))
  have warm : (par a.params 6 2 == 1 && decide ((leadRoom d a.suite (par a.params 0 6)).adp.warmMax.toNat ≤ par a.params 48 16)) = false := by
    rw [Bool.and_eq_false_imp, beq_iff_eq]
    exact fun hk => decide_eq_false (Nat.not_le.mpr (h.warm hk))
  have other : (par a.params 6 2 != 2 && (leadRoom d a.suite (par a.params 0 6)).cfg.kind == 3) = false := by
    rw [Bool.and_eq_false_imp, bne_iff_ne, beq_eq_false_iff_ne]
    exact fun hk hr => hk (h.fineTune.mpr hr)
  have train : (par a.params 6 2 == 2 && (leadRoom d a.suite (par a.params 0 6)).cfg.kind != 3) = false := by
    rw [Bool.and_eq_false_imp, beq_iff_eq, bne_eq_false_iff_eq]
    exact h.fineTune.mp
  have merged : (parB a.params 8 && (par a.params 6 2 == 2 || (leadRoom d a.suite (par a.params 0 6)).cfg.kind == 3)) = false := by
    rw [Bool.and_eq_false_imp, Bool.or_eq_false_iff, beq_eq_false_iff_ne, beq_eq_false_iff_ne]
    exact fun hm => ⟨h.merged hm, fun hr => h.merged hm (h.fineTune.mpr hr)⟩
  unfold runPinAdapter
  simp only [namedRoom_of_exists h.suite, h.undrained, h.reserved, h.named, prog, kind, experts, warm, other, train, merged, h.region,
    Bool.not_true, Bool.or_self, Bool.false_eq_true, ↓reduceIte]
  cases claimHome d a.suite (par a.params 0 6) a.params <;> rfl

/-- The claim's own pages of a merged copy: none without one. -/
def mergedBytes (a : Accepted) : Nat := if parB a.params 8 then a.data.mergedBytes else 0
def mergeVaOf (a : Accepted) : BitVec 48 := if parB a.params 8 then a.data.mergeVa else 0

/-- The pages that a claim takes outside its home. -/
def pinExtra (a : Accepted) (r : Room) : List Nat := extraPages r (mergedBytes a) (mergeVaOf a).toNat (BitVec.ofNat 64 (par a.params 256 64))

/-- The load of an adapter. -/
def adapterLoad (a : Accepted) (u : Ch) (n home : Nat) : Load :=
  { key := a.key, target := .adapter u n home, segs := a.data.payload.segs, image := a.data.adapterBytes, merged := mergedBytes a, kind := par a.params 6 2 }

/-- A claim whose pages are there and whose payload opens waits for it. -/
theorem startAdapter_of_opened {a : Accepted} {u : Ch} {n home : Nat} {d d1 : Device}
    (pages : claimPages (claimEntries a u n home d) u n home (pinExtra a (leadRoom d u n)) = some d1)
    (reaches : accessFails d (chanOf d (leadOf d u)) a.data (par a.params 64 4) = false)
    (opened : opens a.data.payload 2 false (leadRoom d u n).key = true) (cont : contOk (leadRoom d u n) a.data.payload = true) :
    startAdapter a u n home d = (modSuiteRoom (withLoad (adapterLoad a u n home) d1) u n (setCont a.data.payload), .wait .load) := by
  unfold pinExtra mergedBytes mergeVaOf at pages
  unfold startAdapter
  simp only [pages, reaches, opened, cont, Bool.not_true, Bool.or_self, Bool.false_eq_true, ↓reduceIte]
  rfl

theorem claimPages_onlyStores {d d' : Device} {u : Ch} {n home : Nat} {extra : List Nat} (h : claimPages d u n home extra = some d') :
    OnlyStores d d' := by
  refine foldlM_keeps (P := OnlyStores d) (fun e c e' he hc => ?_) (.refl d) h
  dsimp only at hc
  rw [Option.map_eq_some_iff] at hc
  obtain ⟨y, hy, rfl⟩ := hc
  rw [Option.bind_eq_some_iff] at hy
  obtain ⟨x, hx, hy⟩ := hy
  refine he.trans (onlyStores_setChan _ c y (OnlyStore.trans ?_ (onlyStore_allocRoomPages _ _ _ _ _ hy)))
  split at hx <;> exact onlyStore_allocRoomPages _ _ _ _ _ hx

/-- The home of a claim is LOADING on a channel, for the customer that the command names. -/
def HomeLoading (a : Accepted) (n home : Nat) (x : Channel) : Prop :=
  if home < 4096 then
    let e := (adpOf x home).reg
    e.state = asLoading ∧ e.room.toNat = n ∧ e.owner.toNat = par a.params 32 12 ∧ e.merged = parB a.params 8
  else
    let w := warmOf (roomOf x n) (home - 4096)
    w.held = true ∧ w.loading = true ∧ w.owner.toNat = par a.params 32 12 ∧ w.merged = parB a.params 8

theorem par_lt (p : BitVec 15872) (lo n : Nat) : par p lo n < 2 ^ n := (p.extractLsb' lo n).isLt
theorem toNat_ofNat_par (p : BitVec 15872) (lo n : Nat) : (BitVec.ofNat n (par p lo n)).toNat = par p lo n := by
  rw [BitVec.toNat_ofNat, Nat.mod_eq_of_lt (par_lt p lo n)]

@[simp] theorem adpOf_modAdp_same (x : Channel) (k : Nat) (f : AdpEntry → AdpEntry) : adpOf (modAdp x k f) k = f (adpOf x k) := tget_tmod_same ..
theorem adpOf_modAdp_ne (x : Channel) {k j : Nat} (f : AdpEntry → AdpEntry) (h : j ≠ k) : adpOf (modAdp x k f) j = adpOf x j :=
  tget_tmod_ne _ _ _ _ _ h

theorem chanOf_modAdps {d : Device} {u c : Ch} (k : Nat) (f : AdpEntry → AdpEntry) (hc : c ∈ suiteChans d u) :
    chanOf (modAdps d u k f) c = modAdp (chanOf d c) k f := by
  unfold modAdps
  rw [chanOf_modChans _ _ _ _ (suiteChans_nodup d u), if_pos hc]

/-- The entries of a claim stand on every channel of the suite. -/
theorem homeLoading_claimEntries {a : Accepted} {u c : Ch} {n home : Nat} {d : Device} (hn : n < 64) (hc : c ∈ suiteChans d u) :
    HomeLoading a n home (chanOf (claimEntries a u n home d) c) := by
  unfold HomeLoading claimEntries
  have suite : ∀ f, c ∈ suiteChans (modLeadRoom d u n f) u := fun f => hc
  by_cases slot : home < 4096
  · simp only [slot, ↓reduceIte]
    rw [chanOf_modAdps _ _ (suite _), adpOf_modAdp_same]
    refine ⟨rfl, ?_, toNat_ofNat_par .., rfl⟩
    exact Nat.mod_eq_of_lt hn
  · simp only [slot, ↓reduceIte]
    rw [roomOf_modSuiteRoom, if_pos (suite _)]
    unfold warmOf
    rw [tget_tset_same]
    exact ⟨rfl, rfl, toNat_ofNat_par .., rfl⟩

theorem HomeLoading.congr {a : Accepted} {n home : Nat} {x y : Channel} (h : HomeLoading a n home x) (slots : y.slots = x.slots)
    (warm : (roomOf y n).warm = (roomOf x n).warm) : HomeLoading a n home y := by
  unfold HomeLoading adpOf warmOf at *
  rw [slots, warm]
  exact h

theorem HomeLoading.onlyStore {a : Accepted} {n home : Nat} {x y : Channel} (h : HomeLoading a n home x) (o : OnlyStore x y) : HomeLoading a n home y :=
  h.congr (by rw [o.2]) (by rw [o.1 n])

theorem setCont_warm (p : SealInfo) (r : Room) : (setCont p r).warm = r.warm := by unfold setCont; split <;> rfl

theorem HomeLoading.setCont {a : Accepted} {u c : Ch} {n home : Nat} {d : Device} (h : HomeLoading a n home (chanOf d c)) (p : SealInfo) :
    HomeLoading a n home (chanOf (modSuiteRoom d u n (Machine.setCont p)) c) := by
  have slots : Keeps Channel.slots d (modSuiteRoom d u n (Machine.setCont p)) := keeps_modChans _ _ _ fun _ _ => rfl
  have warm : Keeps (roomView n Room.warm) d (modSuiteRoom d u n (Machine.setCont p)) := keeps_modSuiteRoom d u n _ (setCont_warm p)
  exact h.congr (slots.chans c) (warm.chans c)

theorem claimEntries_keeps (a : Accepted) (u : Ch) (n home : Nat) (d : Device) :
    (claimEntries a u n home d).fy = d.fy ∧ (claimEntries a u n home d).suites = d.suites := by
  unfold claimEntries
  dsimp only
  split
  · exact ⟨modChans_fy .., modChans_suites ..⟩
  · exact ⟨modChans_fy .., modChans_suites ..⟩

end Sys2Proof.Machine

end

section

namespace Sys2Proof.Machine

/-! ## UNPIN_ADAPTER (R335, R345) -/

/-- What UNPIN_ADAPTER asks of every KIND. -/
structure UnpinLegal (a : Accepted) (d : Device) : Prop where
  undrained : suiteDraining d a.suite = false
  suite : suiteExists d a.suite = true
  used : roomState (leadRoom d a.suite (par a.params 0 6)) ≠ rsFree
  named : mayName a (leadRoom d a.suite (par a.params 0 6)) = true

/-- A binding goes with slot k: it names the slot, or the warm adapter that the slot caches. -/
def goesWithSlot (k : Nat) (e : AdpEntry) (b : AdpBind) : Bool :=
  (b.kind == 1 && b.slot.toNat == k) || (e.reg.state == asCache && b.kind == 2 && b.warm == e.reg.warm)
/-- A binding goes with the warm adapter of an index. -/
def goesWithWarm (w : Nat) (b : AdpBind) : Bool := b.kind == 2 && b.warm.toNat == w

/-- A slot that the room holds is released, and its owner's binding goes; one that is still loading is busy. -/
theorem runUnpinAdapter_of_slot {a : Accepted} {d : Device} (h : UnpinLegal a d) (kind : par a.params 6 2 = 0 ∨ par a.params 6 2 = 2)
    (reserved : reservedClear a.params [(0, 8), (16, 12)] = true)
    (room : (adpOf (chanOf d (leadOf d a.suite)) (par a.params 16 12)).reg.room.toNat = par a.params 0 6)
    (held : (adpOf (chanOf d (leadOf d a.suite)) (par a.params 16 12)).reg.state ≠ asFree) :
    runUnpinAdapter a d =
      let k := par a.params 16 12
      let e := adpOf (chanOf d (leadOf d a.suite)) k
      if e.reg.state = asLoading then only d .slotBusy
      else only (releaseSlot (dropBinding d a.suite (par a.params 0 6) e.reg.owner.toNat (goesWithSlot k e)) a.suite k) .ok := by
  have one : par a.params 6 2 ≠ 1 := by omega
  have three : par a.params 6 2 ≠ 3 := by omega
  unfold runUnpinAdapter
  simp only [namedRoom_of_exists h.suite, h.undrained, h.used, h.named, one, three, reserved, room, held, beq_eq_false_iff_ne.mpr, ne_eq, not_false_eq_true,
    beq_iff_eq, bne_self_eq_false, Bool.not_true, Bool.or_self, Bool.false_eq_true, ↓reduceIte]
  rfl

/-- A warm adapter that the room holds is unpinned, and its owner's binding goes; one that is still loading is busy. -/
theorem runUnpinAdapter_of_warm {a : Accepted} {d : Device} (h : UnpinLegal a d) (kind : par a.params 6 2 = 1)
    (reserved : reservedClear a.params [(0, 8), (48, 16)] = true)
    (held : (warmOf (leadRoom d a.suite (par a.params 0 6)) (par a.params 48 16)).held = true) :
    runUnpinAdapter a d =
      let w := par a.params 48 16
      let m := warmOf (leadRoom d a.suite (par a.params 0 6)) w
      if m.loading then only d .slotBusy
      else only (releaseBinding (dropBinding d a.suite (par a.params 0 6) m.owner.toNat (goesWithWarm w)) a.suite (par a.params 0 6)
        { kind := 2, warm := BitVec.ofNat 16 w }) .ok := by
  unfold runUnpinAdapter
  simp only [namedRoom_of_exists h.suite, h.undrained, h.used, h.named, kind, reserved, held, beq_eq_false_iff_ne.mpr, ne_eq, not_false_eq_true,
    beq_self_eq_true, Nat.reduceEqDiff, Bool.not_true, Bool.or_self, Bool.false_eq_true, ↓reduceIte]
  rfl

theorem dropBinding_keeps (d : Device) (u : Ch) (n c : Nat) (p : AdpBind → Bool) :
    (dropBinding d u n c p).fy = d.fy ∧ (dropBinding d u n c p).suites = d.suites ∧ Keeps Channel.slots d (dropBinding d u n c p) ∧
    ∀ m, Keeps (roomView m Room.warm) d (dropBinding d u n c p) := by
  unfold dropBinding
  split
  · exact ⟨rfl, rfl, keeps_modLead _ _ _ fun _ => rfl, fun m => keeps_modLeadRoom _ _ _ _ fun _ => rfl⟩
  · exact ⟨rfl, rfl, .refl _, fun _ => .refl _⟩

theorem bindingOf_dropBinding (d : Device) (u : Ch) (n c o : Nat) (p : AdpBind → Bool) :
    bindingOf (leadRoom (dropBinding d u n c p) u n) o =
      if o = c ∧ p (bindingOf (leadRoom d u n) o) = true then {} else bindingOf (leadRoom d u n) o := by
  unfold dropBinding
  by_cases hp : p (bindingOf (leadRoom d u n) c) = true
  · rw [if_pos hp, leadRoom_modLeadRoom]
    show tget {} (tset {} (leadRoom d u n).binds c {}) o = _
    rw [tget_tset]
    by_cases ho : o = c
    · rw [if_pos ho, if_pos ⟨ho, ho ▸ hp⟩]
    · rw [if_neg ho, if_neg fun h => ho h.1]
      rfl
  · rw [if_neg hp, if_neg]
    rintro ⟨rfl, h⟩
    exact hp h

theorem bindingOf_releaseSlot (d : Device) (u : Ch) (k n o : Nat) : bindingOf (leadRoom (releaseSlot d u k) u n) o = bindingOf (leadRoom d u n) o := by
  have rooms : Keeps (roomView n Room.binds) d (releaseSlot d u k) := keeps_modChans _ _ _ fun _ _ => rfl
  unfold bindingOf
  rw [rooms.leadRoom u]

theorem goesWithSlot_iff (k : Nat) (e : AdpEntry) (b : AdpBind) : goesWithSlot k e b = true ↔
    (b.kind = 1 ∧ b.slot.toNat = k ∨ e.reg.state = asCache ∧ b.kind = 2 ∧ b.warm = e.reg.warm) := by
  simp only [goesWithSlot, Bool.or_eq_true, Bool.and_eq_true, beq_iff_eq, and_assoc]

/-- A room that lets go of the warm adapter of an index. -/
def warmUnpinned (w : Nat) (r : Room) : Room := { r with warm := tmod {} r.warm w fun m => { m with unpinned := true } }

theorem warmOf_warmUnpinned (w : Nat) (r : Room) : warmOf (warmUnpinned w r) w = { warmOf r w with unpinned := true }  := by
  unfold warmOf warmUnpinned
  rw [tget_tmod_same]

theorem releaseBinding_of_warm (d : Device) (u : Ch) (n : Nat) {w : Nat} (h : (BitVec.ofNat 16 w).toNat = w) :
    releaseBinding d u n { kind := 2, warm := BitVec.ofNat 16 w } = modSuiteRoom d u n (warmUnpinned w) := by
  unfold releaseBinding
  simp only [↓reduceIte, h]
  rfl

/-- A slot released on every channel of a suite, and no other of its slots. -/
theorem adpOf_releaseSlot {d : Device} {u c : Ch} (k : Nat) (hc : c ∈ suiteChans d u) :
    adpOf (chanOf (releaseSlot d u k) c) k = { adpOf (chanOf d c) k with reg := { (adpOf (chanOf d c) k).reg with state := asReleasing } } ∧
    ∀ j, j ≠ k → adpOf (chanOf (releaseSlot d u k) c) j = adpOf (chanOf d c) j := by
  unfold releaseSlot
  rw [chanOf_modAdps k _ hc]
  exact ⟨adpOf_modAdp_same .., fun j hj => adpOf_modAdp_ne _ _ hj⟩

theorem Keeps.adpOf {d d' : Device} (h : Keeps Channel.slots d d') (c : Ch) (k : Nat) : adpOf (chanOf d' c) k = Machine.adpOf (chanOf d c) k := by
  unfold Machine.adpOf
  rw [h.chans]

end Sys2Proof.Machine

end

section

namespace Sys2Proof.Machine

/-! ## Commands that load, by what their post leaves -/

theorem LoadLegal.pending {a : Accepted} {d : Device} (h : LoadLegal a d) (op : HostOp) (p : HostPost) : LoadLegal a (pendingDev op p d) where
  undrained := by simpa using h.undrained
  suite := by simpa using h.suite
  reserved := h.reserved
  header := h.header
  region := by simpa using h.region
  reaches := by simpa using h.reaches

theorem PinLegal.pending {a : Accepted} {d : Device} (h : PinLegal a d) (op : HostOp) (p : HostPost) : PinLegal a (pendingDev op p d) where
  undrained := by simpa using h.undrained
  suite := by simpa using h.suite
  reserved := h.reserved
  named := by simpa using h.named
  loaded := by simpa using h.loaded
  kind := h.kind
  experts := by simpa using h.experts
  warm := by simpa using h.warm
  fineTune := by simpa using h.fineTune
  merged := h.merged
  region := by simpa using h.region

theorem UnpinLegal.pending {a : Accepted} {d : Device} (h : UnpinLegal a d) (op : HostOp) (p : HostPost) : UnpinLegal a (pendingDev op p d) where
  undrained := by simpa using h.undrained
  suite := by simpa using h.suite
  used := by simpa using h.used
  named := by simpa using h.named

/-- A post whose command is over at once, with the foyer as its post left it. -/
theorem post_only {i : Instr} {op : HostOp} {p : HostPost} {s : State} {d : Device} {st : Status} (hi : exec i s = postRow op p s) (ha : Accepts op p s)
    (hr : runOp op (commandOf op p s.dev) (pendingDev op p s.dev) = only d st) (fy : d.fy = (pendingDev op p s.dev).fy) :
    ∃ t, exec i s = .next t ∧ OnlyFns d t.dev ∧ Answers op p s t st [] :=
  post_answers i op p s d st [] hi ha hr (postSlot_of_fns (congrArg Foyer.fns fy))

/-- A post whose command changes nothing and is over at once. -/
theorem post_unchanged {i : Instr} {op : HostOp} {p : HostPost} {s : State} {st : Status} (hi : exec i s = postRow op p s) (ha : Accepts op p s)
    (hr : runOp op (commandOf op p s.dev) (pendingDev op p s.dev) = only (pendingDev op p s.dev) st) :
    ∃ t, exec i s = .next t ∧ Answers op p s t st [] ∧ t.dev.chans = s.dev.chans := by
  obtain ⟨t, runs, kept, answers⟩ := post_only hi ha hr rfl
  exact ⟨t, runs, answers, kept.1.trans (pendingDev_only op p s.dev).1⟩

/-- A post whose command begins a load, and waits for it. -/
theorem post_loads {i : Instr} {op : HostOp} {p : HostPost} {s : State} {d : Device} {l : Load} (hi : exec i s = postRow op p s) (ha : Accepts op p s)
    (hr : runOp op (commandOf op p s.dev) (pendingDev op p s.dev) = (d, .wait .load))
    (fy : d.fy = (withLoad l (pendingDev op p s.dev)).fy) :
    ∃ t, exec i s = .next t ∧ Waits op p s t .load ∧ l ∈ t.dev.fy.loads ∧ t.dev.chans = d.chans ∧ t.dev.suites = d.suites := by
  obtain ⟨t, runs, dev, waits⟩ := post_waits i op p s d .load hi ha hr (postSlot_of_fns (by rw [fy]; rfl))
  refine ⟨t, runs, waits, ?_, ?_, ?_⟩
  · rw [dev]
    show l ∈ d.fy.loads
    rw [fy]
    exact mem_loads_withLoad ..
  · rw [dev]
  · rw [dev]

theorem leadCopy_congr {d d' : Device} (chans : d'.chans = d.chans) (suites : d'.suites = d.suites) (u : Ch) (k : Nat) :
    leadCopy d' u k = leadCopy d u k := (Keeps.of_chans suites chans).leadCopy u k

section
variable {p : HostPost} {s : State}

theorem loadWeights_copy {k : Nat} {d1 : Device} (accepts : Accepts .loadWeights p s)
    (legal : LoadLegal (commandOf .loadWeights p s.dev) s.dev) :
    let a := commandOf .loadWeights p s.dev
    let x := chanOf s.dev (leadOf s.dev a.suite)
    par a.params 0 2 = 0 → opens a.data.payload 1 true x.suiteKey = true →
    (∀ k ∈ copyIxs, copyState x k ≠ csFree → copyModel x k = par a.params 2 2 → (wgenOf x k).toNat < par a.params 32 32) →
    claimCopy (pendingDev .loadWeights p s.dev) a.suite (par a.params 2 2) a.data.weights.pages.toNat csLoading = some (k, d1) →
    ∃ t, exec (.loadWeights p) s = .next t ∧ Waits .loadWeights p s t .load ∧ copyLoad a a.suite k ∈ t.dev.fy.loads ∧
      leadCopy t.dev a.suite k = withHeader a.data.weights (leadCopy d1 a.suite k) ∧ (leadCopy d1 a.suite k).reg.state = csLoading := by
  intro a x kind opened newer claimed
  obtain ⟨fy, -, loading⟩ := claimCopy_spec claimed
  have run : runLoadWeights a (pendingDev .loadWeights p s.dev) = _ :=
    (runLoadWeights_of_copy (legal.pending ..) kind (by simpa using opened) (by simpa using newer)).trans (loadCopy_of_claimed claimed)
  obtain ⟨t, runs, waits, load, chans, suites⟩ := post_loads (i := .loadWeights p) rfl accepts run (withLoad_fy _ fy)
  exact ⟨t, runs, waits, load, (leadCopy_congr chans suites ..).trans (leadCopy_copyTaken ..), loading⟩

theorem loadWeights_masters (accepts : Accepts .loadWeights p s) (legal : LoadLegal (commandOf .loadWeights p s.dev) s.dev) :
    let a := commandOf .loadWeights p s.dev
    let n := par a.params 4 6
    let r := leadRoom s.dev a.suite n
    par a.params 0 2 = 1 → r.cfg.kind = 2 → r.prog.isSome = true → mayName a r = true → opens a.data.payload 1 false r.key = true →
    contOk r a.data.payload = true → (takeMasters (pendingDev .loadWeights p s.dev) a.suite n).isSome = true →
    ∃ t took, exec (.loadWeights p) s = .next t ∧ Waits .loadWeights p s t .load ∧ mastersLoad a a.suite n took ∈ t.dev.fy.loads := by
  intro a n r kind learner loaded named opened cont taken
  obtain ⟨e, he⟩ := Option.isSome_iff_exists.mp taken
  have run : runLoadWeights a (pendingDev .loadWeights p s.dev) = _ :=
    (runLoadWeights_of_masters (legal.pending ..) kind (by simpa using learner) (by simpa using loaded) (by simpa using named)
      (by simpa using opened) (by simpa using cont)).trans (loadMasters_of_taken he)
  obtain ⟨t, runs, waits, load, -⟩ := post_loads (i := .loadWeights p) rfl accepts run
    ((modChans_fy ..).trans (withLoad_fy _ (takeMasters_onlyStores he).2.1))
  exact ⟨t, e.2, runs, waits, load⟩

theorem pinAdapter_of_no_home (accepts : Accepts .pinAdapter p s) (legal : PinLegal (commandOf .pinAdapter p s.dev) s.dev) :
    let a := commandOf .pinAdapter p s.dev
    claimHome (pendingDev .pinAdapter p s.dev) a.suite (par a.params 0 6) a.params = none →
    ∃ t, exec (.pinAdapter p) s = .next t ∧ Answers .pinAdapter p s t .slotBusy [] ∧ t.dev.chans = s.dev.chans := by
  intro a claim
  refine post_unchanged rfl accepts ((runPinAdapter_of_legal (legal.pending ..)).trans ?_)
  rw [claim]
  rfl

theorem pinAdapter_of_home (accepts : Accepts .pinAdapter p s) (legal : PinLegal (commandOf .pinAdapter p s.dev) s.dev) :
    let a := commandOf .pinAdapter p s.dev
    let n := par a.params 0 6
    let x := chanOf s.dev (leadOf s.dev a.suite)
    let r := leadRoom s.dev a.suite n
    let d := pendingDev .pinAdapter p s.dev
    ∀ home, claimHome d a.suite n a.params = some home → (home < 4096 → (adpOf x home).reg.state ≠ asCache) →
      (claimPages (claimEntries a a.suite n home d) a.suite n home (pinExtra a r)).isSome = true →
      accessFails s.dev x a.data (par a.params 64 4) = false → opens a.data.payload 2 false r.key = true → contOk r a.data.payload = true →
      ∃ t, exec (.pinAdapter p) s = .next t ∧ Waits .pinAdapter p s t .load ∧ adapterLoad a a.suite n home ∈ t.dev.fy.loads ∧
        ∀ c ∈ suiteChans s.dev a.suite, HomeLoading a n home (chanOf t.dev c) := by
  intro a n x r d home claim uncached pages reaches opened cont
  obtain ⟨d1, hd1⟩ := Option.isSome_iff_exists.mp pages
  have stores := claimPages_onlyStores hd1
  have entries := claimEntries_keeps a a.suite n home d
  have kept : (home < 4096 && (adpOf (chanOf d (leadOf d a.suite)) home).reg.state = asCache) = false := by
    rw [Bool.and_eq_false_imp]
    exact fun slot => decide_eq_false (by simpa [d] using uncached (of_decide_eq_true slot))
  have run : runPinAdapter a d = (modSuiteRoom (withLoad (adapterLoad a a.suite n home) d1) a.suite n (setCont a.data.payload), .wait .load) := by
    rw [runPinAdapter_of_legal (legal.pending ..), claim, Option.elim_some, kept]
    exact startAdapter_of_opened (by simpa [d, r] using hd1) (by simpa [d] using reaches) (by simpa [d] using opened) (by simpa [d] using cont)
  obtain ⟨t, runs, waits, load, chans, -⟩ := post_loads (i := .pinAdapter p) rfl accepts run
    ((modChans_fy ..).trans (withLoad_fy _ (stores.2.1.trans entries.1)))
  refine ⟨t, runs, waits, load, fun c hc => ?_⟩
  have claimed : HomeLoading a n home (chanOf (claimEntries a a.suite n home d) c) :=
    homeLoading_claimEntries (par_lt ..) (by simpa [d] using hc)
  have loading : HomeLoading a n home (chanOf (withLoad (adapterLoad a a.suite n home) d1) c) := claimed.onlyStore (stores.1 c)
  rw [show chanOf t.dev c = _ from congrArg (Quad.get · c) chans]
  exact loading.setCont _

theorem unpinAdapter_of_slot (accepts : Accepts .unpinAdapter p s) (legal : UnpinLegal (commandOf .unpinAdapter p s.dev) s.dev) :
    let a := commandOf .unpinAdapter p s.dev
    let u := a.suite
    let n := par a.params 0 6
    let r := leadRoom s.dev u n
    let k := par a.params 16 12
    let e := adpOf (chanOf s.dev (leadOf s.dev u)) k
    par a.params 6 2 = 0 ∨ par a.params 6 2 = 2 → reservedClear a.params [(0, 8), (16, 12)] = true → e.reg.room.toNat = n → e.reg.state ≠ asFree →
    e.reg.state ≠ asLoading →
    ∃ t, exec (.unpinAdapter p) s = .next t ∧ Answers .unpinAdapter p s t .ok [] ∧
      (∀ c ∈ suiteChans s.dev u,
        adpOf (chanOf t.dev c) k = { adpOf (chanOf s.dev c) k with reg := { (adpOf (chanOf s.dev c) k).reg with state := asReleasing } } ∧
        ∀ j, j ≠ k → adpOf (chanOf t.dev c) j = adpOf (chanOf s.dev c) j) ∧
      ∀ o, bindingOf (leadRoom t.dev u n) o =
        if o = e.reg.owner.toNat ∧ goesWithSlot k e (bindingOf r o) = true then {} else bindingOf r o := by
  intro a u n r k e kind reserved room held idle
  let d := pendingDev .unpinAdapter p s.dev
  have found : adpOf (chanOf d (leadOf d u)) k = e := by simp [d, e]
  obtain ⟨fy, suites, slots, -⟩ := dropBinding_keeps d u n e.reg.owner.toNat (goesWithSlot k e)
  have run : runUnpinAdapter a d = only (releaseSlot (dropBinding d u n e.reg.owner.toNat (goesWithSlot k e)) u k) .ok := by
    rw [runUnpinAdapter_of_slot (legal.pending ..) kind reserved ((congrArg (·.reg.room.toNat) found).trans room) (found ▸ held)]
    dsimp only
    rw [show adpOf (chanOf d (leadOf d a.suite)) (par a.params 16 12) = e from found, if_neg idle]
  obtain ⟨t, runs, kept, answers⟩ := post_only (i := .unpinAdapter p) rfl accepts run ((modChans_fy ..).trans fy)
  have chans : ∀ c, chanOf t.dev c = chanOf (releaseSlot (dropBinding d u n e.reg.owner.toNat (goesWithSlot k e)) u k) c :=
    fun c => congrArg (Quad.get · c) kept.1
  refine ⟨t, runs, answers, fun c hc => ?_, fun o => ?_⟩
  · have member : c ∈ suiteChans (dropBinding d u n e.reg.owner.toNat (goesWithSlot k e)) u := by
      rw [slots.suiteChans]
      simpa [d] using hc
    have before : ∀ j, adpOf (chanOf (dropBinding d u n e.reg.owner.toNat (goesWithSlot k e)) c) j = adpOf (chanOf s.dev c) j := by
      intro j
      rw [slots.adpOf, chanOf_pendingDev]
    rw [chans]
    simpa only [before] using adpOf_releaseSlot k member
  · have rooms : leadRoom t.dev u n = leadRoom (releaseSlot (dropBinding d u n e.reg.owner.toNat (goesWithSlot k e)) u k) u n :=
      (Keeps.of_chans (v := roomView n id) kept.2.1 kept.1).leadRoom u
    rw [rooms, bindingOf_releaseSlot, bindingOf_dropBinding, leadRoom_pendingDev]

theorem unpinAdapter_of_warm (accepts : Accepts .unpinAdapter p s) (legal : UnpinLegal (commandOf .unpinAdapter p s.dev) s.dev) :
    let a := commandOf .unpinAdapter p s.dev
    let u := a.suite
    let n := par a.params 0 6
    let r := leadRoom s.dev u n
    let w := par a.params 48 16
    par a.params 6 2 = 1 → reservedClear a.params [(0, 8), (48, 16)] = true → (warmOf r w).held = true → (warmOf r w).loading = false →
    ∃ t, exec (.unpinAdapter p) s = .next t ∧ Answers .unpinAdapter p s t .ok [] ∧
      ∀ c ∈ suiteChans s.dev u, warmOf (roomOf (chanOf t.dev c) n) w = { warmOf (roomOf (chanOf s.dev c) n) w with unpinned := true } := by
  intro a u n r w kind reserved held idle
  let d := pendingDev .unpinAdapter p s.dev
  have room : leadRoom d u n = r := leadRoom_pendingDev ..
  let d1 := dropBinding d u n (warmOf r w).owner.toNat (goesWithWarm w)
  obtain ⟨fy, -, slots, warm⟩ := dropBinding_keeps d u n (warmOf r w).owner.toNat (goesWithWarm w)
  have run : runUnpinAdapter a d = only (modSuiteRoom d1 u n (warmUnpinned w)) .ok := by
    rw [runUnpinAdapter_of_warm (legal.pending ..) kind reserved (by rw [room]; exact held)]
    dsimp only
    rw [room, if_neg (by rw [idle]; decide), releaseBinding_of_warm _ _ _ (toNat_ofNat_par ..)]
  obtain ⟨t, runs, kept, answers⟩ := post_only (i := .unpinAdapter p) rfl accepts run ((modChans_fy ..).trans fy)
  refine ⟨t, runs, answers, fun c hc => ?_⟩
  have member : c ∈ suiteChans d1 u := by
    rw [slots.suiteChans]
    simpa [d] using hc
  have before : (roomOf (chanOf d1 c) n).warm = (roomOf (chanOf s.dev c) n).warm := by
    rw [← chanOf_pendingDev .unpinAdapter p s.dev c]
    exact (warm n).chans c
  rw [show chanOf t.dev c = _ from congrArg (Quad.get · c) kept.1, get_chans, roomOf_modSuiteRoom, if_pos member, warmOf_warmUnpinned]
  unfold warmOf
  rw [before]

/-- A home that is still loading is not released. -/
theorem unpinAdapter_of_loading (accepts : Accepts .unpinAdapter p s) (legal : UnpinLegal (commandOf .unpinAdapter p s.dev) s.dev) :
    let a := commandOf .unpinAdapter p s.dev
    let n := par a.params 0 6
    let x := chanOf s.dev (leadOf s.dev a.suite)
    let r := leadRoom s.dev a.suite n
    ((par a.params 6 2 = 0 ∨ par a.params 6 2 = 2) ∧ reservedClear a.params [(0, 8), (16, 12)] = true ∧
        (adpOf x (par a.params 16 12)).reg.room.toNat = n ∧ (adpOf x (par a.params 16 12)).reg.state = asLoading ∨
      par a.params 6 2 = 1 ∧ reservedClear a.params [(0, 8), (48, 16)] = true ∧ (warmOf r (par a.params 48 16)).held = true ∧
        (warmOf r (par a.params 48 16)).loading = true) →
    ∃ t, exec (.unpinAdapter p) s = .next t ∧ Answers .unpinAdapter p s t .slotBusy [] ∧ t.dev.chans = s.dev.chans := by
  intro a n x r loading
  refine post_unchanged rfl accepts ?_
  show runUnpinAdapter a (pendingDev .unpinAdapter p s.dev) = _
  rcases loading with ⟨kind, reserved, room, busy⟩ | ⟨kind, reserved, held, busy⟩
  · have found : adpOf (chanOf (pendingDev .unpinAdapter p s.dev) (leadOf (pendingDev .unpinAdapter p s.dev) a.suite)) (par a.params 16 12) =
        adpOf x (par a.params 16 12) := by simp [x]
    rw [runUnpinAdapter_of_slot (legal.pending ..) kind reserved (by rw [found]; exact room) (by rw [found, busy]; decide)]
    dsimp only
    rw [found, if_pos busy]
  · rw [runUnpinAdapter_of_warm (legal.pending ..) kind reserved (by rw [leadRoom_pendingDev]; exact held)]
    dsimp only
    rw [leadRoom_pendingDev, if_pos busy]

end

end Sys2Proof.Machine

end

section

namespace Sys2Proof.Machine

/-- Settles O32: each command's run from the device that its post leaves pending, by the claim that it makes or the home that it releases. -/
theorem loadsBegin : Obligations.LoadsBegin := by
  unfold Obligations.LoadsBegin
  intro p s
  refine ⟨?load, ?pin, ?unpin⟩
  case load =>
    intro a u m n x r h d accepts undrained suite reserved header region reaches
    have legal : LoadLegal a s.dev := ⟨undrained, suite, reserved, header, region, reaches⟩
    refine ⟨fun k d1 kind opened newer claimed => ?copy, fun kind learner loaded named opened cont taken => ?masters⟩
    case copy =>
      obtain ⟨t, runs, waits, load, copy, loading⟩ := loadWeights_copy accepts legal kind opened newer claimed
      refine ⟨t, runs, waits, ⟨_, load, rfl, rfl, rfl, rfl⟩, ?_⟩
      dsimp only
      rw [copy]
      exact ⟨loading, rfl, rfl, rfl, rfl⟩
    case masters =>
      obtain ⟨t, took, runs, waits, load⟩ := loadWeights_masters accepts legal kind learner loaded named opened cont taken
      exact ⟨t, runs, waits, _, load, rfl, rfl, rfl, rfl⟩
  case pin =>
    intro a u n kind x r d experts accepts undrained suite reserved named loaded known count warm fineTune merged region
    have legal : PinLegal a s.dev := ⟨undrained, suite, reserved, named, loaded, known, count, warm, fineTune, merged, region⟩
    refine ⟨pinAdapter_of_no_home accepts legal, fun home claim uncached pages reaches opened cont => ?_⟩
    obtain ⟨t, runs, waits, load, loading⟩ := pinAdapter_of_home accepts legal home claim uncached pages reaches opened cont
    exact ⟨t, runs, waits, ⟨_, load, rfl, rfl, rfl, rfl, rfl⟩, loading⟩
  case unpin =>
    intro a u n kind r x accepts undrained suite used named
    have legal : UnpinLegal a s.dev := ⟨undrained, suite, used, named⟩
    refine ⟨?slot, unpinAdapter_of_warm accepts legal, unpinAdapter_of_loading accepts legal⟩
    case slot =>
      intro k e which reserved room held idle
      obtain ⟨t, runs, answers, released, bindings⟩ := unpinAdapter_of_slot accepts legal which reserved room held idle
      refine ⟨t, runs, answers, released, fun o => (bindings o).trans ?_⟩
      simp only [goesWithSlot_iff]
      rfl

end Sys2Proof.Machine

end

section

namespace Sys2Proof.Machine

/-! ## Bytes of the common pages -/

/-- A channel but for its common pages, their bytes, and the moves and Cellar places that a write may give back. -/
def SameButCommon (x y : Channel) : Prop := y = { x with
  regionPools := y.regionPools, regions := y.regions, moves := y.moves, commonPages := y.commonPages, commonMem := y.commonMem }

theorem SameButCommon.trans {x y z : Channel} (h : SameButCommon x y) (g : SameButCommon y z) : SameButCommon x z := by
  unfold SameButCommon at *; rw [g, h]

theorem cancelEvict_common (x : Channel) (i : Nat) :
    SameButCommon x (cancelEvict x (.common i)) ∧ (cancelEvict x (.common i)).commonMem = x.commonMem := by
  unfold cancelEvict
  split <;> exact ⟨rfl, rfl⟩

theorem refreshFp_common (x : Channel) (i : Nat) :
    SameButCommon x (refreshFp x (.common i)) ∧ (refreshFp x (.common i)).commonMem = x.commonMem := by
  unfold refreshFp
  dsimp only
  split <;> exact ⟨rfl, rfl⟩

/-- One page of a write to the common pages. -/
def writeCommonPage (a : Nat) (bs : List Byte) (x : Channel) (p : Nat) : Channel :=
  let z := modPte (cancelEvict x (.common p)) (.common p) fun e => if e.valid then { e with dirty := true } else e
  refreshFp { z with commonMem := writeBytes z.commonMem (partIn a bs p).1 (partIn a bs p).2 } (.common p)

theorem writeCommon_eq (x : Channel) (a : Nat) (bs : List Byte) : writeCommon x a bs = (pagesOf (a, bs.length)).foldl (writeCommonPage a bs) x := rfl

theorem writeCommonPage_spec (a : Nat) (bs : List Byte) (x : Channel) (p : Nat) :
    SameButCommon x (writeCommonPage a bs x p) ∧
    (writeCommonPage a bs x p).commonMem = writeBytes x.commonMem (partIn a bs p).1 (partIn a bs p).2 := by
  obtain ⟨cancelled, mem⟩ := cancelEvict_common x p
  unfold writeCommonPage
  extract_lets z
  have marked : SameButCommon x z := cancelled.trans rfl
  have bytes : z.commonMem = x.commonMem := mem
  obtain ⟨kept, same⟩ := refreshFp_common { z with commonMem := writeBytes z.commonMem (partIn a bs p).1 (partIn a bs p).2 } p
  have written : SameButCommon z { z with commonMem := writeBytes z.commonMem (partIn a bs p).1 (partIn a bs p).2 } := rfl
  refine ⟨marked.trans (written.trans kept), same.trans ?_⟩
  rw [bytes]

theorem sameButCommon_writeCommon (x : Channel) (a : Nat) (bs : List Byte) : SameButCommon x (writeCommon x a bs) :=
  List.foldlRecOn (pagesOf (a, bs.length)) (writeCommonPage a bs) (motive := SameButCommon x) rfl
    fun y h p _ => h.trans (writeCommonPage_spec a bs y p).1

theorem readByte_writeBytes (m : Memory) (a b : Nat) (bs : List Byte) :
    readByte (writeBytes m a bs) b = if a ≤ b ∧ b < a + bs.length then bs.getD (b - a) 0 else readByte m b := by
  by_cases h : a ≤ b ∧ b < a + bs.length
  · obtain ⟨i, rfl⟩ := Nat.exists_eq_add_of_le h.1
    have inside : i < bs.length := by omega
    rw [if_pos h, readByte_writeBytes_inside m a i bs inside, Nat.add_sub_cancel_left, ← List.getElem_eq_getD (h := inside)]
  · rw [if_neg h, readByte_writeBytes_outside m a b bs (by omega)]

/-- Of a run, a page takes the bytes whose addresses lie in it. -/
theorem readByte_writeCommonPage (a : Nat) (bs : List Byte) (x : Channel) (p b : Nat) :
    readByte (writeCommonPage a bs x p).commonMem b =
      if b / pageBytes = p ∧ a ≤ b ∧ b < a + bs.length then bs.getD (b - a) 0 else readByte x.commonMem b := by
  rw [(writeCommonPage_spec a bs x p).2, readByte_writeBytes]
  unfold partIn pageBytes
  simp only [List.length_take, List.length_drop]
  by_cases h : b / 65536 = p ∧ a ≤ b ∧ b < a + bs.length
  · rw [if_pos h, if_pos (by omega), List.getD_eq_getElem?_getD, List.getD_eq_getElem?_getD, List.getElem?_take_of_lt (by omega), List.getElem?_drop]
    congr 2
    omega
  · rw [if_neg h, if_neg (by omega)]

theorem mem_pagesOf {a len b : Nat} (h : a ≤ b ∧ b < a + len) : b / pageBytes ∈ pagesOf (a, len) := by
  unfold pagesOf pageBytes
  rw [if_neg (by dsimp only; omega), List.mem_map]
  exact ⟨b / 65536 - a / 65536, List.mem_range.mpr (by dsimp only; omega), by dsimp only; omega⟩

/-- A write to the common pages changes the bytes of its run, and no other. -/
theorem readByte_writeCommon (x : Channel) (a : Nat) (bs : List Byte) (b : Nat) :
    readByte (writeCommon x a bs).commonMem b = if a ≤ b ∧ b < a + bs.length then bs.getD (b - a) 0 else readByte x.commonMem b := by
  have pages (ps : List Nat) (y : Channel) : readByte (ps.foldl (writeCommonPage a bs) y).commonMem b =
      if b / pageBytes ∈ ps ∧ a ≤ b ∧ b < a + bs.length then bs.getD (b - a) 0 else readByte y.commonMem b := by
    induction ps generalizing y with
    | nil => simp
    | cons p ps ih =>
      rw [List.foldl_cons, ih, readByte_writeCommonPage]
      by_cases run : a ≤ b ∧ b < a + bs.length
      · by_cases hp : b / pageBytes = p
        · subst hp
          simp [run]
        · simp [run, hp]
      · simp only [run, and_false, ↓reduceIte]
  rw [writeCommon_eq, pages]
  by_cases h : a ≤ b ∧ b < a + bs.length
  · rw [if_pos h, if_pos ⟨mem_pagesOf h, h⟩]
  · rw [if_neg h, if_neg fun g => h g.2]

end Sys2Proof.Machine

end

section

namespace Sys2Proof.Machine

/-! ## A suite whose LEAD names a channel outside its MASK -/

/-- Suite 0 has channel 0 alone, and its LEAD names channel 1, which holds copy 0. SUITE_SET and CHANNEL_LOSS leave no such suite. -/
def strayLead (w : WCopy) : State := { State.reset with dev := { State.reset.dev with
  chans := State.reset.dev.chans.set .c1 { Channel.reset .c1 with copies := [(0, w)] },
  suites := { c0 := { mask := 1, lead := 1 }, c1 := {}, c2 := {}, c3 := {} } } }

/-- A broadcast copy of one tile, all of whose chunks have landed. -/
def landedCopy : WCopy := { source := .broadcast, reg := { state := csLoading, tiles := 1 } }
/-- A copy whose tile 0 waits for its repair. -/
def repairingCopy : WCopy := { repairing := [0] }

/-- The learner's table, which disagrees in tile 0, moves the copy on the stray lead channel to VERIFYING. -/
theorem strayLead_tableArrives :
    leadOf (strayLead landedCopy).dev .c0 = .c1 ∧ suiteChans (strayLead landedCopy).dev .c0 = [.c0] ∧
    mismatches (strayLead landedCopy).dev .c0 0 (tableOf [1]) = [0] ∧
    (copyOf (chanOf (tableArrives .c0 0 [1] (strayLead landedCopy).dev) .c1) 0).reg.state = csVerifying := by
  decide +kernel

/-- The repair of tile 0 leaves nothing to repair on the stray lead channel. -/
theorem strayLead_repairLands :
    leadOf (strayLead repairingCopy).dev .c0 = .c1 ∧ suiteChans (strayLead repairingCopy).dev .c0 = [.c0] ∧
    (copyOf (chanOf (repairLands .c0 0 0 [] (strayLead repairingCopy).dev) .c1) 0).repairing = [] := by
  decide +kernel

theorem exec_fingerprintTableArrival (u : Ch) (k : BitVec 3) (fps : List W64) (s : State) :
    exec (.fingerprintTableArrival u k fps) s =
      .next { s with board := showPower s.board (tableArrives u k.toNat fps s.dev), dev := tableArrives u k.toNat fps s.dev } := rfl
theorem exec_tileRepairLand (u : Ch) (k : BitVec 3) (tile : Nat) (bytes : List Byte) (s : State) :
    exec (.tileRepairLand u k tile bytes) s = .next { s with dev := repairLands u k.toNat tile bytes s.dev } := rfl

end Sys2Proof.Machine

end

section

namespace Sys2Proof.Machine

/-! ## Copies, poison and tiles under the changes of this chapter -/

theorem mem_dropAll_iff {l old : List Nat} {k : Nat} : k ∈ dropAll l old ↔ k ∈ l ∧ k ∉ old := by simp [dropAll]

theorem chanOf_modLead (d : Device) (u o : Ch) (f : Channel → Channel) :
    chanOf (modLead d u f) o = if o = leadOf d u then f (chanOf d o) else chanOf d o := by
  unfold modLead
  rw [chanOf_modChan]
  split
  next h => rw [h]
  next => rfl

theorem copyOf_congr {x y : Channel} (h : y.copies = x.copies) (k : Nat) : copyOf y k = copyOf x k := by unfold copyOf; rw [h]

/-- What a change of one copy on the lead channel leaves of every channel beside its copies. -/
theorem modLeadCopy_view {α : Type} (v : Channel → α) (h : ∀ x t, v { x with copies := t } = v x) (d : Device) (u o : Ch) (k : Nat)
    (f : WCopy → WCopy) : v (chanOf (modLeadCopy d u k f) o) = v (chanOf d o) :=
  (keeps_modLead (v := v) d u _ fun x => h x _).chans o

/-- A change of a copy on the lead channel that leaves its fingerprints leaves those of every channel. -/
theorem fps_modLeadCopy (d : Device) (u o : Ch) (k : Nat) {f : WCopy → WCopy} (h : ∀ w, (f w).fps = w.fps) (j : Nat) :
    (copyOf (chanOf (modLeadCopy d u k f) o) j).fps = (copyOf (chanOf d o) j).fps := by
  refine (keeps_modLead (v := fun x => (copyOf x j).fps) d u _ fun x => ?_).chans o
  by_cases e : j = k
  · rw [e, copyOf_modCopy_same, h]
  · rw [copyOf_modCopy_ne _ _ e]

/-- The state of a copy that is not VERIFYING, or that has tiles to repair, is not settled. -/
theorem finishVerify_of_open {d : Device} {u : Ch} {k : Nat} (h : (leadCopy d u k).reg.state ≠ csVerifying ∨ (leadCopy d u k).repairing ≠ []) :
    finishVerify d u k = d := by
  unfold finishVerify
  dsimp only
  refine if_neg fun all => ?_
  simp only [Bool.and_eq_true, decide_eq_true_iff, List.isEmpty_iff] at all
  obtain ⟨⟨verifying, none⟩, -⟩ := all
  exact h.elim (fun g => g verifying) fun g => g none

/-! ## A repair that lands (R449, R595) -/

/-- A channel that has taken a tile again: its bytes, clean of poison, and its fingerprint. -/
def tileTaken (w : WCopy) (k t : Nat) (bytes : List Byte) (x : Channel) : Channel :=
  modCopy (poisonTile w false (writeCommon x (tileRun w t).1 bytes) t) k fun v => { v with fps := tset 0 v.fps t (crc64 bytes) }

theorem tileTaken_spec (w : WCopy) (k t : Nat) (bytes : List Byte) (x : Channel) :
    (tileTaken w k t bytes x).commonMem = (writeCommon x (tileRun w t).1 bytes).commonMem ∧
    (tileTaken w k t bytes x).commonPoison = dropAll x.commonPoison (linesOf (tileRun w t)) ∧
    copyOf (tileTaken w k t bytes x) k = { copyOf x k with fps := tset 0 (copyOf x k).fps t (crc64 bytes) } := by
  have frame := sameButCommon_writeCommon x (tileRun w t).1 bytes
  have poison : (writeCommon x (tileRun w t).1 bytes).commonPoison = x.commonPoison := by rw [frame]
  have copies : (writeCommon x (tileRun w t).1 bytes).copies = x.copies := by rw [frame]
  refine ⟨rfl, congrArg (dropAll · _) poison, ?_⟩
  have before : copyOf (poisonTile w false (writeCommon x (tileRun w t).1 bytes) t) k = copyOf x k := copyOf_congr copies k
  rw [tileTaken, copyOf_modCopy_same, before]

/-- A copy with these tiles left to repair. -/
def repairsLeft (rest : List Nat) (w : WCopy) : WCopy := { w with repairing := rest, reg := { w.reg with suspect := !rest.isEmpty } }

/-- Every channel of a suite has taken a tile of the copy w again. -/
def tileTakenDev (w : WCopy) (u : Ch) (k t : Nat) (bytes : List Byte) (d : Device) : Device :=
  modChans (modChans d (suiteChans d u) fun _ x => poisonTile w false (writeCommon x (tileRun w t).1 bytes) t) (suiteChans d u) fun _ x =>
    modCopy x k fun v => { v with fps := tset 0 v.fps t (crc64 bytes) }

theorem chanOf_tileTakenDev (w : WCopy) (u o : Ch) (k t : Nat) (bytes : List Byte) (d : Device) :
    chanOf (tileTakenDev w u k t bytes d) o = if o ∈ suiteChans d u then tileTaken w k t bytes (chanOf d o) else chanOf d o := by
  unfold tileTakenDev
  rw [chanOf_modChans _ _ _ _ (suiteChans_nodup d u), chanOf_modChans _ _ _ _ (suiteChans_nodup d u)]
  split <;> rfl

theorem suites_tileTakenDev (w : WCopy) (u : Ch) (k t : Nat) (bytes : List Byte) (d : Device) : (tileTakenDev w u k t bytes d).suites = d.suites :=
  (modChans_suites ..).trans (modChans_suites ..)

theorem repairLands_of_awaited {u : Ch} {k t : Nat} {bytes : List Byte} {d : Device} (suite : suiteExists d u = true)
    (awaited : t ∈ (leadCopy d u k).repairing) (len : bytes.length = (leadCopy d u k).tileLen) :
    repairLands u k t bytes d = finishVerify (modLeadCopy (tileTakenDev (leadCopy d u k) u k t bytes d) u k
      (repairsLeft ((leadCopy d u k).repairing.filter (· != t)))) u k := by
  unfold repairLands
  simp only [suite, List.contains_eq_mem, awaited, len, decide_true, beq_self_eq_true, Bool.and_self, ↓reduceIte]
  rfl

/-- Where a suite's lead channel is one of the suite, a repair that lands acts as R449 and R595 say: this is the last clause of `CopiesSettle` with the
condition that it lacks. -/
theorem tileRepairLand_of_lead_mem {s : State} {u : Ch} {k : BitVec 3} {tile : Nat} {bytes : List Byte} (suite : suiteExists s.dev u = true)
    (lead : leadOf s.dev u ∈ suiteChans s.dev u) :
    let w := leadCopy s.dev u k.toNat
    tile ∈ w.repairing → bytes.length = w.tileLen → w.reg.state ≠ csVerifying →
    ∃ t, exec (.tileRepairLand u k tile bytes) s = .next t ∧
      (∀ o, o ∉ suiteChans s.dev u → chanOf t.dev o = chanOf s.dev o) ∧
      (∀ o ∈ suiteChans s.dev u,
        (∀ i (h : i < bytes.length), readByte (chanOf t.dev o).commonMem ((tileRun w tile).1 + i) = bytes[i]) ∧
        (∀ b, (b < (tileRun w tile).1 ∨ (tileRun w tile).1 + bytes.length ≤ b) →
          readByte (chanOf t.dev o).commonMem b = readByte (chanOf s.dev o).commonMem b) ∧
        (∀ l ∈ linesOf (tileRun w tile), l ∉ (chanOf t.dev o).commonPoison) ∧
        tget 0 (copyOf (chanOf t.dev o) k.toNat).fps tile = crc64 bytes ∧
        ∀ i, i ≠ tile → tget 0 (copyOf (chanOf t.dev o) k.toNat).fps i = tget 0 (copyOf (chanOf s.dev o) k.toNat).fps i) ∧
      let v := leadCopy t.dev u k.toNat
      v.repairing = w.repairing.filter (· != tile) ∧ v.reg = { w.reg with suspect := !v.repairing.isEmpty } := by
  intro w awaited len settled
  let rest := w.repairing.filter (· != tile)
  let e := tileTakenDev w u k.toNat tile bytes s.dev
  let d := modLeadCopy e u k.toNat (repairsLeft rest)
  have taken (o : Ch) (ho : o ∈ suiteChans s.dev u) : chanOf e o = tileTaken w k.toNat tile bytes (chanOf s.dev o) :=
    (chanOf_tileTakenDev ..).trans (if_pos ho)
  have leads : leadOf e u = leadOf s.dev u := congrArg (fun q : SchSuite => Ch.ofNum q.lead.toNat) (suiteOf_congr (suites_tileTakenDev ..) u)
  have copy : leadCopy d u k.toNat = repairsLeft rest { w with fps := tset 0 w.fps tile (crc64 bytes) } := by
    rw [leadCopy_modLeadCopy, leadCopy, leads, taken _ lead, (tileTaken_spec ..).2.2]
    rfl
  have runs : repairLands u k.toNat tile bytes s.dev = d := by
    rw [repairLands_of_awaited suite awaited len]
    exact finishVerify_of_open (.inl (by rw [copy]; exact settled))
  refine ⟨{ s with dev := d }, by rw [exec_tileRepairLand, runs], fun o ho => ?outside, fun o ho => ?inside, ?lead⟩
  case outside =>
    have other : o ≠ leadOf e u := fun h => ho (by rw [h, leads]; exact lead)
    exact (chanOf_modChan_ne _ _ other).trans ((chanOf_tileTakenDev ..).trans (if_neg ho))
  case inside =>
    obtain ⟨mem, poison, held⟩ := tileTaken_spec w k.toNat tile bytes (chanOf s.dev o)
    have memory : (chanOf d o).commonMem = (writeCommon (chanOf s.dev o) (tileRun w tile).1 bytes).commonMem := by
      rw [modLeadCopy_view Channel.commonMem fun _ _ => rfl, taken o ho, mem]
    have clean : (chanOf d o).commonPoison = dropAll (chanOf s.dev o).commonPoison (linesOf (tileRun w tile)) := by
      rw [modLeadCopy_view Channel.commonPoison fun _ _ => rfl, taken o ho, poison]
    have fps : (copyOf (chanOf d o) k.toNat).fps = tset 0 (copyOf (chanOf s.dev o) k.toNat).fps tile (crc64 bytes) := by
      rw [fps_modLeadCopy (f := repairsLeft rest) _ _ _ _ fun _ => rfl, taken o ho, held]
    refine ⟨fun i hi => ?_, fun b hb => ?_, fun l hl => ?_, ?_, fun i hi => ?_⟩
    · rw [memory, readByte_writeCommon, if_pos (by omega), Nat.add_sub_cancel_left, ← List.getElem_eq_getD (h := hi)]
    · rw [memory, readByte_writeCommon, if_neg (by omega)]
    · rw [clean]
      exact fun h => (mem_dropAll_iff.mp h).2 hl
    · rw [fps, tget_tset_same]
    · rw [fps, tget_tset_ne _ _ _ _ _ hi]
  case lead =>
    show (leadCopy d u k.toNat).repairing = rest ∧ (leadCopy d u k.toNat).reg = { w.reg with suspect := !(leadCopy d u k.toNat).repairing.isEmpty }
    rw [copy]
    exact ⟨rfl, rfl⟩

end Sys2Proof.Machine

end

section

namespace Sys2Proof.Machine

/-! ## Tiles that a table corrects (R447, R449) -/

theorem modLead_modLead (d : Device) (u : Ch) (f g : Channel → Channel) : modLead (modLead d u f) u g = modLead d u fun x => g (f x) :=
  modChan_setChan ..

/-- A copy with one repair more in REPAIRS. -/
def repairCounted (w : WCopy) : WCopy := { w with reg := { w.reg with repairs := satInc w.reg.repairs } }

/-- The lead channel once a settled tile has been counted in REPAIRS and recorded. -/
def settledChan (k : Nat) (x : Channel) (t : Nat) : Channel :=
  record (modCopy x k repairCounted) { cls := 0xA0, unit := BitVec.ofNat 16 k, kind := 1, addr := BitVec.ofNat 64 t }

theorem noteSettled_eq (u : Ch) (k : Nat) (d : Device) (t : Nat) : noteSettled u k d t = modLead d u fun x => settledChan k x t :=
  modLead_modLead d u (fun x => modCopy x k repairCounted) fun x =>
    record x { cls := 0xA0, unit := BitVec.ofNat 16 k, kind := 1, addr := BitVec.ofNat 64 t }

theorem foldl_noteSettled (u : Ch) (k : Nat) (l : List Nat) (d : Device) :
    l.foldl (noteSettled u k) d = modLead d u fun x => l.foldl (settledChan k) x := by
  induction l generalizing d with
  | nil => exact (setChan_chanOf d (leadOf d u)).symm
  | cons t l ih => rw [List.foldl_cons, ih, noteSettled_eq, modLead_modLead]; rfl

/-- A copy but for its count of repairs. -/
def SameButRepairs (w v : WCopy) : Prop := v = { w with reg := { w.reg with repairs := v.reg.repairs } }

theorem SameButRepairs.trans {a b c : WCopy} (h : SameButRepairs a b) (g : SameButRepairs b c) : SameButRepairs a c := by
  unfold SameButRepairs at *; rw [g, h]

/-- What settled tiles leave of the lead channel. -/
structure Settled (k : Nat) (x y : Channel) : Prop where
  copy : SameButRepairs (copyOf x k) (copyOf y k)
  others : ∀ j, j ≠ k → copyOf y j = copyOf x j
  memory : y.commonMem = x.commonMem
  poison : y.commonPoison = x.commonPoison

theorem Settled.refl (k : Nat) (x : Channel) : Settled k x x := ⟨rfl, fun _ _ => rfl, rfl, rfl⟩

theorem copyOf_settledChan (k : Nat) (x : Channel) (t j : Nat) : copyOf (settledChan k x t) j = copyOf (modCopy x k repairCounted) j := rfl

theorem settled_settledChan (k : Nat) (x : Channel) (t : Nat) : Settled k x (settledChan k x t) where
  copy := by
    rw [copyOf_settledChan, copyOf_modCopy_same]
    rfl
  others j hj := by rw [copyOf_settledChan, copyOf_modCopy_ne _ _ hj]
  memory := rfl
  poison := rfl

theorem Settled.trans {k : Nat} {x y z : Channel} (h : Settled k x y) (g : Settled k y z) : Settled k x z :=
  ⟨h.copy.trans g.copy, fun j hj => (g.others j hj).trans (h.others j hj), g.memory.trans h.memory, g.poison.trans h.poison⟩

theorem settled_foldl (k : Nat) (l : List Nat) (x : Channel) : Settled k x (l.foldl (settledChan k) x) :=
  List.foldlRecOn l (settledChan k) (motive := Settled k x) (.refl k x) fun y h t _ => h.trans (settled_settledChan k y t)

/-- The newest record is a fingerprint event. -/
def FingerprintNoted (x : Channel) : Prop := ∃ r l, x.hist.buffer = r :: l ∧ r.cls = 0xA0

theorem fingerprintNoted_settledChan (k : Nat) (x : Channel) (t : Nat) : FingerprintNoted (settledChan k x t) := ⟨_, _, rfl, rfl⟩

theorem fingerprintNoted_foldl (k : Nat) {l : List Nat} (h : l ≠ []) (x : Channel) : FingerprintNoted (l.foldl (settledChan k) x) := by
  cases l with
  | nil => exact absurd rfl h
  | cons t l =>
    exact List.foldlRecOn l (settledChan k) (motive := FingerprintNoted) (fingerprintNoted_settledChan k x t)
      fun y _ t _ => fingerprintNoted_settledChan k y t

/-! ## Tiles to be replaced (R449) -/

theorem poisonTile_eq (w : WCopy) (x : Channel) (t : Nat) :
    poisonTile w true x t = { x with commonPoison := addAll x.commonPoison (linesOf (tileRun w t)) } := rfl

/-- Poison on every line of some tiles changes the list of poisoned lines alone, and that list then holds them. -/
theorem poisonTiles_spec (w : WCopy) (l : List Nat) (x : Channel) :
    l.foldl (poisonTile w true) x = { x with commonPoison := (l.foldl (poisonTile w true) x).commonPoison } ∧
    ∀ i ∈ l, ∀ line ∈ linesOf (tileRun w i), line ∈ (l.foldl (poisonTile w true) x).commonPoison := by
  constructor
  · refine List.foldlRecOn l (poisonTile w true) (motive := fun y : Channel => y = { x with commonPoison := y.commonPoison }) rfl fun y h t _ => ?_
    rw [poisonTile_eq, h]
  · refine foldl_forall_mem (P := fun (y : Channel) i => ∀ line ∈ linesOf (tileRun w i), line ∈ y.commonPoison) (fun y i line hl => ?_)
      (fun y i j h line hl => ?_) l x
    · exact mem_addAll hl
    · rw [poisonTile_eq]
      exact mem_addAll_iff.mpr (.inl (h line hl))

/-- A copy with tiles more to repair. -/
def tilesReplaced (l : List Nat) (w : WCopy) : WCopy := { w with repairing := addAll w.repairing l, reg := { w.reg with suspect := true } }

theorem replaceTiles_of_some {l : List Nat} (h : l ≠ []) (d : Device) (u : Ch) (k : Nat) :
    replaceTiles d u k l = modLeadCopy (modChans d (suiteChans d u) fun _ x => l.foldl (poisonTile (leadCopy d u k) true) x) u k (tilesReplaced l) := by
  unfold replaceTiles
  rw [if_neg (by rw [List.isEmpty_iff]; exact h)]
  rfl

theorem leadCopy_modLeadCopy_ne (d : Device) (u : Ch) {k j : Nat} (f : WCopy → WCopy) (h : j ≠ k) :
    leadCopy (modLeadCopy d u k f) u j = leadCopy d u j :=
  (leadCopy_modLead ..).trans (copyOf_modCopy_ne _ _ h)

theorem SameButRepairs.tileRun {w v : WCopy} (h : SameButRepairs w v) (t : Nat) : tileRun v t = Machine.tileRun w t := by rw [h]; rfl

/-! ## A table that disagrees (R438, R447, R449) -/

/-- A copy that has the learner's table. -/
def tableTaken (fps : List W64) (w : WCopy) : WCopy := { w with refFps := tableOf fps, reg := { w.reg with state := csVerifying } }

/-- A copy that can take a table, of which all chunks have landed. -/
structure TakesTable (d : Device) (u : Ch) (k : Nat) (fps : List W64) : Prop where
  suite : suiteExists d u = true
  source : (leadCopy d u k).source = .broadcast
  waits : (leadCopy d u k).reg.state = csLoading ∨ (leadCopy d u k).reg.state = csVerifying
  whole : (leadCopy d u k).repairing = []
  landed : allLanded d u k = true
  length : fps.length = (leadCopy d u k).reg.tiles.toNat

theorem tableArrives_of_takes {d : Device} {u : Ch} {k : Nat} {fps : List W64} (h : TakesTable d u k fps) :
    tableArrives u k fps d = compareTable (modLeadCopy d u k (tableTaken fps)) u k := by
  have waits : ((leadCopy d u k).reg.state == csLoading || ((leadCopy d u k).reg.state == csVerifying && (leadCopy d u k).repairing.isEmpty)) = true := by
    rw [h.whole, List.isEmpty_nil, Bool.and_true, Bool.or_eq_true, beq_iff_eq, beq_iff_eq]
    exact h.waits
  unfold tableArrives
  simp only [h.suite, h.source, waits, h.landed, h.length, beq_self_eq_true, Bool.and_self, ↓reduceIte]
  rfl

/-- A change of the lead's copy that leaves its fingerprints and its count of tiles leaves the tiles that disagree with a table. -/
theorem mismatches_modLeadCopy (d : Device) (u : Ch) (k : Nat) {f : WCopy → WCopy} (fps : ∀ w, (f w).fps = w.fps)
    (tiles : ∀ w, (f w).reg.tiles = w.reg.tiles) (want : Tab W64) : mismatches (modLeadCopy d u k f) u k want = mismatches d u k want := by
  have suite : suiteChans (modLeadCopy d u k f) u = suiteChans d u := suiteChans_congr rfl u
  unfold mismatches tileFps
  simp only [leadCopy_modLeadCopy, tiles, suite, fps_modLeadCopy _ _ _ _ fps]

/-- The device once the tiles l disagree with the copy's table: they are recorded on the lead channel, poisoned on every channel, and to be replaced. -/
def disagreedDev (u : Ch) (k : Nat) (l : List Nat) (d : Device) : Device :=
  let e := modLead d u fun x => l.foldl (settledChan k) x
  modLeadCopy (modChans e (suiteChans d u) fun _ x => l.foldl (poisonTile (leadCopy e u k) true) x) u k (tilesReplaced l)

theorem compareTable_of_disagrees {d : Device} {u : Ch} {k : Nat} (h : mismatches d u k (leadCopy d u k).refFps ≠ []) :
    compareTable d u k = finishVerify (disagreedDev u k (mismatches d u k (leadCopy d u k).refFps) d) u k := by
  unfold compareTable disagreedDev
  dsimp only
  rw [foldl_noteSettled, replaceTiles_of_some h]
  rfl

/-- What tiles that disagree leave of a suite whose lead channel is one of its channels. -/
structure Disagreed (u : Ch) (k : Nat) (l : List Nat) (d d' : Device) : Prop where
  outside : ∀ o, o ∉ suiteChans d u → chanOf d' o = chanOf d o
  memory : ∀ o ∈ suiteChans d u, (chanOf d' o).commonMem = (chanOf d o).commonMem
  poison : ∀ o ∈ suiteChans d u, ∀ i ∈ l, ∀ line ∈ linesOf (tileRun (leadCopy d u k) i), line ∈ (chanOf d' o).commonPoison
  noted : FingerprintNoted (chanOf d' (leadOf d u))
  copy : SameButRepairs (tilesReplaced l (leadCopy d u k)) (leadCopy d' u k)
  others : ∀ j, j ≠ k → leadCopy d' u j = leadCopy d u j

/-- The channels of a suite with some tiles of the copy w poisoned. -/
def poisonedDev (u : Ch) (w : WCopy) (l : List Nat) (d : Device) : Device := modChans d (suiteChans d u) fun _ x => l.foldl (poisonTile w true) x

theorem chanOf_poisonedDev (u o : Ch) (w : WCopy) (l : List Nat) (d : Device) :
    chanOf (poisonedDev u w l d) o = if o ∈ suiteChans d u then l.foldl (poisonTile w true) (chanOf d o) else chanOf d o :=
  chanOf_modChans _ _ _ _ (suiteChans_nodup d u)

theorem poisonedDev_keeps {α : Type} (v : Channel → α) (h : ∀ x p, v { x with commonPoison := p } = v x) (u : Ch) (w : WCopy) (l : List Nat)
    (d : Device) : Keeps v d (poisonedDev u w l d) :=
  keeps_modChans _ _ _ fun _ x => (congrArg v (poisonTiles_spec w l x).1).trans (h x _)

theorem disagreed_disagreedDev {d : Device} {u : Ch} {k : Nat} {l : List Nat} (lead : leadOf d u ∈ suiteChans d u) (h : l ≠ []) :
    Disagreed u k l d (disagreedDev u k l d) := by
  let e := modLead d u fun x => l.foldl (settledChan k) x
  let g := poisonedDev u (leadCopy e u k) l e
  have whole : disagreedDev u k l d = modLeadCopy g u k (tilesReplaced l) := rfl
  have copies : Keeps Channel.copies e g := poisonedDev_keeps _ (fun _ _ => rfl) ..
  have leads : leadOf g u = leadOf d u := copies.leadOf u
  have first : chanOf e (leadOf d u) = l.foldl (settledChan k) (chanOf d (leadOf d u)) := chanOf_modChan_same ..
  have other (o : Ch) (ho : o ≠ leadOf d u) : chanOf e o = chanOf d o := chanOf_modChan_ne _ _ ho
  have settled : Settled k (chanOf d (leadOf d u)) (chanOf e (leadOf d u)) := by
    rw [first]
    exact settled_foldl ..
  rw [whole]
  refine ⟨fun o ho => ?_, fun o ho => ?_, fun o ho i hi line hl => ?_, ?_, ?_, fun j hj => ?_⟩
  · have far : o ≠ leadOf d u := fun e => ho (e ▸ lead)
    rw [modLeadCopy, chanOf_modLead, leads, if_neg far, chanOf_poisonedDev, if_neg (by exact ho), other o far]
  · rw [modLeadCopy_view Channel.commonMem fun _ _ => rfl, (poisonedDev_keeps Channel.commonMem (fun _ _ => rfl) ..).chans o]
    by_cases far : o = leadOf d u
    · rw [far, settled.memory]
    · rw [other o far]
  · rw [modLeadCopy_view Channel.commonPoison fun _ _ => rfl, chanOf_poisonedDev, if_pos (by exact ho)]
    exact (poisonTiles_spec _ l _).2 i hi line (by rw [show leadCopy e u k = copyOf (chanOf e (leadOf d u)) k from rfl, settled.copy.tileRun]; exact hl)
  · have hist : (chanOf (modLeadCopy g u k (tilesReplaced l)) (leadOf d u)).hist = (chanOf e (leadOf d u)).hist := by
      rw [modLeadCopy_view Channel.hist fun _ _ => rfl, (poisonedDev_keeps Channel.hist (fun _ _ => rfl) ..).chans]
    unfold FingerprintNoted
    rw [hist, first]
    exact fingerprintNoted_foldl k h _
  · rw [leadCopy_modLeadCopy, copies.leadCopy]
    have copy : SameButRepairs (leadCopy d u k) (leadCopy e u k) := settled.copy
    rw [copy]
    rfl
  · rw [leadCopy_modLeadCopy_ne _ _ _ hj, copies.leadCopy]
    exact settled.others j hj

/-- Where a suite's lead channel is one of the suite, tiles that disagree with the learner's table are met as R447 and R449 say: this is the last clause of
`CopiesArrive` with the condition that it lacks. -/
theorem fingerprintTableArrival_of_lead_mem {s : State} {u : Ch} {k : BitVec 3} {fps : List W64} (takes : TakesTable s.dev u k.toNat fps)
    (lead : leadOf s.dev u ∈ suiteChans s.dev u) :
    let w := leadCopy s.dev u k.toNat
    let bad := mismatches s.dev u k.toNat (tableOf fps)
    bad ≠ [] → ∃ t, exec (.fingerprintTableArrival u k fps) s = .next t ∧
      (∀ o, o ∉ suiteChans s.dev u → chanOf t.dev o = chanOf s.dev o) ∧
      (∀ o ∈ suiteChans s.dev u, (chanOf t.dev o).commonMem = (chanOf s.dev o).commonMem ∧
        ∀ i ∈ bad, ∀ l ∈ linesOf (tileRun w i), l ∈ (chanOf t.dev o).commonPoison) ∧
      (∃ r l, (chanOf t.dev (leadOf s.dev u)).hist.buffer = r :: l ∧ r.cls = 0xA0) ∧
      let v := leadCopy t.dev u k.toNat
      v.reg.state = csVerifying ∧ v.reg.suspect = true ∧ v.repairing = bad ∧ v.refFps = tableOf fps ∧ v.fps = w.fps ∧
      ∀ j, j ≠ k.toNat → leadCopy t.dev u j = leadCopy s.dev u j := by
  intro w bad disagrees
  let d := modLeadCopy s.dev u k.toNat (tableTaken fps)
  have taken : leadCopy d u k.toNat = tableTaken fps w := leadCopy_modLeadCopy ..
  have same : mismatches d u k.toNat (leadCopy d u k.toNat).refFps = bad := by
    rw [taken]
    exact mismatches_modLeadCopy s.dev u k.toNat (f := tableTaken fps) (fun _ => rfl) (fun _ => rfl) (tableOf fps)
  have met : Disagreed u k.toNat bad d (disagreedDev u k.toNat bad d) := disagreed_disagreedDev lead disagrees
  have listed : addAll w.repairing bad = bad := by rw [takes.whole]; simp [addAll]
  have copy := met.copy
  rw [taken] at copy
  have repairing : (leadCopy (disagreedDev u k.toNat bad d) u k.toNat).repairing = bad := by
    rw [copy]
    exact listed
  have runs : tableArrives u k.toNat fps s.dev = disagreedDev u k.toNat bad d := by
    rw [tableArrives_of_takes takes, compareTable_of_disagrees (by rw [same]; exact disagrees), same]
    exact finishVerify_of_open (.inr (by rw [repairing]; exact disagrees))
  refine ⟨_, exec_fingerprintTableArrival u k fps s, ?_⟩
  dsimp only
  rw [runs]
  refine ⟨fun o ho => (met.outside o ho).trans ?_, fun o ho => ⟨(met.memory o ho).trans ?_, ?_⟩, met.noted, ?_⟩
  · exact chanOf_modChan_ne _ _ fun e => ho (e ▸ lead)
  · exact modLeadCopy_view Channel.commonMem (fun _ _ => rfl) ..
  · have poison := met.poison o ho
    rw [taken] at poison
    exact poison
  · rw [copy]
    exact ⟨rfl, rfl, listed, rfl, rfl, fun j hj => (met.others j hj).trans (leadCopy_modLeadCopy_ne _ _ _ hj)⟩

end Sys2Proof.Machine

end

section

namespace Sys2Proof.Machine

/-! ## The two statements without the premise that the lead channel is one of the suite -/

/-- Refutes O47: of a suite whose LEAD lies outside its MASK, a table that disagrees changes a channel that is none of the suite's.
With the lead channel in the suite that clause holds: `fingerprintTableArrival_of_lead_mem`. -/
theorem not_copiesArrive : ¬ Obligations.CopiesArrive := by
  unfold Obligations.CopiesArrive
  intro holds
  obtain ⟨-, -, table⟩ := holds (strayLead landedCopy) .c0 .c0 (by decide +kernel)
  obtain ⟨-, disagrees⟩ := table 0 [1] rfl (.inl rfl) rfl rfl (by decide +kernel) rfl rfl
  obtain ⟨t, runs, outside, -⟩ := disagrees (by decide +kernel)
  rw [exec_fingerprintTableArrival] at runs
  cases runs
  obtain ⟨-, chans, -, verifying⟩ := strayLead_tableArrives
  have kept : chanOf (tableArrives .c0 0 [1] (strayLead landedCopy).dev) .c1 = chanOf (strayLead landedCopy).dev .c1 :=
    outside .c1 (by rw [chans]; decide)
  rw [kept] at verifying
  exact absurd verifying (by decide)

/-- Refutes O48: of a suite whose LEAD lies outside its MASK, a repair that lands changes a channel that is none of the suite's.
With the lead channel in the suite that clause holds: `tileRepairLand_of_lead_mem`. -/
theorem not_copiesSettle : ¬ Obligations.CopiesSettle := by
  unfold Obligations.CopiesSettle
  intro holds
  obtain ⟨-, -, repair⟩ := holds (strayLead repairingCopy) .c0 0 rfl
  obtain ⟨t, runs, outside, -⟩ := repair 0 [] (by decide +kernel) rfl (by decide +kernel)
  rw [exec_tileRepairLand] at runs
  cases runs
  obtain ⟨-, chans, landed⟩ := strayLead_repairLands
  have kept : chanOf (repairLands .c0 0 0 [] (strayLead repairingCopy).dev) .c1 = chanOf (strayLead repairingCopy).dev .c1 :=
    outside .c1 (by rw [chans]; decide)
  rw [kept] at landed
  exact absurd landed (by decide)

end Sys2Proof.Machine

end

section

namespace Sys2Proof.Machine

/-! ## Lanes of messages (R496) -/

theorem laneOf_named (x : Channel) (node : BitVec 18) (queue : W32) :
    (laneOf x node queue).node = node ∧ (laneOf x node queue).queue = queue := by
  unfold laneOf
  split
  next l found => simpa using List.find?_some found
  next => exact ⟨rfl, rfl⟩

/-- A lane that is set is found for its receiver and queue. -/
theorem laneOf_setLane_same (x : Channel) (l : MsgLane) {node : BitVec 18} {queue : W32} (hn : l.node = node) (hq : l.queue = queue) :
    laneOf (setLane x l) node queue = l := by
  subst hn hq
  have old : (x.lanes.filter fun k => !(k.node == l.node && k.queue == l.queue)).find? (fun k => k.node == l.node && k.queue == l.queue) = none := by
    rw [List.find?_eq_none]
    intro k hk
    simpa only [Bool.not_eq_true', Bool.not_eq_true] using (List.mem_filter.mp hk).2
  unfold laneOf setLane
  dsimp only
  rw [List.find?_append, old]
  simp

theorem laneOf_messageLeaves (m : Msg) (x : Channel) :
    laneOf (messageLeaves m x) m.node m.queue = { laneOf x m.node m.queue with inFlight := (laneOf x m.node m.queue).inFlight + 1 } := by
  obtain ⟨hn, hq⟩ := laneOf_named x m.node m.queue
  exact laneOf_setLane_same x { laneOf x m.node m.queue with inFlight := (laneOf x m.node m.queue).inFlight + 1 } hn hq

theorem exec_msgCreditReturn (c : Ch) (node : BitVec 18) (queue : W32) (s : State) :
    exec (.msgCreditReturn c node queue) s = .next { s with dev := msgCreditReturn c node queue s.dev } := rfl

/-- A lane once a credit has freed a place on it, and those messages wait still. -/
def creditTaken (x : Channel) (node : BitVec 18) (queue : W32) (ms : List Msg) : MsgLane :=
  { laneOf x node queue with inFlight := (laneOf x node queue).inFlight - 1, waiting := ms }

theorem laneOf_setLane_creditTaken (x y : Channel) (node : BitVec 18) (queue : W32) (ms : List Msg) :
    laneOf (setLane y (creditTaken x node queue ms)) node queue = creditTaken x node queue ms :=
  have ⟨hn, hq⟩ := laneOf_named x node queue
  laneOf_setLane_same y (creditTaken x node queue ms) hn hq

/-- A credit that no message waits for frees a place of its lane. -/
theorem msgCreditReturn_of_idle {c : Ch} {node : BitVec 18} {queue : W32} {d : Device} (h : (laneOf (chanOf d c) node queue).waiting = []) :
    msgCreditReturn c node queue d = modChan d c fun x => setLane x (creditTaken (chanOf d c) node queue []) := by
  unfold msgCreditReturn creditTaken
  dsimp only
  rw [h]

/-- A credit lets the oldest waiting message go. -/
theorem msgCreditReturn_of_waiting {c : Ch} {m : Msg} {ms : List Msg} {d : Device}
    (h : (laneOf (chanOf d c) m.node m.queue).waiting = m :: ms) (full : (laneOf (chanOf d c) m.node m.queue).inFlight ≤ 4) :
    msgCreditReturn c m.node m.queue d =
      send (modChan d c fun x => messageLeaves m (setLane x (creditTaken (chanOf d c) m.node m.queue ms))) (msgOf d c m.node m.queue m.bytes) := by
  let d1 := modChan d c fun x => setLane x (creditTaken (chanOf d c) m.node m.queue ms)
  have runs : msgCreditReturn c m.node m.queue d = sendMsg d1 c m := by
    unfold msgCreditReturn
    dsimp only
    rw [h]
    rfl
  have chan : chanOf d1 c = setLane (chanOf d c) (creditTaken (chanOf d c) m.node m.queue ms) := chanOf_modChan_same ..
  have place : (laneOf (chanOf d1 c) m.node m.queue).inFlight < 4 := by
    rw [chan, laneOf_setLane_creditTaken]
    show (laneOf (chanOf d c) m.node m.queue).inFlight - 1 < 4
    omega
  have sender : SameSender (chanOf d c) (chanOf d1 c) := by rw [chan]; exact ⟨rfl, rfl, fun _ => rfl⟩
  rw [runs, sendMsg_of_credit place, msgOf_congr sender]
  exact congrArg (send · _) (modChan_setChan ..)

/-! ## Injection rates (R510) -/

theorem qpRate_setQp_same (x : Channel) (peer r : Nat) : qpRate (setQp x peer r) peer = r := by
  have old : (x.qps.filter fun q => q.peer != peer).find? (fun q => q.peer == peer) = none := by
    rw [List.find?_eq_none]
    intro q hq
    simpa using (List.mem_filter.mp hq).2
  unfold qpRate setQp
  by_cases full : r = qpFull
  · simp only [full, ↓reduceIte, old]
  · simp [full, List.find?_append, old]

theorem qpRate_setQp_ne (x : Channel) {peer k : Nat} (r : Nat) (h : k ≠ peer) : qpRate (setQp x peer r) k = qpRate x k := by
  have old : (x.qps.filter fun q => q.peer != peer).find? (fun q => q.peer == k) = x.qps.find? fun q => q.peer == k := by
    rw [List.find?_filter]
    congr 1
    funext q
    by_cases hq : q.peer = k <;> simp [hq, h]
  have new : [(⟨peer, r⟩ : QpRate)].find? (fun q => q.peer == k) = none := by simpa using h.symm
  unfold qpRate setQp
  by_cases full : r = qpFull
  · simp only [full, ↓reduceIte, old]
  · simp only [full, ↓reduceIte, List.find?_append, old, new, Option.or_none]

theorem exec_ethCnpReceive (c : Ch) (peer : BitVec 10) (s : State) :
    exec (.ethCnpReceive c peer) s = .next { s with dev := modChan s.dev c fun x => setQp x peer.toNat (qpRate x peer.toNat / 2) } := rfl
theorem exec_ethRateRecovery (c : Ch) (peer : BitVec 10) (s : State) :
    exec (.ethRateRecovery c peer) s =
      .next { s with dev := modChan s.dev c fun x => setQp x peer.toNat (min qpFull (qpRate x peer.toNat + qpFull / 8)) } := rfl

/-- A queue pair's rate that is set: no other channel, no other queue pair and no room changes. -/
theorem rate_set (s : State) (c : Ch) (peer : Nat) (r : Channel → Nat) :
    let t : State := { s with dev := modChan s.dev c fun x => setQp x peer (r x) }
    OnlyChannel c s t ∧ qpRate (chanOf t.dev c) peer = r (chanOf s.dev c) ∧
    (∀ k, k ≠ peer → qpRate (chanOf t.dev c) k = qpRate (chanOf s.dev c) k) ∧ (chanOf t.dev c).rooms = (chanOf s.dev c).rooms := by
  refine ⟨onlyChannel_modChan .., ?_⟩
  dsimp only
  rw [chanOf_modChan_same]
  exact ⟨qpRate_setQp_same .., fun k hk => qpRate_setQp_ne _ _ hk, rfl⟩

/-! ## ERROR frames (R495, R498) -/

/-- A channel that has counted an ERROR frame. -/
def errorCounted (x : Channel) : Channel := { x with red := { x.red with errors := satInc x.red.errors } }

theorem exec_errorFrameReceive (c : Ch) (e : ErrorInfo) (s : State) :
    exec (.errorFrameReceive c e) s = .next { s with board := showPower s.board (errorReceive c e s.dev), dev := errorReceive c e s.dev } := rfl

/-- What an ERROR frame does by the OP of the chunk that it answers. -/
theorem errorReceive_eq (c : Ch) (e : ErrorInfo) (d : Device) :
    let d1 := modChan d c errorCounted
    errorReceive c e d =
      if e.op.toNat ≤ 2 then faultOn d1 c e.room.toNat .roomFault
      else if e.op = 4 then modChan d1 c (writeFails e.region e.page)
      else if e.op = 5 then modChan d1 c (readFails e.region e.page) else d1 := rfl

/-- Settles O55: a lane by what setting it leaves, a rate by what setting it leaves, an ERROR frame by its OP. -/
theorem messagesAndRates : Obligations.MessagesAndRates := by
  unfold Obligations.MessagesAndRates
  intro s c x
  refine ⟨fun node queue => ⟨fun idle => ?_, fun m ms waits hn hq some four => ?_⟩, fun peer => ?_, fun e => ?_⟩
  · refine ⟨_, exec_msgCreditReturn c node queue s, ?_⟩
    rw [msgCreditReturn_of_idle idle]
    refine ⟨onlyChannel_modChan .., ?_⟩
    rw [chanOf_modChan_same, laneOf_setLane_creditTaken]
    refine ⟨?_, rfl⟩
    unfold creditTaken
    rw [← idle]
  · subst hn hq
    refine ⟨_, exec_msgCreditReturn c m.node m.queue s, ?_⟩
    rw [msgCreditReturn_of_waiting (c := c) (d := s.dev) waits four]
    refine ⟨rfl, ?_, ?_, fun o ho => by rw [chanOf_send, chanOf_modChan_ne _ _ ho]⟩
    · rw [chanOf_send, chanOf_modChan_same, laneOf_messageLeaves, laneOf_setLane_creditTaken]
      unfold creditTaken
      rw [Nat.sub_add_cancel some]
    · rw [chanOf_send, chanOf_modChan_same]
      rfl
  · intro r i hi
    simp only [List.mem_cons, List.not_mem_nil, or_false] at hi
    rcases hi with rfl | rfl
    · refine ⟨_, exec_ethCnpReceive c peer s, ?_⟩
      rw [if_pos rfl]
      exact rate_set s c peer.toNat fun x => qpRate x peer.toNat / 2
    · refine ⟨_, exec_ethRateRecovery c peer s, ?_⟩
      rw [if_neg (by simp)]
      exact rate_set s c peer.toNat fun x => min qpFull (qpRate x peer.toNat + qpFull / 8)
  · refine ⟨_, exec_errorFrameReceive c e s, ?_⟩
    dsimp only
    rw [errorReceive_eq]
    refine ⟨fun h => if_pos h, fun h => ?_, fun h => ?_, fun h => ?_⟩
    · rw [if_neg (by rw [h]; decide), if_pos h]
      rfl
    · rw [if_neg (by rw [h]; decide), if_neg (by rw [h]; decide), if_pos h]
      rfl
    · simp only [List.mem_cons, List.not_mem_nil, or_false, not_or] at h
      obtain ⟨h0, h1, h2, h4, h5⟩ := h
      rw [if_neg (by bv_omega), if_neg h4, if_neg h5]
      rfl

end Sys2Proof.Machine

end

section

namespace Sys2Proof.Machine

/-! ## The element that a search finds first -/

theorem find?_of_split {α : Type} {p : α → Bool} {a b : List α} {q : α} (before : ∀ r ∈ a, p r = false) (found : p q = true) :
    (a ++ q :: b).find? p = some q :=
  List.find?_eq_some_iff_append.mpr ⟨found, a, b, rfl, fun r hr => by rw [before r hr]; rfl⟩

theorem modFirst_of_split {α : Type} {p : α → Bool} (f : α → α) {a b : List α} {q : α} (before : ∀ r ∈ a, p r = false) (found : p q = true) :
    modFirst p f (a ++ q :: b) = a ++ f q :: b := by
  induction a with
  | nil => exact if_pos found
  | cons r a ih =>
    have skip : modFirst p f (r :: (a ++ q :: b)) = r :: modFirst p f (a ++ q :: b) := if_neg (by rw [before r List.mem_cons_self]; exact Bool.false_ne_true)
    rw [List.cons_append, skip, ih fun t ht => before t (List.mem_cons_of_mem r ht), List.cons_append]

theorem modChan_modChan (d : Device) (c : Ch) (f g : Channel → Channel) : modChan (modChan d c f) c g = modChan d c fun x => g (f x) :=
  modChan_setChan ..

/-! ## Chunks for a room (R493) -/

/-- A chunk of so many bytes has been counted for a room, whose memory is as it was. -/
def ChunkCounted (len : Nat) (r q : Room) : Prop :=
  q.fab.xferIn = satInc r.fab.xferIn ∧ q.acct.fabRxBytes = r.acct.fabRxBytes + BitVec.ofNat 64 len ∧ q.mem = r.mem

theorem chunkCounted_countChunkIn (n len : Nat) (x : Channel) : ChunkCounted len (roomOf x n) (roomOf (countChunkIn n len x) n) := by
  unfold ChunkCounted countChunkIn
  rw [roomOf_modRoomC_same]
  exact ⟨rfl, rfl, rfl⟩

/-- A room ends since a transfer does not fit: the event is recorded, and the room faults (R493). -/
def transferFails (c : Ch) (n : Nat) (d : Device) : Device :=
  faultOn (modChan d c fun x => record x { cls := 0x90, kind := 7, room := BitVec.ofNat 6 n, status := .roomFault }) c n .roomFault

theorem transferFails_noted (c : Ch) (n : BitVec 6) (d : Device) :
    ∃ d1, transferFails c n.toNat d = faultOn d1 c n.toNat .roomFault ∧
      ∃ r, (chanOf d1 c).hist.buffer.head? = some r ∧ r.cls = 0x90 ∧ r.room = n := by
  refine ⟨_, rfl, ?_⟩
  rw [chanOf_modChan_same]
  exact ⟨_, rfl, rfl, (BitVec.ofNat_toNat ..).trans (BitVec.setWidth_eq n)⟩

section
variable (d : Device) (c : Ch) (node : BitVec 18) (sroom : BitVec 6) (n : Nat) (tag : W32) (chunk : Nat) (last poison : Bool) (bytes : List Byte)

/-- A receive that waits for a chunk. -/
def meetsPosted (p : Posted) : Bool :=
  sameXfer n node sroom tag p.room p.node p.sroom p.tag && !recvDone p && !(p.chunks.any fun k => k.1 == chunk)
/-- An early transfer that lacks a chunk. -/
def meetsEarly (e : EarlyXfer) : Bool := sameXfer n node sroom tag e.room e.node e.sroom e.tag && !(e.chunks.any fun k => k.1 == chunk)

theorem meetsPosted_iff (p : Posted) : meetsPosted node sroom n tag chunk p = true ↔
    (n = p.room ∧ node = p.node ∧ sroom = p.sroom ∧ tag = p.tag ∧ ∀ q ∈ p.chunks, q.1 ≠ chunk) ∧ recvDone p = false := by
  unfold meetsPosted sameXfer
  simp only [Bool.and_eq_true, beq_iff_eq, Bool.not_eq_true', List.any_eq_false, and_assoc, ne_eq]
  constructor
  · rintro ⟨room, node, sroom, tag, lacks, running⟩
    exact ⟨room, node, sroom, tag, running, lacks⟩
  · rintro ⟨room, node, sroom, tag, running, lacks⟩
    exact ⟨room, node, sroom, tag, lacks, running⟩

theorem meetsEarly_iff (e : EarlyXfer) : meetsEarly node sroom n tag chunk e = true ↔
    n = e.room ∧ node = e.node ∧ sroom = e.sroom ∧ tag = e.tag ∧ ∀ q ∈ e.chunks, q.1 ≠ chunk := by
  unfold meetsEarly sameXfer
  simp only [Bool.and_eq_true, beq_iff_eq, Bool.not_eq_true', List.any_eq_false, and_assoc, ne_eq]

/-- A receive with one chunk more; its data lands while its room is on the islands, or does not. -/
def chunkPosted (running : Bool) (p : Posted) : Posted := { p with chunks := p.chunks ++ [(chunk, bytes, poison)], begun := p.begun || running }

/-- A transfer whose first chunk has come before its receive. -/
def earlyBegun : EarlyXfer :=
  { room := n, node := node, sroom := sroom, tag := tag, chunks := [(chunk, bytes, poison)],
    total := if last then some (chunk * chunkBytes + bytes.length) else none }

/-- A channel where a transfer begins to land early. -/
def landsEarly (e : EarlyXfer) (x : Channel) : Channel :=
  modRoomC (showArrival { x with early := x.early ++ [e] } n) n fun r => { r with fab := { r.fab with early := satInc r.fab.early } }

theorem takeChunk_of_stopped (h : isStarted (roomOf (chanOf d c) n) = false) : takeChunk d c node sroom n tag chunk last poison bytes = d := by
  unfold takeChunk
  simp only [h, Bool.not_false, ↓reduceIte]

variable {d c n}

/-- A chunk that meets a receive lands where it fits, and ends the room where it does not. -/
theorem takeChunk_of_met (h : isStarted (roomOf (chanOf d c) n) = true) {a b : List Posted} {p : Posted} (split : (chanOf d c).posted = a ++ p :: b)
    (before : ∀ q ∈ a, meetsPosted node sroom n tag chunk q = false) (met : meetsPosted node sroom n tag chunk p = true) :
    takeChunk d c node sroom n tag chunk last poison bytes =
      if chunkFits p.bytes chunk bytes.length last then
        modChan d c fun x => { countChunkIn n bytes.length x with posted := a ++ chunkPosted chunk poison bytes (x.island.room == some n) p :: b }
      else transferFails c n (modChan d c (countChunkIn n bytes.length)) := by
  have found : (chanOf d c).posted.find? (meetsPosted node sroom n tag chunk) = some p := by rw [split]; exact find?_of_split before met
  have lands : modChan (modChan d c (countChunkIn n bytes.length)) c (fun x => { x with
        posted := modFirst (meetsPosted node sroom n tag chunk) (chunkPosted chunk poison bytes (x.island.room == some n)) x.posted }) =
      modChan d c fun x => { countChunkIn n bytes.length x with posted := a ++ chunkPosted chunk poison bytes (x.island.room == some n) p :: b } := by
    rw [modChan_modChan]
    refine congrArg (setChan d c) ?_
    show ({ countChunkIn n bytes.length (chanOf d c) with posted := modFirst _ _ (chanOf d c).posted } : Channel) = _
    rw [split, modFirst_of_split _ before met]
    rfl
  rw [← lands]
  unfold takeChunk
  simp only [h, Bool.not_true, Bool.false_eq_true, ↓reduceIte]
  unfold meetsPosted at found
  rw [found]
  rfl

/-- A chunk that no receive and no early transfer lacks begins an early transfer, and ends the room where its arrival area overflows. -/
theorem takeChunk_of_unmet (h : isStarted (roomOf (chanOf d c) n) = true) (posted : ∀ p ∈ (chanOf d c).posted, meetsPosted node sroom n tag chunk p = false)
    (early : ∀ e ∈ (chanOf d c).early, meetsEarly node sroom n tag chunk e = false) :
    let d2 := modChan d c fun x => landsEarly n (earlyBegun node sroom n tag chunk last poison bytes) (countChunkIn n bytes.length x)
    let r := roomOf (chanOf d2 c) n
    takeChunk d c node sroom n tag chunk last poison bytes = if r.fab.arrPages.toNat < r.fab.arrUsed.toNat then transferFails c n d2 else d2 := by
  have noPosted : (chanOf d c).posted.find? (meetsPosted node sroom n tag chunk) = none :=
    List.find?_eq_none.mpr fun p hp => by rw [posted p hp]; exact Bool.false_ne_true
  have noEarly : (chanOf d c).early.find? (meetsEarly node sroom n tag chunk) = none :=
    List.find?_eq_none.mpr fun e he => by rw [early e he]; exact Bool.false_ne_true
  dsimp only
  rw [← modChan_modChan d c (countChunkIn n bytes.length)]
  unfold takeChunk
  simp only [h, Bool.not_true, Bool.false_eq_true, ↓reduceIte]
  unfold meetsPosted at noPosted
  unfold meetsEarly at noEarly
  rw [noPosted]
  simp only [noEarly, Option.isNone_none, ↓reduceIte]
  rfl

end

theorem fab_countChunkIn (n len : Nat) (x : Channel) :
    (roomOf (countChunkIn n len x) n).fab = { (roomOf x n).fab with xferIn := satInc (roomOf x n).fab.xferIn } := by
  unfold countChunkIn
  rw [roomOf_modRoomC_same]

theorem transfers_countChunkIn (n len : Nat) (x : Channel) :
    (countChunkIn n len x).early = x.early ∧ (countChunkIn n len x).posted = x.posted := ⟨rfl, rfl⟩
theorem transfers_landsEarly (n : Nat) (e : EarlyXfer) (x : Channel) :
    (landsEarly n e x).early = x.early ++ [e] ∧ (landsEarly n e x).posted = x.posted := ⟨rfl, rfl⟩

/-- A transfer that begins to land early is counted, and the arrival area of its room shows what lies there (R493). -/
theorem fab_landsEarly (n : Nat) (e : EarlyXfer) (x : Channel) :
    (roomOf (landsEarly n e x) n).fab = { (roomOf x n).fab with
      early := satInc (roomOf x n).fab.early, arrUsed := BitVec.ofNat 32 (earlyPages { x with early := x.early ++ [e] } n) } := by
  unfold landsEarly showArrival
  rw [roomOf_modRoomC_same, roomOf_modRoomC_same]
  rfl

theorem ChunkCounted.landsEarly {n len : Nat} {r : Room} {x : Channel} (e : EarlyXfer) (h : ChunkCounted len r (roomOf x n)) :
    ChunkCounted len r (roomOf (landsEarly n e x) n) := by
  unfold Machine.landsEarly showArrival
  simp only [roomOf_modRoomC_same]
  exact h

/-! ## Partial chunks of a reduction (R502 to R505) -/

theorem sameChunk_iff (k : Nat) (tag : W32) (chunk : Nat) (r : RedChunk) :
    sameChunk k tag chunk r = true ↔ r.k = k ∧ r.tag = tag ∧ r.chunk = chunk := by
  unfold sameChunk
  simp only [Bool.and_eq_true, beq_iff_eq, and_assoc]

section
variable (d : Device) (c : Ch) (k : Nat) (tag : W32) (chunk : Nat) (poison : Bool) (bytes : List Byte)

/-- A partial chunk as it comes in, to slots or to the fallback area. -/
def partialChunk (granted : Bool) : RedChunk := { k := k, tag := tag, chunk := chunk, granted := granted, data := bytes, bad := poison }

/-- A channel that has taken a chunk of a reduction for room n. -/
def takesPartial (n : Nat) (r : RedChunk) (red : FabRed) (x : Channel) : Channel :=
  countChunkIn n r.data.length { x with red := red, redChunks := x.redChunks ++ [r] }

/-- A chunk in the fallback area counts at its entry and at its room (R502, R516). -/
def fallbackCounted (k n : Nat) (x : Channel) : Channel :=
  modRoomC { x with colls := tmod {} x.colls k fun e => { e with fallbacks := satInc e.fallbacks } } n fun r =>
    { r with fab := { r.fab with redFb := satInc r.fab.redFb } }

variable {d c}

/-- A chunk finds 16 slots, and its collective is not armed yet. -/
theorem admitPartial_of_slots (slots : 16 ≤ (chanOf d c).red.free.toNat) (idle : (instOf (chanOf d c) k tag).armed = false) :
    let red := (chanOf d c).red
    admitPartial d c k tag chunk poison bytes = modChan d c (takesPartial (collOf (chanOf d c) k).room.toNat
      (partialChunk k tag chunk poison bytes true) { red with free := red.free - 16, grants := satInc red.grants }) := by
  unfold admitPartial
  simp only [slots, idle, Bool.false_eq_true, ↓reduceIte]
  rfl

/-- Without slots it finds 16 pages of the fallback area. -/
theorem admitPartial_of_area (slots : (chanOf d c).red.free.toNat < 16)
    (area : (chanOf d c).red.fbUsed.toNat + 16 ≤ (chanOf d c).red.fbPages.toNat) :
    let red := (chanOf d c).red
    admitPartial d c k tag chunk poison bytes = modChan d c fun x => fallbackCounted k (collOf (chanOf d c) k).room.toNat
      (takesPartial (collOf (chanOf d c) k).room.toNat (partialChunk k tag chunk poison bytes false)
        { red with fbUsed := red.fbUsed + 16, fallbacks := satInc red.fallbacks } x) := by
  unfold admitPartial
  simp only [Nat.not_le.mpr slots, area, ↓reduceIte]
  rfl

/-- With neither it does not come in. -/
theorem admitPartial_of_full (slots : (chanOf d c).red.free.toNat < 16)
    (area : (chanOf d c).red.fbPages.toNat < (chanOf d c).red.fbUsed.toNat + 16) : admitPartial d c k tag chunk poison bytes = d := by
  unfold admitPartial
  simp only [Nat.not_le.mpr slots, Nat.not_le.mpr area, ↓reduceIte]

/-- A chunk of a reduction's entry has its length, and its room is STARTED. -/
structure FitsReduction (x : Channel) (k chunk : Nat) (bytes : List Byte) : Prop where
  kind : (collOf x k).kind = 1
  started : isStarted (roomOf x (collOf x k).room.toNat) = true
  length : bytes.length = chunkLen (collOf x k) chunk
  some : bytes ≠ []

theorem fitsReduction_iff (x : Channel) : ((collOf x k).kind != 1 || !isStarted (roomOf x (collOf x k).room.toNat) ||
    bytes.length != chunkLen (collOf x k) chunk || bytes.isEmpty) = false ↔ FitsReduction x k chunk bytes := by
  simp only [Bool.or_eq_false_iff, bne_eq_false_iff_eq, Bool.not_eq_false', List.isEmpty_eq_false_iff]
  exact ⟨fun ⟨⟨⟨h1, h2⟩, h3⟩, h4⟩ => ⟨h1, h2, h3, h4⟩, fun ⟨h1, h2, h3, h4⟩ => ⟨⟨⟨h1, h2⟩, h3⟩, h4⟩⟩

theorem reduceArrives_of_unfit (final : Bool) (h : ¬FitsReduction (chanOf d c) k chunk bytes) :
    reduceArrives c k tag chunk final poison bytes d = d := by
  rw [← fitsReduction_iff, Bool.not_eq_false] at h
  unfold reduceArrives
  dsimp only
  rw [if_pos h]

/-- ROOT delivers a FINAL chunk. -/
theorem reduceArrives_of_final (h : FitsReduction (chanOf d c) k chunk bytes) :
    reduceArrives c k tag chunk true poison bytes d =
      deliverChunk (modChan d c (countChunkIn (collOf (chanOf d c) k).room.toNat bytes.length)) c k tag chunk bytes (allBad poison bytes) := by
  rw [← fitsReduction_iff] at h
  unfold reduceArrives
  dsimp only
  rw [if_neg (by rw [h]; exact Bool.false_ne_true), if_pos rfl]

/-- A rank with HAS_PREV takes a partial chunk that it lacks. -/
theorem reduceArrives_of_partial (h : FitsReduction (chanOf d c) k chunk bytes) (prev : (collOf (chanOf d c) k).hasPrev = true)
    (new : ∀ q ∈ (chanOf d c).redChunks, sameChunk k tag chunk q = false) :
    reduceArrives c k tag chunk false poison bytes d = admitPartial d c k tag chunk poison bytes := by
  rw [← fitsReduction_iff] at h
  have lacks : (chanOf d c).redChunks.any (sameChunk k tag chunk) = false :=
    List.any_eq_false.mpr fun q hq => by rw [new q hq]; exact Bool.false_ne_true
  unfold reduceArrives
  dsimp only
  rw [if_neg (by rw [h]; exact Bool.false_ne_true), if_neg Bool.false_ne_true, prev, lacks]
  rfl

end

/-! ## FALLBACK_COMBINE_DONE (R503, R505) -/

/-- A sum in the fallback area and the poison of it: the partial with the local chunk, where this rank contributes. -/
def combined (x : Channel) (e : FabColl) (r : RedChunk) : List Byte × List Nat :=
  let mine := localChunk x e r.chunk
  let data := if e.contrib then redSum e.fmt r.data mine.1 else r.data
  (data, if r.bad then List.range (cdiv data.length 64) else if e.contrib then mine.2 else [])

/-- A chunk of the fallback area passes on with the local chunk added, and leaves the area. -/
theorem addChunk_of_fallback {r : RedChunk} (h : r.granted = false) (c : Ch) (d : Device) :
    let sum := combined (chanOf d c) (collOf (chanOf d c) r.k) r
    addChunk c d r = modChan (passOn d c r.k r.tag r.chunk sum.1 sum.2) c (dropRed r) := by
  unfold addChunk combined
  by_cases own : (collOf (chanOf d c) r.k).contrib = true
  · simp only [own, h, Bool.false_and, Bool.false_eq_true, ↓reduceIte]
  · simp only [own, h, Bool.false_and, Bool.false_eq_true, ↓reduceIte]

theorem combineDone_of_unarmed {c : Ch} {k : Nat} {tag : W32} {d : Device} (chunk : Nat) (h : (instOf (chanOf d c) k tag).armed = false) :
    combineDone c k tag chunk d = d := by
  unfold combineDone
  dsimp only
  rw [h]
  split <;> rfl

theorem combineDone_of_armed {c : Ch} {k : Nat} {tag : W32} {chunk : Nat} {d : Device} {a b : List RedChunk} {r : RedChunk}
    (split : (chanOf d c).redChunks = a ++ r :: b) (before : ∀ q ∈ a, (sameChunk k tag chunk q && !q.granted) = false)
    (found : (sameChunk k tag chunk r && !r.granted) = true) (h : (instOf (chanOf d c) k tag).armed = true) :
    combineDone c k tag chunk d = addChunk c d r := by
  unfold combineDone
  dsimp only
  rw [split, find?_of_split before found, h]
  rfl

theorem dropRed_of_fallback {r : RedChunk} (h : r.granted = false) (x : Channel) :
    dropRed r x = { x with redChunks := x.redChunks.filter fun q => !sameChunk r.k r.tag r.chunk q, red := { x.red with fbUsed := x.red.fbUsed - 16 } } := by
  unfold dropRed
  rw [h]
  rfl

end Sys2Proof.Machine

end

section

namespace Sys2Proof.Machine

/-! ## Chunks that arrive: the events -/

theorem exec_dataChunkArrival (c : Ch) (node : BitVec 18) (sroom droom : BitVec 6) (tag : W32) (chunk : Nat) (last poison : Bool) (bytes : List Byte)
    (s : State) : exec (.dataChunkArrival c node sroom droom tag chunk last poison bytes) s =
      .next { s with dev := takeChunk s.dev c node sroom droom.toNat tag chunk last poison bytes } := rfl
theorem exec_reduceChunkArrival (c : Ch) (k : Byte) (tag : W32) (chunk : Nat) (final poison : Bool) (bytes : List Byte) (s : State) :
    exec (.reduceChunkArrival c k tag chunk final poison bytes) s =
      .next { s with dev := reduceArrives c k.toNat tag chunk final poison bytes s.dev } := rfl
theorem exec_fallbackCombineDone (c : Ch) (k : Byte) (tag : W32) (chunk : Nat) (s : State) :
    exec (.fallbackCombineDone c k tag chunk) s = .next { s with dev := combineDone c k.toNat tag chunk s.dev } := rfl

/-- What a partial chunk leaves of its channel, in slots or in the fallback area. -/
theorem takesPartial_spec (n : Nat) (r : RedChunk) (red : FabRed) (x : Channel) :
    (takesPartial n r red x).redChunks = x.redChunks ++ [r] ∧ (takesPartial n r red x).red = red ∧
    ChunkCounted r.data.length (roomOf x n) (roomOf (takesPartial n r red x) n) :=
  ⟨rfl, rfl, chunkCounted_countChunkIn n r.data.length { x with red := red, redChunks := x.redChunks ++ [r] }⟩

theorem fallbackCounted_spec {k n len : Nat} {q : Room} {x : Channel} (h : ChunkCounted len q (roomOf x n)) :
    (fallbackCounted k n x).redChunks = x.redChunks ∧ (fallbackCounted k n x).red = x.red ∧ ChunkCounted len q (roomOf (fallbackCounted k n x) n) := by
  refine ⟨rfl, rfl, ?_⟩
  unfold fallbackCounted
  rw [roomOf_modRoomC_same]
  exact h

/-- Settles O56: a chunk by the receive or early transfer that lacks it, a partial chunk by the space that it finds, and a combined chunk by what passing
it on leaves. -/
theorem chunksArrive : Obligations.ChunksArrive := by
  unfold Obligations.ChunksArrive
  intro s c x counted
  refine ⟨fun node sroom droom tag chunk last poison bytes => ?_, fun k tag chunk => ?_⟩
  · intro n i took meets ends
    have runs : exec i s = .next { s with dev := takeChunk s.dev c node sroom n tag chunk last poison bytes } :=
      exec_dataChunkArrival ..
    have unmet {p : Posted} (h : ¬meets p) : meetsPosted node sroom n tag chunk p = false :=
      Bool.eq_false_iff.mpr fun g => h ((meetsPosted_iff ..).mp g)
    have ended (e : Device) : ends { s with dev := transferFails c n e } := transferFails_noted c droom e
    refine ⟨fun stopped => ?_, fun a p b started split before met => ⟨fun fits => ?_, fun misfit => ?_⟩, fun started posted early => ?_⟩
    · rw [runs, takeChunk_of_stopped _ _ _ _ _ _ _ _ _ _ stopped]
    all_goals rw [runs]
    · rw [takeChunk_of_met _ _ _ _ _ _ _ started split (fun q hq => unmet (before q hq)) ((meetsPosted_iff ..).mpr met), if_pos fits]
      refine ⟨_, rfl, onlyChannel_modChan .., ?_⟩
      rw [chanOf_modChan_same]
      exact ⟨chunkCounted_countChunkIn .., rfl⟩
    · rw [takeChunk_of_met _ _ _ _ _ _ _ started split (fun q hq => unmet (before q hq)) ((meetsPosted_iff ..).mpr met),
        if_neg (by rw [misfit]; exact Bool.false_ne_true)]
      exact ⟨_, rfl, ended _⟩
    · have noEarly {e : EarlyXfer} (he : e ∈ x.early) : meetsEarly node sroom n tag chunk e = false :=
        Bool.eq_false_iff.mpr fun g => early e he ((meetsEarly_iff ..).mp g)
      rw [takeChunk_of_unmet _ _ _ _ _ _ _ started (fun p hp => unmet (posted p hp)) fun e he => noEarly he]
      let e := earlyBegun node sroom n tag chunk last poison bytes
      let z := countChunkIn n bytes.length x
      have fab := fab_landsEarly n e z
      rw [fab_countChunkIn n bytes.length x] at fab
      rw [chanOf_modChan_same, fab, BitVec.toNat_ofNat]
      intro y excess
      refine ⟨fun overflows => ?_, fun fits => ?_⟩
      · rw [if_pos (by exact overflows)]
        exact ⟨_, rfl, ended _⟩
      · rw [if_neg (by exact fits)]
        refine ⟨_, rfl, onlyChannel_modChan .., ?_⟩
        rw [chanOf_modChan_same]
        obtain ⟨early', posted'⟩ := transfers_landsEarly n e z
        obtain ⟨wereEarly, werePosted⟩ := transfers_countChunkIn n bytes.length x
        exact ⟨(chunkCounted_countChunkIn n bytes.length x).landsEarly e, early'.trans (congrArg (· ++ [e]) wereEarly), congrArg FabRoom.early fab,
          posted'.trans werePosted⟩
  · intro e n same
    have apart {q : RedChunk} (h : ¬same q) : sameChunk k.toNat tag chunk q = false :=
      Bool.eq_false_iff.mpr fun g => h ((sameChunk_iff ..).mp g)
    refine ⟨fun final poison bytes => ?_, fun unarmed => ?_, fun a r b split before found fallback armed => ?_⟩
    · intro i r
      have runs : exec i s = .next { s with dev := reduceArrives c k.toNat tag chunk final poison bytes s.dev } :=
        exec_reduceChunkArrival ..
      refine ⟨fun unfit => ?_, fun kind started len some part prev new => ?_, fun kind started len some whole => ?_⟩
      · rw [runs, reduceArrives_of_unfit]
        rintro ⟨kind, started, len, some⟩
        rcases unfit with h | h | h | h
        · exact h kind
        · exact Bool.false_ne_true (h.symm.trans started)
        · exact h len
        · exact some h
      · rw [runs, part, reduceArrives_of_partial _ _ _ _ _ ⟨kind, started, len, some⟩ prev fun q hq => apart (new q hq)]
        refine ⟨fun slots idle => ?_, fun slots area => ?_, fun slots area => ?_⟩
        · rw [admitPartial_of_slots _ _ _ _ _ slots idle]
          refine ⟨_, rfl, onlyChannel_modChan .., ?_⟩
          rw [chanOf_modChan_same]
          exact takesPartial_spec ..
        · rw [admitPartial_of_area _ _ _ _ _ slots area]
          refine ⟨_, rfl, onlyChannel_modChan .., ?_⟩
          rw [chanOf_modChan_same]
          obtain ⟨chunks, red, taken⟩ := takesPartial_spec n { r with granted := false }
            { x.red with fbUsed := x.red.fbUsed + 16, fallbacks := satInc x.red.fallbacks } x
          obtain ⟨chunks', red', taken'⟩ := fallbackCounted_spec (k := k.toNat) taken
          exact ⟨chunks'.trans chunks, red'.trans red, taken'⟩
        · rw [admitPartial_of_full _ _ _ _ _ slots area]
      · rw [runs, whole, reduceArrives_of_final _ _ _ _ _ ⟨kind, started, len, some⟩]
        refine ⟨_, _, rfl, rfl, fun o ho => chanOf_modChan_ne s.dev _ ho, ?_⟩
        rw [chanOf_modChan_same]
        exact chunkCounted_countChunkIn ..
    · rw [exec_fallbackCombineDone, combineDone_of_unarmed chunk unarmed]
    · obtain ⟨hk, ht, hc⟩ := found
      have before' : ∀ q ∈ a, (sameChunk k.toNat tag chunk q && !q.granted) = false := fun q hq =>
        Bool.eq_false_iff.mpr fun g => by
          rw [Bool.and_eq_true, Bool.not_eq_true'] at g
          exact before q hq ⟨(sameChunk_iff ..).mp g.1, g.2⟩
      have found' : (sameChunk k.toNat tag chunk r && !r.granted) = true := by
        rw [(sameChunk_iff ..).mpr ⟨hk, ht, hc⟩, fallback]
        rfl
      refine ⟨_, exec_fallbackCombineDone c k tag chunk s, ?_⟩
      dsimp only
      rw [combineDone_of_armed split before' found' armed, addChunk_of_fallback fallback, hk, ht, hc, chanOf_modChan_same,
        dropRed_of_fallback fallback, hk, ht, hc]
      unfold combined
      rw [hc]
      exact ⟨rfl, rfl, fun o ho => chanOf_modChan_ne _ _ ho⟩

end Sys2Proof.Machine

end

section

namespace Sys2Proof.Machine

/-! ## Turns of an output (R490) -/

/-- Where one of n turns alone is waited for, it is the next, whichever was served last. -/
theorem nextTurn_of_one {n v : Nat} (last : Nat) {waits : Nat → Bool} (hv : v < n) (one : ∀ i, waits i = true ↔ i = v) :
    nextTurn n last waits = some v := by
  have listed : v ∈ (List.range n).map fun i => (last + 1 + i) % n := by
    refine List.mem_map.mpr ⟨(v + n - (last + 1) % n) % n, List.mem_range.mpr (Nat.mod_lt _ (by omega)), ?_⟩
    have small : (last + 1) % n < n := Nat.mod_lt _ (by omega)
    calc (last + 1 + (v + n - (last + 1) % n) % n) % n = ((last + 1) % n + (v + n - (last + 1) % n)) % n := by simp [Nat.add_mod]
      _ = (v + n) % n := by congr 1; omega
      _ = v := by rw [Nat.add_mod_right, Nat.mod_eq_of_lt hv]
  obtain ⟨i, hi⟩ := Option.isSome_iff_exists.mp (List.find?_isSome.mpr ⟨v, listed, (one v).mpr rfl⟩)
  have same := (one i).mp (List.find?_some hi)
  rw [same] at hi
  exact hi

/-- An output serves the only frame that waits for it. -/
theorem nextOut_of_one {k : LinkState} {w : OutFrame} (h : k.waiting = [w]) (input : w.input < 9) : nextOut k = some w := by
  have vl : nextTurn 4 k.lastVl (fun v => [w].any fun w => w.frame.vl.toNat == v) = some w.frame.vl.toNat :=
    nextTurn_of_one _ (by omega) fun i => by
      simp only [List.any_cons, List.any_nil, Bool.or_false, beq_iff_eq]
      exact eq_comm
  have turn : nextTurn 9 (tget 8 k.lastIn w.frame.vl.toNat) (fun i => [w].any fun u => u.frame.vl.toNat == w.frame.vl.toNat && u.input == i) =
      some w.input := nextTurn_of_one _ input fun i => by
      simp only [List.any_cons, List.any_nil, Bool.or_false, beq_self_eq_true, Bool.true_and, beq_iff_eq]
      exact eq_comm
  unfold nextOut
  rw [h, vl, Option.bind_some, turn, Option.bind_some]
  simp

theorem inputOf_lt (up : Option (Link × BitVec 12)) : inputOf up < 9 := by
  rcases up with _ | ⟨l, q⟩
  · exact Nat.lt_succ_self 8
  · cases l with
    | port p => show p.toNat < 9; omega
    | pack c =>
      show 4 + c.num < 9
      cases c <;> decide

/-! ## Links of one channel -/

theorem linkKey_inj {l m : Link} (h : linkKey l = linkKey m) : l = m := by
  cases l with
  | port p =>
    cases m with
    | port q => rw [BitVec.eq_of_toNat_eq h]
    | pack c =>
      have := p.isLt
      exact absurd h (by show p.toNat ≠ 4 + c.num; omega)
  | pack c =>
    cases m with
    | port q =>
      have := q.isLt
      exact absurd h (by show 4 + c.num ≠ q.toNat; omega)
    | pack o => cases c <;> cases o <;> first | rfl | exact absurd h (by decide)

theorem linkOf_modLink_ne (x : Channel) {l m : Link} (f : LinkState → LinkState) (h : m ≠ l) : linkOf (modLink x l f) m = linkOf x m :=
  tget_tmod_ne _ _ _ _ _ fun e => h (linkKey_inj e)

/-- A link of a channel serves its output: that link and its port's counters change, and nothing else of the channels. -/
structure ServesOnly (c : Ch) (l : Link) (d d' : Device) : Prop where
  chan : chanOf d' c = { chanOf d c with links := (chanOf d' c).links, ports := (chanOf d' c).ports }
  links : ∀ m, m ≠ l → linkOf (chanOf d' c) m = linkOf (chanOf d c) m
  others : ∀ o, o ≠ c → chanOf d' o = chanOf d o

theorem ServesOnly.refl (c : Ch) (l : Link) (d : Device) : ServesOnly c l d d := ⟨rfl, fun _ _ => rfl, fun _ _ => rfl⟩
theorem ServesOnly.trans {c : Ch} {l : Link} {d e f : Device} (h : ServesOnly c l d e) (g : ServesOnly c l e f) : ServesOnly c l d f where
  chan := by
    rw [g.chan, h.chan]
  links m hm := (g.links m hm).trans (h.links m hm)
  others o ho := (g.others o ho).trans (h.others o ho)

theorem servesOnly_send (c : Ch) (l : Link) (d : Device) (m : OutMsg) : ServesOnly c l d (send d m) := ⟨rfl, fun _ _ => rfl, fun _ _ => rfl⟩

/-- A change of the link and of its port. -/
theorem servesOnly_modLinkPort (c : Ch) (l : Link) (d : Device) (f : LinkState → LinkState) (g : FabPort → FabPort) :
    ServesOnly c l d (modChan d c fun x => modLinkPort (modLink x l f) l g) := by
  refine ⟨?_, fun m hm => ?_, fun o ho => chanOf_modChan_ne d _ ho⟩
  · rw [chanOf_modChan_same]
    cases l <;> rfl
  · rw [chanOf_modChan_same, linkOf_modLinkPort, linkOf_modLink_ne _ _ hm]

theorem servesOnly_modLink (c : Ch) (l : Link) (d : Device) (f : LinkState → LinkState) : ServesOnly c l d (modChan d c fun x => modLink x l f) := by
  refine ⟨?_, fun m hm => ?_, fun o ho => chanOf_modChan_ne d _ ho⟩
  · rw [chanOf_modChan_same]
    rfl
  · rw [chanOf_modChan_same, linkOf_modLink_ne _ _ hm]

/-! ## A frame that leaves (R473, R474, R477) -/

/-- A frame as a link numbers it. -/
def numbered (k : LinkState) (f : FabFrame) : FabFrame := { f with seq := k.nextSeq }

theorem tagSent_queue (k : LinkState) : (tagSent k).held = k.held ∧ (tagSent k).waiting = k.waiting ∧ (tagSent k).nextSeq = k.nextSeq := by
  unfold tagSent
  split <;> exact ⟨rfl, rfl, rfl⟩

/-- What a frame that leaves does to its link. -/
theorem linkOf_emit (d : Device) (c : Ch) (l : Link) (w : OutFrame) :
    let k := linkOf (chanOf d c) l
    let k' := linkOf (chanOf (emit d c l w) c) l
    k'.held = k.held ++ [{ frame := numbered k w.frame, up := w.up }] ∧ k'.waiting = k.waiting.erase w ∧ k'.nextSeq = k.nextSeq + 1 := by
  unfold emit
  extract_lets k fr f' optical tagNow v k' d1 d2
  have after : ∀ e : Device, e.chans = d1.chans → linkOf (chanOf e c) l = if tagNow then tagSent k' else k' := by
    intro e he
    rw [chanOf, he]
    show linkOf (chanOf d1 c) l = _
    rw [chanOf_modChan_same, linkOf_modLinkPort, linkOf_modLink_same]
  have queue : ∀ q : LinkState, q = (if tagNow then tagSent k' else k') →
      q.held = k.held ++ [{ frame := numbered k w.frame, up := w.up }] ∧ q.waiting = k.waiting.erase w ∧ q.nextSeq = k.nextSeq + 1 := by
    intro q hq
    rw [hq]
    split
    · exact tagSent_queue k'
    · exact ⟨rfl, rfl, rfl⟩
  refine queue _ (after _ ?_)
  split <;> rfl

/-- It is sent, and on an optical link a TAG frame may follow. -/
theorem emit_out (d : Device) (c : Ch) (l : Link) (w : OutFrame) :
    ∃ tag, (emit d c l w).out = tag ++ .frame c l (numbered (linkOf (chanOf d c) l) w.frame) :: d.out ∧ (tag = [] ∨ tag = [.tagFrame c l]) := by
  unfold emit
  extract_lets k fr f' optical tagNow v k' d1 d2
  split
  · exact ⟨[.tagFrame c l], rfl, .inr rfl⟩
  · exact ⟨[], rfl, .inl rfl⟩

theorem servesOnly_emit (d : Device) (c : Ch) (l : Link) (w : OutFrame) : ServesOnly c l d (emit d c l w) := by
  unfold emit
  extract_lets k fr f' optical tagNow v k' d1 d2
  have sent : ServesOnly c l d d2 := (servesOnly_modLinkPort c l d _ _).trans (servesOnly_send c l d1 _)
  split
  · exact sent.trans (servesOnly_send ..)
  · exact sent

/-! ## Outputs that serve (R470, R473, R490) -/

theorem servesOnly_serveOut (c : Ch) (l : Link) (n : Nat) (d : Device) : ServesOnly c l d (serveOut c l n d) := by
  induction n generalizing d with
  | zero => exact .refl c l d
  | succ n ih =>
    unfold serveOut
    split
    · split
      · exact (servesOnly_emit ..).trans (ih _)
      · exact .refl c l d
    · exact .refl c l d
theorem servesOnly_serveAll (d : Device) (c : Ch) (l : Link) : ServesOnly c l d (serveAll d c l) := servesOnly_serveOut ..

theorem serveAll_of_none {d : Device} {c : Ch} {l : Link} (h : (linkOf (chanOf d c) l).waiting = []) : serveAll d c l = d := by
  unfold serveAll
  rw [h]
  rfl

theorem serveAll_of_one {d : Device} {c : Ch} {l : Link} {w : OutFrame} (h : (linkOf (chanOf d c) l).waiting = [w]) (input : w.input < 9)
    (may : maySend (chanOf d c) l = true) : serveAll d c l = emit d c l w := by
  unfold serveAll
  rw [h]
  show serveOut c l 1 d = _
  unfold serveOut
  rw [nextOut_of_one h input]
  exact if_pos may

/-- A link that may not send serves nothing. -/
theorem serveAll_of_stuck {d : Device} {c : Ch} {l : Link} (h : maySend (chanOf d c) l = false) : serveAll d c l = d := by
  unfold serveAll
  cases (linkOf (chanOf d c) l).waiting.length with
  | zero => rfl
  | succ n =>
    unfold serveOut
    split
    · exact if_neg (by rw [h]; exact Bool.false_ne_true)
    · rfl

theorem maySend_iff (x : Channel) (l : Link) : maySend x l = true ↔ (linkOf x l).held.length < 1024 ∧ ∀ p, l = .port p → (portOf x p).state ≠ 3 := by
  unfold maySend
  cases l with
  | port p => simp
  | pack c => simp

/-! ## Messages of a list of frames (R473, R474) -/

theorem foldl_send {α : Type} (g : α → OutMsg) (l : List α) (d : Device) :
    l.foldl (fun d a => send d (g a)) d = { d with out := (l.map g).reverse ++ d.out } := by
  induction l generalizing d with
  | nil => rfl
  | cons a l ih =>
    rw [List.foldl_cons, ih, List.map_cons, List.reverse_cons, List.append_assoc]
    rfl

/-- Frames in transit that the next hop has are acknowledged upstream (R474). -/
theorem foldl_ackUp (c : Ch) (l : List HeldFrame) (d : Device) :
    l.foldl (fun d h => ackUp d c h.up) d = { d with out := ((l.filterMap HeldFrame.up).map fun u => OutMsg.ack c u.1 u.2).reverse ++ d.out } := by
  induction l generalizing d with
  | nil => rfl
  | cons h l ih =>
    rw [List.foldl_cons, ih]
    rcases hu : h.up with _ | ⟨m, q⟩
    · rw [List.filterMap_cons_none hu]
      rfl
    · rw [List.filterMap_cons_some hu, List.map_cons, List.reverse_cons, List.append_assoc]
      rfl

end Sys2Proof.Machine

end

section

namespace Sys2Proof.Machine

/-! ## NAK_RECEIVE (R473) -/

theorem exec_nakReceive (c : Ch) (l : Link) (seq : BitVec 12) (s : State) :
    exec (.nakReceive c l seq) s = .next { s with dev := nakReceive c l seq s.dev } := rfl

/-- A held frame that has been replayed once more. -/
def replayedOnce (h : HeldFrame) : HeldFrame := { h with replays := h.replays + 1 }

/-- A port whose link has replayed some frames. -/
def replayCounted (again : List HeldFrame) (q : FabPort) : FabPort := { q with replays := if again.isEmpty then q.replays else satInc q.replays }

/-- A channel whose link has replayed the frames again, and holds them behind the frames kept. -/
def replayChan (l : Link) (kept again : List HeldFrame) (x : Channel) : Channel :=
  let y := modLinkPort (modLink x l fun k => { k with held := kept ++ again }) l (replayCounted again)
  if again.any (fun h => h.replays = 16) then
    match l with
    | .port p => retrain y p
    | .pack _ => y
  else y

theorem linkOf_replayChan (l : Link) (kept again : List HeldFrame) (x : Channel) :
    linkOf (replayChan l kept again x) l = { linkOf x l with held := kept ++ again } := by
  unfold replayChan retrain
  cases l <;> dsimp only <;> split <;> simp only [linkOf_modPort, linkOf_modLinkPort, linkOf_modLink_same]

theorem rooms_replayChan (l : Link) (kept again : List HeldFrame) (x : Channel) : (replayChan l kept again x).rooms = x.rooms := by
  unfold replayChan retrain
  cases l <;> dsimp only <;> split <;> rfl

/-- A frame replayed 16 times in succession starts a retrain of its port. -/
theorem portOf_replayChan (p : BitVec 2) (kept again : List HeldFrame) (x : Channel) :
    let q := portOf x p
    let often := again.any fun h => h.replays = 16
    portOf (replayChan (.port p) kept again x) p = { replayCounted again q with
      state := if often then 3 else q.state, retrains := if often then satInc q.retrains else q.retrains } := by
  unfold replayChan retrain modLinkPort
  dsimp only
  split
  next => rw [portOf_modPort_same, portOf_modPort_same]; rfl
  next => rw [portOf_modPort_same]; rfl

/-- Every held frame from the named SEQ onward is sent again, in order. -/
theorem nakReceive_eq (c : Ch) (l : Link) (seq : BitVec 12) (d : Device) :
    let k := linkOf (chanOf d c) l
    let kept := k.held.takeWhile fun h => h.frame.seq != seq
    let again := (k.held.dropWhile fun h => h.frame.seq != seq).map replayedOnce
    nakReceive c l seq d =
      { modChan d c (replayChan l kept again) with out := (again.map fun h => OutMsg.frame c l h.frame).reverse ++ d.out } := by
  intro k kept again
  exact foldl_send (fun h : HeldFrame => OutMsg.frame c l h.frame) again (modChan d c (replayChan l kept again))

/-! ## FRAME_ACK_RECEIVE (R474) -/

theorem exec_frameAckReceive (c : Ch) (l : Link) (seq : BitVec 12) (s : State) :
    exec (.frameAckReceive c l seq) s = .next { s with dev := modChan (frameAckReceive c l seq s.dev) c settleAcks } := rfl

/-- Transmissions that are acknowledged change collectives alone. -/
theorem settleAcks_view {α : Type} (v : Channel → α) (insts : ∀ x i, v { x with insts := i } = v x)
    (uses : ∀ x t i, v { x with colls := t, insts := i } = v x) (red : ∀ x l r, v { x with redChunks := l, red := r } = v x) (x : Channel) :
    v (settleAcks x) = v x := by
  unfold settleAcks
  exact (uses ..).trans ((foldl_view v (fun y r => red y ..) _ _).trans (insts ..))

theorem linkOf_settleAcks (x : Channel) (l : Link) : linkOf (settleAcks x) l = linkOf x l :=
  linkOf_congr (settleAcks_view Channel.links (fun _ _ => rfl) (fun _ _ _ => rfl) (fun _ _ _ => rfl) x) l
theorem rooms_settleAcks (x : Channel) : (settleAcks x).rooms = x.rooms :=
  settleAcks_view Channel.rooms (fun _ _ => rfl) (fun _ _ _ => rfl) (fun _ _ _ => rfl) x

/-- The device once an acknowledged frame is released, and acknowledged upstream where it was in transit. -/
def ackReleased (c : Ch) (l : Link) (seq : BitVec 12) (d : Device) : Device :=
  { modChan d c fun x => modLink x l fun k => { k with held := k.held.filter fun h => h.frame.seq != seq } with
    out := ((((linkOf (chanOf d c) l).held.filter fun h => h.frame.seq == seq).filterMap HeldFrame.up).map fun u => OutMsg.ack c u.1 u.2).reverse ++ d.out }

theorem frameAckReceive_eq (c : Ch) (l : Link) (seq : BitVec 12) (d : Device) : frameAckReceive c l seq d = serveAll (ackReleased c l seq d) c l := by
  unfold frameAckReceive
  dsimp only
  rw [foldl_ackUp]
  rfl

theorem chanOf_ackReleased_same (c : Ch) (l : Link) (seq : BitVec 12) (d : Device) : chanOf (ackReleased c l seq d) c =
    modLink (chanOf d c) l fun k => { k with held := k.held.filter fun h => h.frame.seq != seq } :=
  chanOf_modChan_same d c fun x => modLink x l fun k => { k with held := k.held.filter fun h => h.frame.seq != seq }
theorem chanOf_ackReleased_ne (c : Ch) (l : Link) (seq : BitVec 12) (d : Device) {o : Ch} (h : o ≠ c) : chanOf (ackReleased c l seq d) o = chanOf d o :=
  chanOf_modChan_ne d (fun x => modLink x l fun k => { k with held := k.held.filter fun h => h.frame.seq != seq }) h
theorem linkOf_ackReleased (c : Ch) (l : Link) (seq : BitVec 12) (d : Device) : linkOf (chanOf (ackReleased c l seq d) c) l =
    { linkOf (chanOf d c) l with held := (linkOf (chanOf d c) l).held.filter fun h => h.frame.seq != seq } := by
  rw [chanOf_ackReleased_same, linkOf_modLink_same]

/-! ## Routes look at no link's frames (R486, R487) -/

/-- Devices that differ in the frames of links and in the reduction counters alone choose the same links. -/
theorem routeLink_congr {d e : Device} (h : ∀ o, ∃ links red, chanOf e o = { chanOf d o with links := links, red := red }) (c : Ch) (dst : BitVec 18)
    (n : Nat) (avoid : Option Link) : routeLink e c dst n avoid = routeLink d c dst n avoid := by
  have up (a b : Ch) : packUp e a b = packUp d a b := by
    obtain ⟨_, _, sameA⟩ := h a
    obtain ⟨_, _, sameB⟩ := h b
    unfold packUp
    rw [sameA, sameB]
    rfl
  have service (o : Ch) : inService (chanOf e o) = inService (chanOf d o) := by
    obtain ⟨_, _, same⟩ := h o
    rw [same]
    rfl
  obtain ⟨_, _, same⟩ := h c
  unfold routeLink
  simp only [up, service]
  rw [same]
  rfl

theorem pickAt_mem {α : Type} {l : List α} {n : Nat} {a : α} (h : pickAt l n = some a) : a ∈ l := List.mem_of_getElem? h

/-- A port that a chunk takes is up. -/
theorem state_of_routeLink {d : Device} {c : Ch} {dst : BitVec 18} {n : Nat} {avoid : Option Link} {p : BitVec 2} {inc : Bool}
    (h : routeLink d c dst n avoid = some (.port p, inc)) : (portOf (chanOf d c) p).state = 2 := by
  unfold routeLink at h
  extract_lets x ok o at h
  split at h
  · split at h
    · simp at h
    · simp at h
  · split at h
    · cases h
    next r _ =>
      extract_lets ps at h
      split at h
      next l picked =>
        cases h
        obtain ⟨i, -, hi⟩ := List.mem_filterMap.mp (pickAt_mem picked)
        split at hi
        next up =>
          cases hi
          unfold orzerUp at up
          simp only [Bool.and_eq_true, beq_iff_eq] at up
          exact up.1.2.1
        next => cases hi
      next => simp at h

/-! ## ACK_TIMEOUT (R476, R478) -/

theorem exec_ackTimeout (c : Ch) (l : Link) (s : State) :
    exec (.ackTimeout c l) s = .next { s with board := showPower s.board (hopSilent c l s.dev), dev := hopSilent c l s.dev } := rfl

theorem hopSilent_of_none {c : Ch} {l : Link} {d : Device} (h : (linkOf (chanOf d c) l).held = []) : hopSilent c l d = d := by
  unfold hopSilent
  rw [h]
  rfl

/-- The record of an on-package link whose next hop is silent. -/
def silentRecord (c o : Ch) : FaultRec := { cls := 0x42, unit := BitVec.ofNat 16 (packUnit c o), kind := 2 }

theorem hopSilent_of_pack {c o : Ch} {d : Device} (h : (linkOf (chanOf d c) (.pack o)).held ≠ []) :
    hopSilent c (.pack o) d = resend (judgeFault d c (silentRecord c o) false) c (.pack o) := by
  unfold hopSilent
  rw [if_neg (by rw [List.isEmpty_iff]; exact h)]
  rfl

theorem hopSilent_of_port {c : Ch} {p : BitVec 2} {d : Device} (h : (linkOf (chanOf d c) (.port p)).held ≠ []) :
    hopSilent c (.port p) d = resend d c (.port p) := by
  unfold hopSilent
  rw [if_neg (by rw [List.isEmpty_iff]; exact h)]

/-- A channel whose link has given up its frames, n of them counted in RESENDS. -/
def emptied (l : Link) (n : Nat) (x : Channel) : Channel :=
  { modLink x l (fun k => { k with held := [], waiting := [] }) with red := { x.red with resends := satAdd x.red.resends n } }

theorem linkOf_emptied_same (l : Link) (n : Nat) (x : Channel) : linkOf (emptied l n x) l = { linkOf x l with held := [], waiting := [] } :=
  linkOf_modLink_same x l fun k => { k with held := [], waiting := [] }
theorem linkOf_emptied_ne {l m : Link} (h : m ≠ l) (n : Nat) (x : Channel) : linkOf (emptied l n x) m = linkOf x m :=
  linkOf_modLink_ne x (fun k => { k with held := [], waiting := [] }) h

/-- Of one held frame, with none that waits, re-sending is that frame's detour. -/
theorem resend_of_one {d : Device} {c : Ch} {l : Link} {h : HeldFrame} (held : (linkOf (chanOf d c) l).held = [h])
    (waiting : (linkOf (chanOf d c) l).waiting = []) :
    resend d c l = detour c l (fun k => { k with held := k.held ++ [h] }) h.frame h.up (modChan d c (emptied l 1)) := by
  unfold resend
  dsimp only
  rw [held, waiting]
  rfl

theorem routeLink_emptied (d : Device) (c : Ch) (l : Link) (n : Nat) (dst : BitVec 18) (i : Nat) (avoid : Option Link) :
    routeLink (modChan d c (emptied l n)) c dst i avoid = routeLink d c dst i avoid := by
  refine routeLink_congr (fun o => ?_) c dst i avoid
  rw [chanOf_modChan]
  split
  next ho => exact ⟨_, _, by rw [ho]; rfl⟩
  next => exact ⟨_, _, rfl⟩

theorem detour_of_route {c : Ch} {l m : Link} {inc : Bool} {back : LinkState → LinkState} {f : FabFrame} {up : Option (Link × BitVec 12)} {d : Device}
    (h : routeLink d c f.dst (chunkNum f) (some l) = some (m, inc)) : detour c l back f up d = sendOn d c m f up := by
  unfold detour
  rw [h]

theorem detour_of_none {c : Ch} {l : Link} {back : LinkState → LinkState} {f : FabFrame} {up : Option (Link × BitVec 12)} {d : Device}
    (h : routeLink d c f.dst (chunkNum f) (some l) = none) : detour c l back f up d = modChan d c fun x => modLink x l back := by
  unfold detour
  rw [h]

/-! ## A frame that joins an output -/

/-- A frame as it waits at an output. -/
def queued (f : FabFrame) (up : Option (Link × BitVec 12)) : OutFrame := { frame := f, up := up, input := inputOf up }

/-- A device where a frame has joined the queue of an output. -/
def joinsOutput (c : Ch) (l : Link) (w : OutFrame) (d : Device) : Device := modChan d c fun x => modLink x l fun k => { k with waiting := k.waiting ++ [w] }

theorem sendOn_eq (d : Device) (c : Ch) (l : Link) (f : FabFrame) (up : Option (Link × BitVec 12)) :
    sendOn d c l f up = serveAll (joinsOutput c l (queued f up) d) c l := rfl

theorem linkOf_joinsOutput (c : Ch) (l : Link) (w : OutFrame) (d : Device) :
    linkOf (chanOf (joinsOutput c l w d) c) l = { linkOf (chanOf d c) l with waiting := (linkOf (chanOf d c) l).waiting ++ [w] } := by
  unfold joinsOutput
  rw [chanOf_modChan_same, linkOf_modLink_same]

theorem maySend_joinsOutput (c : Ch) (l : Link) (w : OutFrame) (d : Device) : maySend (chanOf (joinsOutput c l w d) c) l = maySend (chanOf d c) l := by
  unfold maySend
  rw [linkOf_joinsOutput]
  unfold joinsOutput
  rw [chanOf_modChan_same]
  rfl

theorem servesOnly_sendOn (d : Device) (c : Ch) (l : Link) (f : FabFrame) (up : Option (Link × BitVec 12)) : ServesOnly c l d (sendOn d c l f up) := by
  rw [sendOn_eq]
  exact (servesOnly_modLink ..).trans (servesOnly_serveAll ..)

/-- A frame that joins an output with none before it, of a link that may send, leaves at once. -/
theorem sendOn_of_free {d : Device} {c : Ch} {l : Link} {f : FabFrame} {up : Option (Link × BitVec 12)} (empty : (linkOf (chanOf d c) l).waiting = [])
    (may : maySend (chanOf d c) l = true) : sendOn d c l f up = emit (joinsOutput c l (queued f up) d) c l (queued f up) := by
  rw [sendOn_eq]
  exact serveAll_of_one (by rw [linkOf_joinsOutput, empty]; rfl) (inputOf_lt up) (by rwa [maySend_joinsOutput])

/-- On a link that may not send it waits. -/
theorem sendOn_of_stuck {d : Device} {c : Ch} {l : Link} {f : FabFrame} {up : Option (Link × BitVec 12)} (stuck : maySend (chanOf d c) l = false) :
    sendOn d c l f up = joinsOutput c l (queued f up) d := by
  rw [sendOn_eq]
  exact serveAll_of_stuck (by rwa [maySend_joinsOutput])

end Sys2Proof.Machine

end

section

namespace Sys2Proof.Machine

/-! ## Frames that are replayed: the events -/

/-- A frame held from the named SEQ onward was replayed 15 times before. -/
theorem any_replayedOnce (again : List HeldFrame) :
    ((again.map replayedOnce).any fun h => h.replays = 16) = decide (∃ h ∈ again, h.replays = 15) := by
  rw [Bool.eq_iff_iff, List.any_map, List.any_eq_true, decide_eq_true_iff]
  refine exists_congr fun h => and_congr_right fun _ => ?_
  simp [replayedOnce]

/-- A negative acknowledgement replays the frames from the SEQ that it names. -/
theorem nakReceive_spec (c : Ch) (l : Link) (seq : BitVec 12) (d : Device) :
    let x := chanOf d c
    let k := linkOf x l
    let e := nakReceive c l seq d
    let kept := k.held.takeWhile fun h => h.frame.seq != seq
    let again := k.held.dropWhile fun h => h.frame.seq != seq
    e.out = (again.map fun h => OutMsg.frame c l h.frame).reverse ++ d.out ∧
    linkOf (chanOf e c) l = { k with held := kept ++ again.map replayedOnce } ∧
    (∀ p, l = .port p →
      let q := portOf x p
      portOf (chanOf e c) p = { q with
        replays := if again = [] then q.replays else satInc q.replays,
        state := if ∃ h ∈ again, h.replays = 15 then 3 else q.state,
        retrains := if ∃ h ∈ again, h.replays = 15 then satInc q.retrains else q.retrains }) ∧
    (chanOf e c).rooms = x.rooms ∧ ∀ o, o ≠ c → chanOf e o = chanOf d o := by
  intro x k e kept again
  have whole : e = { modChan d c (replayChan l kept (again.map replayedOnce)) with
      out := ((again.map replayedOnce).map fun h => OutMsg.frame c l h.frame).reverse ++ d.out } := nakReceive_eq c l seq d
  have chan : chanOf e c = replayChan l kept (again.map replayedOnce) x := by
    rw [whole]
    exact chanOf_modChan_same ..
  rw [chan]
  refine ⟨?_, linkOf_replayChan .., fun p port => ?_, rooms_replayChan .., fun o ho => ?_⟩
  · rw [whole, List.map_map]
    rfl
  · subst port
    rw [portOf_replayChan, any_replayedOnce]
    simp only [replayCounted, List.isEmpty_map, List.isEmpty_iff, decide_eq_true_eq]
  · rw [whole]
    exact chanOf_modChan_ne d (replayChan l kept (again.map replayedOnce)) ho

/-- A frame that an acknowledgement lets go, where it alone waits for a link that may send. -/
theorem serveAll_lets_go {d : Device} {c : Ch} {l : Link} {w : OutFrame} (waiting : (linkOf (chanOf d c) l).waiting = [w]) (input : w.input < 9)
    (may : maySend (chanOf d c) l = true) :
    let k := linkOf (chanOf d c) l
    let k' := linkOf (chanOf (serveAll d c l) c) l
    k'.waiting = [] ∧ k'.held = k.held ++ [{ frame := numbered k w.frame, up := w.up }] ∧ k'.nextSeq = k.nextSeq + 1 ∧
    ∃ tag, (serveAll d c l).out = tag ++ .frame c l (numbered k w.frame) :: d.out ∧ (tag = [] ∨ tag = [.tagFrame c l]) := by
  obtain ⟨held, rest, next⟩ := linkOf_emit d c l w
  rw [serveAll_of_one waiting input may]
  refine ⟨rest.trans ?_, held, next, emit_out d c l w⟩
  rw [waiting, List.erase_cons_head]

/-- An acknowledgement releases its frame, and lets a frame go that waited for the output. -/
theorem frameAckReceive_spec (c : Ch) (l : Link) (seq : BitVec 12) (d : Device) :
    let x := chanOf d c
    let k := linkOf x l
    let e := modChan (frameAckReceive c l seq d) c settleAcks
    let kept := k.held.filter fun h => h.frame.seq != seq
    let acks := (((k.held.filter fun h => h.frame.seq == seq).filterMap HeldFrame.up).map fun u => OutMsg.ack c u.1 u.2).reverse ++ d.out
    (chanOf e c).rooms = x.rooms ∧ (∀ o, o ≠ c → chanOf e o = chanOf d o) ∧
    (k.waiting = [] → linkOf (chanOf e c) l = { k with held := kept } ∧ e.out = acks) ∧
    ∀ w, k.waiting = [w] → w.input < 9 → kept.length < 1024 → (∀ p, l = .port p → (portOf x p).state ≠ 3) →
      (linkOf (chanOf e c) l).waiting = [] ∧ (linkOf (chanOf e c) l).held = kept ++ [{ frame := numbered k w.frame, up := w.up }] ∧
      (linkOf (chanOf e c) l).nextSeq = k.nextSeq + 1 ∧
      ∃ tag, e.out = tag ++ .frame c l (numbered k w.frame) :: acks ∧ (tag = [] ∨ tag = [.tagFrame c l]) := by
  intro x k e kept acks
  let d1 := ackReleased c l seq d
  have served : ServesOnly c l d1 (serveAll d1 c l) := servesOnly_serveAll d1 c l
  have link : linkOf (chanOf d1 c) l = { k with held := kept } := linkOf_ackReleased c l seq d
  have chan : chanOf e c = settleAcks (chanOf (serveAll d1 c l) c) := by
    simp only [e, frameAckReceive_eq, chanOf_modChan_same, d1]
  have out : e.out = (serveAll d1 c l).out := by simp only [e, frameAckReceive_eq, modChan_out, d1]
  rw [chan, linkOf_settleAcks, rooms_settleAcks, out]
  refine ⟨?_, fun o ho => ?_, fun waiting => ?_, fun w waiting input room state => ?_⟩
  · rw [served.chan, chanOf_ackReleased_same]
    rfl
  · rw [← chanOf_ackReleased_ne c l seq d ho, ← served.others o ho]
    simp only [e, frameAckReceive_eq, chanOf_modChan_ne _ _ ho, d1]
  · rw [serveAll_of_none (by rw [link]; exact waiting)]
    exact ⟨link, rfl⟩
  · have may : maySend (chanOf d1 c) l = true := by
      rw [maySend_iff, link, chanOf_ackReleased_same]
      exact ⟨room, state⟩
    have gone := serveAll_lets_go (d := d1) (by rw [link]; exact waiting) input may
    rw [link] at gone
    exact gone

/-- A frame that is re-sent over another link of its route, where the link it waited on held nothing else. -/
theorem resend_over {d : Device} {c : Ch} {l m : Link} {h : HeldFrame} {inc : Bool} (held : (linkOf (chanOf d c) l).held = [h])
    (waiting : (linkOf (chanOf d c) l).waiting = []) (route : routeLink d c h.frame.dst (chunkNum h.frame) (some l) = some (m, inc)) (other : m ≠ l) :
    let x := chanOf d c
    let e := resend d c l
    let q := linkOf x m
    (linkOf (chanOf e c) l).held = [] ∧ (chanOf e c).red = { x.red with resends := satAdd x.red.resends 1 } ∧ (chanOf e c).rooms = x.rooms ∧
    (q.waiting = [] → q.held.length < 1024 → (linkOf (chanOf e c) m).held = q.held ++ [{ frame := numbered q h.frame, up := h.up }] ∧
      .frame c m (numbered q h.frame) ∈ e.out) ∧
    (1024 ≤ q.held.length → e.out = d.out ∧ linkOf (chanOf e c) m = { q with waiting := q.waiting ++ [queued h.frame h.up] }) := by
  intro x e q
  let d1 := modChan d c (emptied l 1)
  have sent : e = sendOn d1 c m h.frame h.up := by
    simp only [e]
    rw [resend_of_one held waiting, detour_of_route (by rw [routeLink_emptied]; exact route)]
  have chan : chanOf d1 c = emptied l 1 x := chanOf_modChan_same ..
  have link : linkOf (chanOf d1 c) m = q := by rw [chan]; exact linkOf_emptied_ne other 1 x
  have served : ServesOnly c m d1 e := by rw [sent]; exact servesOnly_sendOn ..
  refine ⟨?_, ?_, ?_, fun empty room => ?_, fun full => ?_⟩
  · rw [served.links l other.symm, chan, linkOf_emptied_same]
  · rw [served.chan, chan]
    rfl
  · rw [served.chan, chan]
    rfl
  · have may : maySend (chanOf d1 c) m = true := by
      rw [maySend_iff, link]
      refine ⟨room, fun p hp => ?_⟩
      have up : (portOf (chanOf d1 c) p).state = 2 := by
        rw [chan]
        exact state_of_routeLink (by rw [← hp]; exact route)
      rw [up]
      decide
    let d2 := joinsOutput c m (queued h.frame h.up) d1
    have free : e = emit d2 c m (queued h.frame h.up) := by rw [sent, sendOn_of_free (by rw [link]; exact empty) may]
    have joins : linkOf (chanOf d2 c) m = { q with waiting := q.waiting ++ [queued h.frame h.up] } := by rw [linkOf_joinsOutput, link]
    obtain ⟨kept, -, -⟩ := linkOf_emit d2 c m (queued h.frame h.up)
    obtain ⟨tag, out, -⟩ := emit_out d2 c m (queued h.frame h.up)
    rw [joins] at kept out
    rw [free]
    refine ⟨kept, ?_⟩
    rw [out]
    exact List.mem_append_right _ List.mem_cons_self
  · have stuck : maySend (chanOf d1 c) m = false := by
      rw [← Bool.not_eq_true, maySend_iff, link]
      exact fun g => absurd g.1 (Nat.not_lt.mpr full)
    rw [sent, sendOn_of_stuck stuck, linkOf_joinsOutput, link]
    exact ⟨rfl, rfl⟩

/-- A frame without another port of its route stays held. -/
theorem resend_stays {d : Device} {c : Ch} {l : Link} {h : HeldFrame} (held : (linkOf (chanOf d c) l).held = [h])
    (waiting : (linkOf (chanOf d c) l).waiting = []) (route : routeLink d c h.frame.dst (chunkNum h.frame) (some l) = none) :
    linkOf (chanOf (resend d c l) c) l = linkOf (chanOf d c) l ∧ (resend d c l).out = d.out := by
  rw [resend_of_one held waiting, detour_of_none (by rw [routeLink_emptied]; exact route)]
  refine ⟨?_, rfl⟩
  rw [chanOf_modChan_same, linkOf_modLink_same, chanOf_modChan_same, linkOf_emptied_same]
  simp only [List.nil_append, ← held, ← waiting]

/-- Settles O53: a replay by what it leaves of link and port, an acknowledgement by what serving the output leaves, a time-out by the frame's detour. -/
theorem framesAreReplayed : Obligations.FramesAreReplayed := by
  unfold Obligations.FramesAreReplayed
  intro s c l x k
  refine ⟨fun seq => ?_, fun seq => ?_, fun idle => ?_, fun o pack holds => ?_, ?_⟩
  · exact ⟨_, exec_nakReceive c l seq s, nakReceive_spec c l seq s.dev⟩
  · exact ⟨_, exec_frameAckReceive c l seq s, frameAckReceive_spec c l seq s.dev⟩
  · exact ⟨_, exec_ackTimeout c l s, hopSilent_of_none idle⟩
  · subst pack
    exact ⟨_, _, exec_ackTimeout c (.pack o) s, judged_judgeFault s.dev c false rfl, hopSilent_of_pack holds⟩
  · intro h p held waiting port n
    have silent : hopSilent c l s.dev = resend s.dev c l := by
      rw [port]
      refine hopSilent_of_port ?_
      rw [← port, show (linkOf (chanOf s.dev c) l).held = [h] from held]
      exact List.cons_ne_nil _ _
    refine ⟨fun m inc route other => ⟨_, exec_ackTimeout c l s, ?_⟩, fun route => ⟨_, exec_ackTimeout c l s, ?_⟩⟩
    all_goals
      dsimp only
      rw [silent]
    · exact resend_over held waiting route other
    · exact resend_stays held waiting route

end Sys2Proof.Machine

end

section

namespace Sys2Proof.Machine

/-! ## Result slots under events (R667, R683) -/

/-- Every result slot is as before. -/
structure SameSlots (d d' : Device) : Prop where
  slot : ∀ f m k, slotOf d' f m k = slotOf d f m k

theorem SameSlots.refl (d : Device) : SameSlots d d := ⟨fun _ _ _ => rfl⟩
theorem SameSlots.trans {a b c : Device} (h : SameSlots a b) (g : SameSlots b c) : SameSlots a c := ⟨fun f m k => (g.slot f m k).trans (h.slot f m k)⟩

/-- What leaves the functions alone leaves their slots. -/
theorem SameSlots.of_fns {d d' : Device} (h : d'.fy.fns = d.fy.fns) : SameSlots d d' := ⟨fun f m k => by
  unfold slotOf mbxOf fnOf
  rw [h]⟩

theorem sameSlots_postAll (d : Device) (e : EventRecord) : SameSlots d (postAll d e) := ⟨fun f m k =>
  foldl_view (fun d => slotOf d f m k) (fun d g => slotOf_postEvent d g e f m k) (knownFns d) d⟩

theorem sameSlots_refresh (d : Device) : SameSlots d (refresh d) := by
  have shown : SameSlots d { d with fy := { d.fy with dev := devStatus d, width := devWidth d } } := .of_fns rfl
  unfold refresh
  extract_lets v d'
  split
  · exact shown
  · exact shown.trans (sameSlots_postAll ..)

theorem SameSlots.postSlot {d1 d2 : Device} (h : SameSlots d1 d2) (op : HostOp) (p : HostPost) (d : Device) :
    postSlot op p d d2 = Machine.postSlot op p d d1 := h.slot ..

theorem OnlyFns.chan {d d' : Device} (h : OnlyFns d d') (c : Ch) : chanOf d' c = chanOf d c := by
  unfold chanOf
  rw [h.1]

/-! ## Devices that a post left alone -/

section
variable (op : HostOp) (p : HostPost) (d : Device)

@[simp] theorem anyDraining_pendingDev : anyDraining (pendingDev op p d) = anyDraining d := by
  unfold anyDraining
  simp only [chanOf_pendingDev]
@[simp] theorem queryChan_pendingDev (a : Accepted) (device : Bool) : queryChan a (pendingDev op p d) device = queryChan a d device := by
  unfold queryChan signerOf
  simp only [chanOf_pendingDev, leadOf_pendingDev, suiteChans_pendingDev]
@[simp] theorem startedRooms_pendingDev : startedRooms (pendingDev op p d) = startedRooms d := by
  unfold startedRooms
  simp only [leadRoom_pendingDev]
  congr 2
theorem fy_pendingDev : (pendingDev op p d).fy = { d.fy with fns := (pendingDev op p d).fy.fns } := (pendingDev_only op p d).2.2.2

end

/-! ## FABRIC_JOIN (R482, R483) -/

/-- What FABRIC_JOIN asks of the device (R482, R612, R750). -/
structure JoinLegal (a : Accepted) (d : Device) : Prop where
  undrained : anyDraining d = false
  reserved : reservedClear a.params [(0, 36), (64, 64)] = true
  device : ∀ c, (chanOf d c).node.joined = true → (chanOf d c).node.device.toNat = par a.params 0 16
  region : regionAllows (queryChan a d true) hostKinds 4096 (par a.params 32 4) (par a.params 64 64) joinBytes = true
  reached : accessFails d (queryChan a d true) a.data (par a.params 32 4) = false

theorem JoinLegal.pending {a : Accepted} {d : Device} (h : JoinLegal a d) (op : HostOp) (p : HostPost) : JoinLegal a (pendingDev op p d) where
  undrained := by simpa using h.undrained
  reserved := h.reserved
  device c := by simpa using h.device c
  region := by simpa using h.region
  reached := by simpa using h.reached

/-- The device once every channel has its part of a join. -/
def joinedDev (a : Accepted) (d : Device) : Device := refresh (modChans { d with free := d.free + 32 } Ch.all fun c x => joinChan a c d.free x)

theorem chanOf_joinedDev (a : Accepted) (d : Device) (c : Ch) : chanOf (joinedDev a d) c = joinChan a c d.free (chanOf d c) := by
  unfold joinedDev
  rw [chanOf_refresh, chanOf_modChans_all]
  rfl

theorem sameSlots_joinedDev (a : Accepted) (d : Device) : SameSlots d (joinedDev a d) :=
  (SameSlots.of_fns (by rw [modChans_fy])).trans (sameSlots_refresh _)

/-- A join is over where no port trains, and waits for those that do. -/
theorem runFabricJoin_of_legal {a : Accepted} {d : Device} (h : JoinLegal a d) :
    let e := joinedDev a d
    runFabricJoin a d = if (trainingPorts e).isEmpty then (showJoined e, .done (if allTrained e then .ok else .degraded) (joinWords e))
      else (e, .wait (.join (trainingPorts e))) := by
  have same : (Ch.all.any fun c => (chanOf d c).node.joined && (chanOf d c).node.device.toNat != par a.params 0 16) = false := by
    rw [List.any_eq_false]
    intro c _ other
    rw [Bool.and_eq_true, bne_iff_ne] at other
    exact other.2 (h.device c other.1)
  unfold runFabricJoin
  simp only [h.undrained, h.reserved, same, h.region, h.reached, Bool.not_true, Bool.or_self, Bool.false_eq_true, ↓reduceIte]
  rfl

/-- The channel that a join leaves has its device number, its routes and its peers. -/
theorem joinChan_spec (a : Accepted) (c : Ch) (free : Nat) (x : Channel) :
    (joinChan a c free x).node.device.toNat = par a.params 0 16 ∧ (joinChan a c free x).routes = imageRoutes a c ∧
    (joinChan a c free x).peers = imagePeers a c := by
  unfold joinChan
  refine ⟨?_, ?_, ?_⟩ <;> dsimp only
  rw [BitVec.toNat_ofNat]
  exact Nat.mod_eq_of_lt (BitVec.isLt (a.params.extractLsb' 0 16))

theorem chanOf_showJoined (d : Device) (c : Ch) : chanOf (showJoined d) c = { chanOf d c with node := { (chanOf d c).node with joined := true } } :=
  chanOf_modChans_all ..

/-- Devices with the same ports answer a join alike. -/
theorem joinReads_congr {d e : Device} (h : ∀ c, (chanOf e c).ports = (chanOf d c).ports) :
    trainingPorts e = trainingPorts d ∧ allTrained e = allTrained d ∧ joinWords e = joinWords d := by
  unfold trainingPorts allTrained joinWords
  simp only [fun c => portOf_congr (h c), and_self]

theorem fabricJoin_spec {p : HostPost} {s : State} (accepts : Accepts .fabricJoin p s) (legal : JoinLegal (commandOf .fabricJoin p s.dev) s.dev) :
    let a := commandOf .fabricJoin p s.dev
    ∃ t, exec (.fabricJoin p) s = .next t ∧
      (∀ c, (chanOf t.dev c).node.device.toNat = par a.params 0 16 ∧ (chanOf t.dev c).routes = imageRoutes a c ∧ (chanOf t.dev c).peers = imagePeers a c) ∧
      (trainingPorts t.dev = [] → Answers .fabricJoin p s t (if allTrained t.dev then .ok else .degraded) (joinWords t.dev) ∧
        ∀ c, (chanOf t.dev c).node.joined = true) ∧
      (trainingPorts t.dev ≠ [] → Waits .fabricJoin p s t (.join (trainingPorts t.dev))) := by
  intro a
  let e := joinedDev a (pendingDev .fabricJoin p s.dev)
  have runs : runOp .fabricJoin a (pendingDev .fabricJoin p s.dev) = _ := runFabricJoin_of_legal (legal.pending .fabricJoin p)
  have slots : SameSlots (pendingDev .fabricJoin p s.dev) e := sameSlots_joinedDev ..
  have part (c : Ch) : (chanOf e c).node.device.toNat = par a.params 0 16 ∧ (chanOf e c).routes = imageRoutes a c ∧ (chanOf e c).peers = imagePeers a c := by
    rw [chanOf_joinedDev]
    exact joinChan_spec ..
  by_cases trained : trainingPorts e = []
  · rw [if_pos (by rw [List.isEmpty_iff]; exact trained)] at runs
    have shown : SameSlots e (showJoined e) := .of_fns (by unfold showJoined; rw [modChans_fy])
    obtain ⟨t, goes, kept, answers⟩ := post_answers (.fabricJoin p) .fabricJoin p s _ _ _ rfl accepts runs ((slots.trans shown).postSlot ..)
    have chan (c : Ch) : chanOf t.dev c = { chanOf e c with node := { (chanOf e c).node with joined := true } } :=
      (kept.chan c).trans (chanOf_showJoined e c)
    obtain ⟨training, all, words⟩ := joinReads_congr (d := e) (e := t.dev) fun c => by rw [chan]
    refine ⟨t, goes, fun c => ?_, fun _ => ⟨?_, fun c => ?_⟩, fun trains => absurd (training.trans trained) trains⟩
    · rw [chan]
      exact part c
    · rw [all, words]
      exact answers
    · rw [chan]
  · rw [if_neg (by rw [List.isEmpty_iff]; exact trained)] at runs
    obtain ⟨t, goes, dev, waits⟩ := post_waits (.fabricJoin p) .fabricJoin p s _ _ rfl accepts runs (slots.postSlot ..)
    have chans : t.dev.chans = e.chans := by rw [dev]
    have chan (c : Ch) : chanOf t.dev c = chanOf e c := by
      unfold chanOf
      rw [chans]
    obtain ⟨training, -, -⟩ := joinReads_congr (d := e) (e := t.dev) fun c => by rw [chan]
    refine ⟨t, goes, fun c => ?_, fun none => absurd (training.symm.trans none) trained, fun _ => ?_⟩
    · rw [chan]
      exact part c
    · rw [training]
      exact waits

/-! ## FABRIC_LEAVE (R485) -/

theorem portLeaves_foyer (d : Device) (c : Ch) (p : BitVec 2) (st : BitVec 3) :
    SameSlots d (portLeaves d c p st) ∧ (portLeaves d c p st).fy.waits = d.fy.waits := by
  unfold portLeaves
  extract_lets d1
  have foyer : (resend d1 c (.port p)).fy = d.fy := (fabricOnly_resend d1 c (.port p)).1
  refine ⟨(SameSlots.of_fns (by rw [foyer])).trans (sameSlots_refresh _), ?_⟩
  rw [(refresh_keeps _).2.2.2, foyer]

/-- The four ports of a channel go down. -/
def portsLeave (c : Ch) (d : Device) : Device := (List.range 4).foldl (fun d p => portLeaves d c (BitVec.ofNat 2 p) 0) d

theorem portsLeave_foyer (c : Ch) (d : Device) : SameSlots d (portsLeave c d) ∧ (portsLeave c d).fy.waits = d.fy.waits :=
  List.foldlRecOn (List.range 4) _ (motive := fun e => SameSlots d e ∧ e.fy.waits = d.fy.waits) ⟨.refl d, rfl⟩ fun e ⟨slots, waits⟩ p _ =>
    have ⟨slots', waits'⟩ := portLeaves_foyer e c (BitVec.ofNat 2 p) 0
    ⟨slots.trans slots', waits'.trans waits⟩

/-- Every port of a channel is down. -/
def PortsDown (d : Device) (o : Ch) : Prop := ∀ q, (portOf (chanOf d o) q).state = 0

theorem state_portLeaves_zero {d : Device} {o : Ch} {q : BitVec 2} (c : Ch) (p : BitVec 2) (h : (o = c ∧ q = p) ∨ (portOf (chanOf d o) q).state = 0) :
    (portOf (chanOf (portLeaves d c p 0) o) q).state = 0 := by
  rw [(portLeaves_spec d c p 0).2.2 o q]
  split
  next => rfl
  next other => exact h.resolve_left other

theorem portsDown_portsLeave_same (d : Device) (c : Ch) : PortsDown (portsLeave c d) c := fun q => by
  have down := foldl_forall_mem (P := fun e p => (portOf (chanOf e c) (BitVec.ofNat 2 p)).state = 0)
    (f := fun d p => portLeaves d c (BitVec.ofNat 2 p) 0) (fun _ _ => state_portLeaves_zero _ _ (.inl ⟨rfl, rfl⟩))
    (fun _ _ _ h => state_portLeaves_zero _ _ (.inr h)) (List.range 4) d q.toNat (List.mem_range.mpr q.isLt)
  rwa [BitVec.ofNat_toNat, BitVec.setWidth_eq] at down

theorem PortsDown.portsLeave {d : Device} {o : Ch} (h : PortsDown d o) (c : Ch) : PortsDown (portsLeave c d) o :=
  List.foldlRecOn (List.range 4) _ (motive := fun e => PortsDown e o) h fun _ he _ _ q => state_portLeaves_zero _ _ (.inr (he q))

/-- Where no waiting command is what is looked for, none completes. -/
theorem completeWaits_of_none {d : Device} {p : Waiting → Option (Status × List W32)} (h : ∀ w ∈ d.fy.waits, p w = none) : completeWaits d p = d := by
  have go : (d.fy.waits.filterMap fun w => (p w).map fun r => (w, r)) = [] :=
    List.filterMap_eq_nil_iff.mpr fun w hw => by rw [h w hw]; rfl
  have rest : (d.fy.waits.filter fun w => (p w).isNone) = d.fy.waits :=
    List.filter_eq_self.mpr fun w hw => by rw [h w hw]; rfl
  unfold completeWaits
  dsimp only
  rw [go, rest]
  rfl

/-- Ports that settle concern no one where no FABRIC_JOIN waits. -/
theorem portsSettled_of_none {d : Device} (h : ∀ w ∈ d.fy.waits, ∀ l, w.kind ≠ .join l) (done : Ch × Nat → Bool) : portsSettled d done = d := by
  have idle : (d.fy.waits.any fun w => w.kind == .join []) = false :=
    List.any_eq_false.mpr fun w hw => by rw [beq_iff_eq]; exact h w hw []
  unfold portsSettled
  extract_lets waits fy d1 d2
  have same : waits = d.fy.waits := by
    refine (List.map_congr_left fun w hw => ?_).trans (List.map_id _)
    split
    next l kind => exact absurd kind (h w hw l)
    next => rfl
  have hd1 : d1 = d := by
    simp only [d1, same]
    rfl
  have hd2 : d2 = d := by
    simp only [d2, same, idle, hd1, Bool.false_eq_true, ↓reduceIte]
  rw [hd2]
  refine completeWaits_of_none fun w hw => ?_
  split
  next kind => exact absurd kind (h w hw [])
  next => rfl

/-- The ports of every channel go down. -/
def allLeave (d : Device) : Device := Ch.all.foldl (fun d c => portsLeave c d) d

theorem leaveFabric_eq (d : Device) :
    leaveFabric d = modChans (portsSettled (allLeave d) fun _ => true) Ch.all fun _ x => { x with node := { x.node with joined := false } } := by
  unfold leaveFabric allLeave portsLeave
  rfl

theorem portsDown_allLeave (d : Device) (c : Ch) : PortsDown (allLeave d) c :=
  foldl_forall_mem (P := PortsDown) portsDown_portsLeave_same (fun _ c _ h => h.portsLeave c) Ch.all d c (Ch.mem_all c)

theorem allLeave_foyer (d : Device) : SameSlots d (allLeave d) ∧ (allLeave d).fy.waits = d.fy.waits := by
  unfold allLeave
  generalize Ch.all = cs
  exact List.foldlRecOn cs _ (motive := fun e => SameSlots d e ∧ e.fy.waits = d.fy.waits) ⟨.refl d, rfl⟩ fun e ⟨slots, waits⟩ c _ =>
    have ⟨slots', waits'⟩ := portsLeave_foyer c e
    ⟨slots.trans slots', waits'.trans waits⟩

theorem leaveFabric_spec {d : Device} (h : ∀ w ∈ d.fy.waits, ∀ l, w.kind ≠ .join l) :
    SameSlots d (leaveFabric d) ∧ ∀ c, PortsDown (leaveFabric d) c ∧ (chanOf (leaveFabric d) c).node.joined = false := by
  obtain ⟨slots, waits⟩ := allLeave_foyer d
  rw [leaveFabric_eq, portsSettled_of_none (by rw [waits]; exact h)]
  refine ⟨slots.trans (.of_fns (by rw [modChans_fy])), fun c => ⟨fun q => ?_, ?_⟩⟩
  · rw [chanOf_modChans_all]
    exact portsDown_allLeave d c q
  · rw [chanOf_modChans_all]

theorem runFabricLeave_of_legal {a : Accepted} {d : Device} (undrained : anyDraining d = false) (reserved : reservedClear a.params [] = true)
    (quiet : startedRooms d = []) : runFabricLeave a d = only (leaveFabric d) .ok := by
  unfold runFabricLeave
  simp only [undrained, reserved, quiet, List.isEmpty_nil, Bool.not_true, Bool.or_self, Bool.false_eq_true, ↓reduceIte]

theorem fabricLeave_spec {p : HostPost} {s : State} (accepts : Accepts .fabricLeave p s) (undrained : anyDraining s.dev = false)
    (reserved : reservedClear (commandOf .fabricLeave p s.dev).params [] = true) (quiet : startedRooms s.dev = [])
    (idle : ∀ w ∈ s.dev.fy.waits, ∀ l, w.kind ≠ .join l) :
    ∃ t, exec (.fabricLeave p) s = .next t ∧ Answers .fabricLeave p s t .ok [] ∧
      ∀ c q, (portOf (chanOf t.dev c) q).state = 0 ∧ (chanOf t.dev c).node.joined = false := by
  let d := pendingDev .fabricLeave p s.dev
  obtain ⟨slots, down⟩ := leaveFabric_spec (d := d) (by
    rw [show d.fy.waits = s.dev.fy.waits by simp only [d]; rw [fy_pendingDev]]
    exact idle)
  have runs : runOp .fabricLeave (commandOf .fabricLeave p s.dev) d = only (leaveFabric d) .ok :=
    runFabricLeave_of_legal (by simpa [d] using undrained) reserved (by simpa [d] using quiet)
  obtain ⟨t, goes, kept, answers⟩ := post_answers (.fabricLeave p) .fabricLeave p s _ _ _ rfl accepts runs (slots.postSlot ..)
  refine ⟨t, goes, answers, fun c q => ?_⟩
  rw [kept.chan c]
  exact ⟨(down c).1 q, (down c).2⟩

/-! ## Drains (R609, R610, R613) -/

theorem startedRooms_eq_nil_iff (d : Device) :
    startedRooms d = [] ↔ ∀ u, suiteExists d u = true → ∀ n ∈ roomIndexes, isStarted (leadRoom d u n) = false := by
  unfold startedRooms
  simp [List.flatMap_eq_nil_iff, Ch.mem_all]

/-- Where the rooms and the suites are as before, so are the STARTED rooms. -/
theorem startedRooms_congr {d e : Device} (h : Keeps Channel.rooms d e) : startedRooms e = startedRooms d := by
  have suites (u : Ch) : suiteExists e u = suiteExists d u := by
    unfold suiteExists
    rw [(h.suites u).1]
  have lead (u : Ch) (n : Nat) : leadRoom e u n = leadRoom d u n := by
    unfold leadRoom
    rw [h.leadOf]
    exact roomOf_congr (h.chans _) n
  unfold startedRooms
  simp only [lead, show suiteExists e = suiteExists d from funext suites]

theorem chanHasStarted_of_quiet {d : Device} (h : startedRooms d = []) (c : Ch) : chanHasStarted d c = false := by
  unfold chanHasStarted
  split
  next u found =>
    have member : (suiteOf d u).mask.getLsbD c.num = true :=
      List.find?_some (p := fun u => (suiteOf d u).mask.getLsbD c.num) found
    have holds : suiteExists d u = true := by
      unfold suiteExists
      rw [bne_iff_ne]
      intro empty
      rw [empty] at member
      simp at member
    rw [List.any_eq_false]
    intro n hn
    rw [(startedRooms_eq_nil_iff d).mp h u holds n hn]
    exact Bool.false_ne_true
  next => rfl

theorem drainServe_of_idle {d : Device} {u : Ch} {n : Nat} (h : isStarted (leadRoom d u n) = false) : drainServe d u n = d := by
  unfold drainServe
  simp only [h, Bool.and_false, Bool.false_and, Bool.false_eq_true, ↓reduceIte]

/-- Without a STARTED room there is nothing that a drain stops: it is done. -/
theorem drainIdle_of_quiet {d : Device} (h : startedRooms d = []) : drainIdle d = showDrained d := by
  have still : Ch.all.foldl (fun d s => if suiteExists d s && suiteDraining d s then
      roomIndexes.foldl (fun d n => drainServe d s n) d else d) d = d := by
    refine List.foldlRecOn Ch.all _ (motive := fun e => e = d) rfl fun e he u _ => ?_
    rw [he]
    split
    next acts =>
      rw [Bool.and_eq_true] at acts
      exact List.foldlRecOn roomIndexes _ (motive := fun e => e = d) rfl fun e he n hn => by
        rw [he]
        exact drainServe_of_idle ((startedRooms_eq_nil_iff d).mp h u acts.1 n hn)
    next => rfl
  unfold drainIdle
  dsimp only
  rw [still]

/-- A channel whose drain, if there is one, is shown as done. -/
def shownDone (x : Channel) : Channel := if x.flt.draining then { x with flt := { x.flt with drainDone := true } } else x

theorem chanOf_showDrained_of_quiet {d : Device} (h : startedRooms d = []) (c : Ch) : chanOf (showDrained d) c = shownDone (chanOf d c) := by
  unfold showDrained
  rw [chanOf_modChans_all, chanHasStarted_of_quiet h]
  simp only [Bool.not_false, Bool.and_true]
  rfl

theorem drainChan_of_none {x : Channel} (h : x.drain = none) (cancellable : Bool) (limitS : Nat) :
    (drainChan cancellable limitS x).flt.draining = true ∧
    (drainChan cancellable limitS x).drain = some { cancellable := cancellable, startMs := nowMs x, limitS := limitS } := by
  unfold drainChan
  rw [h]
  exact ⟨rfl, rfl⟩

theorem drainChan_rooms (cancellable : Bool) (limitS : Nat) (x : Channel) : (drainChan cancellable limitS x).rooms = x.rooms := by
  unfold drainChan
  split
  · rfl
  · exact record_rooms ..

/-- A drain that begins on channels of a device without a STARTED room is done there at once. -/
theorem startDrain_of_quiet {d : Device} {cs : List Ch} (quiet : startedRooms d = []) (nodup : cs.Nodup) (some : cs ≠ [])
    (fresh : ∀ c ∈ cs, (chanOf d c).drain = none) (cancellable : Bool) (limitS : Nat) :
    let e := startDrain d cs cancellable limitS
    SameSlots d e ∧ e.fy.drains = d.fy.drains + 1 ∧ e.fy.replace = d.fy.replace ∧
    ∀ c, chanOf e c = shownDone (if c ∈ cs then drainChan cancellable limitS (chanOf d c) else chanOf d c) := by
  have new : cs.filter (fun c => (chanOf d c).drain.isNone) = cs := List.filter_eq_self.mpr fun c hc => by rw [fresh c hc]; rfl
  let d1 := modChans d cs fun _ x => drainChan cancellable limitS x
  let d2 := postAll { d1 with fy := { d1.fy with drains := d1.fy.drains + 1 } }
    { code := 0x02, detail := (bitsFrom (cs.map Ch.num) : BitVec 4).setWidth 64 }
  have posted : OnlyFns { d1 with fy := { d1.fy with drains := d1.fy.drains + 1 } } d2 := onlyFns_postAll ..
  have rooms : Keeps Channel.rooms d d2 :=
    ((keeps_modChans d cs _ fun _ x => drainChan_rooms cancellable limitS x).trans (keeps_withFy d1 _)).trans (keeps_onlyFns posted)
  have quiet2 : startedRooms d2 = [] := (startedRooms_congr rooms).trans quiet
  have whole : startDrain d cs cancellable limitS = refresh (showDrained d2) := by
    unfold startDrain
    dsimp only
    rw [new, if_neg (by rw [List.isEmpty_iff]; exact some), ← drainIdle_of_quiet quiet2]
  have fy1 : d1.fy = d.fy := modChans_fy ..
  have fy2 : (showDrained d2).fy = d2.fy := modChans_fy ..
  intro e
  have he : e = refresh (showDrained d2) := whole
  rw [he]
  refine ⟨?_, ?_, ?_, fun c => ?_⟩
  · have begun : SameSlots d { d1 with fy := { d1.fy with drains := d1.fy.drains + 1 } } :=
      .of_fns (show d1.fy.fns = d.fy.fns by rw [fy1])
    have shown : SameSlots d2 (showDrained d2) := .of_fns (congrArg Foyer.fns fy2)
    exact ((begun.trans (sameSlots_postAll ..)).trans shown).trans (sameSlots_refresh _)
  · rw [(refresh_keeps _).2.2.2, fy2, posted.2.2.2, fy1]
  · rw [(refresh_keeps _).2.2.2, fy2, posted.2.2.2, fy1]
  · rw [chanOf_refresh, chanOf_showDrained_of_quiet quiet2]
    refine congrArg shownDone ?_
    rw [← chanOf_modChans cs (fun _ x => drainChan cancellable limitS x) d c nodup]
    exact posted.chan c

theorem drainMask_nodup (p : BitVec 15872) : (drainMask p).Nodup := by
  unfold drainMask
  split
  · decide
  · exact chansOf_nodup _

theorem drainMask_ne_nil (p : BitVec 15872) : drainMask p ≠ [] := by
  have named : ∀ n < 16, n ≠ 0 → chansOf (BitVec.ofNat 4 n) ≠ [] := by decide
  unfold drainMask
  split
  · decide
  next some => exact named _ (BitVec.isLt (p.extractLsb' 0 4)) some

/-- FLT_REPLACE is set for a replacement that no fault asks for. -/
theorem setReplace_none (d : Device) :
    SameSlots d (setReplace d none) ∧ (setReplace d none).fy.replace = { d.fy.replace with isSet := true } ∧
    (setReplace d none).fy.drains = d.fy.drains ∧ (setReplace d none).chans = d.chans ∧ (setReplace d none).suites = d.suites := by
  have set : SameSlots d { d with fy := { d.fy with replace := replaceFor none d.fy.replace } } := .of_fns rfl
  unfold setReplace
  extract_lets was fy d1
  split
  · exact ⟨set, rfl, rfl, rfl, rfl⟩
  · obtain ⟨chans, suites, -, fy⟩ : OnlyFns d1 (postAll d1 { code := 0x06 }) := onlyFns_postAll ..
    exact ⟨set.trans (sameSlots_postAll _ _), by rw [fy]; rfl, by rw [fy], chans, suites⟩

/-- A drain of a device without a STARTED room, for a replacement or not. -/
theorem drainDevice_of_quiet {p : BitVec 15872} {d : Device} (quiet : startedRooms d = []) (fresh : ∀ c ∈ drainMask p, (chanOf d c).drain = none) :
    let e := drainDevice p d
    let limit := if par p 16 16 = 0 then d.fy.replace.drainLimitS.toNat else par p 16 16
    SameSlots d e ∧ e.fy.drains = d.fy.drains + 1 ∧ (parB p 4 = true → e.fy.replace.isSet = true) ∧
    ∀ c, chanOf e c = shownDone (if c ∈ drainMask p then drainChan (!parB p 4) limit (chanOf d c) else chanOf d c) := by
  intro e limit
  obtain ⟨slots, replace, drains, chans, suites⟩ := setReplace_none d
  by_cases asked : parB p 4 = true
  · have same (c : Ch) : chanOf (setReplace d none) c = chanOf d c := by
      unfold chanOf
      rw [chans]
    have whole : e = startDrain (setReplace d none) (drainMask p) (!parB p 4) limit := by
      simp only [e, drainDevice, asked, ↓reduceIte, limit]
    obtain ⟨slots', drains', replace', chan⟩ := startDrain_of_quiet (d := setReplace d none)
      ((startedRooms_congr (.of_chans suites chans)).trans quiet) (drainMask_nodup p) (drainMask_ne_nil p) (fun c hc => by rw [same]; exact fresh c hc)
      (!parB p 4) limit
    rw [whole]
    refine ⟨slots.trans slots', drains'.trans (by rw [drains]), fun _ => by rw [replace', replace], fun c => ?_⟩
    rw [chan, same]
  · have whole : e = startDrain d (drainMask p) (!parB p 4) limit := by
      simp only [e, drainDevice, asked, ↓reduceIte, limit, Bool.false_eq_true]
    obtain ⟨slots', drains', -, chan⟩ := startDrain_of_quiet quiet (drainMask_nodup p) (drainMask_ne_nil p) fresh (!parB p 4) limit
    rw [whole]
    exact ⟨slots', drains', fun h => absurd h asked, chan⟩

theorem runDrainDevice_of_begin {a : Accepted} {d : Device} (reserved : reservedClear a.params [(0, 6), (16, 16)] = true)
    (begins : parB a.params 5 = false) : runDrainDevice a d = only (drainDevice a.params d) .ok := by
  unfold runDrainDevice
  simp only [reserved, begins, Bool.not_true, Bool.false_eq_true, ↓reduceIte]

theorem runDrainDevice_of_cancel {a : Accepted} {d : Device} (reserved : reservedClear a.params [(0, 6), (16, 16)] = true)
    (cancels : parB a.params 5 = true) (may : ∀ c ∈ drainMask a.params, ∀ k, (chanOf d c).drain = some k → k.cancellable = true) :
    runDrainDevice a d = only (refresh (modChans d (drainMask a.params) fun _ x => undrain x)) .ok := by
  unfold runDrainDevice
  dsimp only
  rw [if_neg (by rw [reserved]; decide), if_pos cancels, if_neg]
  rw [Bool.not_eq_true, List.any_eq_false]
  intro c hc
  split
  next k drains => rw [may c hc k drains]; decide
  next => exact Bool.false_ne_true

theorem shownDone_drain (x : Channel) : (shownDone x).drain = x.drain ∧ (shownDone x).flt.draining = x.flt.draining := by
  unfold shownDone
  split <;> exact ⟨rfl, rfl⟩

theorem shownDone_of_draining {x : Channel} (h : x.flt.draining = true) : (shownDone x).flt.drainDone = true := by
  unfold shownDone
  rw [if_pos h]

theorem drainDevice_spec {p : HostPost} {s : State} (accepts : Accepts .drainDevice p s) :
    let a := commandOf .drainDevice p s.dev
    let cs := drainMask a.params
    reservedClear a.params [(0, 6), (16, 16)] = true → parB a.params 5 = false → startedRooms s.dev = [] →
    (∀ c ∈ cs, (chanOf s.dev c).drain = none) → ∃ t, exec (.drainDevice p) s = .next t ∧ Answers .drainDevice p s t .ok [] ∧
      t.dev.fy.drains = s.dev.fy.drains + 1 ∧ (parB a.params 4 = true → t.dev.fy.replace.isSet = true) ∧
      let limit := if par a.params 16 16 = 0 then s.dev.fy.replace.drainLimitS.toNat else par a.params 16 16
      ∀ c, if c ∈ cs then (chanOf t.dev c).flt.draining = true ∧ (chanOf t.dev c).flt.drainDone = true ∧
          (chanOf t.dev c).drain = some { cancellable := !parB a.params 4, startMs := nowMs (chanOf s.dev c), limitS := limit }
        else (chanOf t.dev c).flt.draining = (chanOf s.dev c).flt.draining ∧ (chanOf t.dev c).drain = (chanOf s.dev c).drain := by
  intro a cs reserved begins quiet fresh
  let d := pendingDev .drainDevice p s.dev
  obtain ⟨slots, drains, replace, chan⟩ := drainDevice_of_quiet (p := a.params) (d := d) (by simpa [d] using quiet) (by simpa [d] using fresh)
  have runs : runOp .drainDevice a d = only (drainDevice a.params d) .ok := runDrainDevice_of_begin reserved begins
  obtain ⟨t, goes, kept, answers⟩ := post_answers (.drainDevice p) .drainDevice p s _ _ _ rfl accepts runs (slots.postSlot ..)
  have fy : t.dev.fy = { (drainDevice a.params d).fy with fns := t.dev.fy.fns } := kept.2.2.2
  refine ⟨t, goes, answers, ?_, fun asked => ?_, fun c => ?_⟩
  · rw [fy, drains, fy_pendingDev]
  · rw [fy]
    exact replace asked
  · rw [kept.chan c, chan, chanOf_pendingDev, fy_pendingDev]
    obtain ⟨sameDrain, sameFlag⟩ := shownDone_drain (if c ∈ cs then drainChan (!parB a.params 4)
      (if par a.params 16 16 = 0 then s.dev.fy.replace.drainLimitS.toNat else par a.params 16 16) (chanOf s.dev c) else chanOf s.dev c)
    by_cases named : c ∈ cs
    · obtain ⟨draining, drain⟩ := drainChan_of_none (fresh c named) (!parB a.params 4)
        (if par a.params 16 16 = 0 then s.dev.fy.replace.drainLimitS.toNat else par a.params 16 16)
      rw [if_pos named] at sameDrain sameFlag ⊢
      rw [if_pos named]
      exact ⟨sameFlag.trans draining, shownDone_of_draining draining, sameDrain.trans drain⟩
    · rw [if_neg named] at sameDrain sameFlag ⊢
      rw [if_neg named]
      exact ⟨sameFlag, sameDrain⟩

theorem drainCancel_spec {p q : HostPost} {s : State} (hq : q = { p with params := p.params ||| (1 <<< 5) }) (accepts : Accepts .drainDevice q s) :
    let a := commandOf .drainDevice q s.dev
    let cs := drainMask a.params
    reservedClear a.params [(0, 6), (16, 16)] = true → parB a.params 5 = true →
    (∀ c ∈ cs, ∀ k, (chanOf s.dev c).drain = some k → k.cancellable = true) → ∃ t, exec (.drainCancel p) s = .next t ∧
      Answers .drainDevice q s t .ok [] ∧ ∀ c, if c ∈ cs then
          (chanOf t.dev c).drain = none ∧ (chanOf t.dev c).flt.draining = false ∧ (chanOf t.dev c).flt.drainDone = false
        else chanOf t.dev c = chanOf s.dev c := by
  intro a cs reserved cancels may
  let d := pendingDev .drainDevice q s.dev
  let e := refresh (modChans d cs fun _ x => undrain x)
  have runs : runOp .drainDevice a d = only e .ok := runDrainDevice_of_cancel reserved cancels (by simpa [d] using may)
  have slots : SameSlots d e := (SameSlots.of_fns (by rw [modChans_fy])).trans (sameSlots_refresh _)
  obtain ⟨t, goes, kept, answers⟩ := post_answers (.drainCancel p) .drainDevice q s _ _ _ (by rw [hq]; rfl) accepts runs (slots.postSlot ..)
  refine ⟨t, goes, answers, fun c => ?_⟩
  have after : chanOf t.dev c = if c ∈ cs then undrain (chanOf s.dev c) else chanOf s.dev c := by
    rw [kept.chan c, chanOf_refresh, chanOf_modChans _ _ _ _ (drainMask_nodup _), chanOf_pendingDev]
  rw [after]
  split
  · exact ⟨rfl, rfl, rfl⟩
  · rfl

/-- Settles O37: each command's run from the device that its post leaves pending, by the channels that it leaves and the slots that it keeps. -/
theorem fabricAndDrainCommandsAct : Obligations.FabricAndDrainCommandsAct := by
  unfold Obligations.FabricAndDrainCommandsAct
  intro p s
  refine ⟨fun accepts undrained reserved device region reached => ?_, fun accepts undrained reserved quiet idle => ?_, fun accepts => ?_, fun accepts => ?_⟩
  · exact fabricJoin_spec accepts ⟨undrained, reserved, device, region, reached⟩
  · exact fabricLeave_spec accepts undrained reserved quiet idle
  · exact drainDevice_spec accepts
  · exact drainCancel_spec rfl accepts

end Sys2Proof.Machine

end

section

namespace Sys2Proof.Machine

/-! ## PWR_STATUS is shown anew by every event that may be a fault (Table 18.8) -/

/-- A device at reset beside a board whose PWR_STATUS shows a temperature that no channel has. -/
def staleBoard : State := { State.reset with board := { State.reset.board with pwr := { State.reset.board.pwr with tmax := 1 } } }

theorem showPower_staleBoard : showPower staleBoard.board staleBoard.dev ≠ staleBoard.board := fun h => by
  have tmax : (showPower staleBoard.board staleBoard.dev).pwr.tmax = 1 := congrArg (fun b => b.pwr.tmax) h
  exact absurd tmax (by decide)

/-- An event that leaves the device shows the channels' state on the board. -/
theorem withBoard_of_unchanged {f : Device → Device} {s : State} (h : f s.dev = s.dev) :
    withBoard f s = .next { s with board := showPower s.board s.dev } := by
  unfold withBoard
  rw [onBoth_eq]
  dsimp only
  rw [h]

/-- It leaves the whole state where the board shows that state already, and only there. -/
theorem withBoard_eq_self_iff {f : Device → Device} {s : State} (h : f s.dev = s.dev) :
    withBoard f s = .next s ↔ showPower s.board s.dev = s.board := by
  rw [withBoard_of_unchanged h]
  refine ⟨fun same => ?_, fun shown => by rw [shown]⟩
  injection same with state
  exact congrArg State.board state

/-- A TAG frame on a link that carries nothing leaves the device as it is. -/
theorem tagFrameReceive_of_dead {c : Ch} {p : BitVec 2} {d : Device} (h : linkCarries d c (.port p) = false) (ok : Bool) :
    tagFrameReceive c p ok d = d := by
  unfold tagFrameReceive
  simp only [h, Bool.not_false, ↓reduceIte]

/-- The clause of `FramesArrive` on such a TAG frame holds exactly where PWR_STATUS shows what the channels are at. -/
theorem exec_tagFrameReceive_of_dead {c : Ch} {p : BitVec 2} {s : State} (h : linkCarries s.dev c (.port p) = false) (ok : Bool) :
    exec (.tagFrameReceive c p ok) s = .next s ↔ showPower s.board s.dev = s.board :=
  withBoard_eq_self_iff (f := tagFrameReceive c p ok) (tagFrameReceive_of_dead h ok)

/-- Refutes O52: a TAG frame on a link that carries nothing leaves the device as it is, but shows PWR_STATUS anew, where the statement keeps the
whole state. -/
theorem not_framesArrive : ¬ Obligations.FramesArrive := by
  unfold Obligations.FramesArrive
  intro holds
  obtain ⟨-, tags⟩ := holds staleBoard .c0
  obtain ⟨dead, -⟩ := tags 0
  have down : linkCarries staleBoard.dev .c0 (.port 0) = false := by decide
  exact showPower_staleBoard ((exec_tagFrameReceive_of_dead down true).mp (dead true down))

/-- A set-up message on a port that is neither up nor out of service leaves the device as it is. -/
theorem linkSetupMessage_of_closed {c : Ch} {p : BitVec 2} {d : Device}
    (h : ¬(((portOf (chanOf d c) p).state = 2 ∨ (portOf (chanOf d c) p).state = 4) ∧ (portOf (chanOf d c) p).pers = false)) (m : SetupMsg) :
    linkSetupMessage c p m d = d := by
  unfold linkSetupMessage
  simp only [Bool.not_eq_true', h, decide_false, Bool.not_false, ↓reduceIte]

/-- The clause of `PortsTrainAndSetUp` on such a message holds exactly where PWR_STATUS shows what the channels are at. -/
theorem exec_linkSetupMessage_of_closed {c : Ch} {p : BitVec 2} {s : State}
    (h : ¬(((portOf (chanOf s.dev c) p).state = 2 ∨ (portOf (chanOf s.dev c) p).state = 4) ∧ (portOf (chanOf s.dev c) p).pers = false)) (m : SetupMsg) :
    exec (.linkSetupMessage c p m) s = .next s ↔ showPower s.board s.dev = s.board :=
  withBoard_eq_self_iff (f := linkSetupMessage c p m) (linkSetupMessage_of_closed h m)

/-- Refutes O54: a set-up message on a port that has not trained leaves the device as it is, but shows PWR_STATUS anew, where the statement keeps the
whole state. -/
theorem not_portsTrainAndSetUp : ¬ Obligations.PortsTrainAndSetUp := by
  unfold Obligations.PortsTrainAndSetUp
  intro holds
  obtain ⟨-, -, -, setup, -⟩ := holds staleBoard .c0 0
  let m : SetupMsg := { certOk := true, svn := 0, debug := false, secret := 0, first := true }
  obtain ⟨closed, -⟩ := setup m
  have untrained : ¬(((portOf (chanOf staleBoard.dev .c0) 0).state = 2 ∨ (portOf (chanOf staleBoard.dev .c0) 0).state = 4) ∧
      (portOf (chanOf staleBoard.dev .c0) 0).pers = false) := by decide
  exact showPower_staleBoard ((exec_linkSetupMessage_of_closed untrained m).mp (closed untrained))

end Sys2Proof.Machine

end

section

namespace Sys2Proof.Machine

/-! ## Registers at reset (R543, R271) -/

theorem chanOf_reset (c : Ch) : chanOf State.reset.dev c = Channel.reset c := by cases c <;> rfl
theorem suiteOf_reset (u : Ch) : suiteOf State.reset.dev u = {} := Quad.get_same _ u
theorem ckpHost_reset (u : Ch) : State.reset.dev.fy.ckpHost.get u = {} := Quad.get_same _ u

/-- The words of a register that holds r, of which no register has more than 15, read as a table of its words gives them. -/
theorem reads_of_words {α : Type} (get : α → Nat → W64) (r : α) {words : Tab W64} (low : ∀ j < 15, get r j = tget 0 words j := by decide)
    (high : ∀ i, get r (i + 15) = 0 := by exact fun _ => rfl) (keys : ∀ w ∈ words, w.1 < 15 := by decide) (j : Nat) :
    get r j = tget 0 words j := by
  by_cases h : j < 15
  · exact low j h
  · obtain ⟨i, rfl⟩ := Nat.exists_eq_add_of_le' (Nat.le_of_not_lt h)
    have absent : words.find? (fun w => w.1 == i + 15) = none :=
      List.find?_eq_none.mpr fun w hw same => by
        have := keys w hw
        have := beq_iff_eq.mp same
        omega
    rw [high]
    unfold tget
    rw [absent]

/-- FN_WORDS of a function that nothing has written: LOG2 6 in word 1, and in word 4 the port below the function's number (Table 17.15). -/
theorem fnWords_reset (f : Fn) (j : Nat) :
    getFnWords { port := f.portB, func := f.num } j = tget 0 [(1, 0x0C), (4, BitVec.ofNat 64 (2 * f.num.toNat + f.portB.toNat))] j := by
  match j with
  | 0 | 2 | 3 | i + 5 => rfl
  | 1 => exact (by decide : (0 : W64) ||| ((6 : BitVec 5).setWidth 64 <<< 1) = 0x0C)
  | 4 =>
    obtain ⟨b, n⟩ := f
    revert b n
    decide +kernel

/-- FAB_NODE of a channel at reset shows the channel's number. -/
theorem fabNode_reset (c : Ch) (j : Nat) :
    getFabNode (Channel.reset c).node j = tget 0 [(0, BitVec.ofNat 64 (2 ^ 16 * c.num))] j := by
  cases c <;> exact reads_of_words getFabNode _ (j := j)

/-- STK_STATE of a memory stack at reset. -/
theorem stkState_reset (c k : Ch) (j : Nat) : getStkState ((Channel.reset c).memStacks.get k).reg j = tget 0 [] j := by
  rw [show (Channel.reset c).memStacks.get k = {} from Quad.get_same _ k]
  exact reads_of_words getStkState {} (j := j)

/-- Settles O5: reset lists no room, function or memory, so each register holds the values of its type, whose words are read one by one. -/
theorem resetRegistersHoldTheirValues : Obligations.ResetRegistersHoldTheirValues := by
  unfold Obligations.ResetRegistersHoldTheirValues
  intro d b reads
  refine ⟨rfl, rfl, rfl, rfl, rfl,
    ⟨reads_of_words getPwrStatus {}, reads_of_words getPwrEnergy {}, reads_of_words getFyBoot {}, fun _ => reads_of_words getPwrLaser {}⟩,
    ⟨reads_of_words getFyDevStatus {}, reads_of_words getFyArrWidth {}, reads_of_words getSecDebug {}, reads_of_words getFltReplace {}⟩,
    fun _ => ⟨reads_of_words getFyCellar {}, reads_of_words getFyVfSuite {}, reads_of_words getSecProgRoot {}⟩,
    fun u => ?suites,
    fun f v m => ⟨fnWords_reset f, reads_of_words getIrqMod {}, rfl, reads_of_words getMbxWords {}, rfl, rfl⟩,
    fun c => ?channels⟩
  case suites =>
    rw [suiteOf_reset, ckpHost_reset]
    exact ⟨reads_of_words getSchSuite {}, reads_of_words getCkpHost {}⟩
  case channels =>
    intro x
    have reset : x = Channel.reset c := chanOf_reset c
    clear_value x
    subst reset
    exact ⟨⟨reads_of_words getArrChkStatus {}, reads_of_words getArrChkCount {}, reads_of_words getCcStreamFault {}, reads_of_words getCcIssueCount {},
        reads_of_words getCcWaitLimit {}, reads_of_words getStkScrub {}, stkState_reset c, reads_of_words getPmpStatus {}, reads_of_words getTierCtl {},
        reads_of_words getTierAcct {}, fabNode_reset c, reads_of_words getFabRed {}, reads_of_words getIrqChan {}, reads_of_words getSecStatus {},
        reads_of_words getFltStatus {}, reads_of_words getFltHist {}⟩,
      fun _ => ⟨reads_of_words getTierT2Region {}, reads_of_words getSrvBudget {}, reads_of_words getAdpSlot {}, reads_of_words getSrvWcopy {},
        reads_of_words getSrvWmodel {}, reads_of_words getTrnXs {}, reads_of_words getFabPort {}, reads_of_words getFabRt {},
        reads_of_words getFabEthPeer {}, reads_of_words getFabColl {}⟩,
      fun _ _ => ⟨rfl, rfl, rfl, rfl, reads_of_words getRoomCfg {}, reads_of_words getSchRoom {}, reads_of_words getSchAcct {},
        reads_of_words getTierAcct {}, reads_of_words getTierWmap {}, reads_of_words getKvRoom {}, reads_of_words getSrvRoom {},
        reads_of_words getRngRoom {}, reads_of_words getAdpRoom {}, reads_of_words getAdpBind {}, reads_of_words getTrnRoom {},
        reads_of_words getUpdRoom {}, reads_of_words getTrnBcast {}, reads_of_words getFabRoom {}, reads_of_words getCkpRoom {}⟩,
      rfl, rfl, rfl, rfl, rfl, rfl, rfl, rfl, rfl, rfl⟩

end Sys2Proof.Machine

end

section

namespace Sys2Proof.Machine

/-! ## SUITE_SET (R521 to R523, R555) -/

@[simp] theorem suiteOfChan_pendingDev (op : HostOp) (p : HostPost) (d : Device) (c : Ch) : suiteOfChan (pendingDev op p d) c = suiteOfChan d c := by
  unfold suiteOfChan
  simp only [suiteOf_pendingDev]
@[simp] theorem suiteHasRoom_pendingDev (op : HostOp) (p : HostPost) (d : Device) (u : Ch) : suiteHasRoom (pendingDev op p d) u = suiteHasRoom d u := by
  unfold suiteHasRoom
  simp only [leadRoom_pendingDev]

/-- Where no load is in progress, none ends. -/
theorem endLoads_of_none {d : Device} (h : d.fy.loads = []) (p : LoadTarget → Bool) : endLoads d p = d := by
  unfold endLoads
  rw [h]
  rfl

/-- The suite that SUITE_SET names, and its new mask. -/
def suiteNamed (p : BitVec 15872) : Ch := Ch.ofNum (par p 0 2)
def maskNamed (p : BitVec 15872) : BitVec 4 := BitVec.ofNat 4 (par p 2 4)

/-- What SUITE_SET asks (Table 13.2). -/
structure SuiteSetLegal (p : BitVec 15872) (d : Device) : Prop where
  reserved : reservedClear p [(0, 2), (2, 4), (32, 16), (64, 32), (96, 32), (128, 32)] = true
  count : (chansOf (maskNamed p)).length ≠ 3
  undrained : ∀ c ∈ chansOf (maskNamed p) ++ suiteChans d (suiteNamed p), (chanOf d c).flt.draining = false
  chans : ∀ c ∈ chansOf (maskNamed p), (suiteOfChan d c = none ∨ suiteOfChan d c = some (suiteNamed p)) ∧ inService (chanOf d c) = true ∧
    (chanOf d c).sec.trngOk = true ∧ accountFits (chanOf d c) commonAcctIx (par p 64 32) = true
  slice : par p 32 16 = 0 ∨ 100 ≤ par p 32 16
  quota : par p 64 32 ≤ par p 96 32
  roomless : (suiteExists d (suiteNamed p) && suiteHasRoom d (suiteNamed p)) = false

theorem SuiteSetLegal.pending {p : BitVec 15872} {d : Device} (h : SuiteSetLegal p d) (op : HostOp) (q : HostPost) :
    SuiteSetLegal p (pendingDev op q d) where
  reserved := h.reserved
  count := h.count
  undrained := by simpa using h.undrained
  chans := by simpa using h.chans
  slice := h.slice
  quota := h.quota
  roomless := by simpa using h.roomless

/-- The device once the suite that SUITE_SET names has been formed anew. -/
def suiteFormed (p : BitVec 15872) (d : Device) : Device :=
  formSuite (suiteNamed p) (maskNamed p) (par p 32 16) (par p 64 32) (par p 96 32) (par p 128 32) (clearSuite (suiteNamed p) d)

theorem runSuiteSet_of_legal {a : Accepted} {d : Device} (h : SuiteSetLegal a.params d) : runSuiteSet a d = only (suiteFormed a.params d) .ok := by
  unfold runSuiteSet
  extract_lets p s mask slice cs foreign
  have undrained : ((cs ++ suiteChans d s).any fun c => (chanOf d c).flt.draining) = false :=
    List.any_eq_false.mpr fun c hc => by rw [h.undrained c hc]; exact Bool.false_ne_true
  have usable : (cs.any fun c => foreign c || !inService (chanOf d c)) = false :=
    List.any_eq_false.mpr fun c hc => by
      obtain ⟨own, served, -⟩ := h.chans c hc
      have home : foreign c = false := by
        simp only [foreign]
        rcases own with own | own
        · rw [own]
        · rw [own]; exact bne_self_eq_false _
      rw [home, served]
      exact Bool.false_ne_true
  have random : (cs.any fun c => !(chanOf d c).sec.trngOk) = false :=
    List.any_eq_false.mpr fun c hc => by rw [(h.chans c hc).2.2.1]; exact Bool.false_ne_true
  have fits : (cs.any fun c => !accountFits (chanOf d c) commonAcctIx (par p 64 32)) = false :=
    List.any_eq_false.mpr fun c hc => by rw [(h.chans c hc).2.2.2]; exact Bool.false_ne_true
  have reserved : reservedClear p [(0, 2), (2, 4), (32, 16), (64, 32), (96, 32), (128, 32)] = true := h.reserved
  have count : (cs.length == 3) = false := beq_eq_false_iff_ne.mpr h.count
  have sliced : (decide (1 ≤ slice) && decide (slice ≤ 99)) = false := by
    rcases h.slice with none | long <;> simp [slice, p] <;> omega
  have quota : decide (par p 96 32 < par p 64 32) = false := decide_eq_false (Nat.not_lt.mpr h.quota)
  have roomless : (suiteExists d s && suiteHasRoom d s) = false := h.roomless
  simp only [undrained, usable, random, fits, reserved, count, sliced, quota, roomless, Bool.not_true, Bool.or_self, Bool.false_eq_true, ↓reduceIte]
  rfl

/-! ## The suite that is left -/

/-- Clearing a suite without loads touches its own channels alone. -/
theorem clearSuite_keeps {d : Device} (h : d.fy.loads = []) (u : Ch) :
    (clearSuite u d).fy = d.fy ∧ (clearSuite u d).suites = d.suites ∧ ∀ c, c ∉ suiteChans d u → chanOf (clearSuite u d) c = chanOf d c := by
  unfold clearSuite
  rw [endLoads_of_none h]
  refine ⟨modChans_fy .., modChans_suites .., fun c hc => ?_⟩
  rw [chanOf_modChans _ _ _ _ (suiteChans_nodup ..), if_neg hc]

/-- The lead of a mask is the lowest of its channels (R521). -/
theorem headD_chansOf_lowest (mask : BitVec 4) (h : mask ≠ 0) :
    (chansOf mask).headD .c0 ∈ chansOf mask ∧ ∀ c ∈ chansOf mask, ((chansOf mask).headD .c0).num ≤ c.num := by
  revert mask
  decide

section
variable (u : Ch) (mask : BitVec 4) (slice t1min t1max t2max : Nat) (d : Device)

/-- Forming a suite sets its own entry, and leaves the foyer alone. -/
theorem formSuite_keeps : (formSuite u mask slice t1min t1max t2max d).fy = d.fy ∧
    (suiteOf (formSuite u mask slice t1min t1max t2max d) u).mask = mask ∧
    (suiteOf (formSuite u mask slice t1min t1max t2max d) u).sliceUs = (if slice = 0 then 0x7D0 else BitVec.ofNat 16 slice) ∧
    ∀ v, v ≠ u → suiteOf (formSuite u mask slice t1min t1max t2max d) v = suiteOf d v := by
  unfold formSuite
  extract_lets cs lead key d1
  have drawn : d1.fy = d.fy ∧ d1.suites = d.suites := by
    simp only [d1, modChans_fy, modChans_suites]
    split <;> exact ⟨rfl, rfl⟩
  rw [modSuite_fy, suiteOf_modSuite_same]
  exact ⟨drawn.1, rfl, rfl, fun v other => (suiteOf_modSuite_ne _ _ other).trans (suiteOf_congr drawn.2 v)⟩

theorem leadOf_formSuite (h : mask ≠ 0) : leadOf (formSuite u mask slice t1min t1max t2max d) u = (chansOf mask).headD .c0 := by
  have some : (chansOf mask).isEmpty = false :=
    List.isEmpty_eq_false_iff.mpr (List.ne_nil_of_mem (headD_chansOf_lowest mask h).1)
  unfold formSuite leadOf
  rw [suiteOf_modSuite_same]
  simp only [some, Bool.false_eq_true, ↓reduceIte]
  cases (chansOf mask).headD .c0 <;> rfl

theorem chanOf_formSuite_of_not_mem {c : Ch} (hc : c ∉ chansOf mask) : chanOf (formSuite u mask slice t1min t1max t2max d) c = chanOf d c := by
  unfold formSuite
  extract_lets cs lead key d1
  rw [chanOf_modSuite]
  simp only [d1]
  rw [chanOf_modChans _ _ _ _ (chansOf_nodup mask), if_neg hc]
  split <;> rfl

/-- A channel of the mask has the accounts given, no copies and its array on, and of the keys the suite's where it leads. -/
theorem chanOf_formSuite_of_mem {c : Ch} (hc : c ∈ chansOf mask) :
    let x := chanOf (formSuite u mask slice t1min t1max t2max d) c
    x.commonAcct = { t1min := BitVec.ofNat 32 t1min, t1max := BitVec.ofNat 32 t1max, t2max := BitVec.ofNat 32 t2max } ∧
    x.copies = [] ∧ x.arrayOn = true ∧ x.suiteKey.isSome = decide (c = (chansOf mask).headD .c0) := by
  unfold formSuite
  dsimp only
  rw [chanOf_modSuite, chanOf_modChans _ _ _ _ (chansOf_nodup mask), if_pos hc]
  refine ⟨rfl, rfl, rfl, ?_⟩
  dsimp only
  split
  next leads => exact (decide_eq_true leads).symm
  next follows => exact (decide_eq_false follows).symm

end

/-- Settles O27: the suite cleared and formed anew, by what forming leaves of its entry, of the channels of its mask and of the others. -/
theorem suiteSetFormsSuite : Obligations.SuiteSetFormsSuite := by
  unfold Obligations.SuiteSetFormsSuite
  intro p s accepts loads a u mask cs reserved count undrained chans slice quota roomless
  have legal : SuiteSetLegal a s.dev := ⟨reserved, count, undrained, chans, slice, quota, roomless⟩
  let d := pendingDev .suiteSet p s.dev
  have unloaded : d.fy.loads = [] := by rw [fy_pendingDev]; exact loads
  obtain ⟨clearFy, clearSuites, cleared⟩ := clearSuite_keeps unloaded u
  obtain ⟨formFy, formMask, formSlice, others⟩ := formSuite_keeps u mask (par a 32 16) (par a 64 32) (par a 96 32) (par a 128 32) (clearSuite u d)
  obtain ⟨t, goes, kept, answers⟩ := post_only (i := .suiteSet p) rfl accepts (runSuiteSet_of_legal (legal.pending ..)) (formFy.trans clearFy)
  have suites (v : Ch) : suiteOf t.dev v = suiteOf (suiteFormed a d) v := suiteOf_congr kept.2.1 v
  have lead (some : mask ≠ 0) : leadOf t.dev u = cs.headD .c0 := by
    unfold leadOf
    rw [suites]
    exact leadOf_formSuite _ _ _ _ _ _ _ some
  refine ⟨t, goes, answers, by rw [suites]; exact formMask, ?_, fun some => ?_, fun v other => ?_, fun c => ⟨fun hc => ?_, fun hc old => ?_⟩⟩
  · rw [suites]
    refine (congrArg BitVec.toNat formSlice).trans ?_
    split
    · rfl
    · exact toNat_ofNat_par ..
  · rw [lead some]
    exact headD_chansOf_lowest mask some
  · rw [suites]
    exact (others v other).trans ((suiteOf_congr clearSuites v).trans (suiteOf_pendingDev ..))
  · have some : mask ≠ 0 := fun none => by
      simp only [cs, none] at hc
      exact absurd hc (by revert c; decide)
    obtain ⟨acct, copies, array, key⟩ := chanOf_formSuite_of_mem u mask (par a 32 16) (par a 64 32) (par a 96 32) (par a 128 32) (clearSuite u d) hc
    rw [kept.chan c, lead some]
    refine ⟨?_, ?_, ?_, copies, array, key⟩
    · exact (congrArg (fun k => k.t1min.toNat) acct).trans (toNat_ofNat_par ..)
    · exact (congrArg (fun k => k.t1max.toNat) acct).trans (toNat_ofNat_par ..)
    · exact (congrArg (fun k => k.t2max.toNat) acct).trans (toNat_ofNat_par ..)
  · rw [kept.chan c]
    exact (chanOf_formSuite_of_not_mem _ _ _ _ _ _ _ hc).trans ((cleared c (by simpa [d] using old)).trans (chanOf_pendingDev ..))

end Sys2Proof.Machine

end

section

namespace Sys2Proof.Machine

/-! ## ROOM_DESTROY (R529) -/

/-- What ROOM_DESTROY asks of the room that it names. -/
structure DestroyLegal (a : Accepted) (d : Device) : Prop where
  suite : suiteExists d a.suite = true
  reserved : reservedClear a.params [(0, 6)] = true
  named : mayName a (leadRoom d a.suite (par a.params 0 6)) = true
  used : roomState (leadRoom d a.suite (par a.params 0 6)) ≠ rsFree
  stopped : isStarted (leadRoom d a.suite (par a.params 0 6)) = false

theorem DestroyLegal.pending {a : Accepted} {d : Device} (h : DestroyLegal a d) (op : HostOp) (p : HostPost) : DestroyLegal a (pendingDev op p d) where
  suite := by simpa using h.suite
  reserved := h.reserved
  named := by simpa using h.named
  used := by simpa using h.used
  stopped := by simpa using h.stopped

theorem runRoomDestroy_of_legal {a : Accepted} {d : Device} (h : DestroyLegal a d) :
    runRoomDestroy a d = (destroyRoom d a.suite (par a.params 0 6),
      .done .ok [BitVec.ofNat 32 (leadRoom d a.suite (par a.params 0 6)).serve.owed.length]) := by
  unfold runRoomDestroy
  simp only [namedRoom_of_exists h.suite, h.reserved, h.named, h.used, h.stopped, Bool.not_true, Bool.or_self, Bool.false_eq_true, decide_false,
    ↓reduceIte]

theorem endCapture_of_none {d : Device} {u : Ch} {n : Nat} (h : (leadRoom d u n).ckps.capture = none) : endCapture d u n = d := by
  unfold endCapture
  rw [h]
  rfl

/-- A room without pointers has none to give up. -/
theorem dropPtrs_of_none {d : Device} {u : Ch} {n : Nat} (h : (leadRoom d u n).ptrs = []) : dropPtrs d u n = d := by
  have keeps (m : Nat) : dropPtr d u n m = d := by
    unfold dropPtr ptrOf
    rw [h]
    rfl
  unfold dropPtrs
  simp only [List.foldl_cons, List.foldl_nil, keeps]

/-- What ROOM_DESTROY does beside the room itself is done where no load is in progress and the room has no capture, no stream and no pointer. -/
theorem destroyRoom_of_idle {d : Device} {u : Ch} {n : Nat} (loads : d.fy.loads = []) (capture : (leadRoom d u n).ckps.capture = none)
    (ptrs : (leadRoom d u n).ptrs = []) (streams : roomStreams d u n = []) :
    destroyRoom d u n = modChans d (suiteChans d u) fun _ x => clearRoom n x := by
  unfold destroyRoom
  simp only [endCapture_of_none capture, endLoads_of_none loads, streams, List.foldl_nil, dropPtrs_of_none ptrs]

/-- A room that is cleared is FREE, with nothing but its counters, and its channel holds a room key less. -/
theorem clearRoom_spec (n : Nat) (x : Channel) :
    roomOf (clearRoom n x) n = goneRoom (roomOf (clearRoom n x) n) ∧ (roomOf (clearRoom n x) n).acct = (roomOf x n).acct ∧
    (clearRoom n x).sec.roomKeys = x.sec.roomKeys - 1 := by
  have pages : OnlyPages x (freeRoomPages x n (tkeys (roomOf x n).pages)) := onlyPages_freeRoomPages ..
  have room : roomOf (clearRoom n x) n = goneRoom (roomOf (freeRoomPages x n (tkeys (roomOf x n).pages)) n) := roomOf_setRoom_same ..
  refine ⟨?_, ?_, ?_⟩
  · rw [room]
    rfl
  · rw [room]
    show (roomOf (freeRoomPages x n (tkeys (roomOf x n).pages)) n).acct = _
    rw [pages.1 n]
  · show (freeRoomPages x n (tkeys (roomOf x n).pages)).sec.roomKeys - 1 = _
    rw [pages.2]

/-- Settles O29: with nothing else to end, the room's part is cleared on each channel of its suite. -/
theorem roomDestroyFreesRoom : Obligations.RoomDestroyFreesRoom := by
  unfold Obligations.RoomDestroyFreesRoom
  intro p s accepts loads a u n r reserved suite named used stopped capture ptrs streams
  let d := pendingDev .roomDestroy p s.dev
  have unstreamed : roomStreams d u n = [] := by
    unfold roomStreams at streams ⊢
    simpa [d] using streams
  have legal : DestroyLegal a s.dev := ⟨suite, reserved, named, used, stopped⟩
  have destroyed : destroyRoom d u n = modChans d (suiteChans d u) fun _ x => clearRoom n x :=
    destroyRoom_of_idle (by rw [fy_pendingDev]; exact loads) (by simpa [d] using capture) (by simpa [d] using ptrs) unstreamed
  have runs : runOp .roomDestroy a d = (destroyRoom d u n, .done .ok [BitVec.ofNat 32 r.serve.owed.length]) := by
    refine (runRoomDestroy_of_legal (legal.pending .roomDestroy p)).trans ?_
    rw [leadRoom_pendingDev]
  obtain ⟨t, goes, kept, answers⟩ := post_answers (.roomDestroy p) .roomDestroy p s _ _ _ rfl accepts runs
    (postSlot_of_fns (by rw [destroyed, modChans_fy]))
  have chan (c : Ch) : chanOf t.dev c = if c ∈ suiteChans s.dev u then clearRoom n (chanOf s.dev c) else chanOf s.dev c := by
    rw [kept.chan c, destroyed, chanOf_modChans _ _ _ _ (suiteChans_nodup ..), suiteChans_pendingDev, chanOf_pendingDev]
  refine ⟨t, goes, answers, ?_, fun c => ⟨fun hc => ?_, fun hc => ?_⟩⟩
  · rw [kept.2.1, destroyed, modChans_suites]
    exact (pendingDev_only ..).2.1
  · obtain ⟨gone, acct, keys⟩ := clearRoom_spec n (chanOf s.dev c)
    rw [chan c, if_pos hc]
    refine ⟨?_, ?_, ?_, ?_, acct, keys⟩ <;> (rw [gone]; rfl)
  · rw [chan c, if_neg hc]

end Sys2Proof.Machine

end

section

namespace Sys2Proof.Machine

/-! ## A view of the channels that stays, with the foyer -/

/-- The foyer, the masks and leads of the suites, and the view v of every channel are as before. -/
structure Stays {α : Type} (v : Channel → α) (d d' : Device) : Prop extends Keeps v d d' where
  fy : d'.fy = d.fy

section
variable {α : Type} {v : Channel → α}

theorem Stays.refl (d : Device) : Stays v d d := ⟨.refl d, rfl⟩
theorem Stays.trans {a b c : Device} (h : Stays v a b) (g : Stays v b c) : Stays v a c := ⟨h.toKeeps.trans g.toKeeps, g.fy.trans h.fy⟩

theorem stays_modChans (d : Device) (cs : List Ch) (f : Ch → Channel → Channel) (h : ∀ c x, v (f c x) = v x) : Stays v d (modChans d cs f) :=
  ⟨keeps_modChans d cs f h, modChans_fy ..⟩
theorem stays_modLead (d : Device) (u : Ch) (f : Channel → Channel) (h : ∀ x, v (f x) = v x) : Stays v d (modLead d u f) :=
  ⟨keeps_modLead d u f h, rfl⟩
theorem stays_modSuite (d : Device) (u : Ch) (f : SchSuite → SchSuite) (h : ∀ q, (f q).mask = q.mask ∧ (f q).lead = q.lead) :
    Stays v d (modSuite d u f) := ⟨keeps_modSuite d u f h, rfl⟩
theorem stays_foldl {β : Type} (f : Device → β → Device) (h : ∀ d b, Stays v d (f d b)) (l : List β) (d : Device) : Stays v d (l.foldl f d) :=
  List.foldlRecOn l f (motive := Stays v d) (.refl d) fun e he b _ => he.trans (h e b)

variable {n : Nat} {w : Room → α}

theorem stays_modLeadRoom (d : Device) (u : Ch) (m : Nat) (f : Room → Room) (h : ∀ r, w (f r) = w r) : Stays (roomView n w) d (modLeadRoom d u m f) :=
  ⟨keeps_modLeadRoom d u m f h, rfl⟩
theorem stays_modSuiteRoom (d : Device) (u : Ch) (m : Nat) (f : Room → Room) (h : ∀ r, w (f r) = w r) : Stays (roomView n w) d (modSuiteRoom d u m f) :=
  ⟨keeps_modSuiteRoom d u m f h, modChans_fy ..⟩

/-- A change of the lead channel that leaves its rooms leaves every view of them. -/
theorem stays_modLead_rooms (d : Device) (u : Ch) (f : Channel → Channel) (h : ∀ x, (f x).rooms = x.rooms) : Stays (roomView n w) d (modLead d u f) :=
  stays_modLead d u f fun x => roomView_rooms n w (h x)

/-! ## Pointers (R441, R443, R746) -/

@[simp] theorem rooms_modCopy (x : Channel) (k : Nat) (f : WCopy → WCopy) : (modCopy x k f).rooms = x.rooms := rfl
@[simp] theorem rooms_modRefs (x : Channel) (k : Nat) (f : WCopy → WCopy) : (modRefs x k f).rooms = x.rooms := rfl
@[simp] theorem rooms_modModel (x : Channel) (m : Nat) (f : SrvWmodel → SrvWmodel) : (modModel x m f).rooms = x.rooms := rfl
@[simp] theorem rooms_retire (x : Channel) (k : Nat) : (retire x k).rooms = x.rooms := rfl

/-- A view that reads neither the pointers of a room nor what its weight windows show. -/
def NoPointers (w : Room → α) : Prop := ∀ (r : Room) a b c, w { r with ptrs := a, windows := b, wmaps := c } = w r

theorem stays_showWindow (hw : NoPointers w) (d : Device) (u : Ch) (m i : Nat) (k : Option Nat) : Stays (roomView n w) d (showWindow d u m i k) :=
  stays_modSuiteRoom d u m _ fun r => hw r _ _ _

theorem stays_bindPtr (hw : NoPointers w) (d : Device) (u : Ch) (m i k : Nat) : Stays (roomView n w) d (bindPtr d u m i k) := by
  unfold bindPtr
  extract_lets old d1
  refine Stays.trans (stays_modLead_rooms d u _ fun x => ?_) (stays_showWindow hw d1 u m i (some k))
  rw [rooms_modModel, rooms_modRefs]
  cases old
  · rfl
  · rw [rooms_retire, rooms_modRefs]

theorem stays_movePtr (hw : NoPointers w) (d : Device) (u : Ch) (m i k : Nat) : Stays (roomView n w) d (movePtr d u m i k) :=
  (stays_bindPtr hw d u m i k).trans (stays_modLead_rooms _ u _ fun _ => rfl)

theorem stays_dropPtr (hw : NoPointers w) (d : Device) (u : Ch) (m i : Nat) : Stays (roomView n w) d (dropPtr d u m i) := by
  unfold dropPtr
  split
  · exact .refl d
  · exact (stays_modLead_rooms d u _ fun _ => by rw [rooms_retire, rooms_modRefs]).trans (stays_showWindow hw _ u m i none)

theorem stays_dropPtrs (hw : NoPointers w) (d : Device) (u : Ch) (m : Nat) : Stays (roomView n w) d (dropPtrs d u m) :=
  stays_foldl _ (fun d i => stays_dropPtr hw d u m i) _ d

end

/-! ## Rings and streams of a room that has none -/

theorem roomStreams_congr {d d' : Device} (h : Keeps Channel.ctxs d d') (u : Ch) (n : Nat) : roomStreams d' u n = roomStreams d u n := by
  unfold roomStreams
  simp only [h.suiteChans, h.chans]

theorem keeps_ctxs_modLeadRoom (d : Device) (u : Ch) (n : Nat) (f : Room → Room) : Keeps Channel.ctxs d (modLeadRoom d u n f) :=
  keeps_modChan d _ (fun x => modRoomC x n f) fun _ => rfl

/-- Taking its ring's words changes of a room what its serving state keeps of the ring. -/
theorem adoptRing_view {α : Type} {w : Room → α}
    (h : ∀ (r : Room) now prod cons next, w { r with serve := { r.serve with ringNow := now, ringProd := prod, ringCons := cons, ringNext := next } } = w r)
    (r : Room) : w (adoptRing r) = w r := by
  unfold adoptRing
  split
  · rfl
  · split
    · exact h r (ringSwitched r) r.serve.ringProd r.serve.ringCons r.serve.ringNext
    · exact h r (ringWords r) 0 0 none

theorem owed_adoptRing (r : Room) : (adoptRing r).serve.owed = r.serve.owed :=
  adoptRing_view (w := fun r => r.serve.owed) (fun _ _ _ _ _ => rfl) r

theorem ringWrite_of_none {d : Device} {u : Ch} {n : Nat} (h : (leadRoom d u n).serve.owed = []) : ringWrite d u n = d := by
  unfold ringWrite
  simp only [h, List.length_nil, Nat.zero_min, decide_true, Bool.or_true, ↓reduceIte]

theorem settle_of_none {d : Device} {u : Ch} {n : Nat} (h : roomStreams d u n = []) : settle d u n = d := by
  unfold settle
  rw [h]
  rfl

/-- Of a room, what is yet to be sent to the fabric is gone. -/
def fabricFlushed (r : Room) : Room := { r with serve := { r.serve with toFabric := [] } }

theorem flushFabric_of_none {d : Device} {u : Ch} {n : Nat} (h : (leadRoom d u n).serve.toFabric = []) :
    flushFabric d u n = modLeadRoom d u n fabricFlushed := by
  unfold flushFabric
  simp only [h]
  rfl

/-- A room without streams that owes nothing delivers nothing: its ring's words alone are taken. -/
theorem deliver_of_none {d : Device} {u : Ch} {n : Nat} (streams : roomStreams d u n = []) (owed : (leadRoom d u n).serve.owed = [])
    (fabric : (leadRoom d u n).serve.toFabric = []) :
    deliver d u n = ringAdopt (ringAdopt (modLeadRoom d u n fabricFlushed) u n) u n := by
  have quiet : (leadRoom (ringAdopt (modLeadRoom d u n fabricFlushed) u n) u n).serve.owed = [] := by
    unfold ringAdopt
    rw [leadRoom_modLeadRoom, owed_adoptRing, leadRoom_modLeadRoom]
    exact owed
  have same : roomStreams (ringAdopt (ringAdopt (modLeadRoom d u n fabricFlushed) u n) u n) u n = [] :=
    (roomStreams_congr (((keeps_ctxs_modLeadRoom d u n _).trans (keeps_ctxs_modLeadRoom _ u n _)).trans (keeps_ctxs_modLeadRoom _ u n _)) u n).trans
      streams
  unfold deliver
  rw [flushFabric_of_none fabric, ringWrite_of_none quiet, settle_of_none same]

/-- The room's table and step end with its streams. -/
def serveEnded (r : Room) : Room := { r with serve := { r.serve with table := [], inStep := false, sampled := false, short := false } }

theorem endStreams_of_none {d : Device} {u : Ch} {n : Nat} (waits : d.fy.waits = []) (table : (leadRoom d u n).serve.table = [])
    (streams : roomStreams d u n = []) (owed : (leadRoom d u n).serve.owed = []) (fabric : (leadRoom d u n).serve.toFabric = []) (st : Status) :
    endStreams d u n st = ringAdopt (ringAdopt (modLeadRoom (modLeadRoom d u n serveEnded) u n fabricFlushed) u n) u n := by
  have delivered := deliver_of_none (d := modLeadRoom d u n serveEnded) (u := u) (n := n)
    ((roomStreams_congr (keeps_ctxs_modLeadRoom d u n _) u n).trans streams)
    (by rw [leadRoom_modLeadRoom]; exact owed) (by rw [leadRoom_modLeadRoom]; exact fabric)
  unfold endStreams
  simp only [table, streams, List.foldl_nil]
  refine (completeWaits_of_none fun q hq => ?_).trans delivered
  have none : (deliver (modLeadRoom d u n serveEnded) u n).fy.waits = [] := by rw [delivered]; exact waits
  change q ∈ (deliver (modLeadRoom d u n serveEnded) u n).fy.waits at hq
  rw [none] at hq
  exact absurd hq List.not_mem_nil

end Sys2Proof.Machine

end

section

namespace Sys2Proof.Machine

/-! ## Commands that wait, where none does -/

/-- Waiting commands that are looked through without a change of what waits leave the device. -/
theorem completeWaits_withWaits_of_none {d : Device} (waits : d.fy.waits = []) {l : List Waiting} (none : l = []) (p : Waiting → Option (Status × List W32)) :
    completeWaits { d with fy := { d.fy with waits := l } } p = d := by
  have same : { d with fy := { d.fy with waits := l } } = d := by rw [none, ← waits]
  rw [same]
  exact completeWaits_of_none fun q hq => by rw [waits] at hq; exact absurd hq List.not_mem_nil

theorem passSwitchWaits_of_none {d : Device} (h : d.fy.waits = []) (u : Ch) (n : Nat) : passSwitchWaits d u n = d :=
  completeWaits_withWaits_of_none h (by rw [h]; rfl) _

theorem ckpDone_of_none {d : Device} (h : d.fy.waits = []) (u : Ch) (n : Nat) (later : Bool) (st : Status) : ckpDone d u n later st = d :=
  completeWaits_withWaits_of_none h (by rw [h]; rfl) _

theorem attestMoment_of_none {d : Device} (h : d.fy.waits = []) (u : Ch) (n : Nat) : attestMoment d u n = d := by
  unfold attestMoment
  simp only [h, List.map_nil, List.filter_nil, List.foldl_nil]
  rw [← h]

/-! ## The end of a job (R528) -/

/-- The stream contexts of a channel and what room n keeps for its streams. -/
def streamView (n : Nat) (x : Channel) : Tab StreamCtx × ServeState := (x.ctxs, (roomOf x n).serve)

theorem streamView_modRoomC (x : Channel) (n : Nat) (f : Room → Room) (h : ∀ r, (f r).serve = r.serve) : streamView n (modRoomC x n f) = streamView n x := by
  unfold streamView
  rw [roomOf_modRoomC_same, h]
  rfl

theorem stays_stream_modSuiteRoom (d : Device) (u : Ch) (n : Nat) (f : Room → Room) (h : ∀ r, (f r).serve = r.serve) :
    Stays (streamView n) d (modSuiteRoom d u n f) := stays_modChans d _ _ fun _ x => streamView_modRoomC x n f h
theorem stays_stream_modLeadRoom (d : Device) (u : Ch) (n : Nat) (f : Room → Room) (h : ∀ r, (f r).serve = r.serve) :
    Stays (streamView n) d (modLeadRoom d u n f) := stays_modLead d u _ fun x => streamView_modRoomC x n f h

theorem landAll_ctxs (x : Channel) : (landAll x).ctxs = x.ctxs := by
  have step (y : Channel) (t : Target) : (landOne y t).ctxs = y.ctxs := by cases t <;> rfl
  unfold landAll landDue
  exact foldl_view Channel.ctxs (fun y (w : PendWrite) => step y w.target) _ _

theorem streamView_landAll (n : Nat) (x : Channel) : streamView n (landAll x) = streamView n x := by
  unfold streamView
  rw [landAll_ctxs, roomOf_congr (landAll_rooms x)]

/-- A room that does not run leaves the islands with its streams as they were. -/
theorem leaveIslands_streams (d : Device) (u : Ch) (n : Nat) (h : runningRoom d u ≠ some n) : Stays (streamView n) d (leaveIslands d u n) := by
  unfold leaveIslands
  extract_lets keep dead d1
  rw [if_neg h]
  refine stays_modChans d _ _ fun _ x => ?_
  extract_lets pumps z before isl y mine gone slots area
  have same : streamView n y = streamView n z := streamView_modRoomC z n _ fun _ => rfl
  refine Eq.trans (b := streamView n y) rfl (same.trans ?_)
  simp only [z]
  split
  · exact streamView_landAll n x
  · rfl

/-- A room's state and whether it is to start anew: no change of its scheduling, streams or pointers reaches them. -/
def jobView (r : Room) : BitVec 3 × Bool := (r.cfg.state, r.fresh)

theorem noPointers_jobView : NoPointers jobView := fun _ _ _ _ => rfl

theorem jobView_adoptRing (r : Room) : jobView (adoptRing r) = jobView r := adoptRing_view (fun _ _ _ _ _ => rfl) r

theorem rooms_dropJob (x : Channel) (n : Nat) : (dropJob x n).rooms = x.rooms := by
  refine foldl_view Channel.rooms (fun y k => ?_) copyIxs x
  split
  · rw [rooms_modRefs]
  · rfl

theorem stays_moveOwed {d : Device} (waits : d.fy.waits = []) (u : Ch) (n : Nat) : Stays (roomView n jobView) d (moveOwed d u n) := by
  unfold moveOwed
  extract_lets d1
  have moved : Stays (roomView n jobView) d d1 := stays_foldl _ (fun e q => by
    split
    · split
      · exact .refl e
      · exact stays_movePtr noPointers_jobView ..
    · exact .refl e) _ d
  rw [passSwitchWaits_of_none (d := modLeadRoom d1 u n _) (moved.fy ▸ waits)]
  exact moved.trans (stays_modLeadRoom _ u n _ fun _ => rfl)

theorem stays_showDrained (d : Device) {α : Type} (n : Nat) (w : Room → α) : Stays (roomView n w) d (showDrained d) :=
  stays_modChans d _ _ fun c x => by
    split
    · exact roomView_rooms n w rfl
    · rfl

theorem takeLater_jobView (r : Room) : jobView (takeLater r) = jobView r :=
  foldl_view jobView (fun y _ => stepWord_view jobView (fun _ _ _ _ => rfl) _ _ _ y) r.later r

theorem stays_ringAdopt {α : Type} {n : Nat} {w : Room → α} (h : ∀ r, w (adoptRing r) = w r) (d : Device) (u : Ch) (m : Nat) :
    Stays (roomView n w) d (ringAdopt d u m) := stays_modLeadRoom d u m adoptRing h

/-- What a STARTED room has left to end when its job stops: no stream, no entry of a step, no record owed; and no command waits. -/
structure NothingLeft (d : Device) (u : Ch) (n : Nat) : Prop where
  waits : d.fy.waits = []
  streams : roomStreams d u n = []
  table : (leadRoom d u n).serve.table = []
  owed : (leadRoom d u n).serve.owed = []
  fabric : (leadRoom d u n).serve.toFabric = []

theorem NothingLeft.of_stays {d e : Device} {u : Ch} {n : Nat} (h : NothingLeft d u n) (same : Stays (streamView n) d e) : NothingLeft e u n := by
  have serve : (leadRoom e u n).serve = (leadRoom d u n).serve := by
    unfold leadRoom
    rw [same.leadOf]
    exact congrArg Prod.snd (same.chans _)
  have ctxs : Keeps Channel.ctxs d e := ⟨same.suites, fun c => congrArg Prod.fst (same.chans c)⟩
  exact ⟨same.fy ▸ h.waits, (roomStreams_congr ctxs u n).trans h.streams, serve ▸ h.table, serve ▸ h.owed, serve ▸ h.fabric⟩

theorem stays_endStreams {d : Device} {u : Ch} {n : Nat} (h : NothingLeft d u n) (st : Status) : Stays (roomView n jobView) d (endStreams d u n st) := by
  rw [endStreams_of_none h.waits h.table h.streams h.owed h.fabric]
  have ended : Stays (roomView n jobView) d (modLeadRoom d u n serveEnded) := stays_modLeadRoom d u n serveEnded fun _ => rfl
  have flushed := ended.trans (stays_modLeadRoom (w := jobView) (modLeadRoom d u n serveEnded) u n fabricFlushed fun _ => rfl)
  exact (flushed.trans (stays_ringAdopt jobView_adoptRing ..)).trans (stays_ringAdopt jobView_adoptRing ..)

/-- The rest of a job's end, once its room has its new state, leaves that state. -/
theorem endJob_spec {d : Device} {u : Ch} {n : Nat} (h : NothingLeft d u n) (idle : runningRoom d u ≠ some n) :
    (endJob d u n rsStopped .ok).fy = d.fy ∧
    ∀ c ∈ suiteChans d u, jobView (roomOf (chanOf (endJob d u n rsStopped .ok) c) n) = (rsStopped, true) := by
  unfold endJob
  extract_lets d0 d1 d2 d3 d4 d5 d6 d7 k d8
  have waited : Stays (streamView n) d d0 := by
    simp only [d0, if_neg idle]
    split
    · exact stays_stream_modSuiteRoom _ u n _ fun _ => rfl
    · exact .refl d
  have idle0 : runningRoom d0 u ≠ some n := by
    have suites : d0.suites = d.suites := by
      simp only [d0, if_neg idle]
      split
      · exact chargeWait_suites ..
      · rfl
    unfold runningRoom at idle ⊢
    rwa [suiteOf_congr suites]
  have left0 : Stays (streamView n) d (leaveIslands d0 u n) := waited.trans (leaveIslands_streams d0 u n idle0)
  have left : Stays (streamView n) d d1 := left0.trans (stays_stream_modSuiteRoom _ u n _ fun _ => rfl)
  have stopped2 : Stays (streamView n) d d2 := left.trans (stays_stream_modSuiteRoom d1 u n _ fun r => takeLater_serve _)
  have stopped3 : Stays (streamView n) d d3 := stopped2.trans (stays_stream_modLeadRoom d2 u n _ fun _ => rfl)
  have ended3 : NothingLeft d3 u n := h.of_stays stopped3
  have stops (c : Ch) (hc : c ∈ suiteChans d u) : jobView (roomOf (chanOf d2 c) n) = (rsStopped, true) := by
    have hc1 : c ∈ suiteChans d1 u := by rw [left.suiteChans]; exact hc
    have hc0 : c ∈ suiteChans (leaveIslands d0 u n) u := by rw [left0.suiteChans]; exact hc
    have fresh : (roomOf (chanOf d1 c) n).fresh = true := by
      simp only [d1]
      unfold dropLive
      rw [roomOf_modSuiteRoom, if_pos hc0]
    simp only [d2]
    rw [roomOf_modSuiteRoom, if_pos hc1, takeLater_jobView]
    exact Prod.ext rfl fresh
  have after3 : Stays (roomView n jobView) d2 d3 := stays_modLeadRoom d2 u n _ fun _ => rfl
  have after4 : Stays (roomView n jobView) d3 d4 := by
    simp only [d4]
    split
    · exact stays_endStreams ended3 _
    · exact .refl d3
  have after5 : Stays (roomView n jobView) d4 d5 := stays_modLead_rooms d4 u _ fun x => rooms_dropJob x n
  have waits5 : d5.fy.waits = [] := by rw [after5.fy, after4.fy]; exact ended3.waits
  have after6 : Stays (roomView n jobView) d5 d6 := by
    have unbound : Stays (roomView n jobView) d5 (modLeadRoom d5 u n fun r => { r with jobWgen := none }) := stays_modLeadRoom d5 u n _ fun _ => rfl
    exact unbound.trans (stays_moveOwed (by rw [unbound.fy]; exact waits5) u n)
  have waits6 : d6.fy.waits = [] := by rw [after6.fy]; exact waits5
  have same7 : d7 = d6 := completeWaits_of_none fun q hq => by rw [waits6] at hq; exact absurd hq List.not_mem_nil
  have after8 : Stays (roomView n jobView) d6 d8 := by
    simp only [d8, same7]
    exact stays_modLeadRoom d6 u n _ fun _ => rfl
  have waits8 : d8.fy.waits = [] := by rw [after8.fy]; exact waits6
  have shown : Stays (roomView n jobView) d8 (showDrained d8) := stays_showDrained d8 n jobView
  rw [ckpDone_of_none waits8, ite_self, attestMoment_of_none (by rw [shown.fy]; exact waits8)]
  have last : Stays (roomView n jobView) d2 (showDrained d8) :=
    (((after3.trans after4).trans (after5.trans after6)).trans after8).trans shown
  exact ⟨last.fy.trans stopped2.fy, fun c hc => (last.chans c).trans (stops c hc)⟩

/-! ## STOP_JOB (R528) -/

/-- What STOP_JOB asks beside the room's state. -/
structure StopLegal (a : Accepted) (d : Device) : Prop where
  suite : suiteExists d a.suite = true
  reserved : reservedClear a.params [(0, 6)] = true
  named : mayName a (leadRoom d a.suite (par a.params 0 6)) = true

theorem StopLegal.pending {a : Accepted} {d : Device} (h : StopLegal a d) (op : HostOp) (p : HostPost) : StopLegal a (pendingDev op p d) where
  suite := by simpa using h.suite
  reserved := h.reserved
  named := by simpa using h.named

section
variable {a : Accepted} {d : Device} (h : StopLegal a d)
include h

theorem runStopJob_of_stopped (stopped : roomState (leadRoom d a.suite (par a.params 0 6)) = rsStopped) : runStopJob a d = only d .ok := by
  unfold runStopJob
  simp only [namedRoom_of_exists h.suite, h.reserved, h.named, stopped, Bool.not_true, Bool.or_self, Bool.false_eq_true, ↓reduceIte]

theorem runStopJob_of_started (started : isStarted (leadRoom d a.suite (par a.params 0 6)) = true) :
    runStopJob a d = if runningRoom d a.suite = some (par a.params 0 6)
      then (modLeadRoom d a.suite (par a.params 0 6) fun r => { r with stopping := true }, .wait (.stop a.suite (par a.params 0 6)))
      else only (stopRoom (endCapture d a.suite (par a.params 0 6)) a.suite (par a.params 0 6)) .ok := by
  have running : roomState (leadRoom d a.suite (par a.params 0 6)) ≠ rsStopped := by
    have state : roomState (leadRoom d a.suite (par a.params 0 6)) = rsStarted := beq_iff_eq.mp started
    rw [state]
    decide
  unfold runStopJob
  simp only [namedRoom_of_exists h.suite, h.reserved, h.named, running, started, Bool.not_true, Bool.or_self, Bool.false_eq_true, ↓reduceIte]

end

theorem leadRoom_congr {d d' : Device} (h : Keeps id d d') (u : Ch) (n : Nat) : leadRoom d' u n = leadRoom d u n := by
  unfold leadRoom
  rw [h.leadOf]
  exact congrArg (roomOf · n) (h.chans _)

@[simp] theorem runningRoom_pendingDev (op : HostOp) (p : HostPost) (d : Device) (u : Ch) : runningRoom (pendingDev op p d) u = runningRoom d u := by
  unfold runningRoom
  rw [suiteOf_pendingDev]
@[simp] theorem roomStreams_pendingDev (op : HostOp) (p : HostPost) (d : Device) (u : Ch) (n : Nat) :
    roomStreams (pendingDev op p d) u n = roomStreams d u n := by
  unfold roomStreams
  simp only [suiteChans_pendingDev, chanOf_pendingDev]

section
variable {p : HostPost} {s : State} (accepts : Accepts .stopJob p s) (legal : StopLegal (commandOf .stopJob p s.dev) s.dev)
include accepts legal

theorem stopJob_of_stopped :
    let a := commandOf .stopJob p s.dev
    roomState (leadRoom s.dev a.suite (par a.params 0 6)) = rsStopped →
    ∃ t, exec (.stopJob p) s = .next t ∧ Answers .stopJob p s t .ok [] ∧ t.dev.chans = s.dev.chans := by
  intro a stopped
  exact post_unchanged rfl accepts (runStopJob_of_stopped (legal.pending ..) (by simpa using stopped))

theorem stopJob_of_running :
    let a := commandOf .stopJob p s.dev
    let u := a.suite
    let n := par a.params 0 6
    let r := leadRoom s.dev u n
    isStarted r = true → runningRoom s.dev u = some n → ∃ t, exec (.stopJob p) s = .next t ∧ Waits .stopJob p s t (.stop u n) ∧
      leadRoom t.dev u n = { r with stopping := true } ∧ ∀ c, c ≠ leadOf s.dev u → chanOf t.dev c = chanOf s.dev c := by
  intro a u n r started running
  let d := pendingDev .stopJob p s.dev
  let e := modLeadRoom d u n fun r => { r with stopping := true }
  have runs : runOp .stopJob a d = (e, .wait (.stop u n)) :=
    (runStopJob_of_started (legal.pending .stopJob p) (by simpa using started)).trans (if_pos (by simpa using running))
  obtain ⟨t, goes, dev, waits⟩ := post_waits (.stopJob p) .stopJob p s _ _ rfl accepts runs (postSlot_of_fns rfl)
  have same : Keeps id e t.dev := .of_chans (by rw [dev]) (by rw [dev])
  refine ⟨t, goes, waits, ?_, fun c other => ?_⟩
  · have room : leadRoom e u n = { leadRoom d u n with stopping := true } := leadRoom_modLeadRoom d u n _
    rw [leadRoom_pendingDev] at room
    exact (leadRoom_congr same u n).trans room
  · refine (same.chans c).trans ((chanOf_modChan_ne _ _ ?_).trans (chanOf_pendingDev ..))
    rw [leadOf_pendingDev]
    exact other

theorem stopJob_of_switched_out :
    let a := commandOf .stopJob p s.dev
    let u := a.suite
    let n := par a.params 0 6
    let r := leadRoom s.dev u n
    isStarted r = true → runningRoom s.dev u ≠ some n → r.ckps.capture = none → NothingLeft s.dev u n →
    ∃ t, exec (.stopJob p) s = .next t ∧ Answers .stopJob p s t .ok [] ∧
      ∀ c ∈ suiteChans s.dev u, roomState (roomOf (chanOf t.dev c) n) = rsStopped ∧ (roomOf (chanOf t.dev c) n).fresh = true := by
  intro a u n r started idle capture left
  let d := pendingDev .stopJob p s.dev
  have begun : isStarted (leadRoom d u n) = true := by rw [leadRoom_pendingDev]; exact started
  have left' : NothingLeft d u n := by
    obtain ⟨waits, streams, table, owed, fabric⟩ := left
    exact ⟨by rw [fy_pendingDev]; exact waits, by simpa [d] using streams, by simpa [d] using table, by simpa [d] using owed, by simpa [d] using fabric⟩
  obtain ⟨fy, stops⟩ := endJob_spec left' (by simpa [d] using idle)
  have runs : runOp .stopJob a d = only (endJob d u n rsStopped .ok) .ok := by
    refine (runStopJob_of_started (legal.pending .stopJob p) begun).trans ((if_neg (by simpa using idle)).trans ?_)
    rw [endCapture_of_none (by rw [leadRoom_pendingDev]; exact capture)]
    unfold stopRoom
    rw [if_pos begun]
  obtain ⟨t, goes, kept, answers⟩ := post_only (i := .stopJob p) rfl accepts runs fy
  refine ⟨t, goes, answers, fun c hc => ?_⟩
  have view : jobView (roomOf (chanOf t.dev c) n) = (rsStopped, true) := by
    rw [kept.chan c]
    exact stops c (by rw [suiteChans_pendingDev]; exact hc)
  exact ⟨congrArg Prod.fst view, congrArg Prod.snd view⟩

end

end Sys2Proof.Machine

end

section

namespace Sys2Proof.Machine

/-! ## What fails on no channel of a suite -/

section
variable {g : Ch → Channel → Option Channel}

/-- What each channel does for itself fails on none of them exactly where each can do it. -/
theorem isSome_foldlM_setChan {l : List Ch} (nodup : l.Nodup) (d : Device) :
    (l.foldlM (fun d c => (g c (chanOf d c)).map fun y => setChan d c y) d).isSome = l.all fun c => (g c (chanOf d c)).isSome := by
  induction l generalizing d with
  | nil => rfl
  | cons c l ih =>
    obtain ⟨fresh, rest⟩ := List.nodup_cons.mp nodup
    rw [List.foldlM_cons, List.all_cons]
    cases done : g c (chanOf d c) with
    | none => rfl
    | some y =>
      refine (ih rest (setChan d c y)).trans ?_
      rw [Option.isSome_some, Bool.true_and]
      have others (k : Ch) (hk : k ∈ l) : (g k (chanOf (setChan d c y) k)).isSome = (g k (chanOf d k)).isSome := by
        rw [chanOf_setChan_ne]
        rintro rfl
        exact fresh hk
      rw [Bool.eq_iff_iff, List.all_eq_true, List.all_eq_true]
      exact forall₂_congr fun k hk => by rw [others k hk]

theorem onlyStores_foldlM_setChan (h : ∀ c x y, g c x = some y → OnlyStore x y) {l : List Ch} {d e : Device}
    (done : l.foldlM (fun d c => (g c (chanOf d c)).map fun y => setChan d c y) d = some e) : OnlyStores d e := by
  refine foldlM_keeps (P := OnlyStores d) (fun b c b' hb hc => ?_) (.refl d) done
  rw [Option.map_eq_some_iff] at hc
  obtain ⟨y, hy, rfl⟩ := hc
  exact hb.trans (onlyStores_setChan b c y (h c _ y hy))

end

theorem stays_onlyStores {α : Type} {n : Nat} {w : Room → α} {d e : Device} (h : OnlyStores d e) (hw : ∀ r q, SameButStore r q → w q = w r) :
    Stays (roomView n w) d e := ⟨keeps_onlyStores h hw, h.2.1⟩

/-! ## The tensors of a job that starts (R403) -/

theorem onlyStore_zeroRun (n : Nat) (x : Channel) (run : Nat × Nat) : OnlyStore x (zeroRun n x run) := by
  unfold zeroRun
  refine onlyStore_foldl _ (fun y p => ?_) _ x
  extract_lets r z
  have marked : OnlyStore y z := (onlyPages_cancelEvict y r).store.trans (onlyPages_modPte (cancelEvict y r) r _).store
  cases r with
  | room m q =>
    refine marked.trans (OnlyStore.trans ?_ (onlyStore_refreshFp _ _))
    exact onlyStore_modRoomC z n _ fun _ => rfl
  | common i => exact .refl y

theorem onlyStore_emaCopy {n : Nat} {e : BitVec 512} {x y : Channel} (h : emaCopy n e x = some y) : OnlyStore x y := by
  unfold emaCopy at h
  split at h
  · cases h
    exact .refl x
  · refine foldlM_keeps (P := OnlyStore x) (fun b p b' hb hp => ?_) (.refl x) h
    rw [Option.map_eq_some_iff] at hp
    obtain ⟨z, hz, rfl⟩ := hp
    exact hb.trans ((onlyStore_allocRoomPage 0 n b z p hz).trans (onlyStore_writeRoom z n _ _))

theorem onlyStore_freshTensors {n base : Nat} {ts : List (BitVec 512)} {x y : Channel} (h : freshTensors n base ts x = some y) : OnlyStore x y := by
  refine foldlM_keeps (P := OnlyStore x) (fun b e b' hb he => ?_) (onlyStore_foldl _ (onlyStore_zeroRun n) _ x) h
  exact hb.trans ((onlyStore_foldl _ (onlyStore_zeroRun n) _ b).trans (onlyStore_emaCopy he))

theorem onlyStores_startTensors {d e : Device} {u : Ch} {n : Nat} (h : startTensors d u n = some e) : OnlyStores d e := by
  unfold startTensors at h
  dsimp only at h
  split at h
  · cases h
    exact .refl d
  · split at h
    · cases h
      exact .refl d
    · exact onlyStores_foldlM_setChan (fun _ _ _ done => onlyStore_freshTensors done) h

theorem isSome_startTensors_pendingDev (op : HostOp) (p : HostPost) (d : Device) (u : Ch) (n : Nat) :
    (startTensors (pendingDev op p d) u n).isSome = (startTensors d u n).isSome := by
  unfold startTensors
  simp only [leadRoom_pendingDev, suiteChans_pendingDev]
  split
  · rfl
  next q _ =>
    split
    · rfl
    · rw [isSome_foldlM_setChan (suiteChans_nodup d u), isSome_foldlM_setChan (suiteChans_nodup d u)]
      simp only [chanOf_pendingDev]

/-! ## START_JOB (R527, R534) -/

/-- What START_JOB sets of a room, and its program: state, program, context, freshness and shares. -/
def startView (r : Room) : BitVec 3 × Option Program × Ctx × Bool × BitVec 16 := (r.cfg.state, r.prog, r.ctx, r.fresh, r.sch.shares)

/-- A room's view once its job has started with the shares that START_JOB gave, or its own for 0. -/
def startedView (shares : Nat) (r : Room) : BitVec 3 × Option Program × Ctx × Bool × BitVec 16 :=
  (rsStarted, r.prog, {}, true, if shares = 0 then r.sch.shares else BitVec.ofNat 16 shares)

theorem startView_startChannel (n shares : Nat) (store : BitVec 4) (node : BitVec 18) (x : Channel) :
    roomView n startView (startChannel n shares store node x) = startedView shares (roomOf x n) := by
  unfold startChannel
  extract_lets r0 info cfg sch trn upd fab serve ckps r y z
  have started : roomView n startView y = startView r := by
    unfold roomView
    rw [roomOf_setRoom_same]
  have collected : roomView n startView z = startView r := by
    simp only [z]
    split
    · exact (roomView_rooms n startView rfl).trans started
    · exact started
  refine Eq.trans ?_ collected
  split
  · exact putRoomWs_view _ n _ _ z (fun _ _ _ => rfl) fun _ => roomView_modRoomC z n n _ _ fun _ => rfl
  · rfl

theorem stays_start_chargeRun (d : Device) (u : Ch) (n m : Nat) : Stays (roomView n startView) d (chargeRun d u m) := by
  unfold chargeRun modAcctAll
  extract_lets now t d1
  have charged : Stays (roomView n startView) d d1 := stays_modLeadRoom d u m _ fun _ => rfl
  exact charged.trans (stays_modSuiteRoom d1 u m _ fun _ => rfl)

theorem stays_start_makeEligible (d : Device) (u : Ch) (n m : Nat) : Stays (roomView n startView) d (makeEligible d u m) := by
  unfold makeEligible
  extract_lets d0 others vmin
  have charged : Stays (roomView n startView) d d0 := by
    simp only [d0]
    split
    · exact stays_start_chargeRun ..
    · exact .refl d
  exact charged.trans (stays_modLeadRoom d0 u m _ fun _ => rfl)

theorem sstate_makeEligible (d : Device) (u : Ch) (n : Nat) : (leadRoom (makeEligible d u n) u n).sch.sstate = ssEligible := by
  unfold makeEligible
  rw [leadRoom_modLeadRoom]

theorem stays_start_bindJob (d : Device) (u : Ch) (n m : Nat) : Stays (roomView n startView) d (bindJob d u m) := by
  unfold bindJob
  extract_lets r d1 w
  split
  · exact .refl d
  · have bound : Stays (roomView n startView) d d1 := stays_foldl _ (fun e k => by
      split
      · exact stays_modLead_rooms e u _ fun x => rooms_modRefs x _ _
      · exact .refl e) _ d
    exact bound.trans (stays_modLeadRoom d1 u m _ fun _ => rfl)

/-- The pages that a shard of the room's program needs at most. -/
def shardPages (r : Room) : Nat := match r.prog with | some q => ((shardUnits q.info).map List.length).foldl max 0 | none => 0

@[simp] theorem tooLong_pendingDev (op : HostOp) (p : HostPost) (d : Device) (u : Ch) (n store : Nat) (node : BitVec 18) :
    tooLong (pendingDev op p d) u n store node = tooLong d u n store node := by
  unfold tooLong
  simp only [leadRoom_pendingDev, chanOf_pendingDev]

/-- What START_JOB asks beside the pages of the averages. -/
structure StartLegal (a : Accepted) (n : Nat) (r : Room) (d : Device) : Prop where
  room : leadRoom d a.suite n = r
  undrained : suiteDraining d a.suite = false
  suite : suiteExists d a.suite = true
  reserved : reservedClear a.params ([(0, 6), (16, 16)] ++ (if r.cfg.kind == 1 then [(32, 4), (36, 18)] else [])) = true
  named : mayName a r = true
  ready : roomState r = rsLoaded ∨ roomState r = rsStopped
  bound : r.cfg.kind = 3 → ∀ m ∈ modelsUsed r, (ptrOf r m).isSome = true
  short : (r.cfg.kind == 1) = true → tooLong d a.suite n (par a.params 32 4) (BitVec.ofNat 18 (par a.params 36 18)) = false
  trained : trains r = true → 512 * r.trn.stwSeg.toNat + 512 * r.trn.stwKeep.toNat ≤ r.trn.stwPages.toNat * pageBytes ∧
    ∀ c ∈ suiteChans d a.suite, shardPages r ≤ (roomOf (chanOf d c) n).tier.t1max.toNat

theorem StartLegal.pending {a : Accepted} {n : Nat} {r : Room} {d : Device} (h : StartLegal a n r d) (op : HostOp) (p : HostPost) :
    StartLegal a n r (pendingDev op p d) where
  room := by simpa using h.room
  undrained := by simpa using h.undrained
  suite := by simpa using h.suite
  reserved := h.reserved
  named := h.named
  ready := h.ready
  bound := h.bound
  short := by simpa using h.short
  trained := by simpa using h.trained

/-- The device once the job of a room with its tensors at hand has started. -/
def startedDev (a : Accepted) (n : Nat) (r : Room) (d1 : Device) : Device :=
  let gen := r.cfg.kind == 1
  let d2 := modChans d1 (suiteChans d1 a.suite) fun _ x =>
    startChannel n (par a.params 16 16) (if gen then BitVec.ofNat 4 (par a.params 32 4) else 0) (if gen then BitVec.ofNat 18 (par a.params 36 18) else 0) x
  let d3 := match r.prog with
    | some q => if r.cfg.kind = 2 then modLead d2 a.suite (installStores n q.info.stores) else d2
    | none => d2
  makeEligible (bindJob d3 a.suite n) a.suite n

theorem runStartJob_of_legal {a : Accepted} {r : Room} {d d1 : Device} (h : StartLegal a (par a.params 0 6) r d)
    (tensors : startTensors d a.suite (par a.params 0 6) = some d1) : runStartJob a d = only (startedDev a (par a.params 0 6) r d1) .ok := by
  have ready : (roomState r == rsLoaded || roomState r == rsStopped) = true := by
    rcases h.ready with ready | ready <;> rw [ready] <;> rfl
  have bound : (r.cfg.kind == 3 && (modelsUsed r).any fun m => (ptrOf r m).isNone) = false := by
    rw [Bool.and_eq_false_imp]
    intro kind
    refine List.any_eq_false.mpr fun m hm none => ?_
    have some := h.bound (beq_iff_eq.mp kind) m hm
    rw [Option.isNone_iff_eq_none] at none
    rw [none] at some
    exact Bool.false_ne_true some
  have short : (r.cfg.kind == 1 && tooLong d a.suite (par a.params 0 6) (BitVec.ofNat 4 (par a.params 32 4)).toNat
      (BitVec.ofNat 18 (par a.params 36 18))) = false := by
    rw [Bool.and_eq_false_imp, toNat_ofNat_par]
    exact h.short
  have stairwell : (trains r && decide (r.trn.stwPages.toNat * pageBytes < 512 * r.trn.stwSeg.toNat + 512 * r.trn.stwKeep.toNat)) = false := by
    rw [Bool.and_eq_false_imp]
    exact fun trains => decide_eq_false (Nat.not_lt.mpr (h.trained trains).1)
  have shards : (trains r && (suiteChans d a.suite).any fun c => decide ((roomOf (chanOf d c) (par a.params 0 6)).tier.t1max.toNat < shardPages r)) = false := by
    rw [Bool.and_eq_false_imp]
    intro trains
    exact List.any_eq_false.mpr fun c hc few => absurd (of_decide_eq_true few) (Nat.not_lt.mpr ((h.trained trains).2 c hc))
  unfold runStartJob
  simp only [namedRoom_of_exists h.suite, h.room, h.undrained, h.reserved, h.named, ready, bound, short, stairwell, tensors,
    Bool.not_true, Bool.or_self, Bool.false_eq_true, ↓reduceIte]
  exact if_neg (ne_true_of_eq_false shards)

theorem startedDev_spec (a : Accepted) (n : Nat) (r : Room) {d d1 : Device} (tensors : OnlyStores d d1) :
    (startedDev a n r d1).fy = d.fy ∧ leadOf (startedDev a n r d1) a.suite = leadOf d a.suite ∧
    (leadRoom (startedDev a n r d1) a.suite n).sch.sstate = ssEligible ∧
    ∀ c ∈ suiteChans d a.suite, roomView n startView (chanOf (startedDev a n r d1) c) = startedView (par a.params 16 16) (roomOf (chanOf d c) n) := by
  unfold startedDev
  extract_lets gen d2 d3
  have same : Stays (roomView n (startedView (par a.params 16 16))) d d1 := stays_onlyStores tensors fun r q h => by
    unfold SameButStore at h
    rw [h]
    rfl
  have chans : suiteChans d1 a.suite = suiteChans d a.suite := same.suiteChans a.suite
  have started (c : Ch) (hc : c ∈ suiteChans d a.suite) :
      roomView n startView (chanOf d2 c) = startedView (par a.params 16 16) (roomOf (chanOf d c) n) := by
    simp only [d2]
    rw [chanOf_modChans _ _ _ _ (suiteChans_nodup ..), if_pos (by rw [chans]; exact hc), startView_startChannel]
    exact same.chans c
  have stored : Stays (roomView n startView) d2 d3 := by
    simp only [d3]
    split
    · split
      · exact stays_modLead_rooms d2 _ _ fun _ => rfl
      · exact .refl d2
    · exact .refl d2
  have bound : Stays (roomView n startView) d3 (bindJob d3 a.suite n) := stays_start_bindJob ..
  have last : Stays (roomView n startView) d2 (makeEligible (bindJob d3 a.suite n) a.suite n) :=
    (stored.trans bound).trans (stays_start_makeEligible ..)
  have fy2 : d2.fy = d1.fy := modChans_fy ..
  have lead2 : leadOf d2 a.suite = leadOf d1 a.suite := (keeps_modChans (v := fun _ => ()) d1 _ _ fun _ _ => rfl).leadOf _
  exact ⟨last.fy.trans (fy2.trans same.fy), (last.leadOf _).trans (lead2.trans (same.leadOf _)), sstate_makeEligible ..,
    fun c hc => (last.chans c).trans (started c hc)⟩

theorem startJob_starts {p : HostPost} {s : State} (accepts : Accepts .startJob p s) :
    let a := commandOf .startJob p s.dev
    let u := a.suite
    let n := par a.params 0 6
    StartLegal a n (leadRoom s.dev u n) s.dev → (startTensors s.dev u n).isSome = true →
    ∃ t, exec (.startJob p) s = .next t ∧ Answers .startJob p s t .ok [] ∧ (leadRoom t.dev u n).sch.sstate = ssEligible ∧
      ∀ c ∈ suiteChans s.dev u, startView (roomOf (chanOf t.dev c) n) = startedView (par a.params 16 16) (roomOf (chanOf s.dev c) n) := by
  intro a u n legal tensors
  let d := pendingDev .startJob p s.dev
  rw [← isSome_startTensors_pendingDev .startJob p] at tensors
  obtain ⟨d1, held⟩ := Option.isSome_iff_exists.mp tensors
  obtain ⟨fy, lead, eligible, starts⟩ := startedDev_spec a n (leadRoom s.dev u n) (onlyStores_startTensors held)
  obtain ⟨t, goes, kept, answers⟩ := post_only (i := .startJob p) rfl accepts (runStartJob_of_legal (legal.pending .startJob p) held) fy
  have same : Keeps id (startedDev a n (leadRoom s.dev u n) d1) t.dev := .of_chans kept.2.1 kept.1
  refine ⟨t, goes, answers, ?_, fun c hc => ?_⟩
  · rw [leadRoom_congr same]
    exact eligible
  · rw [kept.chan c]
    refine (starts c (by rw [suiteChans_pendingDev]; exact hc)).trans ?_
    rw [chanOf_pendingDev]

end Sys2Proof.Machine

end

section

namespace Sys2Proof.Machine

/-! ## Boundaries where no room is idle (R748) -/

/-- Where no room of the suite is idle, a copy that becomes CURRENT brings no boundary. -/
theorem spread_of_busy {d : Device} {u : Ch} (h : ∀ k, idleServing d u k = false) (n fuel : Nat) (d0 : Device) : spread u n fuel d0 d = d := by
  have keeps (k : Nat) : idleOnce d u k = d := by rw [idleOnce_eq, h, if_neg Bool.false_ne_true]
  cases fuel with
  | zero => rfl
  | succ fuel =>
    unfold spread
    extract_lets models
    split
    · rfl
    · have same : ((roomIndexes.filter (· != n)).foldl
          (fun d k => if models.any (usesModel (leadRoom d u k)) then idleOnce d u k else d) d) = d :=
        List.foldlRecOn _ _ (motive := (· = d)) rfl fun e he k _ => by rw [he, keeps, ite_self]
      rw [same, spread_self]

/-- A STARTED serving room with no step in progress. -/
def idleView (r : Room) : Bool := isStarted r && servesStreams r && !r.serve.inStep

theorem idleServing_eq (d : Device) (u : Ch) (n : Nat) : idleServing d u n = (suiteExists d u && idleView (leadRoom d u n)) := by
  unfold idleServing idleView
  simp only [Bool.and_assoc]

/-! ## A program's pages and bytes (R531, R749) -/

theorem onlyStore_loadPages {i : ProgMeta} {img : ProgChan} {n : Nat} {x y : Channel} (h : loadPages i img n x = some y) : OnlyStore x y := by
  unfold loadPages at h
  dsimp only at h
  rw [Option.bind_eq_some_iff] at h
  obtain ⟨z, saved, contents⟩ := h
  exact ((onlyPages_freeRoomPages x n _).store.trans (onlyStore_allocRoomPages _ z n 1 _ saved)).trans (onlyStore_allocRoomPages z y n 0 _ contents)

theorem onlyStore_loadBytes (i : ProgMeta) (img : ProgChan) (n : Nat) (x : Channel) : OnlyStore x (loadBytes i img n x) := by
  unfold loadBytes
  extract_lets y
  have written : OnlyStore x y :=
    onlyStore_foldl (fun z (cell : Nat × Byte) => writeRoom z n cell.1 [cell.2]) (fun z cell => onlyStore_writeRoom z n cell.1 [cell.2]) img.contents x
  split
  · exact written
  · exact written.trans (onlyStore_writeRoom y n _ _)

/-! ## The room that holds a program (R527, R674) -/

/-- Binding a program's pointers and taking its ring's words leave every view of a room that reads neither. -/
theorem stays_boundModels {α : Type} {k : Nat} {w : Room → α} (hw : NoPointers w) (hr : ∀ r, w (adoptRing r) = w r) (d : Device) (u : Ch) (n : Nat) :
    Stays (roomView k w) d (ringAdopt (bindModels d u n) u n) := by
  refine Stays.trans ?_ (stays_ringAdopt hr (bindModels d u n) u n)
  unfold bindModels
  extract_lets d1
  have dropped : Stays (roomView k w) d d1 := stays_dropPtrs hw d u n
  split
  · exact dropped
  · refine dropped.trans (stays_foldl _ (fun e m => ?_) _ d1)
    split
    · exact stays_bindPtr hw e u n m _
    · exact stays_showWindow hw e u n m none

/-- The program that LOAD_PROGRAM leaves on a channel, and the room that holds it. -/
def programFor (a : Accepted) (sealedForm : Bool) (c : Ch) : Program :=
  let g := a.data.prog
  { digest := g.digest, signer := g.signer, sealedForm := sealedForm, info := g.info, stream := (g.chans.get c).stream, colls := (g.chans.get c).colls }
def programmed (a : Accepted) (sealedForm : Bool) (c : Ch) (r : Room) : Room :=
  let q := loadRegs a.data.prog.info (if sealedForm then setCont a.data.payload r else r)
  { q with prog := some (programFor a sealedForm c), cfg := { q.cfg with state := rsLoaded } }

/-- The device once every channel of the suite holds the program's bytes and its room the program. -/
def programmedDev (a : Accepted) (sealedForm : Bool) (u : Ch) (n : Nat) (d : Device) : Device :=
  modChans d (suiteChans d u) fun c x => modRoomC (loadBytes a.data.prog.info (a.data.prog.chans.get c) n x) n (programmed a sealedForm c)

theorem installProgram_eq (a : Accepted) (sealedForm : Bool) (u : Ch) (n : Nat) (d : Device) :
    installProgram a sealedForm u n d =
      afterPointers d (ringAdopt (bindModels (programmedDev a sealedForm u n d) u n) u n) u := rfl

theorem idleView_sameButStore {r q : Room} (h : SameButStore r q) : idleView q = idleView r := by
  unfold SameButStore at h
  rw [h]
  rfl

section
variable (a : Accepted) (sealedForm : Bool) (u : Ch) (n : Nat) (d : Device)

theorem stays_masks_programmedDev : Stays (fun _ => ()) d (programmedDev a sealedForm u n d) := stays_modChans d _ _ fun _ _ => rfl

theorem chanOf_programmedDev {c : Ch} (hc : c ∈ suiteChans d u) : ∃ r, roomOf (chanOf (programmedDev a sealedForm u n d) c) n = programmed a sealedForm c r := by
  unfold programmedDev
  rw [chanOf_modChans _ _ _ _ (suiteChans_nodup ..), if_pos hc, roomOf_modRoomC_same]
  exact ⟨_, rfl⟩

theorem stays_idle_programmedDev {k : Nat} (other : k ≠ n) : Stays (roomView k idleView) d (programmedDev a sealedForm u n d) :=
  stays_modChans d _ _ fun _ x => (roomView_ne _ idleView _ other).trans (idleView_sameButStore ((onlyStore_loadBytes _ _ n x).1 k))

/-- With every other serving room in a step, no room is idle where a program has come to a room without a job. -/
theorem not_idle_programmedDev (stopped : isStarted (leadRoom d u n) = false) (busy : ∀ k, k ≠ n → idleView (leadRoom d u k) = false) (k : Nat) :
    idleView (leadRoom (programmedDev a sealedForm u n d) u k) = false := by
  have lead : leadOf (programmedDev a sealedForm u n d) u = leadOf d u := (stays_masks_programmedDev a sealedForm u n d).leadOf u
  by_cases same : k = n
  · subst same
    unfold leadRoom
    rw [lead]
    by_cases member : leadOf d u ∈ suiteChans d u
    · obtain ⟨r, hr⟩ := chanOf_programmedDev a sealedForm u k d member
      rw [hr]
      rfl
    · unfold programmedDev
      rw [chanOf_modChans _ _ _ _ (suiteChans_nodup ..), if_neg member]
      unfold leadRoom at stopped
      unfold idleView
      rw [stopped, Bool.false_and, Bool.false_and]
  · exact ((stays_idle_programmedDev a sealedForm u n d same).toKeeps.leadRoom u).trans (busy k same)

/-- What a program's coming shows of the room: its state and its program. -/
def heldView (r : Room) : BitVec 3 × Option Program := (r.cfg.state, r.prog)

theorem installProgram_spec (stopped : isStarted (leadRoom d u n) = false) (busy : ∀ k, k ≠ n → idleView (leadRoom d u k) = false) :
    (installProgram a sealedForm u n d).fy = d.fy ∧
    ∀ c ∈ suiteChans d u, roomView n heldView (chanOf (installProgram a sealedForm u n d) c) = (rsLoaded, some (programFor a sealedForm c)) := by
  have bound {α : Type} (k : Nat) {w : Room → α} (hw : NoPointers w) (hr : ∀ r, w (adoptRing r) = w r) :=
    stays_boundModels (k := k) hw hr (programmedDev a sealedForm u n d) u n
  have idle (k : Nat) : idleServing (ringAdopt (bindModels (programmedDev a sealedForm u n d) u n) u n) u k = false := by
    have same := (bound k (w := idleView) (fun _ _ _ _ => rfl) (adoptRing_view fun _ _ _ _ _ => rfl)).toKeeps.leadRoom u
    rw [idleServing_eq, same, not_idle_programmedDev a sealedForm u n d stopped busy, Bool.and_false]
  have held := bound n (w := heldView) (fun _ _ _ _ => rfl) (adoptRing_view fun _ _ _ _ _ => rfl)
  rw [installProgram_eq]
  unfold afterPointers
  rw [spread_of_busy idle]
  refine ⟨held.fy.trans (stays_masks_programmedDev a sealedForm u n d).fy, fun c hc => (held.chans c).trans ?_⟩
  obtain ⟨r, hr⟩ := chanOf_programmedDev a sealedForm u n d hc
  unfold roomView
  rw [hr]
  rfl

end

/-! ## LOAD_PROGRAM (R527, R674) -/

@[simp] theorem imageOk_pendingDev (op : HostOp) (p : HostPost) (d : Device) (g : ProgImage) : imageOk (pendingDev op p d) g = imageOk d g := by
  have roots : (pendingDev op p d).fy.roots = d.fy.roots := by rw [fy_pendingDev]
  unfold imageOk rootOk
  rw [roots]

/-- What LOAD_PROGRAM of a plain or sealed image asks of the image, of the room n that it names and of its suite. -/
structure ProgramLegal (a : Accepted) (n : Nat) (r : Room) (d : Device) : Prop where
  room : leadRoom d a.suite n = r
  undrained : suiteDraining d a.suite = false
  suite : suiteExists d a.suite = true
  reserved : reservedClear a.params [(0, 8), (64, 4), (128, 64), (192, 64)] = true
  form : par a.params 6 2 = 0 ∨ (par a.params 6 2 = 1 ∧ opens a.data.payload 0 false r.key = true ∧ contOk r a.data.payload = true)
  read : a.data.prog.root ≠ .nothing
  used : roomState r ≠ rsFree
  stopped : isStarted r = false
  named : mayName a r = true
  fits : metaBad a.data.prog.info r = false
  region : regionAllows (chanOf d (leadOf d a.suite)) [1, 3, 4] 64 (par a.params 64 4) (par a.params 128 64) (par a.params 192 64) = true
  reached : accessFails d (chanOf d (leadOf d a.suite)) a.data (par a.params 64 4) = false
  wide : ∀ c ∈ suiteChans d a.suite, inService (chanOf d c) = true ∧ a.data.prog.info.width ≤ 32 * arrayWidth (chanOf d c)
  image : imageOk d a.data.prog = true

theorem ProgramLegal.pending {a : Accepted} {n : Nat} {r : Room} {d : Device} (h : ProgramLegal a n r d) (op : HostOp) (p : HostPost) :
    ProgramLegal a n r (pendingDev op p d) where
  room := by simpa using h.room
  undrained := by simpa using h.undrained
  suite := by simpa using h.suite
  reserved := h.reserved
  form := h.form
  read := h.read
  used := h.used
  stopped := h.stopped
  named := h.named
  fits := h.fits
  region := by simpa using h.region
  reached := by simpa using h.reached
  wide := by simpa using h.wide
  image := by simpa using h.image

/-- The pages of a program, on every channel of the suite of its room. -/
def programPages (a : Accepted) (n : Nat) (d : Device) : Option Device :=
  (suiteChans d a.suite).foldlM (fun d c => (loadPages a.data.prog.info (a.data.prog.chans.get c) n (chanOf d c)).map fun y => setChan d c y) d

theorem isSome_programPages (a : Accepted) (n : Nat) (d : Device) :
    (programPages a n d).isSome = (suiteChans d a.suite).all fun c => (loadPages a.data.prog.info (a.data.prog.chans.get c) n (chanOf d c)).isSome :=
  isSome_foldlM_setChan (suiteChans_nodup ..) d

theorem runLoadProgram_of_legal {a : Accepted} {r : Room} {d d1 : Device} (h : ProgramLegal a (par a.params 0 6) r d)
    (pages : programPages a (par a.params 0 6) d = some d1) :
    runLoadProgram a d = only (installProgram a (par a.params 6 2 == 1) a.suite (par a.params 0 6) d1) .ok := by
  have root : (a.data.prog.root != .nothing) = true := bne_iff_ne.mpr h.read
  have used : (roomState r == rsFree) = false := beq_eq_false_iff_ne.mpr h.used
  have served : ((suiteChans d a.suite).any fun c => !inService (chanOf d c)) = false :=
    List.any_eq_false.mpr fun c hc => by rw [(h.wide c hc).1]; exact Bool.false_ne_true
  have wide : tooNarrow d a.suite a.data.prog.info = false := by
    unfold tooNarrow
    refine List.any_eq_false.mpr fun c hc => ?_
    obtain ⟨inside, width⟩ := h.wide c hc
    rw [inside, decide_eq_false (Nat.not_lt.mpr width)]
    exact Bool.false_ne_true
  have known : (par a.params 6 2 == 3) = false ∧ (par a.params 6 2 == 2) = false := by
    rcases h.form with plain | ⟨closed, -⟩
    · exact ⟨by rw [plain]; rfl, by rw [plain]; rfl⟩
    · exact ⟨by rw [closed]; rfl, by rw [closed]; rfl⟩
  have readable : (par a.params 6 2 == 0 || (par a.params 6 2 == 1 && opens a.data.payload 0 false r.key)) = true := by
    rcases h.form with plain | ⟨closed, opened, -⟩
    · rw [plain]; rfl
    · rw [closed, opened]; rfl
  have continued : (par a.params 6 2 == 1 && !contOk r a.data.payload) = false := by
    rcases h.form with plain | ⟨-, -, fits⟩
    · rw [plain]; rfl
    · rw [fits, Bool.not_true, Bool.and_false]
  unfold programPages at pages
  unfold runLoadProgram
  simp only [namedRoom_of_exists h.suite, h.room, h.undrained, h.reserved, known, readable, continued, root, used, served, wide, h.stopped, h.named,
    h.fits, h.region, h.reached, h.image, pages, Bool.not_true, Bool.and_true, Bool.and_false, Bool.false_and, Bool.or_self, Bool.false_eq_true,
    ↓reduceIte]

theorem loadProgram_loads {p : HostPost} {s : State} (accepts : Accepts .loadProgram p s) :
    let a := commandOf .loadProgram p s.dev
    let u := a.suite
    let n := par a.params 0 6
    ProgramLegal a n (leadRoom s.dev u n) s.dev →
    (∀ c ∈ suiteChans s.dev u, (loadPages a.data.prog.info (a.data.prog.chans.get c) n (chanOf s.dev c)).isSome = true) →
    (∀ k, k ≠ n → idleView (leadRoom s.dev u k) = false) →
    ∃ t, exec (.loadProgram p) s = .next t ∧ Answers .loadProgram p s t .ok [] ∧
      ∀ c ∈ suiteChans s.dev u, heldView (roomOf (chanOf t.dev c) n) = (rsLoaded, some (programFor a (par a.params 6 2 == 1) c)) := by
  intro a u n legal pages busy
  let d := pendingDev .loadProgram p s.dev
  have allocated : (programPages a n d).isSome = true := by
    rw [isSome_programPages, List.all_eq_true]
    simpa [d] using pages
  obtain ⟨d1, held⟩ := Option.isSome_iff_exists.mp allocated
  have stores : OnlyStores d d1 := onlyStores_foldlM_setChan (fun _ _ _ done => onlyStore_loadPages done) held
  have idle (k : Nat) (other : k ≠ n) : idleView (leadRoom d1 u k) = false := by
    have same := (stays_onlyStores (n := k) (w := idleView) stores fun _ _ h => idleView_sameButStore h).toKeeps.leadRoom u
    rw [same, leadRoom_pendingDev]
    exact busy k other
  have started : Stays (roomView n isStarted) d d1 := stays_onlyStores stores fun r q h => by
    unfold SameButStore at h
    rw [h]
    rfl
  have stopped : isStarted (leadRoom d1 u n) = false := by
    rw [started.toKeeps.leadRoom u, leadRoom_pendingDev]
    exact legal.stopped
  obtain ⟨fy, loaded⟩ := installProgram_spec a (par a.params 6 2 == 1) u n d1 stopped idle
  obtain ⟨t, goes, kept, answers⟩ :=
    post_only (i := .loadProgram p) rfl accepts (runLoadProgram_of_legal (legal.pending .loadProgram p) held) (fy.trans stores.2.1)
  refine ⟨t, goes, answers, fun c hc => ?_⟩
  rw [kept.chan c]
  exact loaded c (by rw [started.suiteChans, suiteChans_pendingDev]; exact hc)

/-! ## The three commands together -/

/-- Settles O31: LOAD_PROGRAM by what installing the program leaves of the room, START_JOB by what the start sets on each channel, and STOP_JOB by
the room's state: at rest, running, or STARTED with nothing left to end. -/
theorem jobCommandsAct : Obligations.JobCommandsAct := by
  unfold Obligations.JobCommandsAct
  intro p s
  refine ⟨?_, ?_, ?_⟩
  · intro a u n form g r x accepts undrained suite reserved formed read used stopped named fits region reached chans image steps
    have legal : ProgramLegal a n r s.dev := ⟨rfl, undrained, suite, reserved, formed, read, used, stopped, named, fits, region, reached,
      fun c hc => ⟨(chans c hc).1, (chans c hc).2.1⟩, image⟩
    have busy (k : Nat) (other : k ≠ n) : idleView (leadRoom s.dev u k) = false := by
      have step := steps k other
      unfold idleView
      cases started : isStarted (leadRoom s.dev u k) <;> cases serves : servesStreams (leadRoom s.dev u k)
      case true.true => rw [step started serves]; rfl
      all_goals rfl
    obtain ⟨t, goes, answers, held⟩ := loadProgram_loads accepts legal (fun c hc => (chans c hc).2.2) busy
    exact ⟨t, goes, answers, fun c hc => ⟨congrArg Prod.fst (held c hc), congrArg Prod.snd (held c hc)⟩⟩
  · intro a u n r gen accepts undrained suite reserved named ready bound short trained tensors
    have legal : StartLegal a n r s.dev := ⟨rfl, undrained, suite, reserved, named, ready, bound, short, trained⟩
    obtain ⟨t, goes, answers, eligible, starts⟩ := startJob_starts accepts legal tensors
    refine ⟨t, goes, answers, eligible, fun c hc => ?_⟩
    have view := starts c hc
    simp only [startView, startedView, Prod.mk.injEq] at view
    exact view
  · intro a u n r accepts suite reserved named
    have legal : StopLegal a s.dev := ⟨suite, reserved, named⟩
    exact ⟨stopJob_of_stopped accepts legal, stopJob_of_running accepts legal,
      fun started idle capture waits table owed fabric streams =>
        stopJob_of_switched_out accepts legal started idle capture ⟨waits, streams, table, owed, fabric⟩⟩

end Sys2Proof.Machine

end

section

namespace Sys2Proof.Machine

/-! ## Who accepts the boot image (R569, R724) -/

/-- A released channel whose boot ROM accepts a copy. -/
def acceptsImage (r : BootRead) (x : Channel) : Bool := x.released && (acceptsFirst x r || acceptsSecond x r)

/-- The channels that accept a copy, those of the first one before the others. -/
def imageChans (r : Quad BootRead) (d : Device) : List Ch :=
  let rel := Ch.all.filter fun c => (chanOf d c).released
  (rel.filter fun c => acceptsFirst (chanOf d c) (r.get c)) ++
    rel.filter fun c => !acceptsFirst (chanOf d c) (r.get c) && acceptsSecond (chanOf d c) (r.get c)

theorem contains_imageChans (r : Quad BootRead) (d : Device) (c : Ch) : (imageChans r d).contains c = acceptsImage (r.get c) (chanOf d c) := by
  rw [Bool.eq_iff_iff, List.contains_iff_mem]
  unfold imageChans acceptsImage
  simp only [List.mem_append, List.mem_filter, Ch.mem_all, true_and, Bool.and_eq_true, Bool.or_eq_true, Bool.not_eq_true']
  cases acceptsFirst (chanOf d c) (r.get c) <;> simp

/-- The lowest channel that accepts, whose copy the device's boot image is (R724). -/
def lowestImageChan (r : Quad BootRead) (d : Device) : Option Ch := Ch.all.find? fun c => (imageChans r d).contains c

theorem lowestImageChan_eq_none_iff (r : Quad BootRead) (d : Device) : lowestImageChan r d = none ↔ ∀ c, acceptsImage (r.get c) (chanOf d c) = false := by
  unfold lowestImageChan
  rw [List.find?_eq_none]
  simp only [contains_imageChans, Ch.mem_all, true_imp_iff, Bool.not_eq_true]

/-! ## The boot of a channel -/

theorem recordLatches_keeps {α : Type} (v : Channel → α) (hv : ∀ x e, v (record x e) = v x) (latches : List Nat) (x : Channel) :
    v (recordLatches x latches) = v x :=
  foldl_view v (fun x t => hv x { cls := 0x60, kind := 5, detail := BitVec.ofNat 192 t }) latches x

/-- A view that both branches of a choice keep, the choice keeps. -/
theorem view_ite {α β : Type} (v : α → β) {c : Prop} [Decidable c] {a b : α} {z : β} (ha : v a = z) (hb : v b = z) :
    v (if c then a else b) = z := by
  split
  · exact ha
  · exact hb

/-- Each judged unit is steered around by itself, and leaves the image that the channel runs. -/
theorem reapply_imageOk (x : Channel) (p : PermUnit) : (reapply x p).imageOk = x.imageOk :=
  have keep {c : Prop} [Decidable c] {a b : Channel} : a.imageOk = x.imageOk → b.imageOk = x.imageOk → (if c then a else b).imageOk = x.imageOk :=
    view_ite Channel.imageOk
  keep rfl (keep rfl (keep (keep rfl rfl) (keep rfl (keep rfl (keep rfl (keep rfl (keep rfl (keep rfl rfl))))))))

theorem loadHistory_imageOk (x : Channel) (r : BootRead) : (loadHistory x r).imageOk = x.imageOk :=
  view_ite Channel.imageOk rfl rfl

theorem chanBoot_of_refused {r : BootRead} {x : Channel} (refused : acceptsImage r x = false) (latches : List Nat) (key : BitVec 256 × BitVec 512) :
    chanBoot r latches key x = x := by
  unfold acceptsImage at refused
  unfold chanBoot
  rw [if_pos (by rw [← Bool.not_and, refused]; rfl)]

/-- A channel that accepts a copy runs it, and its history counts one boot more. -/
theorem chanBoot_of_accepts {r : BootRead} {x : Channel} (accepts : acceptsImage r x = true) (latches : List Nat) (key : BitVec 256 × BitVec 512) :
    (chanBoot r latches key x).imageOk = true ∧ (chanBoot r latches key x).hist.boots = x.hist.boots + 1 := by
  unfold acceptsImage at accepts
  unfold chanBoot
  rw [if_neg (by rw [← Bool.not_and, accepts]; exact Bool.false_ne_true)]
  extract_lets y z
  have runs : z.imageOk = true := (foldl_view Channel.imageOk reapply_imageOk x.hist.perm (loadHistory y r)).trans (loadHistory_imageOk y r)
  exact ⟨(recordLatches_keeps Channel.imageOk (fun _ _ => rfl) latches _).trans runs,
    recordLatches_keeps (fun x => x.hist.boots) (fun _ _ => rfl) latches _⟩

/-! ## The end of the read -/

/-- The boot image has been read: each controller has been released, and a host-loaded boot has been asked for. -/
structure ImageRead (b : Board) : Prop where
  stage : b.pwr.seq = 5
  released : b.released = 4
  asked : b.boot.bootSel = 2 → b.goPort.isSome = true

/-- The channels of a device once those that accept a copy run it. -/
def bootedChans (r : Quad BootRead) (latches : List Nat) (d : Device) : Device :=
  modChans d Ch.all fun c x => chanBoot (r.get c) latches (Config.freeKey (d.free + c.num), Config.xtsKey d.free c.num 0) x

theorem bootImageReadDone_of_none {r : Quad BootRead} {b : Board} {d : Device} (ended : ImageRead b)
    (none_accepts : ∀ c, acceptsImage (r.get c) (chanOf d c) = false) :
    bootImageReadDone r b d =
      ({ b with
          pwr := { b.pwr with seq := 11, bflBusy := false }, faultStop := true, boot := { b.boot with aFail := true, bFail := true } }, d) := by
  have lowest := (lowestImageChan_eq_none_iff r d).mpr none_accepts
  unfold lowestImageChan imageChans at lowest
  unfold bootImageReadDone
  rw [if_pos ⟨ended.stage, ended.released, ended.asked⟩]
  dsimp only
  rw [lowest]

/-- What an accepted image leaves: the board at stage 6 with the firmware running, and the channels that run it. -/
theorem bootImageReadDone_of_some {r : Quad BootRead} {b : Board} {d : Device} (ended : ImageRead b) {c : Ch}
    (runs : acceptsImage (r.get c) (chanOf d c) = true) :
    let t := bootImageReadDone r b d
    t.1.pwr = { b.pwr with seq := 6, bflBusy := false, vstkOn := true } ∧ t.1.firmware = true ∧ t.1.boot.boots = b.boot.boots + 1 ∧
      ∀ o, chanOf t.2 o = chanOf (bootedChans r b.latches d) o := by
  have some_accepts : lowestImageChan r d ≠ none := fun lowest => by
    have refused := (lowestImageChan_eq_none_iff r d).mp lowest c
    rw [runs] at refused
    exact Bool.noConfusion refused
  obtain ⟨k, lowest⟩ := Option.ne_none_iff_exists'.mp some_accepts
  unfold lowestImageChan imageChans at lowest
  unfold bootImageReadDone
  rw [if_pos ⟨ended.stage, ended.released, ended.asked⟩]
  dsimp only
  rw [lowest]
  exact ⟨rfl, rfl, rfl, fun o => chanOf_refresh ..⟩

/-- At stage 5 the rails beyond VCORE are off and READY_OUT is low. -/
theorem legalBoard_stage5 {b : Board} (legal : legalBoard b = true) (stage : b.pwr.seq = 5) :
    b.readyOut = false ∧ b.pwr.vstkOn = false ∧ b.pwr.voptOn = false := by
  unfold legalBoard at legal
  simp [stage] at legal
  simp [legal]

/-- Settles O11: by whether any channel accepts a copy, from what its boot leaves of each. -/
theorem bootImageDecides : Obligations.BootImageDecides := by
  unfold Obligations.BootImageDecides
  intro s r stage released asked runs
  have ended : ImageRead s.board := ⟨stage, released, asked⟩
  refine ⟨?accepted, ?refused⟩
  case accepted =>
    rintro ⟨c, hc⟩
    obtain ⟨pwr, firmware, boots, chans⟩ := bootImageReadDone_of_some ended hc
    refine ⟨_, rfl, congrArg PwrStatus.seq pwr, firmware, congrArg PwrStatus.vstkOn pwr, congrArg PwrStatus.bflBusy pwr, boots, fun o => ?_⟩
    dsimp only
    rw [chans, bootedChans, chanOf_modChans_all]
    exact ⟨fun starts => chanBoot_of_accepts starts _ _, fun fails => chanBoot_of_refused fails _ _⟩
  case refused =>
    intro fails legal
    obtain ⟨ready, vstk, vopt⟩ := legalBoard_stage5 legal stage
    have goes : exec (.bootImageReadDone r) s =
        .next { s with board := (bootImageReadDone r s.board s.dev).1, dev := (bootImageReadDone r s.board s.dev).2 } := rfl
    rw [bootImageReadDone_of_none ended fails] at goes
    exact ⟨_, goes, rfl, ready, rfl, rfl, rfl, vstk, vopt, rfl⟩

end Sys2Proof.Machine

end

section

namespace Sys2Proof.Machine

/-! ## The codes that SMBus answers (R740) -/

/-- The codes of Table 18.7 with the words that their registers show. -/
def smbusTable (b : Board) (d : Device) : List (Nat × W64) :=
  let live := fun (w : W64) => if b.foyerOn = true then w else 0
  [(0, live (getFyDevStatus d.fy.dev 0 ||| (getFyArrWidth d.fy.width 0 <<< 32))), (1, getFltReplace d.fy.replace 0),
    (2, getPwrStatus b.pwr 0), (3, getPwrStatus b.pwr 1)] ++
  (List.range 5).map (fun k => (4 + k, live (getPwrEnergy b.energy k))) ++
  (List.range 8).map (fun k => (0x10 + k, getPwrLaser (tget {} b.lasers k) 0)) ++ [(0x20, getFyBoot b.boot 0)]

/-- A run of consecutive codes in a table. -/
theorem mem_map_range_add {α : Type} (lo len n : Nat) (f : Nat → α) (w : α) :
    (n, w) ∈ (List.range len).map (fun k => (lo + k, f k)) ↔ (lo ≤ n ∧ n < lo + len) ∧ f (n - lo) = w := by
  simp only [List.mem_map, List.mem_range, Prod.mk.injEq]
  constructor
  · rintro ⟨k, hk, rfl, rfl⟩
    exact ⟨⟨Nat.le_add_right .., Nat.add_lt_add_left hk lo⟩, by rw [Nat.add_sub_cancel_left]⟩
  · rintro ⟨⟨low, high⟩, rfl⟩
    exact ⟨n - lo, by omega, by omega, rfl⟩

/-- What SMBus answers a code with is what the table holds under it. -/
theorem smbusBlock_eq_some_iff (code : Byte) (b : Board) (d : Device) (w : W64) :
    smbusBlock code b d = some w ↔ (code.toNat, w) ∈ smbusTable b d := by
  unfold smbusTable smbusBlock
  extract_lets live n shown
  rw [show code.toNat = n from rfl, show shown = live from rfl]
  clear_value live n
  simp only [List.mem_append, mem_map_range_add, List.mem_cons, List.not_mem_nil, or_false, Prod.mk.injEq, Bool.and_eq_true, decide_eq_true_eq,
    eq_comm (a := w)]
  split_ifs with status replace pwr0 pwr1 energy laser boot
  · simp [status]
  · simp [replace]
  · simp [pwr0]
  · simp [pwr1]
  · have below : ¬ 16 ≤ n ∧ n ≠ 32 := by omega
    simp [status, replace, pwr0, pwr1, below, energy.1, Nat.lt_succ_of_le energy.2]
  · have between : ¬ n < 9 ∧ n ≠ 32 := by omega
    simp [status, replace, pwr0, pwr1, between, laser.1, Nat.lt_succ_of_le laser.2]
  · simp [boot]
  · have outside : ¬ (4 ≤ n ∧ n < 9) ∧ ¬ (16 ≤ n ∧ n < 24) := by omega
    simp [status, replace, pwr0, pwr1, outside, boot]

theorem smbusRead_of_off {code : Byte} {b : Board} (off : b.vaux = false) (d : Device) : smbusRead code b d = d := by
  unfold smbusRead
  rw [off]
  rfl
theorem smbusRead_of_listed {code : Byte} {b : Board} {d : Device} {w : W64} (on : b.vaux = true) (listed : (code.toNat, w) ∈ smbusTable b d) :
    smbusRead code b d = send d (.answer w.toNat) := by
  unfold smbusRead
  rw [on, (smbusBlock_eq_some_iff ..).mpr listed]
  rfl
theorem smbusRead_of_unlisted {code : Byte} {b : Board} {d : Device} (on : b.vaux = true) (unlisted : ∀ w, (code.toNat, w) ∉ smbusTable b d) :
    smbusRead code b d = send d .smbusNack := by
  have none_answers : smbusBlock code b d = none :=
    Option.eq_none_iff_forall_ne_some.mpr fun w answers => unlisted w ((smbusBlock_eq_some_iff ..).mp answers)
  unfold smbusRead
  rw [on, none_answers]
  rfl

/-! ## A vector's message (R685, R689) -/

/-- A vector changes, and the others of its function do not. -/
theorem vecOf_set (x : FnState) (v u : Nat) (k : Vec) :
    vecOf { x with vectors := tset {} x.vectors v k } u = if u = v then k else vecOf x u := tget_tset ..

/-- The vectors of a function as a write of one of them leaves them; PORT and FN of the function stand as they are. -/
theorem fnOf_setVectors (d : Device) (f : Fn) (t : Tab Vec) :
    fnOf (setFn d f { fnOf d f with vectors := t }) f = { fnOf d f with vectors := t } := fnOf_setFn_same ..

theorem fireVec_of_held {d : Device} {f : Fn} {v : Nat} (held : (vecOf (fnOf d f) v).masked = true ∨ mayDma (fnOf d f) = false) :
    fireVec d f v =
      setFn d f { fnOf d f with vectors := tset {} (fnOf d f).vectors v { vecOf (fnOf d f) v with pend := true, units := 0 } } := by
  unfold fireVec
  rw [if_pos (by simpa using held)]

theorem fireVec_of_free {d : Device} {f : Fn} {v : Nat} (unmasked : (vecOf (fnOf d f) v).masked = false) (issues : mayDma (fnOf d f) = true) :
    fireVec d f v =
      send (setFn d f { fnOf d f with vectors := tset {} (fnOf d f).vectors v { vecOf (fnOf d f) v with
        pend := false, units := 0, mod := { (vecOf (fnOf d f) v).mod with sent := satInc (vecOf (fnOf d f) v).mod.sent } } }) (.msix f v) := by
  unfold fireVec
  rw [if_neg (by simp [unmasked, issues])]

/-- The vectors beside the one that fires. -/
theorem vecOf_fireVec_ne (d : Device) (f : Fn) {v u : Nat} (h : u ≠ v) : vecOf (fnOf (fireVec d f v) f) u = vecOf (fnOf d f) u := by
  unfold fireVec
  dsimp only
  split
  · rw [fnOf_setVectors, vecOf_set, if_neg h]
  · rw [fnOf_send, fnOf_setVectors, vecOf_set, if_neg h]

/-! ## The sidebands together -/

/-- Settles O24: an SMBus code by its line in the table, and the timer by what firing its vector leaves. -/
theorem sidebandAnswers : Obligations.SidebandAnswers := by
  unfold Obligations.SidebandAnswers
  intro s j n f v sent live table x k
  have read : exec (.smbusBlockRead n) s = .next { s with dev := smbusRead n s.board s.dev } := rfl
  have timer : exec (.irqModTimer f v) s = .next { s with dev := modTimer f v s.dev } := rfl
  refine ⟨rfl, ?off, fun on => ⟨?listed, ?unlisted⟩, ?idle, ?fires⟩
  case off =>
    intro off
    rw [read, smbusRead_of_off off]
  case listed =>
    intro w listed
    rw [read, smbusRead_of_listed on listed]
    rfl
  case unlisted =>
    intro unlisted
    rw [read, smbusRead_of_unlisted on unlisted]
    rfl
  case idle =>
    intro idle
    rw [timer, modTimer, if_pos idle]
  case fires =>
    intro units
    rw [modTimer, if_neg units] at timer
    obtain ⟨chans, suites, free, fy⟩ := onlyFns_fireVec s.dev f v
    refine ⟨_, timer, ⟨rfl, rfl, chans, suites, free, fy⟩, fun g other => fireVec_ne s.dev v other, fireVec_fn s.dev f v f,
      fun u other => vecOf_fireVec_ne s.dev f other, fun held => ?held, fun unmasked issues => ?free⟩
    case held =>
      dsimp only
      rw [fireVec_of_held held, fnOf_setVectors, vecOf_set, if_pos rfl]
      exact ⟨rfl, rfl⟩
    case free =>
      dsimp only
      rw [fireVec_of_free unmasked issues, fnOf_send, fnOf_setVectors, vecOf_set, if_pos rfl]
      exact ⟨rfl, rfl⟩

end Sys2Proof.Machine

end

section

namespace Sys2Proof.Machine

/-! ## Requests for debug (R577) -/

theorem anyRoom_iff (d : Device) :
    anyRoom d = true ↔ ∃ u n, suiteExists d u = true ∧ n < 64 ∧ roomState (leadRoom d u n) ≠ rsFree := by
  unfold anyRoom suiteHasRoom roomIndexes
  simp only [List.any_eq_true, Ch.mem_all, true_and, Bool.and_eq_true, List.mem_range, bne_iff_ne]
  exact exists_congr fun u => exists_and_left.symm

theorem anyDraining_iff (d : Device) : anyDraining d = true ↔ ∃ o, (chanOf d o).flt.draining = true := by
  unfold anyDraining
  simp only [List.any_eq_true, Ch.mem_all, true_and]

/-- A ROOM_CREATE waits for the end of start-up. -/
def createWaits (d : Device) : Bool := d.fy.held.any fun h => h.1 == .roomCreate

theorem createWaits_iff (d : Device) : createWaits d = true ↔ ∃ h ∈ d.fy.held, h.1 = .roomCreate := by
  unfold createWaits
  simp only [List.any_eq_true, beq_iff_eq]

theorem debugRefusal_of_room {d : Device} (room : anyRoom d = true) : debugRefusal d = 1 := if_pos room
theorem debugRefusal_of_create {d : Device} (room : ¬ anyRoom d = true) (create : createWaits d = true) : debugRefusal d = 2 := by
  unfold debugRefusal
  rw [if_neg room]
  exact if_pos create
theorem debugRefusal_of_drain {d : Device} (room : ¬ anyRoom d = true) (create : ¬ createWaits d = true) (drain : anyDraining d = true) :
    debugRefusal d = 3 := by
  unfold debugRefusal
  rw [if_neg room, if_neg (show ¬ (d.fy.held.any fun h => h.1 == .roomCreate) = true from create), if_pos drain]
theorem debugRefusal_of_none {d : Device} (room : ¬ anyRoom d = true) (create : ¬ createWaits d = true) (drain : ¬ anyDraining d = true) :
    debugRefusal d = 0 := by
  unfold debugRefusal
  rw [if_neg room, if_neg (show ¬ (d.fy.held.any fun h => h.1 == .roomCreate) = true from create), if_neg drain]

/-- A refused request: its reason, and one more refusal counted. -/
def debugRefused (k : BitVec 3) (d : Device) : Device :=
  { d with fy := { d.fy with secDebug := { d.fy.secDebug with reason := k, refused := satInc d.fy.secDebug.refused } } }

theorem debugReq_of_idle {v : W64} {b : Board} (idle : b.firmware = false ∨ v.getLsbD 0 = false) (d : Device) : debugReq v b d = d := by
  unfold debugReq
  rw [if_pos (by simpa using idle)]

theorem debugReq_of_refusal {v : W64} {b : Board} {d : Device} {k : BitVec 3} (runs : b.firmware = true) (asks : v.getLsbD 0 = true)
    (refusal : debugRefusal d = k) (reason : k ≠ 0) : debugReq v b d = debugRefused k d := by
  subst refusal
  unfold debugReq
  rw [runs, asks]
  exact if_pos (bne_iff_ne.mpr reason)

theorem debugReq_of_granted {v : W64} {b : Board} {d : Device} (runs : b.firmware = true) (asks : v.getLsbD 0 = true)
    (refusal : debugRefusal d = 0) : debugReq v b d = openDebug d := by
  unfold debugReq
  rw [runs, asks, refusal]
  rfl

/-! ## A channel as debug opens -/

/-- A view of a link that closing its session sets, as it stands once every session of the channel is closed. -/
theorem linkOf_sessionsClosed {β : Type} (v : LinkState → β) (g : β → β) (closes : ∀ k, v (closeSession k) = g (v k)) (empty : v {} = g (v {}))
    (x : Channel) (l : Link) :
    v (tget {} (x.links.map fun q => (q.1, closeSession q.2)) (linkKey l)) = g (v (linkOf x l)) :=
  view_tget_map v g closes empty x.links (linkKey l)

theorem debugChan_of_idle {x : Channel} (idle : x.imageOk = false) (key : BitVec 256) : debugChan key x = x := by
  unfold debugChan
  rw [idle]
  rfl

theorem debugChan_of_runs {x : Channel} (runs : x.imageOk = true) (key : BitVec 256) :
    debugChan key x = record { x with
      bootKey := some key, suiteKey := none, ctrlKey := none, memKey := none, debugBoot := true,
      links := x.links.map (fun l => (l.1, closeSession l.2)), sec := { x.sec with debug := true, linkKeys := 0 } }
      { cls := 0x02, unit := 5, kind := 12 } := by
  unfold debugChan
  rw [runs]
  rfl

theorem debugChan_link {x : Channel} (runs : x.imageOk = true) (key : BitVec 256) (l : Link) :
    let k := linkOf (debugChan key x) l
    k.session = false ∧ k.keyTx = 0 ∧ k.keyRx = 0 ∧ k.held = (linkOf x l).held := by
  rw [debugChan_of_runs runs]
  exact ⟨linkOf_sessionsClosed LinkState.session (fun _ => false) (fun _ => rfl) rfl x l,
    linkOf_sessionsClosed LinkState.keyTx (fun _ => 0) (fun _ => rfl) rfl x l,
    linkOf_sessionsClosed LinkState.keyRx (fun _ => 0) (fun _ => rfl) rfl x l,
    linkOf_sessionsClosed LinkState.held id (fun _ => rfl) rfl x l⟩

theorem chanOf_openDebug (d : Device) (o : Ch) : chanOf (openDebug d) o = debugChan (Config.freeKey (d.free + o.num)) (chanOf d o) :=
  chanOf_modChans_all (fun c x => debugChan (Config.freeKey (d.free + c.num)) x) { d with free := d.free + 4 } o

theorem openDebug_fy (d : Device) :
    (openDebug d).fy = { d.fy with secDebug := { d.fy.secDebug with opened := true }, debugOpen := true, roots := [] } := by
  unfold openDebug
  dsimp only
  rw [modChans_fy]

/-! ## Applying a Cellar register (R686) -/

/-- What APPLY asks of a Cellar register and of its region on each channel that CH names (R686). -/
structure ApplyLegal (portB : Bool) (d : Device) (r : Nat) (e : FyCellar) : Prop where
  kind : e.kind = 1 ∨ e.kind = 2 ∨ (e.kind = 3 ∧ portB = false) ∨ (e.kind = 4 ∧ portB = true)
  region : ∀ o, e.ch.getLsbD o.num = true →
    poolUsed (tget {} (chanOf d o).regionPools r) = 0 ∧ (∀ w ∈ d.fy.waits, (o, r) ∉ namedRegions d w) ∧ ringNames d o r = false

/-- The kinds of a region that suit a port. -/
theorem kind_suits_iff (portB : Bool) (k : BitVec 4) :
    ((k == 3 && portB) || (k == 4 && !portB) || k == 0 || decide (4 < k.toNat)) = false ↔
      k = 1 ∨ k = 2 ∨ (k = 3 ∧ portB = false) ∨ (k = 4 ∧ portB = true) := by
  revert portB k
  decide

theorem applyRefused_eq_false_iff (portB : Bool) (d : Device) (r : Nat) (e : FyCellar) :
    applyRefused portB d r e = false ↔ ApplyLegal portB d r e := by
  have regions : ((chansOf e.ch).any fun c => poolUsed (tget {} (chanOf d c).regionPools r) != 0 ||
      (d.fy.waits.any fun w => (namedRegions d w).contains (c, r)) || ringNames d c r) = false ↔
      ∀ o, e.ch.getLsbD o.num = true →
        poolUsed (tget {} (chanOf d o).regionPools r) = 0 ∧ (∀ w ∈ d.fy.waits, (o, r) ∉ namedRegions d w) ∧ ringNames d o r = false := by
    simp [List.any_eq_false, mem_chansOf, and_assoc]
  unfold applyRefused
  rw [Bool.or_eq_false_iff, kind_suits_iff, regions]
  exact ⟨fun h => ⟨h.1, h.2⟩, fun h => ⟨h.kind, h.region⟩⟩

/-- A device whose Cellar register shows whether it was refused. -/
def cellarMarked (r : Nat) (b : Bool) (d : Device) : Device :=
  { d with fy := { d.fy with cellar := tset {} d.fy.cellar r { tget {} d.fy.cellar r with refused := b } } }

theorem cellarApply_of_idle {portB : Bool} {b : Board} {d : Device} (idle : b.firmware = false ∨ portUp d portB = false) (r : Nat) :
    cellarApply portB r b d = d := by
  unfold cellarApply
  rw [if_pos (by simpa using idle)]

theorem cellarApply_of_legal {portB : Bool} {r : Nat} {b : Board} {d : Device} (runs : b.firmware = true) (up : portUp d portB = true)
    (legal : ApplyLegal portB d r (tget {} d.fy.cellar r)) :
    cellarApply portB r b d =
      modChans (cellarMarked r false d) (chansOf (tget {} d.fy.cellar r).ch) fun _ x => applyRegion r (tget {} d.fy.cellar r) x := by
  unfold cellarApply
  rw [runs, up]
  extract_lets e no d1
  have granted : no = false := (applyRefused_eq_false_iff ..).mpr legal
  rw [if_neg (by decide), granted, if_neg Bool.false_ne_true]
  show modChans { d with fy := { d.fy with cellar := tmod {} d.fy.cellar r fun e => { e with refused := no } } } _ _ = _
  rw [granted]
  rfl

theorem cellarApply_of_illegal {portB : Bool} {r : Nat} {b : Board} {d : Device} (runs : b.firmware = true) (up : portUp d portB = true)
    (illegal : ¬ ApplyLegal portB d r (tget {} d.fy.cellar r)) : cellarApply portB r b d = cellarMarked r true d := by
  unfold cellarApply
  rw [runs, up]
  extract_lets e no d1
  have refused : no = true := Bool.not_eq_false no ▸ fun granted => illegal ((applyRefused_eq_false_iff ..).mp granted)
  rw [if_neg (by decide), refused, if_pos rfl]
  show { d with fy := { d.fy with cellar := tmod {} d.fy.cellar r fun e => { e with refused := no } } } = _
  rw [refused]
  rfl

/-- A region that APPLY gives the register's fields: enabled, empty, with every page free. -/
theorem regionOf_applyRegion_same (r : Nat) (e : FyCellar) (x : Channel) :
    regionOf (applyRegion r e x) r =
      { regionOf x r with node := e.node, kind := e.kind, base := e.base, pages := e.pages, free := e.pages } := by
  have enabled : (x.disabled.filter (· != r)).contains r = false := by simp
  unfold applyRegion setRegion showFree regionFree
  simp only [regionOf, tget_tmod_same, tget_tset_same, enabled]
  simp [poolUsed]

theorem regionOf_applyRegion_ne (e : FyCellar) (x : Channel) {r k : Nat} (h : k ≠ r) : regionOf (applyRegion r e x) k = regionOf x k := by
  unfold applyRegion setRegion showFree regionOf
  rw [tget_tmod_ne _ _ _ _ _ h, tget_tset_ne _ _ _ _ _ h]

theorem regionPools_applyRegion (r : Nat) (e : FyCellar) (x : Channel) (k : Nat) :
    tget {} (applyRegion r e x).regionPools k = if k = r then {} else tget {} x.regionPools k := tget_tset ..

/-! ## The three together -/

/-- Settles O25: a request by its refusal, APPLY by whether its register is legal, and of each channel what opening debug or a new region leaves. -/
theorem debugRegionsAndAttics : Obligations.DebugRegionsAndAttics := by
  unfold Obligations.DebugRegionsAndAttics
  intro s v p r c i e rooms creates drains legal marked refused
  have request : exec (.secDebugReq v) s = .next { s with dev := debugReq v s.board s.dev } := rfl
  have apply : exec (.fyCellarApply p r) s = .next { s with dev := cellarApply p i s.board s.dev } := rfl
  have free : exec (.ckpHostFreeAll c) s = .next { s with dev := if s.board.firmware then freeAttics c s.dev else s.dev } := rfl
  have lawful : legal ↔ ApplyLegal p s.dev i e := ⟨fun h => ⟨h.1, h.2⟩, fun h => ⟨h.kind, h.region⟩⟩
  refine ⟨fun idle => ?_, fun idle => ?_, fun off => ?_, fun runs => ⟨fun asks => ⟨?room, ?create, ?drain, ?opens⟩, ?applies, ?refuses, ?frees⟩⟩
  · rw [request, debugReq_of_idle idle]
  · rw [apply, cellarApply_of_idle idle]
  · rw [free, off]; rfl
  case room =>
    intro room
    exact request.trans (by rw [debugReq_of_refusal runs asks (debugRefusal_of_room ((anyRoom_iff _).mpr room)) (by decide)]; rfl)
  case create =>
    intro room create
    have refusal := debugRefusal_of_create ((anyRoom_iff _).not.mpr room) ((createWaits_iff _).mpr create)
    exact request.trans (by rw [debugReq_of_refusal runs asks refusal (by decide)]; rfl)
  case drain =>
    intro room create drain
    have refusal := debugRefusal_of_drain ((anyRoom_iff _).not.mpr room) ((createWaits_iff _).not.mpr create) ((anyDraining_iff _).mpr drain)
    exact request.trans (by rw [debugReq_of_refusal runs asks refusal (by decide)]; rfl)
  case opens =>
    intro room create drain
    have granted := debugRefusal_of_none ((anyRoom_iff _).not.mpr room) ((createWaits_iff _).not.mpr create) ((anyDraining_iff _).not.mpr drain)
    rw [debugReq_of_granted runs asks granted] at request
    refine ⟨_, request, rfl, rfl, modChans_suites .., modChans_out .., openDebug_fy s.dev, fun o => ?_⟩
    dsimp only
    rw [chanOf_openDebug]
    refine ⟨fun stopped => debugChan_of_idle stopped _, fun runs => ⟨?_, fun l => debugChan_link runs _ l, ?_⟩⟩
    · rw [debugChan_of_runs runs]
      rfl
    · rw [debugChan_of_runs runs]
      exact ⟨_, rfl, rfl, rfl, rfl⟩
  case applies =>
    intro up holds
    rw [cellarApply_of_legal runs up (lawful.mp holds)] at apply
    refine ⟨_, apply, rfl, rfl, modChans_suites .., modChans_out .., modChans_fy .., fun o => ?_⟩
    dsimp only
    rw [chanOf_modChans _ _ _ _ (chansOf_nodup _)]
    refine ⟨fun outside => if_neg (by rw [mem_chansOf]; exact ne_true_of_eq_false outside), fun named => ?_⟩
    rw [if_pos ((mem_chansOf ..).mpr named)]
    exact ⟨rfl, regionOf_applyRegion_same i e _, (regionPools_applyRegion i e _ i).trans (if_pos rfl),
      fun k other => ⟨regionOf_applyRegion_ne e _ other, (regionPools_applyRegion i e _ k).trans (if_neg other)⟩⟩
  case refuses =>
    intro up fails
    rw [apply, cellarApply_of_illegal runs up (lawful.not.mp fails)]
    rfl
  case frees =>
    rw [free, runs]
    rfl

end Sys2Proof.Machine

end

section

namespace Sys2Proof.Machine

/-! ## What answering a command sends -/

theorem out_fireVec (d : Device) (f : Fn) (v : Nat) : d.out <:+ (fireVec d f v).out := by
  unfold fireVec
  dsimp only
  split
  · exact List.suffix_rfl
  · exact List.suffix_cons ..

theorem out_vecUnits (d : Device) (f : Fn) (v n : Nat) : d.out <:+ (vecUnits d f v n).out := by
  unfold vecUnits
  extract_lets x k k' d'
  split
  · exact out_fireVec d' f v
  · exact List.suffix_rfl

theorem out_postResult (d : Device) (k : CmdKey) (st : Status) (ws : List W32) : d.out <:+ (postResult d k st ws).out := by
  unfold postResult
  extract_lets f r d'
  split
  · exact out_vecUnits d' f _ 1
  · exact List.suffix_rfl

/-- A post whose command is over at once answers, and what its command has sent stays sent. -/
theorem post_answers_sent {i : Instr} {op : HostOp} {p : HostPost} {s : State} {d : Device} {st : Status} {ws : List W32}
    (hi : exec i s = postRow op p s) (ha : Accepts op p s) (hr : runOp op (commandOf op p s.dev) (pendingDev op p s.dev) = (d, .done st ws))
    (fns : d.fy.fns = (pendingDev op p s.dev).fy.fns) :
    ∃ t, exec i s = .next t ∧ OnlyFns d t.dev ∧ Answers op p s t st ws ∧ ∀ m ∈ d.out, m ∈ t.dev.out := by
  obtain ⟨t, goes, kept, answers⟩ := post_answers i op p s d st ws hi ha hr (postSlot_of_fns fns)
  have posted : t.dev = post s.board { p with header := postedHeader op p s.dev } s.dev :=
    congrArg State.dev (Host.Outcome.next.inj (goes.symm.trans hi))
  have result : t.dev = postResult d (commandOf op p s.dev).key st ws := by
    rw [posted, post_runs op p s ha]
    unfold startCommand
    rw [hr]
  refine ⟨t, goes, kept, answers, fun m hm => ?_⟩
  rw [result]
  exact (out_postResult ..).subset hm

/-- A post whose command writes to host memory and is over at once, with channels and suites as they were. -/
theorem post_writes {i : Instr} {op : HostOp} {p : HostPost} {s : State} {d : Device} {m : OutMsg} {st : Status} {ws : List W32}
    (hi : exec i s = postRow op p s) (ha : Accepts op p s)
    (hr : runOp op (commandOf op p s.dev) (pendingDev op p s.dev) = (send d m, .done st ws))
    (fns : d.fy.fns = (pendingDev op p s.dev).fy.fns) (chans : d.chans = s.dev.chans) (suites : d.suites = s.dev.suites) :
    ∃ t, exec i s = .next t ∧ Answers op p s t st ws ∧ m ∈ t.dev.out ∧ t.dev.chans = s.dev.chans ∧ t.dev.suites = s.dev.suites := by
  obtain ⟨t, goes, kept, answers, sent⟩ := post_answers_sent hi ha hr fns
  exact ⟨t, goes, answers, sent m (by rw [send_out]; exact List.mem_cons_self ..), kept.1.trans chans, kept.2.1.trans suites⟩

/-! ## Reports do not read the functions -/

/-- A device with other states of its functions. -/
def withFns (d : Device) (fns : Tab FnState) : Device := { d with fy := { d.fy with fns := fns } }

theorem pendingDev_eq_withFns (op : HostOp) (p : HostPost) (d : Device) : pendingDev op p d = withFns d (pendingDev op p d).fy.fns := rfl

section
variable (op : HostOp) (p : HostPost) (d : Device)

@[simp] theorem attestNothing_pendingDev (a : Accepted) : attestNothing a (pendingDev op p d) = attestNothing a d := by
  rw [pendingDev_eq_withFns]; rfl
@[simp] theorem attestRooms_pendingDev (q : BitVec 15872) : attestRooms (pendingDev op p d) q = attestRooms d q := by
  rw [pendingDev_eq_withFns]; rfl
@[simp] theorem attestEntry_pendingDev (u : Ch) (n : Nat) (list : Bool) : attestEntry (pendingDev op p d) u n list = attestEntry d u n list := by
  rw [pendingDev_eq_withFns]; rfl
@[simp] theorem signerOf_pendingDev (scope : Nat) (u : Ch) : signerOf (pendingDev op p d) scope u = signerOf d scope u := by
  rw [pendingDev_eq_withFns]; rfl
@[simp] theorem reportBytes_pendingDev (a : Accepted) (g : Ch) (l : List (Nat × List Byte)) :
    reportBytes (pendingDev op p d) a g l = reportBytes d a g l := by
  rw [pendingDev_eq_withFns]; rfl
@[simp] theorem namedRoom_pendingDev (u : Ch) (n : Nat) : namedRoom (pendingDev op p d) u n = namedRoom d u n := by
  rw [pendingDev_eq_withFns]; rfl
@[simp] theorem accountReport_pendingDev (a : Accepted) : accountReport a (pendingDev op p d) = accountReport a d := by
  rw [pendingDev_eq_withFns]; rfl
@[simp] theorem faultReport_pendingDev (a : Accepted) : faultReport a (pendingDev op p d) = faultReport a d := by
  rw [pendingDev_eq_withFns]; rfl
@[simp] theorem summaryWords_pendingDev : summaryWords (pendingDev op p d) = summaryWords d := by
  rw [pendingDev_eq_withFns]; rfl

end

/-! ## ATTEST (R572, R573) -/

/-- The rooms of a report that run, whose step boundaries it awaits. -/
def laterRooms (a : Accepted) (d : Device) : List (Ch × Nat) := (attestRooms d a.params).filter fun q => isStarted (leadRoom d q.1 q.2)
/-- The entries of a report's other rooms, each as it is at the command. -/
def takenEntries (a : Accepted) (d : Device) : List (Nat × List Byte) :=
  ((attestRooms d a.params).filter fun q => !isStarted (leadRoom d q.1 q.2)).map fun q =>
    (64 * q.1.num + q.2, attestEntry d q.1 q.2 (parB a.params 8))

@[simp] theorem laterRooms_pendingDev (op : HostOp) (p : HostPost) (a : Accepted) (d : Device) :
    laterRooms a (pendingDev op p d) = laterRooms a d := by
  unfold laterRooms
  simp only [attestRooms_pendingDev, leadRoom_pendingDev]
@[simp] theorem takenEntries_pendingDev (op : HostOp) (p : HostPost) (a : Accepted) (d : Device) :
    takenEntries a (pendingDev op p d) = takenEntries a d := by
  unfold takenEntries
  simp only [attestRooms_pendingDev, leadRoom_pendingDev, attestEntry_pendingDev]

/-- What ATTEST asks before it takes an entry: what it names, a channel that signs, and a space for the report. -/
structure AttestLegal (a : Accepted) (d : Device) (g : Ch) : Prop where
  reserved : reservedClear a.params attestFields = true
  named : attestNothing a d = false
  signer : signerOf d (par a.params 6 2) (Ch.ofNum (par a.params 9 2)) = some g
  region : regionAllows (chanOf d g) hostKinds 4096 (par a.params 64 4) (par a.params 128 64) (par a.params 192 64) = true

theorem AttestLegal.pending {a : Accepted} {d : Device} {g : Ch} (h : AttestLegal a d g) (op : HostOp) (p : HostPost) :
    AttestLegal a (pendingDev op p d) g where
  reserved := h.reserved
  named := by simpa using h.named
  signer := by simpa using h.signer
  region := by simpa using h.region

theorem runAttest_of_legal {a : Accepted} {d : Device} {g : Ch} (h : AttestLegal a d g) :
    runAttest a d =
      if (laterRooms a d).isEmpty then
        ((finishReport d a (takenEntries a d)).1, .done (finishReport d a (takenEntries a d)).2.1 (finishReport d a (takenEntries a d)).2.2)
      else (d, .wait (.attest (laterRooms a d) (takenEntries a d))) := by
  unfold runAttest
  simp only [h.reserved, h.named, h.signer, h.region, Bool.not_true, Bool.or_self, Bool.false_eq_true, if_false]
  rfl

/-- What a report asks whose rooms have all had their moment: it fits, its key signs, and host memory is reached. -/
structure ReportFits (a : Accepted) (d : Device) (g : Ch) (l : List (Nat × List Byte)) : Prop where
  fits : (reportBytes d a g l).length ≤ par a.params 192 64
  signs : a.data.signOk = true
  key : (chanOf d g).bootKey.isSome = true
  reached : accessFails d (chanOf d g) a.data (par a.params 64 4) = false

theorem ReportFits.pending {a : Accepted} {d : Device} {g : Ch} {l : List (Nat × List Byte)} (h : ReportFits a d g l) (op : HostOp) (p : HostPost) :
    ReportFits a (pendingDev op p d) g l where
  fits := by simpa using h.fits
  signs := h.signs
  key := by simpa using h.key
  reached := by simpa using h.reached

theorem finishReport_of_fits {a : Accepted} {d : Device} {g : Ch} {l : List (Nat × List Byte)}
    (signer : signerOf d (par a.params 6 2) (Ch.ofNum (par a.params 9 2)) = some g) (h : ReportFits a d g l) :
    finishReport d a l = (send { d with free := d.free + 1 } (.regionWrite a.fn (par a.params 64 4) (par a.params 128 64) (reportBytes d a g l)), .ok,
      [BitVec.ofNat 32 (reportBytes d a g l).length]) := by
  have keyed : (chanOf d g).bootKey.isNone = false := by rw [← Option.not_isSome, h.key]; rfl
  unfold finishReport
  simp only [signer, Nat.not_lt.mpr h.fits, h.signs, keyed, h.reached, Bool.not_true, Bool.or_self, Bool.false_eq_true, if_false]

theorem attest_waits {p : HostPost} {s : State} {g : Ch} (accepts : Accepts .attest p s) (legal : AttestLegal (commandOf .attest p s.dev) s.dev g)
    (later : laterRooms (commandOf .attest p s.dev) s.dev ≠ []) :
    ∃ t, exec (.attest p) s = .next t ∧
      Waits .attest p s t (.attest (laterRooms (commandOf .attest p s.dev) s.dev) (takenEntries (commandOf .attest p s.dev) s.dev)) ∧
      t.dev.chans = s.dev.chans := by
  let a := commandOf .attest p s.dev
  let d := pendingDev .attest p s.dev
  have runs : runOp .attest a d = (d, .wait (.attest (laterRooms a s.dev) (takenEntries a s.dev))) := by
    show runAttest a d = _
    rw [runAttest_of_legal (legal.pending .attest p), laterRooms_pendingDev, takenEntries_pendingDev, if_neg (by simpa using later)]
  obtain ⟨t, goes, dev, waits⟩ := post_waits (.attest p) .attest p s d _ rfl accepts runs rfl
  have chans : t.dev.chans = d.chans := by rw [dev]
  exact ⟨t, goes, waits, chans.trans (pendingDev_only .attest p s.dev).1⟩

theorem attest_reports {p : HostPost} {s : State} {g : Ch} (accepts : Accepts .attest p s) :
    let a := commandOf .attest p s.dev
    let bytes := reportBytes s.dev a g (takenEntries a s.dev)
    AttestLegal a s.dev g → laterRooms a s.dev = [] → ReportFits a s.dev g (takenEntries a s.dev) →
    ∃ t, exec (.attest p) s = .next t ∧ Answers .attest p s t .ok [BitVec.ofNat 32 bytes.length] ∧
      .regionWrite p.fn (par a.params 64 4) (par a.params 128 64) bytes ∈ t.dev.out ∧
      t.dev.chans = s.dev.chans ∧ t.dev.suites = s.dev.suites := by
  intro a bytes legal none_later fits
  let d := pendingDev .attest p s.dev
  have report := finishReport_of_fits (legal.pending .attest p).signer (fits.pending .attest p)
  have runs : runOp .attest a d = (send { d with free := d.free + 1 } (.regionWrite p.fn (par a.params 64 4) (par a.params 128 64) bytes),
      .done .ok [BitVec.ofNat 32 bytes.length]) := by
    show runAttest a d = _
    rw [runAttest_of_legal (legal.pending .attest p), laterRooms_pendingDev, takenEntries_pendingDev, none_later, report, reportBytes_pendingDev]
    rfl
  obtain ⟨chans, suites, -⟩ := pendingDev_only .attest p s.dev
  exact post_writes (i := .attest p) rfl accepts runs rfl chans suites

/-! ## QUERY_ACCOUNTING (R545, R678) -/

/-- What QUERY_ACCOUNTING asks: a scope with what it names, and a space in host memory that its report fits and that is reached. -/
structure AccountLegal (a : Accepted) (d : Device) : Prop where
  reserved : reservedClear a.params [(0, 8), (128, 4), (192, 64), (256, 64)] = true
  scope : par a.params 6 2 ≠ 3
  suite : par a.params 6 2 ≠ 2 → suiteExists d a.suite = true
  room : par a.params 6 2 = 0 → (namedRoom d a.suite (par a.params 0 6)).created = true ∧ mayName a (namedRoom d a.suite (par a.params 0 6)) = true
  region : regionAllows (queryChan a d (par a.params 6 2 == 2)) hostKinds 4096 (par a.params 128 4) (par a.params 192 64) (par a.params 256 64) = true
  fits : (accountReport a d).length ≤ par a.params 256 64
  reached : accessFails d (queryChan a d (par a.params 6 2 == 2)) a.data (par a.params 128 4) = false

theorem AccountLegal.pending {a : Accepted} {d : Device} (h : AccountLegal a d) (op : HostOp) (p : HostPost) : AccountLegal a (pendingDev op p d) where
  reserved := h.reserved
  scope := h.scope
  suite := by simpa using h.suite
  room := by simpa using h.room
  region := by simpa using h.region
  fits := by simpa using h.fits
  reached := by simpa using h.reached

theorem runQueryAccounting_of_legal {a : Accepted} {d : Device} (h : AccountLegal a d) :
    runQueryAccounting a d = (send d (.regionWrite a.fn (par a.params 128 4) (par a.params 192 64) (accountReport a d)),
      .done .ok [BitVec.ofNat 32 (accountReport a d).length]) := by
  have known : (par a.params 6 2 == 3) = false := beq_eq_false_iff_ne.mpr h.scope
  have suite : (par a.params 6 2 != 2 && !suiteExists d a.suite) = false := by
    cases device : par a.params 6 2 != 2
    · rfl
    · rw [h.suite (bne_iff_ne.mp device)]; rfl
  have room : (par a.params 6 2 == 0 &&
      (!(namedRoom d a.suite (par a.params 0 6)).created || !mayName a (namedRoom d a.suite (par a.params 0 6)))) = false := by
    cases one : par a.params 6 2 == 0
    · rfl
    · rw [(h.room (beq_iff_eq.mp one)).1, (h.room (beq_iff_eq.mp one)).2]; rfl
  unfold runQueryAccounting
  simp only [h.reserved, known, suite, room, h.region, Nat.not_lt.mpr h.fits, h.reached, Bool.not_true, Bool.or_self, Bool.false_eq_true, if_false]

theorem queryAccounting_reports {p : HostPost} {s : State} (accepts : Accepts .queryAccounting p s) :
    let a := commandOf .queryAccounting p s.dev
    let bytes := accountReport a s.dev
    AccountLegal a s.dev →
    ∃ t, exec (.queryAccounting p) s = .next t ∧ Answers .queryAccounting p s t .ok [BitVec.ofNat 32 bytes.length] ∧
      .regionWrite p.fn (par a.params 128 4) (par a.params 192 64) bytes ∈ t.dev.out ∧ t.dev.chans = s.dev.chans ∧ t.dev.suites = s.dev.suites := by
  intro a bytes legal
  have runs := runQueryAccounting_of_legal (legal.pending .queryAccounting p)
  rw [accountReport_pendingDev] at runs
  obtain ⟨chans, suites, -⟩ := pendingDev_only .queryAccounting p s.dev
  exact post_writes (i := .queryAccounting p) (op := .queryAccounting) rfl accepts runs rfl chans suites

/-! ## QUERY_FAULTS (R615, R616) -/

/-- The fields of QUERY_FAULTS beside which its parameters hold nothing. -/
def faultFields : List (Nat × Nat) := [(0, 5), (64, 64), (128, 4), (192, 64), (256, 64)]

/-- Without a space QUERY_FAULTS answers the summary alone. -/
theorem runQueryFaults_of_no_space {a : Accepted} (d : Device) (reserved : reservedClear a.params faultFields = true)
    (space : par a.params 256 64 = 0) : runQueryFaults a d = (d, .done .ok (0 :: summaryWords d)) := by
  unfold faultFields at reserved
  unfold runQueryFaults
  simp only [reserved, space, bne_self_eq_false, Bool.not_true, Bool.false_and, Bool.or_self, Bool.false_eq_true, if_false, if_true]

/-- What QUERY_FAULTS asks of a space in host memory. -/
structure FaultSpace (a : Accepted) (d : Device) : Prop where
  reserved : reservedClear a.params faultFields = true
  space : par a.params 256 64 ≠ 0
  region : regionAllows (queryChan a d true) hostKinds 4096 (par a.params 128 4) (par a.params 192 64) (par a.params 256 64) = true
  reached : accessFails d (queryChan a d true) a.data (par a.params 128 4) = false

theorem FaultSpace.pending {a : Accepted} {d : Device} (h : FaultSpace a d) (op : HostOp) (p : HostPost) : FaultSpace a (pendingDev op p d) where
  reserved := h.reserved
  space := h.space
  region := by simpa using h.region
  reached := by simpa using h.reached

/-- The fault report as it goes out: a report of no bytes is not written. -/
def sendFaults (a : Accepted) (d : Device) (bytes : List Byte) : Device :=
  if bytes.isEmpty then d else send d (.regionWrite a.fn (par a.params 128 4) (par a.params 192 64) bytes)

theorem sendFaults_keeps (a : Accepted) (d : Device) (bytes : List Byte) :
    (sendFaults a d bytes).fy = d.fy ∧ (sendFaults a d bytes).chans = d.chans := by
  unfold sendFaults
  split
  · exact ⟨rfl, rfl⟩
  · exact ⟨rfl, rfl⟩

theorem mem_out_sendFaults {a : Accepted} {bytes : List Byte} (some_bytes : bytes ≠ []) (d : Device) :
    .regionWrite a.fn (par a.params 128 4) (par a.params 192 64) bytes ∈ (sendFaults a d bytes).out := by
  unfold sendFaults
  rw [if_neg (by simpa using some_bytes)]
  exact List.mem_cons_self ..

theorem runQueryFaults_of_space {a : Accepted} {d : Device} (h : FaultSpace a d) :
    runQueryFaults a d = (sendFaults a d (faultReport a d), .done .ok (BitVec.ofNat 32 (faultReport a d).length :: summaryWords d)) := by
  have reserved := h.reserved
  unfold faultFields at reserved
  unfold runQueryFaults
  simp only [reserved, h.region, h.space, h.reached, Bool.not_true, Bool.and_false, Bool.or_self, Bool.false_eq_true, if_false]
  rfl

theorem queryFaults_summary {p : HostPost} {s : State} (accepts : Accepts .queryFaults p s) :
    let a := commandOf .queryFaults p s.dev
    reservedClear a.params faultFields = true → par a.params 256 64 = 0 →
    ∃ t, exec (.queryFaults p) s = .next t ∧ Answers .queryFaults p s t .ok (0 :: summaryWords s.dev) ∧ t.dev.chans = s.dev.chans := by
  intro a reserved space
  have runs := runQueryFaults_of_no_space (pendingDev .queryFaults p s.dev) reserved space
  rw [summaryWords_pendingDev] at runs
  obtain ⟨t, goes, kept, answers⟩ := post_answers (.queryFaults p) .queryFaults p s _ _ _ rfl accepts runs rfl
  exact ⟨t, goes, answers, kept.1.trans (pendingDev_only ..).1⟩

theorem queryFaults_reports {p : HostPost} {s : State} (accepts : Accepts .queryFaults p s) :
    let a := commandOf .queryFaults p s.dev
    let bytes := faultReport a s.dev
    FaultSpace a s.dev →
    ∃ t, exec (.queryFaults p) s = .next t ∧ Answers .queryFaults p s t .ok (BitVec.ofNat 32 bytes.length :: summaryWords s.dev) ∧
      (bytes ≠ [] → .regionWrite p.fn (par a.params 128 4) (par a.params 192 64) bytes ∈ t.dev.out) ∧ t.dev.chans = s.dev.chans := by
  intro a bytes legal
  have runs := runQueryFaults_of_space (legal.pending .queryFaults p)
  rw [faultReport_pendingDev, summaryWords_pendingDev] at runs
  obtain ⟨fy, chans⟩ := sendFaults_keeps a (pendingDev .queryFaults p s.dev) bytes
  obtain ⟨t, goes, kept, answers, sent⟩ :=
    post_answers_sent (i := .queryFaults p) (op := .queryFaults) rfl accepts runs (congrArg Foyer.fns fy)
  exact ⟨t, goes, answers, fun some_bytes => sent _ (mem_out_sendFaults some_bytes _), kept.1.trans (chans.trans (pendingDev_only ..).1)⟩

/-! ## The three queries together -/

/-- Settles O36: each command's run from the device that its post leaves pending, whose report is that of the device before the post. -/
theorem queriesReport : Obligations.QueriesReport := by
  unfold Obligations.QueriesReport
  intro p s
  refine ⟨?attest, ?account, ?faults⟩
  case attest =>
    intro a u rooms later taken accepts reserved named g signer region
    have legal : AttestLegal a s.dev g := ⟨reserved, named, signer, region⟩
    exact ⟨attest_waits accepts legal,
      fun none_later fits signs key reached => attest_reports accepts legal none_later ⟨fits, signs, key, reached⟩⟩
  case account =>
    intro a scope r x bytes accepts reserved known suite room region fits reached
    exact queryAccounting_reports accepts ⟨reserved, known, suite, room, region, fits, reached⟩
  case faults =>
    intro a x n bytes accepts reserved
    exact ⟨queryFaults_summary accepts reserved,
      fun space region reached => queryFaults_reports accepts ⟨reserved, space, region, reached⟩⟩

end Sys2Proof.Machine

end

section

namespace Sys2Proof.Machine

/-! ## A step and its queue -/

/-- Settles O1: `step` on a queue that is not empty. -/
theorem stepRunsFrontCommand : Obligations.StepRunsFrontCommand := by
  unfold Obligations.StepRunsFrontCommand
  intro c rest s front
  unfold step
  rw [front]

/-- What a command answers with the state's own queue keeps that queue. -/
theorem pending_of_next {s t : State} {b : Board} {d : Device}
    (h : (.next { s with board := b, dev := d } : Out) = .next t) : t.pending = s.pending := by
  cases h
  rfl

/-- Settles O3: every arm answers the state with another board and device alone, and a REGISTER_WRITE does so where it does not fault. -/
theorem commandsKeepTheQueue : Obligations.CommandsKeepTheQueue := by
  unfold Obligations.CommandsKeepTheQueue
  intro i s t goes
  cases i with
  | registerWrite g v =>
    change execRegisterWrite g v s = _ at goes
    unfold execRegisterWrite at goes
    split at goes
    · exact pending_of_next goes
    · cases goes
  | _ => exact pending_of_next goes

/-! ## What of the board the channels' commands leave -/

theorem unshown_of_next {s t : State} {b : Board} {d : Device}
    (h : (.next { s with board := b, dev := d } : Out) = .next t) (hb : unshown b = unshown s.board) : unshown t.board = unshown s.board := by
  cases h
  exact hb

/-- Settles O8: a command of a channel shows PWR_STATUS anew at most, and every other command is one of those excepted. -/
theorem otherCommandsKeepBoard : Obligations.OtherCommandsKeepBoard := by
  unfold Obligations.OtherCommandsKeepBoard
  intro i s t other goes
  cases i with
  | vauxRise | sysResetNRise | sysResetNFall | vcorePgRise | channelControllerRelease | vcorePgTimeout
  | bootImageReadDone | vstkPgRise | vstkPgTimeout | stackPairPower | stackTrained | voptPgRise | voptPgTimeout
  | arraySelfTestDone | vcorePgFall | railPgFall | thermtrip | vauxRemove | fyBootGo
  | powerEstimate | ioutCorrection | pmbAlert | monitorRecovery | laserLightLoss | laserLightReturn
  | smbusPwrLimitWrite | registerWrite => cases other
  | sensorSample q =>
    refine unshown_of_next goes ?_
    unfold sensorSample
    split <;> rfl
  | _ => exact unshown_of_next goes rfl

/-! ## The sequencer's legal states (R721, R728, R730, R735) -/

/-- The sequencer's legal states as facts, one for each thing that the stage decides. -/
structure LegalStage (b : Board) (q : Nat) : Prop where
  stage : q = 0 ∨ q = 2 ∨ q = 3 ∨ q = 5 ∨ q = 6 ∨ q = 7 ∨ q = 8 ∨ q = 9 ∨ q = 11
  vaux : b.vaux = !(q == 0)
  runs : 3 ≤ q ∧ q ≤ 9 → b.resetHigh = true ∧ b.loops = 0b11111 ∧ b.thermtrip = false
  standby : q = 0 ∨ q = 2 → b.loops = 0
  tripped : b.thermtrip = true → (q = 2 ∨ q = 11) ∧ b.loops = 0
  stopped : q = 11 → b.thermtrip = true ∨ b.resetHigh = true
  foyer : q ≠ 11 → b.foyerOn = decide (5 ≤ q ∧ q ≤ 9)
  firmware : b.firmware = decide (6 ≤ q ∧ q ≤ 9)
  ready : b.readyOut = (q == 9)
  stackRail : b.pwr.vstkOn = true → 6 ≤ q ∧ q ≤ 9
  stackStage : q = 6 → b.pwr.vstkOn = true
  opticsRail : b.pwr.voptOn = true → 8 ≤ q ∧ q ≤ 9
  coreGood : b.pwr.pg.getLsbD 0 = true → (5 ≤ q ∧ q ≤ 9) ∨ q = 11
  stackGood : b.pwr.pg.getLsbD 1 = true → b.pwr.vstkOn = true ∧ 7 ≤ q
  opticsGood : b.pwr.pg.getLsbD 2 = true → b.pwr.voptOn = true
  released : b.released ≤ 4
  pairs : b.pairs ≤ 8

theorem legalBoard_iff (b : Board) : legalBoard b = true ↔ LegalStage b b.pwr.seq.toNat := by
  unfold legalBoard
  constructor
  · intro h
    simp only [Bool.and_eq_true, Bool.or_eq_true, Bool.not_eq_true', List.contains_eq_mem, decide_eq_true_eq, beq_iff_eq, List.mem_cons, List.not_mem_nil, or_false] at h
    constructor <;> grind
  · rintro ⟨⟩
    simp only [Bool.and_eq_true, Bool.or_eq_true, Bool.not_eq_true', List.contains_eq_mem, decide_eq_true_eq, beq_iff_eq, List.mem_cons, List.not_mem_nil, or_false]
    and_intros <;> grind

theorem LegalStage.of_legal {b : Board} {q : BitVec 4} (h : legalBoard b = true) (hq : b.pwr.seq = q) : LegalStage b q.toNat :=
  hq ▸ (legalBoard_iff b).mp h

/-- A change of the board that ends in a legal state and does not release THERMTRIP_N. -/
structure LegalMove (b b' : Board) : Prop where
  legal : legalBoard b' = true
  trip : b.thermtrip = true → b'.thermtrip = true

theorem LegalMove.refl {b : Board} (h : legalBoard b = true) : LegalMove b b := ⟨h, id⟩

theorem LegalMove.trans {a b c : Board} (h : LegalMove a b) (g : LegalMove b c) : LegalMove a c := ⟨g.legal, fun ht => g.trip (h.trip ht)⟩

/-- What PWR_STATUS shows of the channels is no part of the sequencer's state. -/
theorem LegalMove.of_unshown {b b' : Board} (h : legalBoard b = true) (hb : unshown b' = unshown b) : LegalMove b b' :=
  ⟨(congrArg legalBoard hb : legalBoard (unshown b') = _).trans h, fun ht => (congrArg Board.thermtrip hb : _).trans ht⟩

theorem legalMove_showPower {b : Board} (h : legalBoard b = true) (d : Device) : LegalMove b (showPower b d) := .of_unshown h rfl

/-- A move to stage q. -/
theorem LegalMove.to_stage {b b' : Board} {q : BitVec 4} (hq : b'.pwr.seq = q) (l : LegalStage b' q.toNat)
    (ht : b.thermtrip = true → b'.thermtrip = true) : LegalMove b b' := ⟨(legalBoard_iff b').mpr (hq ▸ l), ht⟩

/-! ## Moves of the sequencer, in the order of the stages -/

/-- Every loop, rail and enable is off, and nothing of the foyer runs. -/
def AllOff (b : Board) : Prop := railsOff b b.pwr.seq = b

/-- With everything off the sequencer stands legally at stage 2, and after a trip or with SYS_RESET_N high at stage 11. -/
theorem AllOff.stage {b : Board} {q : Nat} (h : AllOff b) (hv : b.vaux = true)
    (hq : q = 2 ∨ q = 11 ∧ (b.thermtrip = true ∨ b.resetHigh = true)) : LegalStage b q := by
  rw [← (h : railsOff b b.pwr.seq = b)]
  unfold railsOff
  rcases hq with rfl | ⟨rfl, held⟩ <;> constructor <;> simp_all

theorem legalMove_vauxRise (ssc : Bool) {b : Board} (d : Device) (h : legalBoard b = true) : LegalMove b (vauxRise ssc b d).1 := by
  unfold vauxRise
  split
  · exact .refl h
  · next off =>
    have l := (legalBoard_iff b).mp h
    refine .to_stage (q := 2) rfl (AllOff.stage rfl rfl (.inl rfl)) fun tripped => ?_
    grind [l.vaux, l.tripped tripped]

theorem legalMove_sysResetFall {b : Board} (d : Device) (h : legalBoard b = true) : LegalMove b (sysResetFall b d).1 := by
  unfold sysResetFall
  split
  · exact .refl h
  · next high =>
    have hv : b.vaux = true := by simp_all
    exact .to_stage (q := 2) rfl (AllOff.stage rfl hv (.inl rfl)) id

theorem legalMove_vcorePgTimeout {b : Board} (h : legalBoard b = true) : LegalMove b (vcorePgTimeout b) := by
  unfold vcorePgTimeout
  split
  · next hs =>
    have l := LegalStage.of_legal h hs
    exact .to_stage (q := 2) rfl (AllOff.stage rfl l.vaux (.inl rfl)) id
  · exact .refl h

theorem legalMove_vcorePgFall {b : Board} (d : Device) (h : legalBoard b = true) : LegalMove b (vcorePgFall b d).1 := by
  unfold vcorePgFall
  split
  · next on =>
    have l := (legalBoard_iff b).mp h
    have hv : b.vaux = true := by grind [l.vaux, l.foyer]
    have held : b.thermtrip = true ∨ b.resetHigh = true := by grind [l.stage, l.foyer, l.runs, l.stopped]
    exact .to_stage (q := 11) rfl (AllOff.stage rfl hv (.inr ⟨rfl, held⟩)) id
  · exact .refl h

theorem legalMove_thermTrip {b : Board} (d : Device) (h : legalBoard b = true) : LegalMove b (thermTrip b d).1 := by
  unfold thermTrip
  split
  · next trips => exact .to_stage (q := 11) rfl (AllOff.stage rfl trips.1 (.inr ⟨rfl, .inl rfl⟩)) fun _ => rfl
  · exact .refl h

theorem legalMove_sysResetRise (compat : Bool) (sel : BitVec 2) (adr : BitVec 3) {b : Board} (d : Device) (h : legalBoard b = true) :
    LegalMove b (sysResetRise compat sel adr b d).1 := by
  unfold sysResetRise
  split
  · exact .refl h
  · next free =>
    obtain ⟨⟨hv, hr⟩, ht⟩ : (b.vaux = true ∧ b.resetHigh = false) ∧ b.thermtrip = false := by simpa [not_or] using free
    have l := (legalBoard_iff b).mp h
    have waits : b.pwr.seq.toNat = 2 := by grind [l.stage, l.vaux, l.runs, l.stopped]
    rw [waits] at l
    refine .to_stage (q := 3) rfl ?_ id
    obtain ⟨⟩ := l
    constructor <;> simp_all

theorem legalMove_vcorePgRise {b : Board} (h : legalBoard b = true) : LegalMove b (vcorePgRise b) := by
  unfold vcorePgRise
  split
  · next hs =>
    obtain ⟨⟩ := LegalStage.of_legal h hs
    refine .to_stage (q := 5) rfl ?_ id
    constructor <;> simp_all
  · exact .refl h

theorem legalMove_controllerRelease (ok : Bool) {b : Board} (d : Device) (h : legalBoard b = true) :
    LegalMove b (controllerRelease ok b d).1 := by
  unfold controllerRelease
  split
  · next hs =>
    obtain ⟨⟩ := LegalStage.of_legal h hs.1
    refine .to_stage (q := 5) hs.1 ?_ id
    constructor <;> simp_all
  · exact .refl h

/-- A boot image that is accepted starts the firmware and asserts VSTK_EN, and none stops the start-up (R724). -/
theorem LegalStage.booted {b : Board} (l : LegalStage b 5) (boot : FyBoot) :
    LegalStage { b with pwr := { b.pwr with seq := 6, bflBusy := false, vstkOn := true }, boot := boot, firmware := true, latches := [] } 6 := by
  obtain ⟨⟩ := l
  constructor <;> simp_all

theorem LegalStage.unbooted {b : Board} (l : LegalStage b 5) (boot : FyBoot) :
    LegalStage { b with pwr := { b.pwr with seq := 11, bflBusy := false }, faultStop := true, boot := boot } 11 := by
  obtain ⟨⟩ := l
  constructor <;> simp_all

theorem legalMove_bootImageReadDone (r : Quad BootRead) {b : Board} (d : Device) (h : legalBoard b = true) :
    LegalMove b (bootImageReadDone r b d).1 := by
  unfold bootImageReadDone
  split
  · next hs =>
    have l := LegalStage.of_legal h hs.1
    dsimp only
    split
    · exact .to_stage (q := 11) rfl (l.unbooted _) id
    · exact .to_stage (q := 6) rfl (l.booted _) id
  · exact .refl h

theorem legalMove_vstkPgRise {b : Board} (d : Device) (h : legalBoard b = true) : LegalMove b (vstkPgRise b d).1 := by
  unfold vstkPgRise
  split
  · next hs =>
    obtain ⟨⟩ := LegalStage.of_legal h hs
    refine .to_stage (q := 7) rfl ?_ id
    constructor <;> simp_all
  · exact .refl h

theorem legalMove_vstkPgTimeout {b : Board} (h : legalBoard b = true) : LegalMove b (vstkPgTimeout b) := by
  unfold vstkPgTimeout
  split
  · next hs =>
    obtain ⟨⟩ := LegalStage.of_legal h hs
    refine .to_stage (q := 8) rfl ?_ id
    constructor <;> simp_all
  · exact .refl h

theorem legalMove_stackPairPower {b : Board} (d : Device) (h : legalBoard b = true) : LegalMove b (stackPairPower b d).1 := by
  unfold stackPairPower
  split
  · next hs =>
    obtain ⟨⟩ := LegalStage.of_legal h hs.1
    refine .to_stage (q := 7) hs.1 ?_ id
    constructor <;> simp_all
  · exact .refl h

/-- The last stack of all asserts VOPT_EN. -/
theorem LegalStage.allTrained {b : Board} (l : LegalStage b 7) (n : Nat) :
    LegalStage { b with trained := n, pwr := { b.pwr with seq := 8, voptOn := true } } 8 := by
  obtain ⟨⟩ := l
  constructor <;> simp_all

theorem legalMove_stackTrained (c st : Ch) (ok : Bool) {b : Board} (d : Device) (h : legalBoard b = true) :
    LegalMove b (stackTrained c st ok b d).1 := by
  unfold stackTrained
  dsimp only
  split
  · next hs =>
    by_cases last : b.trained + 1 = 16
    · simp only [last, ↓reduceIte]
      exact .to_stage (q := 8) rfl ((LegalStage.of_legal h hs.1).allTrained _) id
    · simp only [last, ↓reduceIte]
      exact ⟨h, id⟩
  · exact .refl h

theorem legalMove_voptPgRise {b : Board} (d : Device) (h : legalBoard b = true) : LegalMove b (voptPgRise b d).1 := by
  unfold voptPgRise
  split
  · next hs =>
    obtain ⟨⟩ := LegalStage.of_legal h hs.1
    refine .to_stage (q := 8) hs.1 ?_ id
    constructor <;> simp_all
  · exact .refl h

theorem legalMove_voptPgTimeout {b : Board} (d : Device) (h : legalBoard b = true) : LegalMove b (voptPgTimeout b d).1 := by
  unfold voptPgTimeout
  split
  · next hs =>
    obtain ⟨⟩ := LegalStage.of_legal h hs.1
    refine .to_stage (q := 8) hs.1 ?_ id
    constructor <;> simp_all
  · exact .refl h

theorem LegalStage.started {b : Board} (l : LegalStage b 8) (boot : FyBoot) :
    LegalStage { b with pwr := { b.pwr with seq := 9 }, readyOut := b.firmware, boot := boot } 9 := by
  obtain ⟨⟩ := l
  constructor <;> simp_all

theorem legalMove_arraySelfTestDone (r : Quad SelfTest) {b : Board} (d : Device) (h : legalBoard b = true) :
    LegalMove b (arraySelfTestDone r b d).1 := by
  unfold arraySelfTestDone
  split
  · next hs =>
    have ended : LegalMove b (selfTestEnd r b d).1 := .to_stage (q := 9) rfl ((LegalStage.of_legal h hs).started _) id
    exact ended.trans (legalMove_showPower ended.legal _)
  · exact .refl h

/-- A rail that is lost takes its power-good signal with it (R730). -/
theorem LegalStage.stacksLost {b : Board} {q : Nat} (l : LegalStage b q) (good : b.pwr.pg.getLsbD 1 = true) :
    LegalStage { b with pwr := { b.pwr with vstkOn := false, pg := b.pwr.pg &&& 5 } } q := by
  have late : q ≠ 6 := by have := (l.stackGood good).2; omega
  obtain ⟨⟩ := l
  constructor <;> simp_all

theorem LegalStage.opticsLost {b : Board} {q : Nat} (l : LegalStage b q) :
    LegalStage { b with pwr := { b.pwr with voptOn := false, pg := b.pwr.pg &&& 3 } } q := by
  obtain ⟨⟩ := l
  constructor <;> simp_all

theorem unshown_stacksLost (b : Board) (d : Device) (g : BitVec 3) :
    unshown { showPower b d with pwr := { (showPower b d).pwr with vstkOn := false, pg := g } } =
      unshown { b with pwr := { b.pwr with vstkOn := false, pg := g } } := rfl

theorem unshown_opticsLost (b : Board) (d : Device) (g : BitVec 3) :
    unshown { showPower b d with pwr := { (showPower b d).pwr with voptOn := false, pg := g } } =
      unshown { b with pwr := { b.pwr with voptOn := false, pg := g } } := rfl

theorem legalMove_railPgFall (opt : Bool) {b : Board} (d : Device) (h : legalBoard b = true) : LegalMove b (railPgFall opt b d).1 := by
  have l := (legalBoard_iff b).mp h
  unfold railPgFall
  split
  · split
    · exact .refl h
    · have lost : LegalMove b { b with pwr := { b.pwr with voptOn := false, pg := b.pwr.pg &&& 3 } } :=
        .to_stage (q := b.pwr.seq) rfl l.opticsLost id
      exact lost.trans (.of_unshown lost.legal (unshown_opticsLost ..))
  · split
    · exact .refl h
    · next works =>
      have good : b.pwr.pg.getLsbD 1 = true := by simp_all
      have lost : LegalMove b { b with pwr := { b.pwr with vstkOn := false, pg := b.pwr.pg &&& 5 } } :=
        .to_stage (q := b.pwr.seq) rfl (l.stacksLost good) id
      exact lost.trans (.of_unshown lost.legal (unshown_stacksLost ..))

/-! ## Registers of the board -/

/-- GO is read by no other fact of the sequencer. -/
theorem legalMove_fyBootGo (p : Bool) {b : Board} (h : legalBoard b = true) : LegalMove b (fyBootGo p b) := by
  unfold fyBootGo
  split
  · exact ⟨h, id⟩
  · exact .refl h

theorem legalMove_bar2Word (w : RegWord) (p : Bool) (i j : Nat) (v : W64) {b : Board} (d : Device) (h : legalBoard b = true) :
    LegalMove b (bar2Word w p i j v b d).1 := by
  unfold bar2Word
  cases w
  case fyBoot2 =>
    dsimp only
    split
    · exact legalMove_fyBootGo p h
    · exact .refl h
  all_goals exact ⟨h, id⟩

theorem legalMove_writeTarget (g : RegTarget) (v : W64) {b : Board} (d : Device) (h : legalBoard b = true) :
    LegalMove b (writeTarget g v b d).1 := by
  unfold writeTarget
  cases g with
  | msixMask f n => exact .refl h
  | cmdArea f m off => exact .refl h
  | word w f c i j =>
    dsimp only
    cases spaceOf w with
    | ccs => exact .refl h
    | fn => exact .refl h
    | bar2 =>
      dsimp only
      split
      · exact legalMove_bar2Word _ _ _ _ _ _ h
      · exact .refl h

theorem legalMove_withEnergy {b : Board} (h : legalBoard b = true) (e : PwrEnergy) : LegalMove b { b with energy := e } := ⟨h, id⟩
theorem legalMove_withLasers {b : Board} (h : legalBoard b = true) (l : Tab PwrLaser) : LegalMove b { b with lasers := l } := ⟨h, id⟩
theorem legalMove_withPmbAlert {b : Board} (h : legalBoard b = true) (d : Device) (p : Bool) :
    LegalMove b { showPower b d with pmbAlert := p } := ⟨h, id⟩
theorem legalMove_writeLimit {b : Board} (h : legalBoard b = true) (v : W64) : LegalMove b (writeLimit b v) := ⟨h, id⟩

theorem LegalMove.of_next {s t : State} {b : Board} {d : Device}
    (goes : (.next { s with board := b, dev := d } : Out) = .next t) (move : LegalMove s.board b) : LegalMove s.board t.board := by
  cases goes
  exact move

/-- Every command but the removal of VAUX moves the board legally. -/
theorem legalMove_exec (i : Instr) {s t : State} (other : i ≠ .vauxRemove) (h : legalBoard s.board = true) (goes : exec i s = .next t) :
    LegalMove s.board t.board := by
  cases i with
  | vauxRemove => exact absurd rfl other
  | vauxRise ssc => exact .of_next goes (legalMove_vauxRise ssc _ h)
  | sysResetNRise compat sel adr => exact .of_next goes (legalMove_sysResetRise compat sel adr _ h)
  | sysResetNFall => exact .of_next goes (legalMove_sysResetFall _ h)
  | vcorePgRise => exact .of_next goes (legalMove_vcorePgRise h)
  | channelControllerRelease ok => exact .of_next goes (legalMove_controllerRelease ok _ h)
  | vcorePgTimeout => exact .of_next goes (legalMove_vcorePgTimeout h)
  | bootImageReadDone r => exact .of_next goes (legalMove_bootImageReadDone r _ h)
  | vstkPgRise => exact .of_next goes (legalMove_vstkPgRise _ h)
  | vstkPgTimeout => exact .of_next goes (legalMove_vstkPgTimeout h)
  | stackPairPower => exact .of_next goes (legalMove_stackPairPower _ h)
  | stackTrained c st ok => exact .of_next goes (legalMove_stackTrained c st ok _ h)
  | voptPgRise => exact .of_next goes (legalMove_voptPgRise _ h)
  | voptPgTimeout => exact .of_next goes (legalMove_voptPgTimeout _ h)
  | arraySelfTestDone r => exact .of_next goes (legalMove_arraySelfTestDone r _ h)
  | vcorePgFall => exact .of_next goes (legalMove_vcorePgFall _ h)
  | railPgFall opt => exact .of_next goes (legalMove_railPgFall opt _ h)
  | thermtrip => exact .of_next goes (legalMove_thermTrip _ h)
  | fyBootGo p => exact .of_next goes (legalMove_fyBootGo p h)
  | powerEstimate e => exact .of_next goes (legalMove_withEnergy h _)
  | ioutCorrection uj => exact .of_next goes (legalMove_withEnergy h _)
  | pmbAlert f => exact .of_next goes (legalMove_withPmbAlert h ..)
  | monitorRecovery c m => exact .of_next goes (legalMove_withPmbAlert h ..)
  | laserLightLoss j =>
    have lost : LegalMove s.board (laserLoss j s.board s.dev).1 := legalMove_withLasers h _
    exact .of_next goes (lost.trans (legalMove_showPower lost.legal _))
  | laserLightReturn j uw => exact .of_next goes (legalMove_withLasers h _)
  | smbusPwrLimitWrite v =>
    refine .of_next goes ?_
    dsimp only
    split
    · exact legalMove_writeLimit h v
    · exact .refl h
  | registerWrite g v =>
    change execRegisterWrite g v s = _ at goes
    unfold execRegisterWrite at goes
    split at goes
    · have written := legalMove_writeTarget g v s.dev h
      exact .of_next goes (written.trans (legalMove_showPower written.legal _))
    · cases goes
  | _ => exact .of_unshown h (otherCommandsKeepBoard _ s t rfl goes)

/-- Settles O6: everything is off at reset. -/
theorem resetSequencerLegal : Obligations.ResetSequencerLegal := by
  unfold Obligations.ResetSequencerLegal
  rfl

/-- Settles O7: a command by the moves of the sequencer, the removal of VAUX as a reset, and the idle block by what it leaves alone. -/
theorem stepsKeepSequencerLegal : Obligations.StepsKeepSequencerLegal := by
  unfold Obligations.StepsKeepSequencerLegal
  intro s t h goes
  unfold step at goes
  split at goes
  · next i rest front =>
    by_cases removed : i = .vauxRemove
    · subst removed
      cases goes
      show legalBoard (vauxRemove s.board s.dev).1 = true
      unfold vauxRemove
      split
      · exact resetSequencerLegal
      · exact h
    · exact (legalMove_exec i (s := { s with pending := rest }) removed h goes).legal
  · cases goes
    unfold idleStep
    split <;> exact h

/-- Settles O9: every other move holds THERMTRIP_N, and a legal state with it low has every loop off and READY_OUT low. -/
theorem thermtripHoldsUntilVauxRemoved : Obligations.ThermtripHoldsUntilVauxRemoved := by
  unfold Obligations.ThermtripHoldsUntilVauxRemoved
  intro i s t other h tripped goes
  obtain ⟨legal, trip⟩ := legalMove_exec i other h goes
  have l := (legalBoard_iff t.board).mp legal
  obtain ⟨stage, loops⟩ := l.tripped (trip tripped)
  refine ⟨trip tripped, loops, ?_⟩
  grind [l.ready]

end Sys2Proof.Machine

end

section

namespace Sys2Proof.Machine

/-! ## The idle block -/

theorem idleStep_of_vaux {s : State} (on : s.board.vaux = true) :
    idleStep s = { s with dev := modChans s.dev Ch.all fun _ x => { x with porchUs := x.porchUs + 1 } } := if_pos on
theorem idleStep_of_no_vaux {s : State} (off : s.board.vaux = false) : idleStep s = s := if_neg (by rw [off]; exact Bool.false_ne_true)

theorem step_of_empty {s : State} (empty : s.pending = []) : step s = .next (idleStep s) := by
  unfold step
  rw [empty]

/-- Settles O2: with VAUX the Porch of each channel counts on, and without VAUX nothing runs. -/
theorem emptyQueueIdles : Obligations.EmptyQueueIdles := by
  unfold Obligations.EmptyQueueIdles
  intro s empty
  refine ⟨_, step_of_empty empty, ?_⟩
  cases vaux : s.board.vaux with
  | true =>
    rw [idleStep_of_vaux vaux]
    exact ⟨empty, rfl, modChans_fy .., modChans_suites .., modChans_out .., modChans_free .., fun c => chanOf_modChans_all ..⟩
  | false =>
    rw [idleStep_of_no_vaux vaux]
    exact ⟨empty, rfl, rfl, rfl, rfl, rfl, fun c => rfl⟩

end Sys2Proof.Machine

end

section

namespace Sys2Proof.Machine

/-! ## Stages 1 to 5 (R711, R721, R723, R744) -/

theorem vauxRise_of_off {b : Board} (off : b.vaux = false) (ssc : Bool) (d : Device) :
    vauxRise ssc b d = ({ vaux := true, pwr := { seq := 2, refSsc := ssc }, spread := !ssc },
      modChans d Ch.all fun _ x => { x with porchUs := 0, hist := { x.hist with lifeAtMs := 0 } }) := by
  unfold vauxRise
  rw [off]
  rfl

theorem sysResetRise_of_free {b : Board} (vaux : b.vaux = true) (low : b.resetHigh = false) (cool : b.thermtrip = false)
    (compat : Bool) (sel : BitVec 2) (adr : BitVec 3) (d : Device) :
    sysResetRise compat sel adr b d =
      ({ b with resetHigh := true, faultStop := false, pwr := { b.pwr with seq := 3, bflBusy := true }, loops := 0b11111,
                riseMs := devMs d, boot := { b.boot with bootSel := sel, smbAddr := adr } },
       { d with fy := { d.fy with dev := { d.fy.dev with compatH1 := compat } } }) := by
  unfold sysResetRise
  rw [vaux, low, cool]
  rfl

theorem vcorePgRise_of_stage {b : Board} (stage : b.pwr.seq = 3) :
    vcorePgRise b = { b with pwr := { b.pwr with seq := 5, pg := b.pwr.pg ||| 1 }, foyerOn := true } := if_pos stage
theorem vcorePgTimeout_of_stage {b : Board} (stage : b.pwr.seq = 3) : vcorePgTimeout b = { railsOff b 2 with faultStop := true } := if_pos stage

theorem controllerRelease_of_stage {b : Board} (stage : b.pwr.seq = 5) (more : b.released < 4) (ok : Bool) (d : Device) :
    controllerRelease ok b d = ({ b with released := b.released + 1 }, modChan d (Ch.ofNum b.released) fun x =>
      { x with released := ok, cmdCore := { x.cmdCore with up := ok }, hkCore := { x.hkCore with up := ok } }) := if_pos ⟨stage, more⟩

theorem fyBootGo_of_stage {b : Board} (stage : b.pwr.seq = 5) (sel : b.boot.bootSel = 2) (port : Bool) :
    fyBootGo port b = { b with goPort := some port } := if_pos ⟨sel, stage⟩

theorem getLsbD_or_pg {n : Nat} (pg m : BitVec n) {k : Nat} (h : m.getLsbD k = true) : (pg ||| m).getLsbD k = true := by
  rw [BitVec.getLsbD_or, h, Bool.or_true]

/-- Settles O10, event by event. -/
theorem startUpFirstStages : Obligations.StartUpFirstStages := by
  unfold Obligations.StartUpFirstStages
  intro s
  refine ⟨fun off ssc => ?vaux, fun vaux low cool compat sel adr => ?reset, fun stage => ?good, fun stage => ?late,
    fun stage more ok => ?release, fun stage sel port => ?go⟩
  case vaux =>
    refine ⟨_, rfl, ?_⟩
    rw [vauxRise_of_off off]
    exact ⟨rfl, rfl, rfl, rfl, rfl, fun c => congrArg Channel.porchUs (chanOf_modChans_all ..)⟩
  case reset =>
    refine ⟨_, rfl, ?_⟩
    rw [sysResetRise_of_free vaux low cool]
    exact ⟨rfl, rfl, rfl, rfl, rfl, rfl, rfl, rfl⟩
  case good =>
    refine ⟨_, rfl, ?_⟩
    dsimp only
    rw [vcorePgRise_of_stage stage]
    exact ⟨rfl, getLsbD_or_pg _ _ rfl, rfl, rfl⟩
  case late =>
    refine ⟨_, rfl, ?_⟩
    dsimp only
    rw [vcorePgTimeout_of_stage stage]
    exact ⟨rfl, rfl, rfl, rfl, rfl⟩
  case release =>
    refine ⟨_, rfl, ?_⟩
    rw [controllerRelease_of_stage stage more]
    exact ⟨rfl, congrArg Channel.released (chanOf_modChan_same ..), fun o other => chanOf_modChan_ne _ _ other⟩
  case go =>
    refine ⟨_, rfl, ?_⟩
    dsimp only
    rw [fyBootGo_of_stage stage sel]
    exact ⟨rfl, rfl⟩

/-! ## Stages 6 to 8 (R721, R723) -/

theorem vstkPgRise_of_stage {b : Board} (stage : b.pwr.seq = 6) (d : Device) :
    vstkPgRise b d = ({ b with pwr := { b.pwr with seq := 7, pg := b.pwr.pg ||| 2 }, pairs := 1 }, powerPair d 0) := if_pos stage
theorem vstkPgTimeout_of_stage {b : Board} (stage : b.pwr.seq = 6) :
    vstkPgTimeout b = { b with pwr := { b.pwr with seq := 8, vstkOn := false, voptOn := true } } := if_pos stage
theorem stackPairPower_of_stage {b : Board} (stage : b.pwr.seq = 7) (more : b.pairs < 8) (d : Device) :
    stackPairPower b d = ({ b with pairs := b.pairs + 1 }, powerPair d b.pairs) := if_pos ⟨stage, more⟩

/-- A pair's two stacks are powered, on its channel alone. -/
theorem powerPair_powers (d : Device) (n : Nat) {k : Ch} (hk : k.num / 2 = n % 2) :
    ((chanOf (powerPair d n) (Ch.ofNum (n / 2))).memStacks.get k).powered = true := by
  unfold powerPair
  rw [chanOf_modChan_same]
  dsimp only
  split
  · next even => cases k <;> simp_all [Ch.num, Quad.get, Quad.set]
  · next odd => cases k <;> simp_all [Ch.num, Quad.get, Quad.set]

theorem chanOf_powerPair_ne (d : Device) (n : Nat) {o : Ch} (h : o ≠ Ch.ofNum (n / 2)) : chanOf (powerPair d n) o = chanOf d o :=
  chanOf_modChan_ne _ _ h

theorem stackTrained_of_powered {b : Board} {d : Device} {c st : Ch} (stage : b.pwr.seq = 7)
    (powered : ((chanOf d c).memStacks.get st).powered = true) (new : ((chanOf d c).memStacks.get st).trained = false) (ok : Bool) :
    stackTrained c st ok b d =
      ({ b with trained := b.trained + 1, pwr := if b.trained + 1 = 16 then { b.pwr with seq := 8, voptOn := true } else b.pwr },
       modChan d c fun x => { x with memStacks := x.memStacks.set st { (chanOf d c).memStacks.get st with
         trained := true, reg := { ((chanOf d c).memStacks.get st).reg with up := ok } } }) :=
  if_pos ⟨stage, powered, by rw [new]; rfl⟩

theorem voptPgRise_of_stage {b : Board} (stage : b.pwr.seq = 8) (on : b.pwr.voptOn = true) (d : Device) :
    voptPgRise b d = ({ b with pwr := { b.pwr with pg := b.pwr.pg ||| 4 } }, ungate d) := if_pos ⟨stage, on⟩
theorem voptPgTimeout_of_stage {b : Board} (stage : b.pwr.seq = 8) (on : b.pwr.voptOn = true) (low : b.pwr.pg.getLsbD 2 = false) (d : Device) :
    voptPgTimeout b d = ({ b with pwr := { b.pwr with voptOn := false } }, modChans (ungate d) Ch.all fun _ x => allPorts x 5) :=
  if_pos ⟨stage, on, by rw [low]; rfl⟩

/-- Each of the four ports takes the STATE. -/
theorem allPorts_state (x : Channel) (st : BitVec 3) {p : Nat} (hp : p < 4) : (tget {} (allPorts x st).ports p).state = st := by
  unfold allPorts
  have set := foldl_forall_mem (f := fun (t : Tab FabPort) p => tmod {} t p fun q => { q with state := st })
    (P := fun t p => (tget {} t p).state = st) (fun t a => by rw [tget_tmod_same])
    (fun t a k h => by
      by_cases same : k = a
      · rw [same, tget_tmod_same]
      · rw [tget_tmod_ne _ _ _ _ _ same, h]) (List.range 4) x.ports
  exact set p (List.mem_range.mpr hp)

/-- Settles O12, event by event. -/
theorem startUpStacksAndOptics : Obligations.StartUpStacksAndOptics := by
  unfold Obligations.StartUpStacksAndOptics
  intro s
  refine ⟨fun stage => ?good, fun stage => ?late, fun stage more => ?pair, fun c st ok stage powered new => ?trained,
    fun stage on => ?optics, fun stage on low => ?dark⟩
  case good =>
    refine ⟨_, rfl, ?_⟩
    rw [vstkPgRise_of_stage stage]
    exact ⟨rfl, getLsbD_or_pg _ _ rfl, powerPair_powers s.dev 0 (k := .c0) rfl, powerPair_powers s.dev 0 (k := .c1) rfl,
      fun o other => chanOf_powerPair_ne _ _ other⟩
  case late =>
    refine ⟨_, rfl, ?_⟩
    dsimp only
    rw [vstkPgTimeout_of_stage stage]
    exact ⟨rfl, rfl, rfl, rfl⟩
  case pair =>
    refine ⟨_, rfl, ?_⟩
    rw [stackPairPower_of_stage stage more]
    exact ⟨rfl, fun k hk => powerPair_powers _ _ hk⟩
  case trained =>
    refine ⟨_, rfl, ?_⟩
    rw [stackTrained_of_powered stage powered new]
    refine ⟨rfl, ?_, ?_, fun last => ?_, fun more => ?_⟩
    · rw [chanOf_modChan_same, Quad.get_set_same]
    · rw [chanOf_modChan_same, Quad.get_set_same]
    · simp [last]
    · simp [more]
  case optics =>
    refine ⟨_, rfl, ?_⟩
    rw [voptPgRise_of_stage stage on]
    exact ⟨getLsbD_or_pg _ _ rfl, fun c => congrArg Channel.arrayOn (chanOf_modChans_all ..)⟩
  case dark =>
    refine ⟨_, rfl, ?_⟩
    rw [voptPgTimeout_of_stage stage on low]
    refine ⟨rfl, fun c p hp => ?_⟩
    rw [chanOf_modChans_all]
    exact allPorts_state _ _ hp

end Sys2Proof.Machine

end

section

namespace Sys2Proof.Machine

/-! ## The end of start-up (R721, R726, R727) -/

/-- A channel once its array's self-test has ended. -/
def testedChan (t : SelfTest) (x : Channel) : Channel :=
  showFailed { x with
    started := true, units := t.units,
    failedCols := x.failedCols ++ t.cols.filter (fun i => !x.failedCols.contains i),
    failedRows := x.failedRows ++ t.rows.filter (fun i => !x.failedRows.contains i) }

/-- What fails now joins what was out of service. -/
theorem mem_append_new {l new : List Nat} {k : Nat} : k ∈ l ++ new.filter (fun i => !l.contains i) ↔ k ∈ l ∨ k ∈ new := mem_addAll_iff

theorem testedChan_spec (t : SelfTest) (x : Channel) :
    let y := testedChan t x
    y = { x with started := true, units := t.units, failedCols := y.failedCols, failedRows := y.failedRows, arrStatus :=
      { x.arrStatus with failedCols := BitVec.ofNat 7 y.failedCols.length, failedRows := BitVec.ofNat 6 y.failedRows.length } } ∧
    (∀ k, k ∈ y.failedCols ↔ k ∈ x.failedCols ∨ k ∈ t.cols) ∧ ∀ k, k ∈ y.failedRows ↔ k ∈ x.failedRows ∨ k ∈ t.rows :=
  ⟨rfl, fun _ => mem_append_new, fun _ => mem_append_new⟩

/-- The device at the end of start-up, before the posts that it held run. -/
def endedDev (r : Quad SelfTest) (d : Device) : Device :=
  let e := refresh (modChans d Ch.all fun c x => testedChan (r.get c) x)
  { e with fy := { e.fy with held := [] } }

theorem held_refresh (d : Device) : (refresh d).fy.held = d.fy.held := by rw [(refresh_keeps d).2.2.2]

theorem suites_endedDev (r : Quad SelfTest) (d : Device) : (endedDev r d).suites = d.suites := by
  unfold endedDev
  rw [refresh_suites, modChans_suites]

theorem chanOf_endedDev (r : Quad SelfTest) (d : Device) (c : Ch) : chanOf (endedDev r d) c = testedChan (r.get c) (chanOf d c) := by
  unfold endedDev
  exact (chanOf_refresh ..).trans (chanOf_modChans_all ..)

theorem arraySelfTestDone_of_stage {b : Board} (stage : b.pwr.seq = 8) (r : Quad SelfTest) (d : Device) :
    arraySelfTestDone r b d =
      let e := d.fy.held.foldl runHeld (endedDev r d)
      (showPower { b with pwr := { b.pwr with seq := 9 }, readyOut := b.firmware,
                          boot := { b.boot with bootMs := BitVec.ofNat 16 (devMs d - b.riseMs) } } e, e) := by
  have held : (refresh (modChans d Ch.all fun c x => testedChan (r.get c) x)).fy.held = d.fy.held := by rw [held_refresh, modChans_fy]
  have ended : (selfTestEnd r b d).2 = refresh (modChans d Ch.all fun c x => testedChan (r.get c) x) := rfl
  unfold arraySelfTestDone endedDev
  rw [if_pos stage]
  dsimp only
  rw [ended, held]
  rfl

/-- Settles O13: the channels by what the self-test leaves of each, and the posts that waited by their run in order. -/
theorem startUpEnds : Obligations.StartUpEnds := by
  unfold Obligations.StartUpEnds
  intro s r stage firmware
  refine ⟨_, endedDev r s.dev, rfl, ?_⟩
  rw [arraySelfTestDone_of_stage stage]
  refine ⟨rfl, firmware, rfl, rfl, rfl, suites_endedDev r s.dev, fun none_held => ?_, fun c => ?_⟩
  · show (s.dev.fy.held.foldl runHeld (endedDev r s.dev)).fy.held = []
    rw [none_held]
    rfl
  · intro x y
    have tested : y = testedChan (r.get c) x := chanOf_endedDev r s.dev c
    rw [tested]
    exact testedChan_spec (r.get c) x

/-! ## Losing power (R728 to R731, R735) -/

theorem chanOf_devOff (d : Device) (c : Ch) : chanOf (devOff d) c = chanOff (chanOf d c) c := by cases c <;> rfl

theorem sysResetFall_of_high {b : Board} (vaux : b.vaux = true) (high : b.resetHigh = true) (d : Device) :
    sysResetFall b d =
      ({ railsOff b 2 with
          resetHigh := false, faultStop := false, pmbAlert := false, pwr := { seq := 2, refSsc := b.pwr.refSsc },
          boot := { boots := b.boot.boots }, energy := {}, lasers := [] }, devOff d) := by
  unfold sysResetFall
  rw [vaux, high]
  rfl
theorem vcorePgFall_of_on {b : Board} (on : b.foyerOn = true) (d : Device) :
    vcorePgFall b d = ({ railsOff b 11 with faultStop := true, latches := b.latches ++ [devUs d] }, devOff d) := if_pos on
theorem thermTrip_of_cool {b : Board} (vaux : b.vaux = true) (cool : b.thermtrip = false) (d : Device) :
    thermTrip b d = ({ railsOff b 11 with thermtrip := true, latches := b.latches ++ [devUs d] }, devOff d) :=
  if_pos ⟨vaux, by rw [cool]; rfl⟩
theorem vauxRemove_of_vaux {b : Board} (vaux : b.vaux = true) (d : Device) :
    vauxRemove b d = ({}, modChans (devOff { d with fy := {} }) Ch.all fun _ x => { x with porchUs := 0 }) := if_pos vaux

/-- ALERT_N follows the board alone once every channel has lost power. -/
theorem alertLow_devOff (b : Board) (d : Device) : alertLow b (devOff d) = (b.faultStop || b.pmbAlert) := by
  have quiet : (Ch.all.any fun c => !(chanOf (devOff d) c).trips.isEmpty || (chanOf (devOff d) c).flt.draining) = false := by
    rw [List.any_eq_false]
    intro c _
    rw [chanOf_devOff]
    exact Bool.false_ne_true
  unfold alertLow
  rw [quiet]
  show (b.faultStop || b.pmbAlert || false || false) = _
  rw [Bool.or_false, Bool.or_false]

/-- Settles O14: the board of each event, and the one loss that all four make of the device. -/
theorem powerDownLosesContents : Obligations.PowerDownLosesContents := by
  unfold Obligations.PowerDownLosesContents
  intro s lost off porch compat
  have unpowered (t : State) (ht : t.dev = devOff s.dev) : lost t porch compat := by
    obtain ⟨p, b, d⟩ := t
    subst ht
    refine ⟨rfl, rfl, rfl, fun c => ?_⟩
    intro x y
    have y_eq : y = chanOff x c := chanOf_devOff s.dev c
    rw [y_eq]
    exact ⟨rfl, rfl, rfl, rfl, rfl, rfl, rfl, rfl, rfl, rfl, rfl, rfl, rfl, rfl, rfl, rfl, rfl⟩
  have none_on : ∀ t : State, (∃ n, railsOff t.board n = t.board) → off t := by
    rintro ⟨p, b, d⟩ ⟨n, rails⟩
    change railsOff b n = b at rails
    rw [← rails]
    exact ⟨rfl, rfl, rfl, rfl, rfl, rfl, rfl, rfl, rfl, rfl⟩
  refine ⟨fun vaux high => ?reset, fun on => ?core, fun vaux cool => ?trip, fun vaux => ?removed⟩
  case reset =>
    refine ⟨_, rfl, ?_⟩
    rw [sysResetFall_of_high vaux high]
    exact ⟨none_on _ ⟨2, rfl⟩, unpowered _ rfl, rfl, vaux, rfl, rfl, rfl, rfl, alertLow_devOff .., rfl, rfl⟩
  case core =>
    refine ⟨_, rfl, ?_⟩
    rw [vcorePgFall_of_on on]
    exact ⟨none_on _ ⟨11, rfl⟩, unpowered _ rfl, rfl, rfl, rfl, rfl, rfl, alertLow_devOff .., rfl⟩
  case trip =>
    refine ⟨_, rfl, ?_⟩
    rw [thermTrip_of_cool vaux cool]
    exact ⟨none_on _ ⟨11, rfl⟩, unpowered _ rfl, rfl, vaux, rfl, rfl, rfl, rfl⟩
  case removed =>
    refine ⟨_, rfl, ?_⟩
    rw [vauxRemove_of_vaux vaux]
    refine ⟨none_on _ ⟨0, rfl⟩, ⟨modChans_suites .., modChans_fy .., modChans_out .., fun c => ?_⟩, rfl⟩
    intro x y
    have y_eq : y = { chanOff x c with porchUs := 0 } :=
      (chanOf_modChans_all ..).trans (congrArg (fun z : Channel => { z with porchUs := 0 }) (chanOf_devOff { s.dev with fy := {} } c))
    rw [y_eq]
    exact ⟨rfl, rfl, rfl, rfl, rfl, rfl, rfl, rfl, rfl, rfl, rfl, rfl, rfl, rfl, rfl, rfl, rfl⟩

end Sys2Proof.Machine

end

section

namespace Sys2Proof.Machine

/-! ## Temperatures and the throttle step (R736 to R738) -/

theorem unshown_showPower (b : Board) (d : Device) : unshown (showPower b d) = unshown b := rfl

theorem sensorSample_of_vaux {b : Board} (vaux : b.vaux = true) (q : Quad Temps) (d : Device) :
    sensorSample q b d =
      (showPower b (modChans d Ch.all fun c x => sampleChan (q.get c) x), modChans d Ch.all fun c x => sampleChan (q.get c) x) := if_pos vaux
theorem sensorSample_of_no_vaux {b : Board} (off : b.vaux = false) (q : Quad Temps) (d : Device) : sensorSample q b d = (b, d) :=
  if_neg (by rw [off]; exact Bool.false_ne_true)

/-- A sample takes the readings; the step and its hold follow the hotter of them. -/
theorem sampleChan_spec (t : Temps) (x : Channel) :
    let y := sampleChan t x
    let T := max t.die.toNat t.stack.toNat
    y = { x with temp := t.die.toNat, stackTemp := t.stack.toNat, tjHold := y.tjHold, step := y.step, stepCause := y.stepCause } ∧
    (105 ≤ T → y.tjHold = true ∧ y.step = 16 ∧ y.stepCause = 1) ∧
    (T < 105 → y.step = x.step ∧ y.stepCause = x.stepCause ∧ y.tjHold = (x.tjHold && decide (100 ≤ T))) := by
  have hottest_eq : hottest { x with temp := t.die.toNat, stackTemp := t.stack.toNat } = max t.die.toNat t.stack.toNat := rfl
  unfold sampleChan
  dsimp only
  rw [hottest_eq]
  by_cases hot : 105 ≤ max t.die.toNat t.stack.toNat
  · rw [if_pos hot]
    exact ⟨rfl, fun _ => ⟨rfl, rfl, rfl⟩, fun below => absurd hot (Nat.not_le.mpr below)⟩
  · rw [if_neg hot]
    by_cases cool : max t.die.toNat t.stack.toNat < 100
    · rw [if_pos cool, decide_eq_false (Nat.not_le.mpr cool), Bool.and_false]
      exact ⟨rfl, fun h => absurd h hot, fun _ => ⟨rfl, rfl, rfl⟩⟩
    · rw [if_neg cool, decide_eq_true (Nat.not_lt.mp cool), Bool.and_true]
      exact ⟨rfl, fun h => absurd h hot, fun _ => ⟨rfl, rfl, rfl⟩⟩

/-- Only the step and its cause change. -/
theorem nextStep_frame (m : Nat) (x : Channel) :
    nextStep m x = { x with step := (nextStep m x).step, stepCause := (nextStep m x).stepCause } := by
  have framed : ∃ k q, nextStep m x = { x with step := k, stepCause := q } := by
    unfold nextStep
    dsimp only
    repeat' split
    all_goals exact ⟨_, _, rfl⟩
  obtain ⟨k, q, e⟩ := framed
  rw [e]

theorem nextStep_of_held (m : Nat) {x : Channel} (held : x.tjHold = true ∨ x.trips.contains .vcore = true) : (nextStep m x).step = 16 := by
  unfold nextStep
  rw [if_pos (by rw [Bool.or_eq_true]; exact held)]

/-- With nothing held the step goes by temperature, power and MIN_STEP, in this order. -/
theorem nextStep_of_free (m : Nat) {x : Channel} (free : x.tjHold = false ∧ x.trips.contains .vcore = false) :
    (nextStep m x).step =
      if 95 ≤ hottest x ∨ x.powerDown = true then min 16 (x.step + 1)
      else if x.step < min 16 m then min 16 m
      else if hottest x < 92 ∧ min 16 m < x.step then x.step - 1
      else x.step := by
  have unheld : ¬(x.tjHold || x.trips.contains .vcore) = true := by
    rw [free.1, free.2]
    exact Bool.false_ne_true
  unfold nextStep
  dsimp only
  rw [if_neg unheld]
  by_cases hot : 95 ≤ hottest x
  · simp only [hot, true_or, ↓reduceIte]
  · by_cases down : x.powerDown = true
    · simp only [hot, down, or_true, ↓reduceIte]
    · simp only [hot, down, Bool.false_eq_true, or_self, ↓reduceIte]
      by_cases low : x.step < min 16 m
      · simp only [low, ↓reduceIte]
      · simp only [low, ↓reduceIte]
        by_cases up : hottest x < 92 ∧ min 16 m < x.step
        · simp only [up, and_self, ↓reduceIte]
        · simp only [up, ↓reduceIte]
          split <;> rfl

/-- Settles O16: a sample by what it leaves of each channel, the timer by the order in which it asks for a step. -/
theorem temperatureSetsTheStep : Obligations.TemperatureSetsTheStep := by
  unfold Obligations.TemperatureSetsTheStep
  intro s q c
  refine ⟨fun off => ?dark, fun vaux => ?sample, ?timer⟩
  case dark =>
    show onBoth (sensorSample q) s = _
    rw [onBoth_eq, sensorSample_of_no_vaux off]
  case sample =>
    refine ⟨_, rfl, ?_⟩
    rw [sensorSample_of_vaux vaux]
    refine ⟨rfl, rfl, modChans_fy .., modChans_suites .., modChans_out .., modChans_free .., fun o => ?_⟩
    rw [chanOf_modChans_all]
    exact sampleChan_spec (q.get o) (chanOf s.dev o)
  case timer =>
    have stepped : chanOf (modChan s.dev c (nextStep s.board.pwr.minStep.toNat)) c = nextStep s.board.pwr.minStep.toNat (chanOf s.dev c) :=
      chanOf_modChan_same ..
    refine ⟨_, rfl, rfl, rfl, ?_, ?_⟩
    · show modChan s.dev c _ = _
      dsimp only [throttleTimer]
      rw [stepped, ← nextStep_frame]
      rfl
    · intro x free low
      dsimp only [throttleTimer]
      rw [stepped]
      refine ⟨nextStep_of_held _, fun hf hot => ?_, fun hf _ down => ?_, fun hf warm calm below => ?_, fun hf cool calm above => ?_,
        fun hf cool calm at_low => ?_, fun hf warm _ calm above => ?_⟩
      all_goals rw [nextStep_of_free _ hf]
      · rw [if_pos (.inl hot)]
      · rw [if_pos (.inr down)]
      · rw [if_neg (by simp [calm]; omega), if_pos below]
      · rw [if_neg (by simp [calm]; omega), if_neg (Nat.not_lt.mpr (Nat.le_of_lt above)), if_pos ⟨cool, above⟩]
      · rw [if_neg (by simp [calm]; omega), if_neg (by omega), if_neg (by omega)]
        exact at_low
      · rw [if_neg (by simp [calm]; omega), if_neg (Nat.not_lt.mpr above), if_neg (by omega)]

/-! ## Limits and fuses (R569, R740) -/

theorem raiseSvn_of_larger {n : BitVec 8} {x : Channel} (runs : x.imageOk = true) (larger : x.sec.minSvn < n) :
    raiseSvn n x = { x with fuseSvn := n, sec := { x.sec with minSvn := n } } :=
  if_pos (by rw [runs, decide_eq_true larger]; rfl)

theorem raiseSvn_of_not {n : BitVec 8} {x : Channel} (h : x.imageOk = false ∨ n ≤ x.sec.minSvn) : raiseSvn n x = x := by
  refine if_neg ?_
  rcases h with idle | low
  · simp [idle]
  · simp [BitVec.not_lt.mpr low]

theorem modChan_of_fixed {d : Device} {c : Ch} {f : Channel → Channel} (h : f (chanOf d c) = chanOf d c) : modChan d c f = d := by
  unfold modChan
  rw [h]
  unfold setChan
  rw [← get_chans, Quad.set_get]

/-- Settles O19, event by event. -/
theorem limitsAndFuses : Obligations.LimitsAndFuses := by
  unfold Obligations.LimitsAndFuses
  intro s v c n
  refine ⟨fun off => ?dark, fun vaux => ?limit, fun runs larger => ?raised, fun kept => ?same⟩
  case dark =>
    show execSmbusPwrLimitWrite v s = _
    unfold execSmbusPwrLimitWrite
    rw [onBoth_eq]
    dsimp only
    rw [off]
    rfl
  case limit =>
    refine ⟨_, rfl, ?_⟩
    dsimp only
    rw [if_pos vaux]
    exact ⟨rfl, rfl, rfl, rfl⟩
  case raised =>
    refine ⟨_, rfl, ⟨rfl, rfl, rfl, rfl, rfl, rfl, fun o other => chanOf_modChan_ne _ _ other⟩, ?_⟩
    exact (chanOf_modChan_same ..).trans (raiseSvn_of_larger runs larger)
  case same =>
    show execMinSvnRaise c n s = _
    unfold execMinSvnRaise
    rw [onDev_eq, modChan_of_fixed (raiseSvn_of_not kept)]

end Sys2Proof.Machine

end

section

namespace Sys2Proof.Machine

/-! ## Sums of counters (R742) -/

/-- A sum over a list without repetitions grows by what its one changed summand grows. -/
theorem sum_map_of_grows {α : Type} {l : List α} {f g : α → W64} {a : α} {k : W64} (once : l.Nodup) (mem : a ∈ l) (grows : g a = f a + k)
    (others : ∀ b, b ≠ a → g b = f b) : (l.map g).sum = (l.map f).sum + k := by
  induction l with
  | nil => simp at mem
  | cons b l ih =>
    obtain ⟨new, rest⟩ := List.nodup_cons.mp once
    rw [List.map_cons, List.map_cons, List.sum_cons, List.sum_cons]
    by_cases here : b = a
    · subst here
      have same : l.map g = l.map f := List.map_congr_left fun c hc => others c fun e => new (e ▸ hc)
      rw [grows, same]
      ac_rfl
    · have inner : a ∈ l := (List.mem_cons.mp mem).resolve_left (Ne.symm here)
      rw [others b here, ih rest inner]
      ac_rfl

/-- Every summand of a list grows by its own share. -/
theorem sum_map_add {α : Type} (l : List α) (f k : α → W64) : (l.map fun a => f a + k a).sum = (l.map f).sum + (l.map k).sum := by
  induction l with
  | nil => rfl
  | cons a l ih =>
    simp only [List.map_cons, List.sum_cons, ih]
    ac_rfl

theorem ofNat_sum {α : Type} (l : List α) (f : α → Nat) : BitVec.ofNat 64 (l.map f).sum = (l.map fun a => BitVec.ofNat 64 (f a)).sum := by
  induction l with
  | nil => rfl
  | cons a l ih => rw [List.map_cons, List.sum_cons, BitVec.ofNat_add, ih, List.map_cons, List.sum_cons]

theorem add_sub_self_left (a b : W64) : a + b - a = b := by
  rw [BitVec.add_comm]
  exact BitVec.add_sub_cancel b a

/-! ## Energy of rooms (R544, R742) -/

/-- A room's energy counter counts on. -/
def chargeRoom (uj : W64) (r : Room) : Room := { r with acct := { r.acct with energyUj := r.acct.energyUj + uj } }

/-- The energy of a channel's rooms. -/
def chanEnergy (x : Channel) : W64 := (roomIndexes.map fun n => (roomOf x n).acct.energyUj).sum

theorem roomsEnergy_eq (d : Device) : roomsEnergy d = (Ch.all.map fun c => chanEnergy (chanOf d c)).sum := rfl

theorem chanEnergy_modRoomC (x : Channel) {n : Nat} (hn : n < 64) (uj : W64) :
    chanEnergy (modRoomC x n (chargeRoom uj)) = chanEnergy x + uj :=
  sum_map_of_grows (List.nodup_range (n := 64)) (List.mem_range.mpr hn) (congrArg (fun r : Room => r.acct.energyUj) (roomOf_modRoomC_same ..))
    fun _ other => congrArg (fun r : Room => r.acct.energyUj) (roomOf_modRoomC_ne _ _ other)

theorem roomsEnergy_modRoom (d : Device) (c : Ch) {n : Nat} (hn : n < 64) (uj : W64) :
    roomsEnergy (modRoom d c n (chargeRoom uj)) = roomsEnergy d + uj :=
  sum_map_of_grows (show Ch.all.Nodup by decide) (Ch.mem_all c)
    ((congrArg chanEnergy (chanOf_modChan_same ..)).trans (chanEnergy_modRoomC _ hn uj))
    fun _ other => congrArg chanEnergy (chanOf_modChan_ne _ _ other)

/-- Of a channel only energy counters of rooms change. -/
def OnlyEnergy (x y : Channel) : Prop :=
  y = { x with rooms := y.rooms } ∧
  ∀ n, roomOf y n = { roomOf x n with acct := { (roomOf x n).acct with energyUj := (roomOf y n).acct.energyUj } }

theorem OnlyEnergy.refl (x : Channel) : OnlyEnergy x x := ⟨rfl, fun _ => rfl⟩

theorem OnlyEnergy.trans {x y z : Channel} (h : OnlyEnergy x y) (g : OnlyEnergy y z) : OnlyEnergy x z := by
  obtain ⟨hc, hr⟩ := h
  obtain ⟨gc, gr⟩ := g
  refine ⟨?_, fun n => ?_⟩
  · rw [hc] at gc
    exact gc
  · have q := gr n
    rw [hr n] at q
    exact q

theorem onlyEnergy_modRoomC (x : Channel) (n : Nat) (uj : W64) : OnlyEnergy x (modRoomC x n (chargeRoom uj)) := by
  refine ⟨rfl, fun m => ?_⟩
  by_cases here : m = n
  · rw [here, roomOf_modRoomC_same]
    rfl
  · rw [roomOf_modRoomC_ne _ _ here]

/-! ## A suite's charge, and the charges of all suites -/

/-- What the charge of suites leaves of the rest of the device: the foyer, the messages, the free values and each channel but for energy. -/
structure Charged (d d' : Device) : Prop where
  fy : d'.fy = d.fy
  out : d'.out = d.out
  free : d'.free = d.free
  chans : ∀ c, OnlyEnergy (chanOf d c) (chanOf d' c)

theorem Charged.refl (d : Device) : Charged d d := ⟨rfl, rfl, rfl, fun _ => .refl _⟩

theorem Charged.trans {a b c : Device} (h : Charged a b) (g : Charged b c) : Charged a c :=
  ⟨g.fy.trans h.fy, g.out.trans h.out, g.free.trans h.free, fun k => (h.chans k).trans (g.chans k)⟩

/-- A suite's IDLE_UJ counts on. -/
def chargeIdle (uj : Nat) (k : SchSuite) : SchSuite := { k with idleUj := k.idleUj + BitVec.ofNat 64 uj }

theorem chargeEnergy_eq (d : Device) (u : Ch) (idle room : Nat) :
    chargeEnergy d u idle room =
      if (suiteOf d u).idle then modSuite d u (chargeIdle idle)
      else modRoom (modSuite d u (chargeIdle idle)) (leadOf (modSuite d u (chargeIdle idle)) u) (suiteOf d u).running.toNat
        (chargeRoom (BitVec.ofNat 64 room)) := rfl

theorem suiteOf_chargeEnergy (d : Device) (u o : Ch) (idle room : Nat) :
    suiteOf (chargeEnergy d u idle room) o = if o = u then chargeIdle idle (suiteOf d u) else suiteOf d o := by
  have idled : suiteOf (modSuite d u (chargeIdle idle)) o = if o = u then chargeIdle idle (suiteOf d u) else suiteOf d o := by
    split
    · next here => rw [here, suiteOf_modSuite_same]
    · next other => exact suiteOf_modSuite_ne _ _ other
  rw [chargeEnergy_eq]
  split
  · exact idled
  · exact idled

theorem charged_chargeEnergy (d : Device) (u : Ch) (idle room : Nat) : Charged d (chargeEnergy d u idle room) := by
  have suite : Charged d (modSuite d u (chargeIdle idle)) := ⟨rfl, rfl, rfl, fun _ => .refl _⟩
  rw [chargeEnergy_eq]
  split
  · exact suite
  · refine suite.trans ⟨rfl, rfl, rfl, fun c => ?_⟩
    unfold modRoom
    rw [chanOf_modChan]
    split
    · next here => rw [here]; exact onlyEnergy_modRoomC ..
    · exact .refl _

theorem roomsEnergy_chargeEnergy (d : Device) (u : Ch) (idle room : Nat) :
    roomsEnergy (chargeEnergy d u idle room) = roomsEnergy d + BitVec.ofNat 64 (if (suiteOf d u).idle then 0 else room) := by
  rw [chargeEnergy_eq]
  split
  · exact (BitVec.add_zero _).symm
  · exact roomsEnergy_modRoom _ _ (suiteOf d u).running.isLt _

/-- The charges of suites l. -/
def chargeAll (e : PowerEst) (l : List Ch) (d : Device) : Device :=
  l.foldl (fun d u => chargeEnergy d u (e.idleUj.get u) (e.roomUj.get u)) d

theorem charged_chargeAll (e : PowerEst) (l : List Ch) (d : Device) : Charged d (chargeAll e l d) := by
  induction l generalizing d with
  | nil => exact .refl d
  | cons u l ih => exact (charged_chargeEnergy ..).trans (ih _)

/-- Every suite of the list grows by its own idle energy, and no other changes. -/
theorem suiteOf_chargeAll (e : PowerEst) {l : List Ch} (once : l.Nodup) (d : Device) (o : Ch) :
    suiteOf (chargeAll e l d) o = if o ∈ l then chargeIdle (e.idleUj.get o) (suiteOf d o) else suiteOf d o := by
  induction l generalizing d with
  | nil => rfl
  | cons u l ih =>
    obtain ⟨new, rest⟩ := List.nodup_cons.mp once
    refine (ih rest _).trans ?_
    rw [suiteOf_chargeEnergy]
    by_cases here : o = u
    · subst here
      rw [if_neg new, if_pos rfl, if_pos List.mem_cons_self]
    · simp only [List.mem_cons, here, false_or, if_false]

/-- The rooms' energies grow by the shares of the suites that run one. -/
theorem roomsEnergy_chargeAll (e : PowerEst) {l : List Ch} (once : l.Nodup) (d : Device) :
    roomsEnergy (chargeAll e l d) = roomsEnergy d + (l.map fun u => BitVec.ofNat 64 (roomShare d e u)).sum := by
  induction l generalizing d with
  | nil => exact (BitVec.add_zero _).symm
  | cons u l ih =>
    obtain ⟨new, rest⟩ := List.nodup_cons.mp once
    have later : (l.map fun o => BitVec.ofNat 64 (roomShare (chargeEnergy d u (e.idleUj.get u) (e.roomUj.get u)) e o)) =
        l.map fun o => BitVec.ofNat 64 (roomShare d e o) :=
      List.map_congr_left fun o ho => by
        have other : o ≠ u := fun same => new (same ▸ ho)
        unfold roomShare
        rw [suiteOf_chargeEnergy, if_neg other]
    refine (ih rest _).trans ?_
    rw [later, roomsEnergy_chargeEnergy, List.map_cons, List.sum_cons]
    exact BitVec.add_assoc ..

/-! ## POWER_ESTIMATE (R737, R742) -/

/-- A channel that threatens a limit inserts hold cycles and steps down, and any other stops doing so. -/
def limitChan (e : PowerEst) (c : Ch) (x : Channel) : Channel :=
  let p := e.power.getLsbD c.num
  let i := e.current.getLsbD c.num
  { x with island := { x.island with powerHold := p || i }, powerDown := p || i,
           stepCause := if p || i then (if i && !p then 3 else 2) else x.stepCause }

theorem limitChan_eq (e : PowerEst) (c : Ch) (x : Channel) :
    let p := e.power.getLsbD c.num
    let i := e.current.getLsbD c.num
    limitChan e c x = { x with island := { x.island with powerHold := p || i }, powerDown := p || i,
                               stepCause := (if p = true then 2 else if i = true then 3 else x.stepCause) } := by
  unfold limitChan
  dsimp only
  cases e.power.getLsbD c.num <;> cases e.current.getLsbD c.num <;> rfl

/-- The device once the limits of its channels are met. -/
def limitedDev (e : PowerEst) (d : Device) : Device := modChans d Ch.all (limitChan e)

/-- What the estimate adds to TOTAL_UJ. -/
def estimateUj (e : PowerEst) (d : Device) : Nat :=
  e.foyerUj + e.nosuiteUj + (Ch.all.map fun u => e.idleUj.get u + roomShare d e u).sum

theorem powerEstimate_eq (e : PowerEst) (b : Board) (d : Device) :
    powerEstimate e b d =
      ({ b with energy := { b.energy with
          totalUj := b.energy.totalUj + BitVec.ofNat 64 (estimateUj e d), foyerUj := b.energy.foyerUj + BitVec.ofNat 64 e.foyerUj,
          nosuiteUj := b.energy.nosuiteUj + BitVec.ofNat 64 e.nosuiteUj } }, chargeAll e Ch.all (limitedDev e d)) := rfl

theorem suiteOf_limitedDev (e : PowerEst) (d : Device) (u : Ch) : suiteOf (limitedDev e d) u = suiteOf d u := by
  unfold suiteOf limitedDev
  rw [modChans_suites]

theorem chanOf_limitedDev (e : PowerEst) (d : Device) (c : Ch) : chanOf (limitedDev e d) c = limitChan e c (chanOf d c) := chanOf_modChans_all ..

theorem roomsEnergy_limitedDev (e : PowerEst) (d : Device) : roomsEnergy (limitedDev e d) = roomsEnergy d := by
  rw [roomsEnergy_eq, roomsEnergy_eq]
  exact congrArg List.sum (List.map_congr_left fun c _ => (congrArg chanEnergy (chanOf_limitedDev e d c)).trans rfl)

theorem suitesIdle_chargeAll (e : PowerEst) (d : Device) :
    suitesIdle (chargeAll e Ch.all d) = suitesIdle d + (Ch.all.map fun u => BitVec.ofNat 64 (e.idleUj.get u)).sum := by
  have grows : (Ch.all.map fun u => (suiteOf (chargeAll e Ch.all d) u).idleUj) =
      Ch.all.map fun u => (suiteOf d u).idleUj + BitVec.ofNat 64 (e.idleUj.get u) :=
    List.map_congr_left fun u _ => by
      rw [suiteOf_chargeAll e (by decide), if_pos (Ch.mem_all u)]
      rfl
  unfold suitesIdle
  rw [grows, sum_map_add]

theorem estimateUj_eq (e : PowerEst) (d : Device) :
    BitVec.ofNat 64 (estimateUj e d) = BitVec.ofNat 64 e.foyerUj + BitVec.ofNat 64 e.nosuiteUj +
      (Ch.all.map fun u => BitVec.ofNat 64 (e.idleUj.get u)).sum + (Ch.all.map fun u => BitVec.ofNat 64 (roomShare d e u)).sum := by
  unfold estimateUj
  rw [BitVec.ofNat_add, BitVec.ofNat_add, ofNat_sum]
  simp only [BitVec.ofNat_add]
  rw [sum_map_add, ← BitVec.add_assoc]

/-- Settles O17: each counter's growth is its own summand of the estimate, and their sum is the estimate's. -/
theorem energyGrowthsAddUp : Obligations.EnergyGrowthsAddUp := by
  unfold Obligations.EnergyGrowthsAddUp
  intro s e uj
  refine ⟨⟨_, rfl, ?_⟩, ⟨_, rfl, rfl, rfl⟩⟩
  have charged := charged_chargeAll e Ch.all (limitedDev e s.dev)
  have shares : (Ch.all.map fun u => BitVec.ofNat 64 (roomShare (limitedDev e s.dev) e u)) =
      Ch.all.map fun u => BitVec.ofNat 64 (roomShare s.dev e u) :=
    List.map_congr_left fun u _ => by
      unfold roomShare
      rw [suiteOf_limitedDev]
  have rooms : roomsEnergy (chargeAll e Ch.all (limitedDev e s.dev)) =
      roomsEnergy s.dev + (Ch.all.map fun u => BitVec.ofNat 64 (roomShare s.dev e u)).sum := by
    rw [roomsEnergy_chargeAll e (by decide), roomsEnergy_limitedDev, shares]
  have idle : suitesIdle (chargeAll e Ch.all (limitedDev e s.dev)) =
      suitesIdle s.dev + (Ch.all.map fun u => BitVec.ofNat 64 (e.idleUj.get u)).sum := by
    rw [suitesIdle_chargeAll]
    unfold suitesIdle
    simp only [suiteOf_limitedDev]
  rw [powerEstimate_eq]
  refine ⟨rfl, rfl, rfl, rfl, rfl, ?total, charged.fy.trans (modChans_fy ..), charged.out.trans (modChans_out ..),
    charged.free.trans (modChans_free ..), fun u => ?suite, fun c => ?chan⟩
  case total =>
    dsimp only
    rw [rooms, idle, add_sub_self_left, add_sub_self_left, add_sub_self_left, add_sub_self_left, add_sub_self_left]
    exact estimateUj_eq e s.dev
  case suite =>
    dsimp only
    rw [suiteOf_chargeAll e (by decide), if_pos (Ch.mem_all u), suiteOf_limitedDev]
    rfl
  case chan =>
    intro x y p i
    obtain ⟨chan, each⟩ : OnlyEnergy (chanOf (limitedDev e s.dev) c) y := charged.chans c
    rw [chanOf_limitedDev, limitChan_eq] at chan each
    exact ⟨chan, each⟩

end Sys2Proof.Machine

end

section

namespace Sys2Proof.Machine

/-! ## Result slots (R668 to R670) -/

theorem onlyFunctions_of_onlyFns {s : State} {d : Device} (h : OnlyFns s.dev d) : OnlyFunctions s { s with dev := d } := by
  obtain ⟨chans, suites, free, fy⟩ := h
  exact ⟨rfl, rfl, chans, suites, free, fy⟩

theorem slotRead_of_takes {f : Fn} {k : BitVec 3} {b : Board} {d : Device} (takes : takesPosts b d f = true) (some_slot : k.toNat < slotCount d)
    (m : BitVec 4) (covers0 : Bool) :
    slotRead f m k covers0 b d =
      if (slotOf d f m k).state = .ready ∧ covers0 = true then
        setSlot (send d (.answer (leNat (slotBytes (slotOf d f m k))))) f m k { slotOf d f m k with reread := satInc (slotOf d f m k).reread }
      else send d (.answer (leNat (slotBytes (slotOf d f m k)))) := by
  unfold slotRead
  rw [takes, decide_eq_false (Nat.not_le.mpr some_slot)]
  simp only [Bool.not_true, Bool.or_self, Bool.false_eq_true, if_false, Bool.and_eq_true, decide_eq_true_eq]

theorem slotOf_send (d : Device) (o : OutMsg) (f : Fn) (m : BitVec 4) (k : BitVec 3) : slotOf (send d o) f m k = slotOf d f m k := rfl

/-- EXPIRED of a mailbox counts on. -/
def countExpired (x : Mailbox) : Mailbox := { x with words := { x.words with expired := satInc x.words.expired } }

/-- ACK_MISMATCH of a mailbox counts on. -/
def countAckMismatch (x : Mailbox) : Mailbox := { x with words := { x.words with ackMismatch := satInc x.words.ackMismatch } }

/-- An acknowledgement counts for a slot that holds a result of its SEQ. -/
def Acknowledges (d : Device) (f : Fn) (m : BitVec 4) (v : W64) : Prop :=
  let k : BitVec 3 := v.extractLsb' 0 3
  k.toNat < slotCount d ∧ ((slotOf d f m k).state = .ready ∨ (slotOf d f m k).state = .expired) ∧ (slotOf d f m k).seq = v.extractLsb' 32 32

theorem ackSlot_of_matching {f : Fn} {b : Board} {d : Device} {m : BitVec 4} {v : W64} (takes : takesPosts b d f = true)
    (matching : Acknowledges d f m v) : ackSlot f m v b d = setSlot d f m (v.extractLsb' 0 3) {} := by
  obtain ⟨some_slot, full, same⟩ := matching
  unfold ackSlot
  rw [takes]
  dsimp only
  rw [decide_eq_true some_slot, same]
  simp only [Bool.not_true, Bool.false_eq_true, if_false, Bool.true_and, Bool.and_eq_true, Bool.or_eq_true, decide_eq_true_eq, decide_true, and_true]
  rw [if_pos full]

theorem ackSlot_of_other {f : Fn} {b : Board} {d : Device} {m : BitVec 4} {v : W64} (takes : takesPosts b d f = true)
    (other : ¬ Acknowledges d f m v) :
    ackSlot f m v b d = modMbx d f m countAckMismatch := by
  unfold ackSlot
  rw [takes]
  simp only [Bool.not_true, Bool.false_eq_true, if_false, Bool.and_eq_true, Bool.or_eq_true, decide_eq_true_eq]
  rw [if_neg fun ⟨⟨some_slot, full⟩, same⟩ => other ⟨some_slot, full, same⟩]
  rfl

theorem slotOf_modMbx_of_slots (d : Device) (f : Fn) (m : BitVec 4) (k : BitVec 3) {g : Mailbox → Mailbox} (same : ∀ x, (g x).slots = x.slots) :
    slotOf (modMbx d f m g) f m k = slotOf d f m k := by
  unfold slotOf
  rw [mbxOf_modMbx_same, same]

theorem slotOf_countExpired (d : Device) (f : Fn) (m : BitVec 4) (k : BitVec 3) : slotOf (modMbx d f m countExpired) f m k = slotOf d f m k :=
  slotOf_modMbx_of_slots _ _ _ _ fun _ => rfl

theorem slotOf_countAckMismatch (d : Device) (f : Fn) (m : BitVec 4) (k : BitVec 3) : slotOf (modMbx d f m countAckMismatch) f m k = slotOf d f m k :=
  slotOf_modMbx_of_slots _ _ _ _ fun _ => rfl

theorem expired_countExpired (d : Device) (f : Fn) (m : BitVec 4) :
    (mbxOf (modMbx d f m countExpired) f m).words.expired = satInc (mbxOf d f m).words.expired :=
  congrArg (fun x : Mailbox => x.words.expired) (mbxOf_modMbx_same ..)

theorem ackMismatch_countAckMismatch (d : Device) (f : Fn) (m : BitVec 4) :
    (mbxOf (modMbx d f m countAckMismatch) f m).words.ackMismatch = satInc (mbxOf d f m).words.ackMismatch :=
  congrArg (fun x : Mailbox => x.words.ackMismatch) (mbxOf_modMbx_same ..)

theorem expired_postEvent (d : Device) (f : Fn) (e : EventRecord) (g : Fn) (m : BitVec 4) :
    (mbxOf (postEvent d f e) g m).words.expired = (mbxOf d g m).words.expired := by rw [mbxOf_postEvent]

theorem expired_setSlot (d : Device) (f : Fn) (m : BitVec 4) (k : BitVec 3) (r : ResultSlot) :
    (mbxOf (setSlot d f m k r) f m).words.expired = (mbxOf d f m).words.expired := by rw [mbxOf_setSlot_words]

theorem slotExpires_of_ready {f : Fn} {m : BitVec 4} {k : BitVec 3} {d : Device} (ready : (slotOf d f m k).state = .ready) :
    slotExpires f m k d =
      postEvent (modMbx (setSlot d f m k { slotOf d f m k with state := .expired, status := .mbxResultExpired, words := [] }) f m countExpired) f
        { code := 0x01, mbx := m, slot := k, seq := (slotOf d f m k).seq } := by
  unfold slotExpires
  dsimp only
  rw [ready]
  rfl

/-- Settles O22, command by command. -/
theorem resultSlotsReadAckExpire : Obligations.ResultSlotsReadAckExpire := by
  unfold Obligations.ResultSlotsReadAckExpire
  intro s f m k v
  refine ⟨fun takes some_slot covers0 => ?read, fun takes named some_slot full same => ?freed, fun takes named other => ?counted,
    fun ready => ?expired⟩
  case read =>
    refine ⟨_, rfl, ?_⟩
    rw [slotRead_of_takes takes some_slot]
    split
    · exact ⟨rfl, onlyFunctions_of_onlyFns ((onlyFns_send ..).trans (onlyFns_setSlot ..)), slotOf_setSlot_same ..⟩
    · exact ⟨rfl, onlyFunctions_of_onlyFns (onlyFns_send ..), rfl⟩
  case freed =>
    subst named
    refine ⟨_, rfl, ?_⟩
    rw [ackSlot_of_matching takes ⟨some_slot, full, same⟩]
    refine ⟨slotOf_setSlot_same .., ?_, onlyFunctions_of_onlyFns (onlyFns_setSlot ..), ?_⟩
    · rw [slotOf_setSlot_same]
      decide
    · rw [mbxOf_setSlot_words]
  case counted =>
    subst named
    have mismatch : ¬ Acknowledges s.dev f m v := by
      rintro ⟨some_slot, full, same⟩
      rcases other with none | free | pending | differs
      · exact absurd some_slot (Nat.not_lt.mpr none)
      · rw [free] at full
        simp at full
      · rw [pending] at full
        simp at full
      · exact differs same
    refine ⟨_, rfl, ?_⟩
    rw [ackSlot_of_other takes mismatch]
    exact ⟨slotOf_countAckMismatch .., onlyFunctions_of_onlyFns (onlyFns_modMbx ..), ackMismatch_countAckMismatch ..⟩
  case expired =>
    refine ⟨_, rfl, ?_⟩
    rw [slotExpires_of_ready ready]
    refine ⟨onlyFunctions_of_onlyFns (((onlyFns_setSlot ..).trans (onlyFns_modMbx ..)).trans (onlyFns_postEvent ..)), ?_, ?_⟩
    · rw [slotOf_postEvent, slotOf_countExpired, slotOf_setSlot_same]
    · rw [expired_postEvent, expired_countExpired, expired_setSlot]

end Sys2Proof.Machine

end

section

namespace Sys2Proof.Machine

/-! ## Posts (R663 to R667, R726) -/

/-- The row of a command posts it. -/
theorem exec_of_rowPost {i : Instr} {op : HostOp} {p : HostPost} (h : rowPost i = some (op, p)) (s : State) : exec i s = postRow op p s := by
  cases i <;> cases h <;> rfl

/-- The post of a row, with the header that names its command. -/
def rowPosted (op : HostOp) (p : HostPost) (s : State) : Device := post s.board { p with header := postedHeader op p s.dev } s.dev

theorem exec_post {i : Instr} {op : HostOp} {p : HostPost} {s : State} {d : Device} (h : rowPost i = some (op, p)) (posted : rowPosted op p s = d) :
    exec i s = .next { s with board := showPower s.board d, dev := d } := by
  rw [exec_of_rowPost h, ← posted]
  rfl

theorem onlyPosts_of_onlyFns {s : State} {d : Device} (h : OnlyFns s.dev d) (out : d.out = s.dev.out) :
    OnlyPosts s { s with board := showPower s.board d, dev := d } := by
  obtain ⟨chans, suites, free, fy⟩ := h
  exact ⟨rfl, rfl, chans, suites, free, out, fy⟩

section

variable {op : HostOp} {p : HostPost} {s : State}

theorem rowPosted_of_deaf (deaf : takesPosts s.board s.dev p.fn = false) : rowPosted op p s = s.dev := by
  unfold rowPosted post
  rw [deaf]
  rfl

theorem rowPosted_of_busy (takes : takesPosts s.board s.dev p.fn = true) (busy : (mbxOf s.dev p.fn p.mbx).words.cmdBusy = true) :
    rowPosted op p s = modMbx s.dev p.fn p.mbx fun m => { m with words := { m.words with overrun := satInc m.words.overrun } } := by
  unfold rowPosted post
  simp only [takes, busy, Bool.not_true, Bool.false_eq_true, if_false, if_true]

/-- The command area takes the post, with the outcome of the header check. -/
def checkedMbx (op : HostOp) (p : HostPost) (s : State) (m : Mailbox) : Mailbox :=
  { m with header := postedHeader op p s.dev, params := p.params,
           words := { m.words with postStatus := (postCheck op p s).code, postSeq := hdrSeq (postedHeader op p s.dev) } }

theorem rowPosted_of_refused (takes : takesPosts s.board s.dev p.fn = true) (idle : (mbxOf s.dev p.fn p.mbx).words.cmdBusy = false)
    (refused : postCheck op p s ≠ .ok) : rowPosted op p s = modMbx s.dev p.fn p.mbx (checkedMbx op p s) := by
  have check : headerStatus s.dev p.fn p.mbx (postedHeader op p s.dev) ≠ .ok := refused
  unfold rowPosted post
  simp only [takes, idle, Bool.not_true, Bool.false_eq_true, if_false, check]
  rfl

/-- Before start-up has ended an accepted post is held. -/
theorem rowPosted_of_early (takes : takesPosts s.board s.dev p.fn = true) (idle : (mbxOf s.dev p.fn p.mbx).words.cmdBusy = false)
    (accepted : postCheck op p s = .ok) (early : s.board.pwr.seq ≠ 9) :
    let e := pendingDev op p s.dev
    rowPosted op p s = { e with fy := { e.fy with held := e.fy.held ++ [(op, commandOf op p s.dev)] } } := by
  have check : headerStatus s.dev p.fn p.mbx (postedHeader op p s.dev) = .ok := accepted
  unfold rowPosted post
  simp only [takes, idle, Bool.not_true, Bool.false_eq_true, if_false, check, if_true]
  rw [show hdrOp s.dev.fy.dev.compatH1 (postedHeader op p s.dev) = some op from hdrOp_named ..]
  unfold acceptPost
  simp only [early, if_false]
  rfl

end

theorem mbxOf_pendingDev_words (op : HostOp) (p : HostPost) (d : Device) :
    (mbxOf (pendingDev op p d) p.fn p.mbx).words.postStatus = Status.ok.code := by
  unfold pendingDev
  dsimp only
  rw [mbxOf_setSlot_words, mbxOf_modMbx_same]

/-- Settles O26: the four outcomes of a post. -/
theorem postsAreChecked : Obligations.PostsAreChecked := by
  unfold Obligations.PostsAreChecked
  intro i op p s row m
  refine ⟨fun deaf => ?deaf, fun takes busy => ?overrun, fun takes idle refused => ?refused, fun takes idle accepted early => ?held⟩
  case deaf => exact ⟨_, exec_post row (rowPosted_of_deaf deaf), rfl, rfl⟩
  case overrun =>
    exact ⟨_, exec_post row (rowPosted_of_busy takes busy), onlyPosts_of_onlyFns (onlyFns_modMbx ..) rfl, mbxOf_modMbx_same ..⟩
  case refused =>
    refine ⟨_, exec_post row (rowPosted_of_refused takes idle refused), onlyPosts_of_onlyFns (onlyFns_modMbx ..) rfl, ?_⟩
    rw [mbxOf_modMbx_same]
    exact ⟨rfl, rfl⟩
  case held =>
    obtain ⟨chans, suites, free, fy⟩ := pendingDev_only op p s.dev
    refine ⟨_, exec_post row (rowPosted_of_early takes idle accepted early), chans, ?_, ?_, mbxOf_pendingDev_words op p s.dev⟩
    · show (pendingDev op p s.dev).fy.held ++ _ = _
      rw [fy]
    · exact congrArg ResultSlot.state (pendingDev_slot op p s.dev)

end Sys2Proof.Machine

end

section

namespace Sys2Proof.Machine

/-! ## Sources and cores (R690 to R693) -/

@[simp] theorem coreOf_setCore_same (x : Channel) (hk : Bool) (k : Core) : coreOf (setCore x hk k) hk = k := by cases hk <;> rfl

@[simp] theorem coreOf_setCore_other (x : Channel) (hk : Bool) (k : Core) : coreOf (setCore x hk k) (!hk) = coreOf x (!hk) := by cases hk <;> rfl

/-- Of a channel only the two cores, WAKES and the depths of their stacks change. -/
def OnlyCores (x y : Channel) : Prop :=
  y = { x with cmdCore := y.cmdCore, hkCore := y.hkCore,
               irq := { x.irq with wakes := y.irq.wakes, depthCmd := y.irq.depthCmd, depthHk := y.irq.depthHk } }

theorem OnlyCores.refl (x : Channel) : OnlyCores x x := rfl

theorem OnlyCores.trans {x y z : Channel} (h : OnlyCores x y) (g : OnlyCores y z) : OnlyCores x z := by
  unfold OnlyCores at h g ⊢
  rw [h] at g
  exact g

theorem OnlyCores.masked {x y : Channel} (h : OnlyCores x y) (hk : Bool) (l : Nat) : levelMasked y hk l = levelMasked x hk l := by
  rw [h]
  rfl

theorem onlyCores_setCore (x : Channel) (hk : Bool) (k : Core) : OnlyCores x (setCore x hk k) := by cases hk <;> rfl

theorem onlyCores_showDepth (x : Channel) : OnlyCores x (showDepth x) := rfl

theorem coreOf_showDepth (x : Channel) (hk : Bool) : coreOf (showDepth x) hk = coreOf x hk := by cases hk <;> rfl

/-! ## What a core can take -/

/-- A level that a core takes at once. -/
def Deliverable (x : Channel) (hk : Bool) (l : Nat) : Prop := l < topLevel (coreOf x hk) ∧ levelMasked x hk l = false

/-- The higher of two levels, the first where they are one. -/
def higherLevel (b : Option Nat) (l : Nat) : Option Nat :=
  match b with
  | none => some l
  | some m => if l < m then some l else some m

theorem nextSource_eq (x : Channel) (hk : Bool) :
    nextSource x hk =
      ((coreOf x hk).waiting.filter fun l => decide (l < topLevel (coreOf x hk)) && !levelMasked x hk l).foldl higherLevel none := rfl

theorem foldl_higherLevel_none {l : List Nat} {b : Option Nat} : l.foldl higherLevel b = none ↔ l = [] ∧ b = none := by
  induction l generalizing b with
  | nil => simp
  | cons a l ih =>
    rw [List.foldl_cons, ih]
    cases b with
    | none => simp [higherLevel]
    | some m =>
      simp only [higherLevel]
      split <;> simp

/-- Nothing is delivered exactly where no waiting level is deliverable. -/
theorem nextSource_none_iff {x : Channel} {hk : Bool} : nextSource x hk = none ↔ ∀ l ∈ (coreOf x hk).waiting, ¬ Deliverable x hk l := by
  unfold Deliverable
  rw [nextSource_eq, foldl_higherLevel_none, List.filter_eq_nil_iff]
  simp

/-- The one deliverable level is the next. -/
theorem nextSource_of_last {x : Channel} {hk : Bool} {old : List Nat} {l : Nat} (waits : (coreOf x hk).waiting = old ++ [l])
    (others : ∀ m ∈ old, ¬ Deliverable x hk m) (takes : Deliverable x hk l) : nextSource x hk = some l := by
  have none_before : old.filter (fun m => decide (m < topLevel (coreOf x hk)) && !levelMasked x hk m) = [] := by
    rw [List.filter_eq_nil_iff]
    simpa [Deliverable] using others
  obtain ⟨higher, unmasked⟩ := takes
  rw [nextSource_eq, waits, List.filter_append, none_before]
  simp [higher, unmasked, higherLevel]

/-- A core that takes a level runs its handler. -/
def takeSource (k : Core) (l : Nat) : Core := { k with stack := l :: k.stack, waiting := k.waiting.erase l, asleep := false }

/-- A channel whose core takes a level; the first wakes a sleeping core. -/
def takenChan (x : Channel) (hk : Bool) (l : Nat) : Channel :=
  let y := setCore x hk (takeSource (coreOf x hk) l)
  if (coreOf x hk).asleep then { y with irq := { y.irq with wakes := satInc y.irq.wakes } } else y

theorem coreOf_takenChan (x : Channel) (hk : Bool) (l : Nat) (o : Bool) :
    coreOf (takenChan x hk l) o = coreOf (setCore x hk (takeSource (coreOf x hk) l)) o := by
  unfold takenChan
  dsimp only
  split <;> cases o <;> rfl

theorem onlyCores_takenChan (x : Channel) (hk : Bool) (l : Nat) : OnlyCores x (takenChan x hk l) := by
  refine (onlyCores_setCore x hk (takeSource (coreOf x hk) l)).trans ?_
  unfold takenChan
  dsimp only
  split <;> rfl

theorem deliverIrq_of_none {x : Channel} {hk : Bool} (settled : (coreOf x hk).up = false ∨ nextSource x hk = none) (n : Nat) :
    deliverIrq hk n x = showDepth x := by
  cases n with
  | zero => rfl
  | succ n =>
    unfold deliverIrq
    rcases settled with down | none
    · simp [down]
    · simp [none]

theorem deliverIrq_of_some {x : Channel} {hk : Bool} {l : Nat} (up : (coreOf x hk).up = true) (next : nextSource x hk = some l) (n : Nat) :
    deliverIrq hk (n + 1) x = deliverIrq hk n (takenChan x hk l) := by
  rw [deliverIrq]
  dsimp only
  rw [if_neg (by simp [up]), next]
  rfl

/-- Deliveries to one core leave the other and the rest of the channel. -/
theorem deliverIrq_keeps (hk : Bool) (n : Nat) (x : Channel) :
    OnlyCores x (deliverIrq hk n x) ∧ coreOf (deliverIrq hk n x) (!hk) = coreOf x (!hk) := by
  induction n generalizing x with
  | zero => exact ⟨onlyCores_showDepth x, coreOf_showDepth ..⟩
  | succ n ih =>
    cases up : (coreOf x hk).up with
    | false =>
      rw [deliverIrq_of_none (.inl up)]
      exact ⟨onlyCores_showDepth x, coreOf_showDepth ..⟩
    | true =>
      cases next : nextSource x hk with
      | none =>
        rw [deliverIrq_of_none (.inr next)]
        exact ⟨onlyCores_showDepth x, coreOf_showDepth ..⟩
      | some l =>
        obtain ⟨only, other⟩ := ih (takenChan x hk l)
        rw [deliverIrq_of_some up next]
        refine ⟨(onlyCores_takenChan x hk l).trans only, other.trans ?_⟩
        rw [coreOf_takenChan, coreOf_setCore_other]

/-! ## One source for a settled core -/

/-- The core works and can take nothing of what waits for it. -/
def SettledCore (x : Channel) (hk : Bool) : Prop := (coreOf x hk).up = true ∧ nextSource x hk = none

/-- A core as it stood takes nothing. -/
theorem deliverIrq_same {x y : Channel} {hk : Bool} (settled : (coreOf x hk).up = false ∨ nextSource x hk = none) (only : OnlyCores x y)
    (core : coreOf y hk = coreOf x hk) (n : Nat) : coreOf (deliverIrq hk n y) hk = coreOf x hk := by
  have same : nextSource y hk = nextSource x hk := by
    unfold nextSource
    simp only [core, only.masked]
  rw [← core, ← same] at settled
  rw [deliverIrq_of_none settled, coreOf_showDepth, core]

/-- What waits below a level that has just been taken stays behind it. -/
theorem nextSource_takenChan {x y : Channel} {hk : Bool} {l : Nat} (settled : nextSource x hk = none) (takes : Deliverable x hk l)
    (only : OnlyCores x y) (core : coreOf y hk = { coreOf x hk with waiting := (coreOf x hk).waiting ++ [l] }) :
    coreOf (takenChan y hk l) hk = { coreOf x hk with stack := l :: (coreOf x hk).stack, asleep := false } ∧
      nextSource (takenChan y hk l) hk = none := by
  rw [nextSource_none_iff] at settled
  have new : l ∉ (coreOf x hk).waiting := fun old => settled l old takes
  have taken : coreOf (takenChan y hk l) hk = { coreOf x hk with stack := l :: (coreOf x hk).stack, asleep := false } := by
    rw [coreOf_takenChan, coreOf_setCore_same, core]
    unfold takeSource
    dsimp only
    rw [List.erase_append_right _ new, List.erase_cons_head, List.append_nil]
  refine ⟨taken, nextSource_none_iff.mpr fun m waits deliverable => ?_⟩
  rw [taken] at waits
  obtain ⟨higher, unmasked⟩ := deliverable
  rw [taken] at higher
  have below : m < l := higher
  refine settled m waits ⟨below.trans takes.1, ?_⟩
  rw [← (only.trans (onlyCores_takenChan y hk l)).masked]
  exact unmasked

/-- One source that is signalled to a settled core is delivered or waits (R690, R691). -/
theorem delivered_of_settled {x y : Channel} {hk : Bool} {l : Nat} (settled : SettledCore x hk) (only : OnlyCores x y)
    (core : coreOf y hk = { coreOf x hk with waiting := (coreOf x hk).waiting ++ [l] }) (n : Nat) :
    Delivered x hk l (coreOf (deliverIrq hk (n + 1) y) hk) := by
  obtain ⟨up, quiet⟩ := settled
  have same (m : Nat) : Deliverable y hk m ↔ Deliverable x hk m := by
    unfold Deliverable
    rw [only.masked, core]
    rfl
  have others : ∀ m ∈ (coreOf x hk).waiting, ¬ Deliverable y hk m := fun m waits => (same m).not.mpr (nextSource_none_iff.mp quiet m waits)
  have waits : (coreOf y hk).waiting = (coreOf x hk).waiting ++ [l] := by rw [core]
  unfold Delivered
  dsimp only
  split
  · next takes =>
    obtain ⟨taken, rest⟩ := nextSource_takenChan quiet takes only core
    have up_y : (coreOf y hk).up = true := by rw [core]; exact up
    rw [deliverIrq_of_some up_y (nextSource_of_last waits others ((same l).mpr takes)), deliverIrq_of_none (.inr rest), coreOf_showDepth, taken]
  · next masked =>
    have idle : nextSource y hk = none := nextSource_none_iff.mpr fun m waiting => by
      rw [waits, List.mem_append, List.mem_singleton] at waiting
      rcases waiting with old | rfl
      · exact others m old
      · exact (same m).not.mpr masked
    rw [deliverIrq_of_none (.inr idle), coreOf_showDepth, core]

/-! ## A source for a channel -/

theorem coreOf_pendSource {x : Channel} {hk : Bool} (up : (coreOf x hk).up = true) (l : Nat) :
    coreOf (pendSource hk l x) hk = { coreOf x hk with waiting := (coreOf x hk).waiting ++ [l] } := by
  unfold pendSource
  rw [if_pos up, coreOf_setCore_same]

theorem coreOf_pendSource_other (x : Channel) (hk : Bool) (l : Nat) : coreOf (pendSource hk l x) (!hk) = coreOf x (!hk) := by
  unfold pendSource
  dsimp only
  split
  · exact coreOf_setCore_other ..
  · rfl

theorem onlyCores_pendSource (x : Channel) (hk : Bool) (l : Nat) : OnlyCores x (pendSource hk l x) := by
  unfold pendSource
  dsimp only
  split
  · exact onlyCores_setCore ..
  · rfl

/-- Each core takes from its own sources alone. -/
theorem coreOf_deliverBoth (y : Channel) (hk : Bool) :
    ∃ z, OnlyCores y z ∧ coreOf z hk = coreOf y hk ∧ coreOf (deliverBoth y) hk = coreOf (deliverIrq hk 9 z) hk := by
  obtain ⟨cmdOnly, hkSame⟩ := deliverIrq_keeps false 9 y
  obtain ⟨-, cmdSame⟩ := deliverIrq_keeps true 9 (deliverIrq false 9 y)
  cases hk with
  | false => exact ⟨y, .refl y, rfl, cmdSame⟩
  | true => exact ⟨_, cmdOnly, hkSame, rfl⟩

theorem onlyCores_deliverBoth (y : Channel) : OnlyCores y (deliverBoth y) := (deliverIrq_keeps false 9 y).1.trans (deliverIrq_keeps true 9 _).1

theorem deliverBoth_same {x y : Channel} {hk : Bool} (settled : (coreOf x hk).up = false ∨ nextSource x hk = none) (only : OnlyCores x y)
    (core : coreOf y hk = coreOf x hk) : coreOf (deliverBoth y) hk = coreOf x hk := by
  obtain ⟨z, rest, same, result⟩ := coreOf_deliverBoth y hk
  rw [result, deliverIrq_same settled (only.trans rest) (same.trans core)]

theorem delivered_deliverBoth {x y : Channel} {hk : Bool} {l : Nat} (settled : SettledCore x hk) (only : OnlyCores x y)
    (core : coreOf y hk = { coreOf x hk with waiting := (coreOf x hk).waiting ++ [l] }) : Delivered x hk l (coreOf (deliverBoth y) hk) := by
  obtain ⟨z, rest, same, result⟩ := coreOf_deliverBoth y hk
  rw [result]
  exact delivered_of_settled settled (only.trans rest) (same.trans core) 8

/-- Of a source that is signalled to one core. -/
theorem signal_one {x : Channel} {hk : Bool} (l : Nat) (settled : SettledCore x hk) :
    Delivered x hk l (coreOf (deliverBoth (pendSource hk l x)) hk) :=
  delivered_deliverBoth settled (onlyCores_pendSource ..) (coreOf_pendSource settled.1 l)

theorem signal_other {x : Channel} {hk : Bool} (l : Nat) (settled : (coreOf x (!hk)).up = false ∨ nextSource x (!hk) = none) :
    coreOf (deliverBoth (pendSource hk l x)) (!hk) = coreOf x (!hk) :=
  deliverBoth_same settled (onlyCores_pendSource ..) (coreOf_pendSource_other ..)

theorem onlyCores_raiseIrq (l : Nat) (x : Channel) : OnlyCores x (raiseIrq l x) := by
  unfold raiseIrq
  refine .trans ?_ (onlyCores_deliverBoth _)
  split
  · exact onlyCores_pendSource ..
  · split
    · exact (onlyCores_pendSource ..).trans (onlyCores_pendSource ..)
    · exact onlyCores_pendSource ..

/-- Level 0 goes to both cores. -/
theorem raiseIrq_zero {x : Channel} (two : x.flt.oneCore = false) (cmd : SettledCore x false) (house : SettledCore x true) (hk : Bool) :
    Delivered x hk 0 (coreOf (raiseIrq 0 x) hk) := by
  have both : raiseIrq 0 x = deliverBoth (pendSource true 0 (pendSource false 0 x)) := by
    unfold raiseIrq
    rw [two]
    rfl
  have only : OnlyCores x (pendSource true 0 (pendSource false 0 x)) := (onlyCores_pendSource ..).trans (onlyCores_pendSource ..)
  have first : coreOf (pendSource false 0 x) true = coreOf x true := coreOf_pendSource_other x false 0
  rw [both]
  cases hk with
  | false => exact delivered_deliverBoth cmd only ((coreOf_pendSource_other _ true 0).trans (coreOf_pendSource cmd.1 0))
  | true =>
    refine delivered_deliverBoth house only ?_
    rw [coreOf_pendSource (by rw [first]; exact house.1), first]

theorem raiseIrq_routed {x : Channel} {l : Nat} (two : x.flt.oneCore = false) (some_level : l ≠ 0) :
    raiseIrq l x = deliverBoth (pendSource (x.irq.route.getLsbD l) l x) := by
  unfold raiseIrq
  rw [two]
  simp [some_level]

theorem raiseIrq_one_core {x : Channel} (one : x.flt.oneCore = true) {hk : Bool} (up : (coreOf x hk).up = true) (down : (coreOf x (!hk)).up = false)
    (l : Nat) : raiseIrq l x = deliverBoth (pendSource hk l x) := by
  have left : (!x.cmdCore.up) = hk := by
    cases hk with
    | false => rw [show x.cmdCore.up = true from up]; rfl
    | true => rw [show x.cmdCore.up = false from down]; rfl
  unfold raiseIrq
  rw [one, left]
  rfl

/-! ## A handler's return (R692) -/

/-- What a core takes once its handler has returned, in a channel that shows it. -/
theorem coreOf_handlerReturn {x : Channel} {hk : Bool} {k : Core} (runs : (coreOf x hk).stack ≠ [])
    (next : coreOf (deliverIrq hk 9 (setCore x hk { coreOf x hk with stack := (coreOf x hk).stack.tail })) hk = k) :
    coreOf (handlerReturn hk x) hk = { k with asleep := k.asleep || k.stack.isEmpty } ∧ coreOf (handlerReturn hk x) (!hk) = coreOf x (!hk) := by
  obtain ⟨-, other⟩ := deliverIrq_keeps hk 9 (setCore x hk { coreOf x hk with stack := (coreOf x hk).stack.tail })
  rw [coreOf_setCore_other] at other
  unfold handlerReturn
  dsimp only
  rw [if_neg (by simpa using runs), next]
  split
  · next idle =>
    rw [coreOf_setCore_same, coreOf_setCore_other, idle, Bool.or_true]
    exact ⟨rfl, other⟩
  · next busy =>
    rw [Bool.not_eq_true] at busy
    rw [busy, Bool.or_false]
    exact ⟨next, other⟩

theorem handlerReturn_of_idle {x : Channel} {hk : Bool} (idle : (coreOf x hk).stack = []) : handlerReturn hk x = x := by
  unfold handlerReturn
  exact if_pos (by rw [idle]; rfl)

theorem handlerReturn_alone {x : Channel} {hk : Bool} {l : Nat} {rest : List Nat} (runs : (coreOf x hk).stack = l :: rest)
    (quiet : (coreOf x hk).waiting = []) :
    coreOf (handlerReturn hk x) hk = { coreOf x hk with stack := rest, asleep := (coreOf x hk).asleep || rest.isEmpty } ∧
      coreOf (handlerReturn hk x) (!hk) = coreOf x (!hk) := by
  refine coreOf_handlerReturn (runs ▸ List.cons_ne_nil l rest) (k := { coreOf x hk with stack := rest }) ?_
  have idle : nextSource (setCore x hk { coreOf x hk with stack := (coreOf x hk).stack.tail }) hk = none := by
    rw [nextSource_none_iff, coreOf_setCore_same, quiet]
    exact fun _ waits => absurd waits List.not_mem_nil
  rw [deliverIrq_of_none (.inr idle), coreOf_showDepth, coreOf_setCore_same, runs]
  rfl

theorem handlerReturn_next {x : Channel} {hk : Bool} {l m : Nat} {rest : List Nat} (runs : (coreOf x hk).stack = l :: rest)
    (up : (coreOf x hk).up = true) (one : (coreOf x hk).waiting = [m]) (higher : m < rest.headD 8) (unmasked : levelMasked x hk m = false) :
    coreOf (handlerReturn hk x) hk = { coreOf x hk with stack := m :: rest, waiting := [], asleep := false } ∧
      coreOf (handlerReturn hk x) (!hk) = coreOf x (!hk) := by
  refine coreOf_handlerReturn (runs ▸ List.cons_ne_nil l rest)
    (k := { coreOf x hk with stack := m :: rest, waiting := [], asleep := false }) ?_
  let y := setCore x hk { coreOf x hk with stack := rest, waiting := [] }
  have settled : SettledCore y hk := by
    refine ⟨?_, nextSource_none_iff.mpr ?_⟩
    · rw [coreOf_setCore_same]
      exact up
    · rw [coreOf_setCore_same]
      exact fun _ waits => absurd waits List.not_mem_nil
  have core_y : coreOf y hk = { coreOf x hk with stack := rest, waiting := [] } := coreOf_setCore_same ..
  have waits : coreOf (setCore x hk { coreOf x hk with stack := (coreOf x hk).stack.tail }) hk =
      { coreOf y hk with waiting := (coreOf y hk).waiting ++ [m] } := by
    rw [coreOf_setCore_same, core_y, runs]
    simp [one]
  have only : OnlyCores y (setCore x hk { coreOf x hk with stack := (coreOf x hk).stack.tail }) := by cases hk <;> rfl
  have takes : m < topLevel (coreOf y hk) ∧ levelMasked y hk m = false := by
    rw [core_y, (onlyCores_setCore x hk _).masked]
    exact ⟨higher, unmasked⟩
  have delivered := delivered_of_settled settled only waits 8
  unfold Delivered at delivered
  dsimp only at delivered
  rw [if_pos takes, core_y] at delivered
  exact delivered

/-! ## Events -/

/-- Settles O60, event by event. -/
theorem interruptsReachCores : Obligations.InterruptsReachCores := by
  unfold Obligations.InterruptsReachCores
  intro s c x settled
  refine ⟨fun level cmd house => ?two, fun level hk one down here => ?one, fun hk => ⟨fun idle => ?idle, fun l rest runs up => ⟨fun none => ?alone,
    fun m waits higher unmasked => ?next⟩⟩, fun off => ?dark, fun vaux => ?tick⟩
  case two =>
    intro l two
    refine ⟨_, rfl, onlyChannel_modChan .., ?_, fun hk => ?_⟩
    · rw [chanOf_modChan_same, onlyCores_raiseIrq l x]
    · rw [chanOf_modChan_same]
      by_cases zero : l = 0
      · rw [if_pos (.inl zero), show level.toNat = 0 from zero, zero]
        exact raiseIrq_zero two cmd house hk
      · have both (o : Bool) : SettledCore x o := by
          cases o
          · exact cmd
          · exact house
        rw [raiseIrq_routed two zero]
        by_cases routed : x.irq.route.getLsbD l = hk
        · rw [if_pos (.inr routed), routed]
          exact signal_one l (both hk)
        · have other : (!x.irq.route.getLsbD l) = hk := by
            cases hk <;> simp_all
          rw [if_neg (not_or.mpr ⟨zero, routed⟩), ← other]
          exact signal_other l (.inr (both _).2)
  case one =>
    refine ⟨_, rfl, onlyChannel_modChan .., ?_⟩
    rw [chanOf_modChan_same, raiseIrq_one_core one here.1 down]
    exact ⟨signal_one _ here, signal_other _ (.inl down)⟩
  case idle =>
    show execHandlerReturn c hk s = _
    unfold execHandlerReturn
    rw [onDev_eq, modChan_of_fixed (handlerReturn_of_idle idle)]
  case alone =>
    refine ⟨_, rfl, onlyChannel_modChan .., ?_⟩
    rw [chanOf_modChan_same]
    exact handlerReturn_alone runs none
  case next =>
    refine ⟨_, rfl, onlyChannel_modChan .., ?_⟩
    rw [chanOf_modChan_same]
    exact handlerReturn_next runs up waits higher unmasked
  case dark =>
    show execMillisecondTick c s = _
    unfold execMillisecondTick
    rw [onDevB_eq, off]
    rfl
  case tick =>
    have ticks : exec (.millisecondTick c) s = .next { s with dev := modChan s.dev c msTick } := by
      show execMillisecondTick c s = _
      unfold execMillisecondTick
      rw [onDevB_eq, if_pos vaux]
    refine ⟨_, ticks, ?_, ?_⟩
    · rw [chanOf_modChan_same]
      unfold msTick
      rw [onlyCores_raiseIrq 7]
    · show execIrqSourceSignal c 7 _ = _
      unfold execIrqSourceSignal
      rw [onDev_eq, modChan_modChan]
      rfl

end Sys2Proof.Machine

end

section

namespace Sys2Proof.Machine

/-! ## Waits for the Cellar (R498, R592) -/

@[simp] theorem retried_setPte (x : Channel) (r : PageRef) (p : Pte) : (setPte x r p).retried = x.retried := by cases r <;> rfl

@[simp] theorem retried_poisonPage (o : Option Arose) (x : Channel) (r : PageRef) : (poisonPage o x r).retried = x.retried := by cases r <;> rfl

@[simp] theorem retried_modAcct (x : Channel) (a : Nat) (f : TierAcct → TierAcct) : (modAcct x a f).retried = x.retried := by
  unfold modAcct; split <;> rfl

@[simp] theorem retried_chargeMove (x : Channel) (a : Nat) : (chargeMove x a).retried = x.retried := by
  unfold chargeMove; split <;> rfl

theorem retried_landPage (x : Channel) (r : PageRef) (frame : Nat) : (landPage x r frame).retried = x.retried := by
  simp only [landPage, retried_chargeMove, retried_modAcct, retried_setPte]
  rfl

theorem retried_brokenPage (a : Nat) (r : PageRef) (x : Channel) : (brokenPage a r x).retried = x.retried := by
  rw [brokenPage, record_retried, retried_poisonPage]

/-- The wait for a Cellar page is over. -/
def unwaited (f : Nat) (x : Channel) : Channel := { x with retried := x.retried.filter (· != f) }

theorem not_mem_unwaited (f : Nat) (x : Channel) : f ∉ (unwaited f x).retried := by simp [unwaited]

theorem memrAnswered_eq (region page : Nat) (intact : Bool) (x : Channel) :
    memrAnswered region page intact x =
      match pageInCellar x (cellarPage region page) with
      | some r => if intact then unwaited (cellarPage region page) x else poisonPage none (unwaited (cellarPage region page) x) r
      | none => unwaited (cellarPage region page) x := by
  unfold memrAnswered
  rfl

/-- An answer ends the wait and moves nothing. -/
theorem memrAnswered_ends (region page : Nat) (intact : Bool) (x : Channel) :
    cellarPage region page ∉ (memrAnswered region page intact x).retried ∧ (memrAnswered region page intact x).moves = x.moves := by
  rw [memrAnswered_eq]
  split
  · split
    · exact ⟨not_mem_unwaited _ _, rfl⟩
    · rw [retried_poisonPage, moves_poisonPage]
      exact ⟨not_mem_unwaited _ _, rfl⟩
  · exact ⟨not_mem_unwaited _ _, rfl⟩

/-- An answer poisons its page where its data are poisoned. -/
theorem pteAt_memrAnswered {region page : Nat} {x : Channel} {r : PageRef} (lies : pageInCellar x (cellarPage region page) = some r) (intact : Bool) :
    pteAt (memrAnswered region page intact x) r = { pteAt x r with poison := !intact || (pteAt x r).poison } := by
  have same : pteAt (unwaited (cellarPage region page) x) r = pteAt x r := (samePages_of_rooms rfl rfl rfl).pte r
  rw [memrAnswered_eq, lies]
  cases intact with
  | true => exact same
  | false =>
    rw [← same]
    exact (pageSet_poisonPage none _ r).entry

/-! ## A read that has failed twice (R498) -/

theorem pteAt_disableRegion (region : Nat) (x : Channel) (r : PageRef) : pteAt (disableRegion region x) r = pteAt x r :=
  (samePages_of_rooms rfl rfl rfl).pte r

theorem mem_disabled_disableRegion (region : Nat) (x : Channel) : region ∈ (disableRegion region x).disabled := mem_addAll (List.mem_singleton_self region)

theorem free_showFree (x : Channel) (region : Nat) : (regionOf (showFree x region) region).free = BitVec.ofNat 32 (regionFree x region) :=
  congrArg TierT2Region.free (tget_tmod_same ({} : TierT2Region) x.regions region fun g => { g with free := BitVec.ofNat 32 (regionFree x region) })

theorem free_disableRegion (region : Nat) (x : Channel) : (regionOf (disableRegion region x) region).free = 0 := by
  have off : regionFree { x with disabled := addAll x.disabled [region] } region = 0 :=
    if_pos (List.contains_iff_mem.mpr (mem_disabled_disableRegion region x))
  exact (free_showFree ..).trans (congrArg (BitVec.ofNat 32) off)

/-- A promotion that fails poisons its page (R498). -/
theorem promotionFails_of_promoting {x : Channel} {r : PageRef} (promotes : promoting x r = true) :
    (pteAt (promotionFails x r) r).poison = true ∧ (promotionFails x r).retried = x.retried := by
  obtain ⟨m, found⟩ := Option.isSome_iff_exists.mp (List.find?_isSome.mpr (List.any_eq_true.mp promotes))
  unfold promotionFails
  rw [found]
  dsimp only
  rw [(brokenPage_spec ..).1.entry, retried_brokenPage, retried_landPage]
  exact ⟨rfl, rfl⟩

theorem readFails_of_lies {region page : Nat} {x : Channel} {r : PageRef} (lies : pageInCellar x (cellarPage region page) = some r) :
    let y := unwaited (cellarPage region page) x
    readFails region page x = disableRegion region (if promoting x r then promotionFails y r else poisonPage none y r) := by
  unfold readFails
  rw [lies]
  rfl

theorem readFails_spec {region page : Nat} {x : Channel} {r : PageRef} (lies : pageInCellar x (cellarPage region page) = some r) :
    let z := readFails region page x
    cellarPage region page ∉ z.retried ∧ (pteAt z r).poison = true ∧ region ∈ z.disabled ∧ (regionOf z region).free = 0 := by
  let y := unwaited (cellarPage region page) x
  have lost : ∃ w, readFails region page x = disableRegion region w ∧ w.retried = y.retried ∧ (pteAt w r).poison = true := by
    refine ⟨_, readFails_of_lies lies, ?_⟩
    split
    · next promotes =>
      obtain ⟨poisoned, waits⟩ := promotionFails_of_promoting (x := y) promotes
      exact ⟨waits, poisoned⟩
    · exact ⟨retried_poisonPage .., congrArg Pte.poison (pageSet_poisonPage none y r).entry⟩
  obtain ⟨w, fails, waits, poisoned⟩ := lost
  dsimp only
  rw [fails]
  refine ⟨?_, ?_, mem_disabled_disableRegion .., free_disableRegion ..⟩
  · show _ ∉ w.retried
    rw [waits]
    exact not_mem_unwaited _ _
  · rw [pteAt_disableRegion]
    exact poisoned

theorem memrTimeout_of_lies {c : Ch} {region page : Nat} {d : Device} {r : PageRef}
    (lies : pageInCellar (chanOf d c) (cellarPage region page) = some r) :
    memrTimeout c region page d =
      if cellarPage region page ∈ (chanOf d c).retried then modChan d c (readFails region page)
      else send (modChan d c fun x => { x with retried := x.retried ++ [cellarPage region page] }) (cellarAccess (chanOf d c) c none region page) := by
  unfold memrTimeout
  simp only [lies, Option.isNone_some, Bool.false_eq_true, if_false, List.contains_iff_mem]

/-! ## A peer's accesses (R181) -/

theorem memwReceive_of_held {c : Ch} {addr : W64} {bytes : List Byte} {d : Device} (held : peerHolds (chanOf d c) addr bytes.length = true)
    (node : BitVec 18) :
    memwReceive c node addr bytes d = modChan d c fun x => { x with peerMem := writeBytes x.peerMem addr.toNat bytes } := if_pos held

theorem memrReceive_of_held {c : Ch} {addr : W64} {n : Nat} {d : Device} (held : peerHolds (chanOf d c) addr n = true) (node : BitVec 18) :
    memrReceive c node addr n d = send d (.memrAnswer c node (readBytes (chanOf d c).peerMem addr.toNat n)) := if_pos held

/-- Settles O44, command by command. -/
theorem cellarTraffic : Obligations.CellarTraffic := by
  unfold Obligations.CellarTraffic
  intro c s x
  refine ⟨fun region page intact => ?answer, fun region page r lies => ⟨fun first => ?again, fun again => ?failed⟩, fun node addr bytes held => ?write,
    fun node addr n held => ?read⟩
  case answer =>
    refine ⟨_, rfl, onlyChannel_modChan .., ?_⟩
    rw [chanOf_modChan_same]
    obtain ⟨ended, moves⟩ := memrAnswered_ends region page intact x
    exact ⟨ended, moves, fun r lies => pteAt_memrAnswered lies intact⟩
  case again =>
    refine ⟨_, rfl, ?_⟩
    dsimp only
    rw [memrTimeout_of_lies lies, if_neg first]
    exact ⟨rfl, by rw [chanOf_send, chanOf_modChan_same]⟩
  case failed =>
    refine ⟨_, rfl, ?_⟩
    dsimp only
    rw [memrTimeout_of_lies lies, if_pos again, chanOf_modChan_same]
    exact readFails_spec lies
  case write =>
    refine ⟨_, rfl, ?_⟩
    rw [memwReceive_of_held held]
    refine ⟨onlyChannel_modChan .., ?_⟩
    rw [chanOf_modChan_same]
    exact ⟨fun i h => readByte_writeBytes_inside _ _ _ _ h, fun a outside => readByte_writeBytes_outside _ _ _ _ outside, rfl⟩
  case read =>
    refine ⟨_, rfl, ?_⟩
    rw [memrReceive_of_held held]
    refine ⟨rfl, _, rfl, ?_, fun i h => ?_⟩
    · unfold readBytes
      rw [List.length_map, List.length_range]
    · simp [readBytes]
      rfl

end Sys2Proof.Machine

end

section

namespace Sys2Proof.Machine

/-! ## Resets of ports and functions (R688, R689) -/

/-- With no load in progress no fetch fails. -/
theorem failFetches_of_idle {d : Device} (idle : d.fy.loads = []) (p : Load → Bool) : failFetches p d = d := by
  unfold failFetches
  rw [idle]
  rfl

theorem loads_orphan {d : Device} (idle : d.fy.loads = []) (p : Nat → Bool) : (orphan p d).fy.loads = [] := by
  unfold orphan
  dsimp only
  rw [idle]
  rfl

/-- A function of those that are reset is as after reset. -/
theorem fnOf_eraseFns_of_reset {p : Nat → Bool} {g : Fn} (named : p g.key = true) (d : Device) :
    fnOf (eraseFns p d) g = { words := { port := g.portB, func := g.num } } := by
  have gone : tget {} (eraseFns p d).fy.fns g.key = {} := by
    unfold tget eraseFns
    dsimp only
    rw [find_filter_none]
    intro x here
    rw [here, named]
    rfl
  unfold fnOf
  rw [gone]

theorem fnOf_eraseFns_of_other {p : Nat → Bool} {g : Fn} (other : p g.key = false) (d : Device) : fnOf (eraseFns p d) g = fnOf d g := by
  have kept : tget {} (eraseFns p d).fy.fns g.key = tget {} d.fy.fns g.key := by
    unfold tget eraseFns
    dsimp only
    rw [find_filter_key]
    intro x here
    rw [here, other]
    rfl
  unfold fnOf
  rw [kept]

theorem ofPort_key (g : Fn) : ofPort g.portB g.key = true := by
  obtain ⟨b, n⟩ := g
  have small := n.isLt
  cases b <;> simp [ofPort, Fn.key] <;> omega

/-- A function that takes no events is as before a change of FY_DEV_STATUS. -/
theorem fnOf_refresh_of_quiet {d : Device} {g : Fn} (quiet : (fnOf d g).words.evqEn = false) : fnOf (refresh d) g = fnOf d g := by
  unfold refresh
  dsimp only
  split
  · rfl
  · exact postAll_quiet _ g _ quiet

theorem portUp_refresh (d : Device) (p : Bool) : portUp (refresh d) p = portUp d p := by
  unfold portUp
  rw [(refresh_keeps d).2.2.2]

theorem portUp_setPort (d : Device) (p up o : Bool) : portUp (setPort d p up) o = if o = p then up else portUp d o := by
  cases p <;> cases o <;> rfl

theorem drainWithoutHost_of_host {b : Board} {d : Device} {p : Bool} (up : portUp d p = true ∨ b.pwr.seq ≠ 9) : drainWithoutHost b d = d := by
  refine if_neg ?_
  rcases up with up | early
  · cases p
    · simp [show d.fy.linkA = true from up]
    · simp [show d.fy.linkB = true from up]
  · rw [decide_eq_false early]
    exact Bool.false_ne_true

/-- The device once the functions of a port are reset and the port is down. -/
def portLost (p : Bool) (d : Device) : Device := setPort (eraseFns (ofPort p) (orphan (ofPort p) d)) p false

theorem perstAssert_of_up {p : Bool} {b : Board} {d : Device} (idle : d.fy.loads = []) (up : portUp d p = true)
    (host : portUp d (!p) = true ∨ b.pwr.seq ≠ 9) : perstAssert p b d = refresh (portLost p d) := by
  have other : portUp (portLost p d) (!p) = portUp d (!p) := by
    unfold portLost
    rw [portUp_setPort, if_neg (by cases p <;> decide)]
    rfl
  have no_loads : (portLost p d).fy.loads = [] := by
    unfold portLost setPort
    dsimp only
    cases p <;> exact loads_orphan idle _
  have staged : perstAssert p b d = refresh (drainWithoutHost b (portLost p d)) := by
    unfold perstAssert
    rw [if_neg (by rw [up]; decide)]
    dsimp only
    rw [failFetches_of_idle idle]
    exact congrArg (fun e => refresh (drainWithoutHost b e)) (failFetches_of_idle no_loads _)
  rw [staged, drainWithoutHost_of_host (p := !p)]
  rw [other]
  exact host

theorem flr_of_idle {f : Fn} {d : Device} (idle : d.fy.loads = []) : flr f d = eraseFns (fun k => k == f.key) (orphan (fun k => k == f.key) d) :=
  failFetches_of_idle (d := eraseFns _ (orphan (fun k => k == f.key) d)) (loads_orphan (d := d) idle fun k => k == f.key) _

/-! ## Records that are owed (R292) -/

theorem deliverAll_of_none {d : Device} (none : NothingOwed d) : deliverAll d = d := by
  unfold deliverAll
  refine List.foldl_fixed' (fun u => ?_) _
  refine List.foldl_fixed' (fun n => ?_) _
  rw [none u n]
  rfl

theorem NothingOwed.onlyFns {d e : Device} (none : NothingOwed d) (only : OnlyFns d e) : NothingOwed e := by
  intro u n
  have same : leadRoom e u n = leadRoom d u n := by
    unfold leadRoom leadOf chanOf suiteOf
    rw [only.1, only.2.1]
  rw [same]
  exact none u n

theorem fnOf_modFn_same (d : Device) (f : Fn) (g : FnState → FnState) :
    fnOf (modFn d f g) f = { g (fnOf d f) with words := { (g (fnOf d f)).words with port := f.portB, func := f.num } } := fnOf_setFn_same ..

/-- A function's Bus Master Enable and power state stand. -/
def SamePower (f : Fn) (d e : Device) : Prop := (fnOf e f).busMaster = (fnOf d f).busMaster ∧ (fnOf e f).d3hot = (fnOf d f).d3hot

theorem SamePower.trans {f : Fn} {a b c : Device} (h : SamePower f a b) (g : SamePower f b c) : SamePower f a c := ⟨g.1.trans h.1, g.2.trans h.2⟩

theorem samePower_fireVec (d : Device) (f : Fn) (v : Nat) : SamePower f d (fireVec d f v) := by
  unfold SamePower
  rw [fireVec_fn d f v f]
  exact ⟨rfl, rfl⟩

theorem samePower_lostRecord (d : Device) (f : Fn) : SamePower f d (lostRecord d f) := by
  unfold lostRecord
  dsimp only
  split
  · obtain ⟨bus, power, -⟩ := writeEvent_fn (setFn d f { fnOf d f with dropped := 0 }) f { code := 0x07, detail := BitVec.ofNat 64 (fnOf d f).dropped } f
    rw [fnOf_setFn_same] at bus power
    exact ⟨bus, power⟩
  · exact ⟨rfl, rfl⟩

/-- The messages of a function that waited go out. -/
def firePending (f : Fn) (d : Device) : Device :=
  if mayDma (fnOf d f) then ((fnOf d f).vectors.filter fun e => e.2.pend && !e.2.masked).foldl (fun d e => fireVec d f e.1) d else d

theorem firePending_keeps (f : Fn) (d : Device) : OnlyFns d (firePending f d) ∧ SamePower f d (firePending f d) := by
  unfold firePending
  split
  · clear * -
    generalize (fnOf d f).vectors.filter (fun e => e.2.pend && !e.2.masked) = l
    refine ⟨onlyFns_foldl (fun d (e : Nat × Vec) => fireVec d f e.1) (fun d e => onlyFns_fireVec d f e.1) l d, ?_⟩
    induction l generalizing d with
    | nil => exact ⟨rfl, rfl⟩
    | cons e l ih => exact (samePower_fireVec d f e.1).trans (ih (fireVec d f e.1))
  · exact ⟨.rfl' d, rfl, rfl⟩

/-- What waited goes out, and nothing but functions changes. -/
theorem releaseFn_keeps (f : Fn) {d : Device} (none : NothingOwed d) : OnlyFns d (releaseFn f d) ∧ SamePower f d (releaseFn f d) := by
  obtain ⟨only, power⟩ := firePending_keeps f d
  have ended : OnlyFns d (lostRecord (firePending f d) f) := only.trans (onlyFns_lostRecord ..)
  have released : releaseFn f d = lostRecord (firePending f d) f := deliverAll_of_none (none.onlyFns ended)
  rw [released]
  exact ⟨ended, power.trans (samePower_lostRecord ..)⟩

/-! ## Configuration requests (R725) -/

theorem configRequest_of_firmware {f : Fn} {b : Board} {d : Device} (on : b.foyerOn = true) (up : portUp d f.portB = true)
    (runs : b.firmware = true) (a : CfgAccess) : configRequest f a b d = configServed f a d := by
  unfold configRequest
  rw [on, up, runs]
  rfl

theorem configRequest_of_no_firmware {f : Fn} {b : Board} {d : Device} (on : b.foyerOn = true) (up : portUp d f.portB = true)
    (waits : b.firmware = false) (strap : b.boot.bootSel = 2 → f.num ≠ 0) (a : CfgAccess) : configRequest f a b d = send d .retry := by
  have unserved : (b.boot.bootSel == 2 && f.isPF) = false := by
    unfold Fn.isPF
    simpa using strap
  unfold configRequest
  rw [on, up, waits, unserved]
  rfl

theorem configWord_device {f : Fn} (pf : f.num = 0) {off : BitVec 12} (first : off.toNat / 4 = 0) (free : W32) :
    (configWord f off free).extractLsb' 16 16 = 0x0402 := by
  have is_pf : f.isPF = true := by
    unfold Fn.isPF
    rw [pf]
    rfl
  unfold configWord
  rw [first, is_pf]
  exact BitVec.extractLsb'_append_eq_left

theorem configWord_revision (f : Fn) {off : BitVec 12} (third : off.toNat / 4 = 2) (free : W32) :
    (configWord f off free).extractLsb' 0 8 = 0xA0 := by
  unfold configWord
  rw [third]
  exact BitVec.extractLsb'_append_eq_right

/-- Settles O23, event by event. -/
theorem portsAndFunctionsReset : Obligations.PortsAndFunctionsReset := by
  unfold Obligations.PortsAndFunctionsReset
  intro s p f idle
  refine ⟨fun up host => ?perst, fun on down none => ?returns, fun up => ?flr, fun on up waits strap a => ?retry, fun foyer up runs none => ?served⟩
  case perst =>
    refine ⟨_, rfl, ?_⟩
    dsimp only
    rw [perstAssert_of_up idle up host, portUp_refresh, portUp_refresh, refresh_chans, refresh_suites]
    unfold portLost
    rw [portUp_setPort, if_pos rfl, portUp_setPort, if_neg (by cases p <;> decide)]
    refine ⟨rfl, rfl, by cases p <;> rfl, by cases p <;> rfl, fun g own => ?_⟩
    have reset : fnOf (portLost p s.dev) g = { words := { port := g.portB, func := g.num } } := by
      subst own
      refine .trans ?_ (fnOf_eraseFns_of_reset (ofPort_key g) (orphan (ofPort g.portB) s.dev))
      unfold portLost setPort
      cases g.portB <;> rfl
    have same : fnOf (refresh (portLost p s.dev)) g = { words := { port := g.portB, func := g.num } } :=
      (fnOf_refresh_of_quiet (by rw [reset])).trans reset
    unfold portLost at same
    rw [same]
    exact ⟨rfl, rfl, rfl⟩
  case returns =>
    have owed : NothingOwed (setPort s.dev p true) := by cases p <;> exact none
    have back : linkReturn p s.board s.dev = refresh (setPort s.dev p true) := by
      unfold linkReturn
      rw [on, down, deliverAll_of_none owed]
      rfl
    refine ⟨_, rfl, ?_⟩
    dsimp only
    rw [back, portUp_refresh, portUp_refresh, refresh_chans, refresh_suites, portUp_setPort, if_pos rfl, portUp_setPort,
      if_neg (by cases p <;> decide)]
    exact ⟨rfl, rfl, by cases p <;> rfl, by cases p <;> rfl⟩
  case flr =>
    refine ⟨_, rfl, ?_⟩
    dsimp only
    rw [if_pos up, flr_of_idle idle, fnOf_eraseFns_of_reset (p := fun k => k == f.key) (beq_self_eq_true f.key)]
    refine ⟨rfl, rfl, rfl, fun g other => ?_, rfl, rfl⟩
    rw [fnOf_eraseFns_of_other (p := fun k => k == f.key) (by simpa using other)]
    rfl
  case retry =>
    refine ⟨_, rfl, ?_⟩
    rw [configRequest_of_no_firmware on up waits strap]
    rfl
  case served =>
    have released (g : FnState → FnState) : (releaseFn f (modFn s.dev f g)).chans = s.dev.chans ∧
        SamePower f (modFn s.dev f g) (releaseFn f (modFn s.dev f g)) := by
      have set := onlyFns_modFn s.dev f g
      obtain ⟨only, power⟩ := releaseFn_keeps f (none.onlyFns set)
      exact ⟨only.1.trans set.1, power⟩
    refine ⟨fun off => ?_, fun on => ?_, fun d3 => ?_⟩
    · refine ⟨_, configWord f off ((Config.freeWord (drawFree s.dev).1).setWidth 32), rfl, ?_⟩
      rw [configRequest_of_firmware foyer up runs]
      exact ⟨rfl, fun first pf => configWord_device pf first _, fun third => configWord_revision f third _⟩
    · obtain ⟨only, bus, -⟩ := released fun x => { x with busMaster := on }
      refine ⟨_, rfl, ?_⟩
      rw [configRequest_of_firmware foyer up runs]
      rw [fnOf_modFn_same] at bus
      exact ⟨bus, only⟩
    · obtain ⟨only, -, power⟩ := released fun x => { x with d3hot := d3 }
      refine ⟨_, rfl, ?_⟩
      rw [configRequest_of_firmware foyer up runs]
      rw [fnOf_modFn_same] at power
      exact ⟨power, only⟩

end Sys2Proof.Machine

end

section

namespace Sys2Proof.Machine

/-! ## CHECKPOINT_NOW (R626, R628 to R630) -/

/-- What CHECKPOINT_NOW asks before it takes the cut of one room. -/
structure CutLegal (a : Accepted) (d : Device) : Prop where
  suite : suiteExists d a.suite = true
  reserved : reservedClear a.params [(0, 8)] = true
  one : parB a.params 6 = false
  names : mayName a (leadRoom d a.suite (par a.params 0 6)) = true
  started : isStarted (leadRoom d a.suite (par a.params 0 6)) = true
  attic : hasAttic (leadRoom d a.suite (par a.params 0 6)) = true
  sharded : (leadRoom d a.suite (par a.params 0 6)).upd.nshards1 = 0 ∨ parB a.params 7 = false

theorem CutLegal.pending {a : Accepted} {d : Device} (h : CutLegal a d) (op : HostOp) (p : HostPost) : CutLegal a (pendingDev op p d) where
  suite := by simpa using h.suite
  reserved := h.reserved
  one := h.one
  names := by simpa using h.names
  started := by simpa using h.started
  attic := by simpa using h.attic
  sharded := by simpa using h.sharded

theorem CutLegal.not_refused {a : Accepted} {d : Device} (h : CutLegal a d) :
    cutRefused (leadRoom d a.suite (par a.params 0 6)) (parB a.params 7) = false := by
  unfold cutRefused
  rw [h.started, h.attic]
  rcases h.sharded with alone | step <;> simp [*]

theorem runCheckpointNow_of_legal {a : Accepted} {d : Device} (h : CutLegal a d) :
    runCheckpointNow a d =
      let o := nowCut d a.suite (par a.params 0 6) (parB a.params 7)
      match o.2.1 with
      | some w => (o.1, .wait (.checkpoint [w] .ok [] false))
      | none => only o.1 o.2.2 := by
  unfold runCheckpointNow
  simp only [namedRoom_of_exists h.suite, h.reserved, h.one, h.names, h.not_refused, Bool.not_true, Bool.not_false, Bool.false_and, Bool.and_false,
    Bool.or_self, Bool.false_eq_true, if_false] <;> rfl

/-- A cut that is asked for: due at the next boundary, behind a running capture as a pending one (R628 to R630). -/
def askedRoom (point : Bool) (r : Room) : Room :=
  if r.ckps.capture.isSome then
    { r with ckps := { r.ckps with due := some (r.ckps.due.getD point) }, ckp := { r.ckp with pending := true, merged := satInc r.ckp.merged } }
  else { r with ckps := { r.ckps with due := some (r.ckps.due.getD point) } }

theorem askCut_eq (d : Device) (u : Ch) (n : Nat) (point : Bool) : askCut d u n point = modLeadRoom d u n (askedRoom point) := rfl

theorem askedRoom_spec (point : Bool) (r : Room) :
    (askedRoom point r).ckps.due = some (r.ckps.due.getD point) ∧ (askedRoom point r).ckps.capture = r.ckps.capture ∧
    (askedRoom point r).ckp.pending = (r.ckp.pending || r.ckps.capture.isSome) ∧ (askedRoom point r).serve = r.serve ∧
    (askedRoom point r).cfg = r.cfg := by
  unfold askedRoom
  split
  · next running => exact ⟨rfl, rfl, by rw [running, Bool.or_true], rfl, rfl⟩
  · next idle =>
    rw [Bool.not_eq_true] at idle
    exact ⟨rfl, rfl, by rw [idle, Bool.or_false], rfl, rfl⟩

/-- A room that trains or is in a step holds no boundary at once. -/
theorem idleServing_askCut {d : Device} {u : Ch} {n : Nat} (busy : servesStreams (leadRoom d u n) = true → (leadRoom d u n).serve.inStep = true)
    (point : Bool) : idleServing (askCut d u n point) u n = false := by
  obtain ⟨-, -, -, serve, cfg⟩ := askedRoom_spec point (leadRoom d u n)
  unfold idleServing servesStreams
  rw [askCut_eq, leadRoom_modLeadRoom, serve, cfg]
  cases stands : servesStreams (leadRoom d u n) with
  | true => rw [busy stands]; simp
  | false =>
    unfold servesStreams at stands
    rw [stands]
    simp

theorem nowCut_alone {d : Device} {u : Ch} {n : Nat} (alone : (leadRoom d u n).upd.nshards1 = 0) (started : isStarted (leadRoom d u n) = true)
    (busy : servesStreams (leadRoom d u n) = true → (leadRoom d u n).serve.inStep = true) (cut : Bool) :
    nowCut d u n cut = (askCut d u n cut, some (u, n, (leadRoom d u n).ckps.capture.isSome), .ok) := by
  obtain ⟨due, -, -, -, cfg⟩ := askedRoom_spec cut (leadRoom d u n)
  have asked : cutAsked (askCut d u n cut) u n (leadRoom d u n).ckps.capture.isSome = (some (u, n, (leadRoom d u n).ckps.capture.isSome), .ok) := by
    have runs : isStarted (askedRoom cut (leadRoom d u n)) = true := by
      unfold isStarted at started ⊢
      rw [cfg]
      exact started
    unfold cutAsked
    rw [askCut_eq, leadRoom_modLeadRoom]
    simp only [runs, due, Option.isSome_some, Bool.or_true, Bool.not_true, Bool.false_eq_true, if_false, if_true]
  unfold nowCut
  simp only [alone, bne_self_eq_false, Bool.false_eq_true, if_false, idleBoundary_of_busy (idleServing_askCut busy cut), asked]

theorem nowCut_first {d : Device} {u : Ch} {n : Nat} (sharded : (leadRoom d u n).upd.nshards1 ≠ 0) (first : (leadRoom d u n).upd.shard = 0)
    (cut : Bool) :
    nowCut d u n cut =
      (modLeadRoom d u n fun r => { r with ckps := { r.ckps with jobAsk := true } }, some (u, n, (leadRoom d u n).ckps.capture.isSome), .ok) := by
  unfold nowCut
  rw [if_pos (by simpa using sharded), if_pos first]

theorem nowCut_other {d : Device} {u : Ch} {n : Nat} (sharded : (leadRoom d u n).upd.nshards1 ≠ 0) (other : (leadRoom d u n).upd.shard ≠ 0)
    (cut : Bool) : nowCut d u n cut = (d, none, .ok) := by
  unfold nowCut
  rw [if_pos (by simpa using sharded), if_neg other]

@[simp] theorem leadRoom_withFy (d : Device) (fy : Foyer) (u : Ch) (n : Nat) : leadRoom { d with fy := fy } u n = leadRoom d u n := rfl

@[simp] theorem chanOf_withFy (d : Device) (fy : Foyer) (c : Ch) : chanOf { d with fy := fy } c = chanOf d c := rfl

theorem checkpointNow_alone {p : HostPost} {s : State} (accepts : Accepts .checkpointNow p s) (legal : CutLegal (commandOf .checkpointNow p s.dev) s.dev) :
    let a := commandOf .checkpointNow p s.dev
    let u := a.suite
    let n := par a.params 0 6
    let r := leadRoom s.dev u n
    r.upd.nshards1 = 0 → (servesStreams r = true → r.serve.inStep = true) →
    ∃ t, exec (.checkpointNow p) s = .next t ∧ Waits .checkpointNow p s t (.checkpoint [(u, n, r.ckps.capture.isSome)] .ok [] false) ∧
      leadRoom t.dev u n = askedRoom (parB a.params 7) r ∧ ∀ c, c ≠ leadOf s.dev u → chanOf t.dev c = chanOf s.dev c := by
  intro a u n r alone busy
  let e := pendingDev .checkpointNow p s.dev
  have same : leadRoom e u n = r := leadRoom_pendingDev ..
  have runs : runCheckpointNow a e = (askCut e u n (parB a.params 7), .wait (.checkpoint [(u, n, r.ckps.capture.isSome)] .ok [] false)) := by
    rw [runCheckpointNow_of_legal (legal.pending ..), nowCut_alone (by rw [same]; exact alone) (legal.pending ..).started (by rw [same]; exact busy), same]
  obtain ⟨t, goes, dev, waits⟩ := post_waits (.checkpointNow p) .checkpointNow p s _ _ rfl accepts runs (postSlot_of_fns rfl)
  refine ⟨t, goes, waits, ?_, fun c other => ?_⟩
  · rw [dev, leadRoom_withFy, askCut_eq, leadRoom_modLeadRoom, same]
  · have away : c ≠ leadOf e u := by rw [leadOf_pendingDev]; exact other
    rw [dev, chanOf_withFy]
    exact (chanOf_modChan_ne _ _ away).trans (chanOf_pendingDev ..)

theorem checkpointNow_first {p : HostPost} {s : State} (accepts : Accepts .checkpointNow p s) (legal : CutLegal (commandOf .checkpointNow p s.dev) s.dev) :
    let a := commandOf .checkpointNow p s.dev
    let u := a.suite
    let n := par a.params 0 6
    let r := leadRoom s.dev u n
    r.upd.nshards1 ≠ 0 → r.upd.shard = 0 →
    ∃ t, exec (.checkpointNow p) s = .next t ∧ Waits .checkpointNow p s t (.checkpoint [(u, n, r.ckps.capture.isSome)] .ok [] false) ∧
      (leadRoom t.dev u n).ckps.jobAsk = true := by
  intro a u n r sharded first
  let e := pendingDev .checkpointNow p s.dev
  have same : leadRoom e u n = r := leadRoom_pendingDev ..
  have runs : runCheckpointNow a e = (modLeadRoom e u n fun r => { r with ckps := { r.ckps with jobAsk := true } },
      .wait (.checkpoint [(u, n, r.ckps.capture.isSome)] .ok [] false)) := by
    rw [runCheckpointNow_of_legal (legal.pending ..), nowCut_first (by rw [same]; exact sharded) (by rw [same]; exact first), same]
  obtain ⟨t, goes, dev, waits⟩ := post_waits (.checkpointNow p) .checkpointNow p s _ _ rfl accepts runs (postSlot_of_fns rfl)
  refine ⟨t, goes, waits, ?_⟩
  rw [dev, leadRoom_withFy, leadRoom_modLeadRoom]

theorem checkpointNow_other {p : HostPost} {s : State} (accepts : Accepts .checkpointNow p s) (legal : CutLegal (commandOf .checkpointNow p s.dev) s.dev) :
    let a := commandOf .checkpointNow p s.dev
    let r := leadRoom s.dev a.suite (par a.params 0 6)
    r.upd.nshards1 ≠ 0 → r.upd.shard ≠ 0 →
    ∃ t, exec (.checkpointNow p) s = .next t ∧ Answers .checkpointNow p s t .ok [] ∧ t.dev.chans = s.dev.chans := by
  intro a r sharded other
  have same : leadRoom (pendingDev .checkpointNow p s.dev) a.suite (par a.params 0 6) = r := leadRoom_pendingDev ..
  refine post_unchanged rfl accepts ?_
  show runCheckpointNow a _ = _
  rw [runCheckpointNow_of_legal (legal.pending ..), nowCut_other (by rw [same]; exact sharded) (by rw [same]; exact other)]

/-! ## CHECKPOINT_POLICY (R631, R638) -/

/-- A word of the parameters, as a register takes it. -/
theorem ofNat_par (p : BitVec 15872) (lo n : Nat) : BitVec.ofNat n (par p lo n) = p.extractLsb' lo n := by
  unfold par
  rw [BitVec.ofNat_toNat, BitVec.setWidth_eq]

theorem extractLsb'_word (p : BitVec 15872) (lo : Nat) {i n : Nat} (inside : i + n ≤ 64) :
    (p.extractLsb' lo 64).extractLsb' i n = p.extractLsb' (lo + i) n := by
  ext j small
  rw [BitVec.getElem_extractLsb', BitVec.getElem_extractLsb', BitVec.getLsbD_extractLsb', decide_eq_true (by omega), Bool.true_and, Nat.add_assoc]

theorem getLsbD_word (p : BitVec 15872) (lo : Nat) {i : Nat} (inside : i < 64) : (p.extractLsb' lo 64).getLsbD i = parB p (lo + i) := by
  rw [BitVec.getLsbD_extractLsb', decide_eq_true inside, Bool.true_and]
  rfl

/-- The policy's words carry the command's fields, and leave the slots' bits. -/
theorem policyWords_spec (p : BitVec 15872) (k : CkpRoom) :
    let q := policyWords p k
    q.atticNode = BitVec.ofNat 18 (par p 128 18) ∧ q.atticPages.toNat = par p 160 32 ∧ q.en = parB p 64 ∧ q.cut = parB p 65 ∧ q.mirror = parB p 66 ∧
    q.everySteps.toNat = par p 80 16 ∧ q.everyMs.toNat = par p 96 32 ∧ q.mirrorOffset.toNat = par p 192 64 ∧
    q.aValid = k.aValid ∧ q.bValid = k.bValid := by
  unfold policyWords putCkpRoom
  simp only [ofNat_par]
  exact ⟨extractLsb'_word p 128 (by decide), congrArg BitVec.toNat (extractLsb'_word p 128 (by decide)), getLsbD_word p 64 (by decide),
    getLsbD_word p 64 (by decide), getLsbD_word p 64 (by decide), congrArg BitVec.toNat (extractLsb'_word p 64 (by decide)),
    congrArg BitVec.toNat (extractLsb'_word p 64 (by decide)), congrArg BitVec.toNat (extractLsb'_word p 192 (by decide)), trivial, trivial⟩

theorem keeps_sendMsg {n : Nat} {α : Type} (w : Room → α) (d : Device) (c : Ch) (m : Msg) : Keeps (roomView n w) d (sendMsg d c m) := by
  have only := messagesOnly_sendMsg d c m
  refine .of_suites only.suites fun o => ?_
  by_cases here : o = c
  · rw [here]
    exact congrArg w (roomOf_congr only.chan.rooms n)
  · rw [only.others o here]

/-- The release of an Attic tells its holder and leaves the rooms and the foyer. -/
theorem keeps_releaseAttic {n : Nat} {α : Type} (w : Room → α) (d : Device) (u : Ch) (m : Nat) (node : BitVec 18) :
    Keeps (roomView n w) d (releaseAttic d u m node) ∧ (releaseAttic d u m node).fy = d.fy := by
  refine ⟨(keeps_modChans d Ch.all _ fun c x => ?_).trans (keeps_sendMsg w _ _ _), (messagesOnly_sendMsg ..).fy.trans (modChans_fy ..)⟩
  split <;> rfl

/-- An Attic that the room leaves is kept or released; its checkpoint registers stay (R638). -/
theorem keeps_leaveAttic (d : Device) (u : Ch) (n : Nat) :
    Keeps (roomView n Room.ckp) d (leaveAttic d u n) ∧ (leaveAttic d u n).fy = d.fy := by
  unfold leaveAttic
  dsimp only
  split
  · exact ⟨.refl d, rfl⟩
  · split
    · exact keeps_releaseAttic ..
    · exact ⟨keeps_modLeadRoom _ _ _ _ fun _ => rfl, rfl⟩

/-- The checkpoint registers that a policy leaves. -/
def policyCkp (p : BitVec 15872) (release changed : Bool) (k : CkpRoom) : CkpRoom :=
  if release then { policyWords p k with atticNode := 0, atticPages := 0, aValid := false, bValid := false }
  else if changed then policyWords p { k with aValid := false, bValid := false }
  else policyWords p k

/-- A release leaves the room without an Attic. -/
theorem setPolicy_of_release (a : Accepted) (u : Ch) (n : Nat) (changed : Bool) (d : Device) :
    (leadRoom (setPolicy a u n true changed d) u n).ckp = policyCkp a.params true changed (leadRoom d u n).ckp ∧
      (setPolicy a u n true changed d).fy = d.fy := by
  let e := if hasAttic (leadRoom d u n) then releaseAttic d u n (leadRoom d u n).ckp.atticNode else d
  have kept : Keeps (roomView n Room.ckp) d e ∧ e.fy = d.fy := by
    by_cases some_attic : hasAttic (leadRoom d u n) = true
    · simp only [e, if_pos some_attic]
      exact keeps_releaseAttic ..
    · simp only [e, if_neg some_attic]
      exact ⟨.refl d, trivial⟩
  have set : setPolicy a u n true changed d =
      modLeadRoom e u n fun r => emptySlots { r with ckp := { policyWords a.params r.ckp with atticNode := 0, atticPages := 0 } } := rfl
  rw [set, leadRoom_modLeadRoom]
  refine ⟨?_, kept.2⟩
  unfold policyCkp emptySlots
  dsimp only
  rw [kept.1.leadRoom u]
  rfl

/-- A policy is written, and an Attic that changes empties both slots. -/
theorem setPolicy_of_write (a : Accepted) (u : Ch) (n : Nat) (changed : Bool) (d : Device) :
    (leadRoom (setPolicy a u n false changed d) u n).ckp = policyCkp a.params false changed (leadRoom d u n).ckp ∧
      (setPolicy a u n false changed d).fy = d.fy := by
  let e := if changed then modLeadRoom (leaveAttic d u n) u n emptySlots else d
  have emptied : (leadRoom e u n).ckp = (if changed then { (leadRoom d u n).ckp with aValid := false, bValid := false } else (leadRoom d u n).ckp) ∧
      e.fy = d.fy := by
    cases changed with
    | false => exact ⟨rfl, rfl⟩
    | true =>
      obtain ⟨kept, fy⟩ := keeps_leaveAttic d u n
      refine ⟨?_, fy⟩
      show (leadRoom (modLeadRoom (leaveAttic d u n) u n emptySlots) u n).ckp = _
      rw [leadRoom_modLeadRoom]
      unfold emptySlots
      dsimp only
      rw [kept.leadRoom u]
      rfl
  let w := modLeadRoom e u n fun r => { r with ckp := policyWords a.params r.ckp }
  have written : (leadRoom w u n).ckp = policyCkp a.params false changed (leadRoom d u n).ckp := by
    show (leadRoom (modLeadRoom e u n _) u n).ckp = _
    rw [leadRoom_modLeadRoom]
    dsimp only
    rw [emptied.1]
    cases changed <;> rfl
  have sent : Keeps (roomView n Room.ckp) w (setPolicy a u n false changed d) ∧ (setPolicy a u n false changed d).fy = w.fy := by
    have ended : setPolicy a u n false changed d =
        if changed && (leadRoom w u n).ckp.atticPages != 0 then
          sendMsg w (leadOf w u) { node := (leadRoom w u n).ckp.atticNode, queue := 1, reply := 0,
                                   bytes := leBytes 1 n ++ leBytes 4 (leadRoom w u n).ckp.atticPages.toNat }
        else w := rfl
    rw [ended]
    split
    · exact ⟨keeps_sendMsg .., (messagesOnly_sendMsg ..).fy⟩
    · exact ⟨.refl _, rfl⟩
  exact ⟨(sent.1.leadRoom u).trans written, sent.2.trans emptied.2⟩

/-- A policy's Attic is another than the room has. -/
def atticChanges (a : Accepted) (k : CkpRoom) : Bool :=
  (BitVec.ofNat 18 (par a.params 128 18) : BitVec 18) != k.atticNode || par a.params 160 32 != k.atticPages.toNat

/-- What CHECKPOINT_POLICY and ATTIC_RELEASE ask of their room. -/
structure PolicyLegal (a : Accepted) (d : Device) : Prop where
  suite : suiteExists d a.suite = true
  reserved : reservedClear a.params policyFields = true
  offset : par a.params 192 64 % 65536 = 0
  room : roomState (leadRoom d a.suite (par a.params 0 6)) ≠ rsFree
  names : mayName a (leadRoom d a.suite (par a.params 0 6)) = true
  away : parB a.params 6 = false → par a.params 160 32 ≠ 0 → onOwnDevice d a.suite (BitVec.ofNat 18 (par a.params 128 18)) = false
  alone : parB a.params 65 = true → (leadRoom d a.suite (par a.params 0 6)).upd.nshards1 = 0
  idle : parB a.params 6 = true ∨ (BitVec.ofNat 18 (par a.params 128 18) : BitVec 18) ≠ (leadRoom d a.suite (par a.params 0 6)).ckp.atticNode →
    (leadRoom d a.suite (par a.params 0 6)).ckps.capture = none

@[simp] theorem onOwnDevice_pendingDev (op : HostOp) (p : HostPost) (d : Device) (u : Ch) (node : BitVec 18) :
    onOwnDevice (pendingDev op p d) u node = onOwnDevice d u node := by
  unfold onOwnDevice
  simp only [suiteChans_pendingDev, chanOf_pendingDev]

theorem PolicyLegal.pending {a : Accepted} {d : Device} (h : PolicyLegal a d) (op : HostOp) (p : HostPost) : PolicyLegal a (pendingDev op p d) where
  suite := by simpa using h.suite
  reserved := h.reserved
  offset := h.offset
  room := by simpa using h.room
  names := by simpa using h.names
  away := by simpa using h.away
  alone := by simpa using h.alone
  idle := by simpa using h.idle

theorem runCheckpointPolicy_of_legal {a : Accepted} {d : Device} (h : PolicyLegal a d) :
    let n := par a.params 0 6
    let changed := atticChanges a (leadRoom d a.suite n).ckp
    runCheckpointPolicy a d =
      if !parB a.params 6 && changed && par a.params 160 32 != 0 && !a.data.holderOk then only d .quotaExceeded
      else only (setPolicy a a.suite n (parB a.params 6) changed d) .ok := by
  intro n changed
  have own : (!parB a.params 6 && par a.params 160 32 != 0 && onOwnDevice d a.suite (BitVec.ofNat 18 (par a.params 128 18))) = false := by
    by_contra on
    simp only [Bool.not_eq_false, Bool.and_eq_true, Bool.not_eq_true', bne_iff_ne] at on
    obtain ⟨⟨write, pages⟩, here⟩ := on
    rw [h.away write pages] at here
    exact Bool.false_ne_true here
  have cut : (parB a.params 65 && (leadRoom d a.suite n).upd.nshards1 != 0) = false := by
    by_contra on
    simp only [Bool.not_eq_false, Bool.and_eq_true, bne_iff_ne] at on
    exact on.2 (h.alone on.1)
  have free : ((leadRoom d a.suite n).ckps.capture.isSome &&
      (parB a.params 6 || (BitVec.ofNat 18 (par a.params 128 18) : BitVec 18) != (leadRoom d a.suite n).ckp.atticNode)) = false := by
    by_contra on
    simp only [Bool.not_eq_false, Bool.and_eq_true, Bool.or_eq_true, bne_iff_ne] at on
    rw [h.idle on.2] at on
    exact Bool.false_ne_true on.1
  have allowed : (!reservedClear a.params policyFields || par a.params 192 64 % 65536 != 0 || roomState (leadRoom d a.suite n) = rsFree ||
      !mayName a (leadRoom d a.suite n)) = false := by
    rw [h.reserved, h.offset, h.names, decide_eq_false h.room]
    rfl
  unfold runCheckpointPolicy
  dsimp only
  rw [namedRoom_of_exists h.suite, own, cut, free, allowed]
  rfl

theorem policy_refused {p : HostPost} {s : State} (accepts : Accepts .checkpointPolicy p s) :
    let a := commandOf .checkpointPolicy p s.dev
    PolicyLegal a s.dev → parB a.params 6 = false → atticChanges a (leadRoom s.dev a.suite (par a.params 0 6)).ckp = true →
    par a.params 160 32 ≠ 0 → a.data.holderOk = false →
    ∃ t, exec (.checkpointPolicy p) s = .next t ∧ Answers .checkpointPolicy p s t .quotaExceeded [] ∧ t.dev.chans = s.dev.chans := by
  intro a legal write changed pages unheld
  refine post_unchanged rfl accepts ?_
  show runCheckpointPolicy a _ = _
  rw [runCheckpointPolicy_of_legal (legal.pending ..), leadRoom_pendingDev, write, changed, unheld, bne_iff_ne.mpr pages]
  rfl

/-- A policy that is not refused is written. -/
theorem policy_written {i : Instr} {p : HostPost} {s : State} (row : exec i s = postRow .checkpointPolicy p s) (accepts : Accepts .checkpointPolicy p s) :
    let a := commandOf .checkpointPolicy p s.dev
    let n := par a.params 0 6
    let k := (leadRoom s.dev a.suite n).ckp
    PolicyLegal a s.dev → (!parB a.params 6 && atticChanges a k && par a.params 160 32 != 0 && !a.data.holderOk) = false →
    ∃ t, exec i s = .next t ∧ Answers .checkpointPolicy p s t .ok [] ∧
      (leadRoom t.dev a.suite n).ckp = policyCkp a.params (parB a.params 6) (atticChanges a k) k := by
  intro a n k legal taken
  let e := pendingDev .checkpointPolicy p s.dev
  have same : leadRoom e a.suite n = leadRoom s.dev a.suite n := leadRoom_pendingDev ..
  obtain ⟨set, fy⟩ : (leadRoom (setPolicy a a.suite n (parB a.params 6) (atticChanges a k) e) a.suite n).ckp =
        policyCkp a.params (parB a.params 6) (atticChanges a k) k ∧
      (setPolicy a a.suite n (parB a.params 6) (atticChanges a k) e).fy = e.fy := by
    cases parB a.params 6 with
    | true =>
      obtain ⟨set, fy⟩ := setPolicy_of_release a a.suite n (atticChanges a k) e
      exact ⟨set.trans (by rw [same]), fy⟩
    | false =>
      obtain ⟨set, fy⟩ := setPolicy_of_write a a.suite n (atticChanges a k) e
      exact ⟨set.trans (by rw [same]), fy⟩
  have runs : runCheckpointPolicy a e = only (setPolicy a a.suite n (parB a.params 6) (atticChanges a k) e) .ok := by
    rw [runCheckpointPolicy_of_legal (legal.pending ..)]
    rw [same, taken]
    rfl
  obtain ⟨t, goes, kept, answers⟩ := post_only row accepts runs fy
  refine ⟨t, goes, answers, ?_⟩
  exact ((keeps_onlyFns kept : Keeps (roomView n Room.ckp) _ _).leadRoom a.suite).trans set

/-- Settles O34: the cut by whether the room's job is sharded, the policy by its release. -/
theorem checkpointCommandsAct : Obligations.CheckpointCommandsAct := by
  unfold Obligations.CheckpointCommandsAct
  intro p s
  refine ⟨?now, ?policy, ?release⟩
  case now =>
    intro a u n cut r accepts suite reserved one names started attic
    have legal (sharded : r.upd.nshards1 = 0 ∨ cut = false) : CutLegal a s.dev := ⟨suite, reserved, one, names, started, attic, sharded⟩
    refine ⟨fun alone busy => ?_, fun sharded step first => ?_, fun sharded step other => ?_⟩
    · obtain ⟨t, goes, waits, room, others⟩ := checkpointNow_alone accepts (legal (.inl alone)) alone busy
      obtain ⟨due, capture, pending, -⟩ := askedRoom_spec cut r
      exact ⟨t, goes, waits, by rw [room]; exact due, by rw [room]; exact capture, by rw [room]; exact pending, others⟩
    · exact checkpointNow_first accepts (legal (.inr step)) sharded first
    · exact checkpointNow_other accepts (legal (.inr step)) sharded other
  case policy =>
    intro a u n r node pages changed accepts suite reserved write offset room names away alone idle
    have legal : PolicyLegal a s.dev :=
      ⟨suite, reserved, offset, room, names, fun _ => away, alone, fun move => idle (move.resolve_left (by rw [write]; exact Bool.false_ne_true))⟩
    have changes : atticChanges a r.ckp = true ↔ changed := by
      unfold atticChanges
      rw [Bool.or_eq_true, bne_iff_ne, bne_iff_ne]
    refine ⟨fun ⟨moved, some_pages, unheld⟩ => policy_refused accepts legal write (changes.mpr moved) some_pages unheld, fun taken => ?_⟩
    have not_refused : (!parB a.params 6 && atticChanges a r.ckp && par a.params 160 32 != 0 && !a.data.holderOk) = false := by
      by_contra on
      simp only [Bool.not_eq_false, Bool.and_eq_true, Bool.not_eq_true', bne_iff_ne] at on
      obtain ⟨⟨⟨-, moved⟩, some_pages⟩, unheld⟩ := on
      exact taken ⟨changes.mp moved, some_pages, unheld⟩
    obtain ⟨t, goes, answers, set⟩ := policy_written (i := .checkpointPolicy p) rfl accepts legal not_refused
    refine ⟨t, goes, answers, ?_⟩
    intro k
    have k_eq : k = if atticChanges a r.ckp then policyWords a.params { r.ckp with aValid := false, bValid := false } else policyWords a.params r.ckp := by
      rw [write] at set
      exact set
    by_cases moved : changed
    · rw [changes.mpr moved, if_pos rfl] at k_eq
      rw [k_eq]
      obtain ⟨h1, h2, h3, h4, h5, h6, h7, h8, h9, h10⟩ := policyWords_spec a.params { r.ckp with aValid := false, bValid := false }
      exact ⟨h1, h2, h3, h4, h5, h6, h7, h8, fun _ => ⟨h9, h10⟩, fun same => absurd moved same⟩
    · rw [Bool.eq_false_iff.mpr (mt changes.mp moved), if_neg Bool.false_ne_true] at k_eq
      rw [k_eq]
      obtain ⟨h1, h2, h3, h4, h5, h6, h7, h8, h9, h10⟩ := policyWords_spec a.params r.ckp
      exact ⟨h1, h2, h3, h4, h5, h6, h7, h8, fun move => absurd move moved, fun _ => ⟨h9, h10⟩⟩
  case release =>
    intro q a u n r accepts suite reserved release offset room names alone idle
    have legal : PolicyLegal a s.dev :=
      ⟨suite, reserved, offset, room, names, fun write => absurd (release.symm.trans write) (by decide), alone, fun _ => idle⟩
    obtain ⟨t, goes, answers, set⟩ := policy_written (i := .atticRelease p) rfl accepts legal (by rw [release]; rfl)
    refine ⟨t, goes, answers, ?_⟩
    intro k
    rw [release] at set
    have k_eq : k = { policyWords a.params r.ckp with atticNode := 0, atticPages := 0, aValid := false, bValid := false } := set
    rw [k_eq]
    exact ⟨rfl, rfl, rfl, rfl⟩

end Sys2Proof.Machine

end

section

namespace Sys2Proof.Machine

/-! ## Requests for cuts (R626 to R628) -/

/-- CHECKPOINT_TIMER finds the room STARTED, its timer set and an Attic. -/
def TimerFires (r : Room) : Prop := isStarted r = true ∧ r.ckp.en = true ∧ r.ckp.everyMs ≠ 0 ∧ hasAttic r = true

theorem checkpointTimer_of_not {u : Ch} {n : Nat} {d : Device} (idle : suiteExists d u = false ∨ ¬ TimerFires (leadRoom d u n)) :
    checkpointTimer u n d = d := by
  refine if_pos ?_
  rcases idle with gone | quiet
  · rw [gone]
    rfl
  · by_contra on
    simp only [Bool.or_eq_true, Bool.not_eq_true', decide_eq_true_eq, not_or, Bool.not_eq_false] at on
    obtain ⟨⟨⟨⟨-, started⟩, en⟩, every⟩, attic⟩ := on
    exact quiet ⟨started, en, every, attic⟩

theorem checkpointTimer_of_fires {u : Ch} {n : Nat} {d : Device} (suite : suiteExists d u = true) (fires : TimerFires (leadRoom d u n)) :
    checkpointTimer u n d =
      if (leadRoom d u n).upd.nshards1 = 0 then modLeadRoom d u n (askedRoom (leadRoom d u n).ckp.cut)
      else if (leadRoom d u n).upd.shard = 0 then modLeadRoom d u n fun r => { r with ckps := { r.ckps with jobAsk := true } }
      else d := by
  obtain ⟨started, en, every, attic⟩ := fires
  refine if_neg ?_
  rw [suite, started, en, attic, decide_eq_false every]
  decide

theorem chanOf_modLeadRoom_ne (d : Device) (u : Ch) (n : Nat) (f : Room → Room) {o : Ch} (other : o ≠ leadOf d u) :
    chanOf (modLeadRoom d u n f) o = chanOf d o := chanOf_modChan_ne _ _ other

/-- A shard takes the cut that it is told of. -/
def toldCut (step : Nat) (r : Room) : Room := { r with ckps := { r.ckps with jobCut := some step } }

theorem jobCutMessage_eq {u : Ch} {d : Device} (suite : suiteExists d u = true) (n step : Nat) :
    jobCutMessage u n step d =
      if isStarted (leadRoom d u n) = true ∧ trains (leadRoom d u n) = true ∧ (leadRoom d u n).upd.nshards1 ≠ 0 then
        modLeadRoom d u n (toldCut step)
      else d := by
  unfold jobCutMessage
  simp only [suite, Bool.true_and, Bool.and_eq_true, bne_iff_ne, and_assoc]
  rfl

/-- A shard has reported; with the last report the job checkpoint is complete (R627). -/
def shardReported (shard : Nat) (r : Room) : Room :=
  let l := addAll r.ckps.reports [shard]
  { r with ckps := { r.ckps with reports := if ∀ k, k ≤ r.upd.nshards1.toNat → k ∈ l then [] else l,
                                 jobRunning := !decide (∀ k, k ≤ r.upd.nshards1.toNat → k ∈ l) } }

theorem all_range_contains {l : List Nat} {m : Nat} : ((List.range (m + 1)).all fun k => l.contains k) = decide (∀ k, k ≤ m → k ∈ l) := by
  rw [Bool.eq_iff_iff, List.all_eq_true, decide_eq_true_eq]
  simp only [List.mem_range, List.contains_iff_mem, Nat.lt_succ_iff]

theorem leadRoom_shardReports {u : Ch} {n : Nat} {d : Device} (running : (leadRoom d u n).ckps.jobRunning = true) (shard : Nat) :
    leadRoom (shardReports u n shard d) u n = shardReported shard (leadRoom d u n) := by
  unfold shardReports shardReported
  rw [leadRoom_modLeadRoom]
  simp only [running, Bool.not_true, Bool.false_eq_true, if_false, all_range_contains, decide_eq_true_eq]

/-! ## What a stage sends (R632 to R635, R641) -/

/-- A device but for messages that it has sent since. -/
structure OnlySent (d e : Device) : Prop where
  rest : e = { d with out := e.out }
  sent : d.out <:+ e.out

theorem OnlySent.refl (d : Device) : OnlySent d d := ⟨rfl, List.suffix_refl _⟩

theorem OnlySent.trans {a b c : Device} (h : OnlySent a b) (g : OnlySent b c) : OnlySent a c := by
  refine ⟨?_, h.sent.trans g.sent⟩
  rw [g.rest, h.rest]

theorem OnlySent.chan {d e : Device} (h : OnlySent d e) (c : Ch) : chanOf e c = chanOf d c := by rw [h.rest]; rfl

theorem OnlySent.leadRoom {d e : Device} (h : OnlySent d e) (u : Ch) (n : Nat) : leadRoom e u n = Machine.leadRoom d u n := by rw [h.rest]; rfl

theorem OnlySent.leadOf {d e : Device} (h : OnlySent d e) (u : Ch) : leadOf e u = Machine.leadOf d u := by rw [h.rest]; rfl

theorem onlySent_send (d : Device) (m : OutMsg) : OnlySent d (send d m) := ⟨rfl, List.suffix_cons _ _⟩

theorem onlySent_foldl {α : Type} {f : Device → α → Device} (step : ∀ d a, OnlySent d (f d a)) (l : List α) (d : Device) :
    OnlySent d (l.foldl f d) :=
  List.foldlRecOn l f (motive := OnlySent d) (.refl d) fun _ he a _ => he.trans (step _ a)

/-- What one element of a list sends is among what the list sends. -/
theorem mem_out_foldl {α : Type} {f : Device → α → Device} (step : ∀ d a, OnlySent d (f d a)) {l : List α} {a : α} (mem : a ∈ l) {d : Device}
    {m : OutMsg} (sends : ∀ e, OnlySent d e → m ∈ (f e a).out) : m ∈ (l.foldl f d).out := by
  obtain ⟨before, after, rfl⟩ := List.append_of_mem mem
  rw [List.foldl_append, List.foldl_cons]
  exact (onlySent_foldl step after _).sent.subset (sends _ (onlySent_foldl step before d))

theorem onlySent_atticWrite (d : Device) (u : Ch) (n : Nat) (b : Bool) (c : Ch) (off : Nat) (bytes : List Byte) :
    OnlySent d (atticWrite d u n b c off bytes) := onlySent_send ..

theorem mem_out_atticWrite {d e : Device} (h : OnlySent d e) (u : Ch) (n : Nat) (b : Bool) (c : Ch) (off : Nat) (bytes : List Byte) :
    .atticWrite c (leadRoom d u n).ckp.atticNode n b off bytes ∈ (atticWrite e u n b c off bytes).out := by
  rw [← h.leadRoom]
  exact List.mem_cons_self

theorem onlySent_sendPage (u : Ch) (n : Nat) (k : Capture) (base : Nat) (d : Device) (e : (Nat × List Byte) × Nat) :
    OnlySent d (sendPage u n k base d e) := by
  unfold sendPage
  dsimp only
  split
  · exact onlySent_atticWrite ..
  · exact .refl d

theorem mem_out_sendPage {d e : Device} (h : OnlySent d e) {u : Ch} {n : Nat} {k : Capture} {page : Nat} {key : BitVec 512}
    (some_key : ckpKey (chanOf d (capChan page)) n (leadRoom d u n).cont = some key) (base i : Nat) (bytes : List Byte) :
    .atticWrite (capChan page) (leadRoom d u n).ckp.atticNode n k.slotB ((base + i) * pageBytes) (cipherPage key (.room n (capPage page)) bytes) ∈
      (sendPage u n k base e ((page, bytes), i)).out := by
  unfold sendPage
  dsimp only
  rw [h.chan, h.leadRoom, some_key]
  exact mem_out_atticWrite h ..

theorem onlySent_sendPages (d : Device) (u : Ch) (n : Nat) (k : Capture) : OnlySent d (sendPages d u n k) :=
  onlySent_foldl (fun d e => onlySent_sendPage u n k _ d e) _ d

/-- Each page of the capture set goes to its place in the slot, as it was at the cut. -/
theorem mem_out_sendPages {d : Device} {u : Ch} {n : Nat} {k : Capture} {i : Nat} {e : Nat × W64} {key : BitVec 512} (entry : k.dir[i]? = some e)
    (mem : e.1 ∈ k.toSend) (some_key : ckpKey (chanOf d (capChan e.1)) n (leadRoom d u n).cont = some key) :
    .atticWrite (capChan e.1) (leadRoom d u n).ckp.atticNode n k.slotB ((1 + dirPages k + i) * pageBytes)
        (cipherPage key (.room n (capPage e.1)) (cutPage d n k e.1)) ∈ (sendPages d u n k).out := by
  unfold sendPages
  refine mem_out_foldl (fun d e => onlySent_sendPage u n k _ d e) (a := ((e.1, cutPage d n k e.1), i)) ?_
    fun e' he => mem_out_sendPage he some_key (1 + dirPages k) i _
  refine List.mem_append_left _ (List.mem_map.mpr ⟨(e, i), ?_, rfl⟩)
  have listed : (e, i) ∈ k.dir.zipIdx.filter fun e => k.toSend.contains e.1.1 :=
    List.mem_filter.mpr ⟨List.mem_zipIdx_iff_getElem?.mpr entry, List.contains_iff_mem.mpr mem⟩
  rw [List.mem_append]
  cases staged : k.staged.any fun p => p.1 == e.1 with
  | true => exact .inl (List.mem_filter.mpr ⟨listed, staged⟩)
  | false => exact .inr (List.mem_filter.mpr ⟨listed, by simpa using staged⟩)

theorem onlySent_sendDirectory (d : Device) (u : Ch) (n : Nat) (k : Capture) : OnlySent d (sendDirectory d u n k) :=
  onlySent_foldl (fun _ _ => onlySent_atticWrite ..) _ d

theorem OnlySent.slotCipher {d e : Device} (h : OnlySent d e) (u : Ch) (n page : Nat) (bytes : List Byte) :
    slotCipher e u n page bytes = Machine.slotCipher d u n page bytes := by
  unfold Machine.slotCipher
  rw [h.leadOf, h.chan, h.leadRoom]

theorem mem_out_sendDirectory (d : Device) (u : Ch) (n : Nat) {k : Capture} {i : Nat} (page : i < dirPages k) :
    ∃ bytes, .atticWrite (leadOf d u) (leadRoom d u n).ckp.atticNode n k.slotB ((1 + i) * pageBytes) bytes ∈ (sendDirectory d u n k).out := by
  let part := ((directory (leadOf d u) ((leadRoom d u n).ckp.seq.toNat + 1) k).drop (i * pageBytes)).take pageBytes
  refine ⟨slotCipher d u n (1 + i) part, ?_⟩
  unfold sendDirectory
  refine mem_out_foldl (fun _ _ => onlySent_atticWrite ..) (List.mem_range.mpr page) fun e he => ?_
  rw [he.slotCipher]
  exact mem_out_atticWrite he ..

/-! ## Stages (R634) -/

/-- A capture as it stands. -/
def capturing (k : Capture) (r : Room) : Room := { r with ckps := { r.ckps with capture := some k } }

theorem setCapture_eq (d : Device) (u : Ch) (n : Nat) (k : Capture) : setCapture d u n k = modLeadRoom d u n (capturing k) := rfl

theorem stageAck_of_none {u : Ch} {n : Nat} {d : Device} (none : (leadRoom d u n).ckps.capture = none) : stageAck u n d = d := by
  unfold stageAck
  rw [none]

/-- The acknowledgement of a stage before the last: the next stage begins on the lead room, and nothing else of a channel changes but the lead's
causal counter. -/
structure StageBegins (u : Ch) (n : Nat) (b : Capture) (d e : Device) : Prop where
  room : leadRoom e u n = capturing b (leadRoom d u n)
  others : ∀ o, o ≠ leadOf d u → chanOf e o = chanOf d o

theorem stageBegins_setCapture (u : Ch) (n : Nat) (b : Capture) (d : Device) : StageBegins u n b d (setCapture d u n b) :=
  ⟨leadRoom_modLeadRoom .., fun _ other => chanOf_modLeadRoom_ne _ _ _ _ other⟩

theorem StageBegins.sent {u : Ch} {n : Nat} {b : Capture} {d e f : Device} (h : StageBegins u n b d e) (g : OnlySent e f) : StageBegins u n b d f :=
  ⟨(g.leadRoom u n).trans h.room, fun o other => (g.chan o).trans (h.others o other)⟩

theorem StageBegins.after {u : Ch} {n : Nat} {b : Capture} {d e f : Device} (g : OnlySent d e) (h : StageBegins u n b e f) : StageBegins u n b d f :=
  ⟨h.room.trans (by rw [g.leadRoom]), fun o other => (h.others o (by rw [g.leadOf]; exact other)).trans (g.chan o)⟩

/-- A capture whose data pages have been read. -/
def pagesRead (k : Capture) : Capture := { k with stage := .directory, sent := k.toSend, toSend := [], staged := [] }

section

variable {u : Ch} {n : Nat} {d : Device} {k : Capture} (running : (leadRoom d u n).ckps.capture = some k)

include running

theorem stageAck_zero (stage : k.stage = .zero) : stageAck u n d = setCapture d u n { k with stage := .pages } := by
  unfold stageAck
  rw [running]
  dsimp only
  rw [stage]

theorem stageAck_pages (stage : k.stage = .pages) :
    stageAck u n d = sendDirectory (setCapture (sendPages d u n k) u n (pagesRead k)) u n k := by
  unfold stageAck
  rw [running]
  dsimp only
  rw [stage]
  rfl

theorem stageAck_directory (stage : k.stage = .directory) : stageAck u n d = sendRecord (setCapture d u n { k with stage := .commit }) u n k := by
  unfold stageAck
  rw [running]
  dsimp only
  rw [stage]

theorem stageAck_commit (stage : k.stage = .commit) : stageAck u n d = commitCapture d u n k := by
  unfold stageAck
  rw [running]
  dsimp only
  rw [stage]

end

/-- Stage 2 writes the data pages as they were at the cut, and stage 3 the directory (R634). -/
theorem pagesStage_spec (d : Device) (u : Ch) (n : Nat) (k : Capture) :
    let e := sendDirectory (setCapture (sendPages d u n k) u n (pagesRead k)) u n k
    let put := fun (c : Ch) (page : Nat) (bytes : List Byte) => OutMsg.atticWrite c (leadRoom d u n).ckp.atticNode n k.slotB (page * pageBytes) bytes ∈ e.out
    StageBegins u n (pagesRead k) d e ∧ (∀ i, i < dirPages k → ∃ bytes, put (leadOf d u) (1 + i) bytes) ∧
    ∀ i e key, k.dir[i]? = some e → e.1 ∈ k.toSend → ckpKey (chanOf d (capChan e.1)) n (leadRoom d u n).cont = some key →
      put (capChan e.1) (1 + dirPages k + i) (cipherPage key (.room n (capPage e.1)) (cutPage d n k e.1)) := by
  intro e put
  let f := setCapture (sendPages d u n k) u n (pagesRead k)
  have pages := onlySent_sendPages d u n k
  have begun : StageBegins u n (pagesRead k) d f := (stageBegins_setCapture ..).after pages
  have dir : OnlySent f e := onlySent_sendDirectory f u n k
  refine ⟨begun.sent dir, fun i page => ?_, fun i q key entry mem some_key => dir.sent.subset (mem_out_sendPages entry mem some_key)⟩
  obtain ⟨bytes, written⟩ := mem_out_sendDirectory f u n page
  have lead : leadOf f u = leadOf d u := pages.leadOf u
  rw [begun.room, lead] at written
  exact ⟨bytes, written⟩

/-- Stage 4 writes the commit record, which the causal counter numbers (R511, R634). -/
theorem recordStage_spec (d : Device) (u : Ch) (n : Nat) (k b : Capture) :
    let e := sendRecord (setCapture d u n b) u n k
    StageBegins u n b d e ∧ (chanOf e (leadOf d u)).node.count = (chanOf d (leadOf d u)).node.count + 1 ∧
    ∃ v, e.out = .atticWrite (leadOf d u) (leadRoom d u n).ckp.atticNode n k.slotB 0 (v ++ List.replicate (pageBytes - 512) 0) :: d.out := by
  intro e
  let f := modLead (setCapture d u n b) u causalUp
  have lead_chan : chanOf f (leadOf d u) = causalUp (modRoomC (chanOf d (leadOf d u)) n (capturing b)) := by
    show chanOf (modChan (modChan d (leadOf d u) _) (leadOf d u) causalUp) (leadOf d u) = _
    rw [chanOf_modChan_same, chanOf_modChan_same]
    rfl
  have room : leadRoom f u n = capturing b (leadRoom d u n) := by
    show roomOf (chanOf f (leadOf d u)) n = _
    rw [lead_chan]
    exact roomOf_modRoomC_same ..
  have begun : StageBegins u n b d f := by
    refine ⟨room, fun o other => ?_⟩
    show chanOf (modChan (modChan d (leadOf d u) _) (leadOf d u) causalUp) o = _
    rw [chanOf_modChan_ne _ _ other, chanOf_modChan_ne _ _ other]
  have sent : OnlySent f e := onlySent_atticWrite ..
  refine ⟨begun.sent sent, ?_, slotCipher f u n 0 (commitRecord f u n k), ?_⟩
  · rw [sent.chan, lead_chan]
    rfl
  · show .atticWrite (leadOf d u) (leadRoom f u n).ckp.atticNode n k.slotB 0 _ :: d.out = _
    rw [room]
    rfl

/-! ## The end of a capture (R634, R637) -/

theorem chans_completeWaits (d : Device) (p : Waiting → Option (Status × List W32)) : (completeWaits d p).chans = d.chans ∧
    (completeWaits d p).suites = d.suites := by
  have posted := onlyFns_foldl (fun (d : Device) (e : Waiting × Status × List W32) => postResult d e.1.cmd.key e.2.1 e.2.2)
    (fun d e => onlyFns_postResult ..) (d.fy.waits.filterMap fun w => (p w).map fun r => (w, r))
    { d with fy := { d.fy with waits := d.fy.waits.filter fun w => (p w).isNone } }
  exact ⟨posted.1, posted.2.1⟩

theorem keeps_ckpDone {α : Type} (v : Channel → α) (d : Device) (u : Ch) (n : Nat) (later : Bool) (st : Status) :
    Keeps v d (ckpDone d u n later st) := by
  unfold ckpDone
  obtain ⟨chans, suites⟩ := chans_completeWaits { d with fy := { d.fy with waits := _ } } _
  exact .of_chans suites chans

/-- The start of an update leaves the room's checkpoints (R424). -/
theorem ckp_startUpdate (n : Nat) (x : Channel) :
    (roomOf (startUpdate n x) n).ckp = (roomOf x n).ckp ∧ (roomOf (startUpdate n x) n).ckps = (roomOf x n).ckps := by
  unfold startUpdate
  extract_lets us cold warm
  have same := (onlyPages_fetchDeferred n (modRoomC x n fun r => { r with
    update := { r.update with
      updating := true, held := false, deferred := cold, arrived := [], listed := 0, group := false, holds := warm.map fun u => (us.getD u [], us.getD u []) },
    upd := { r.upd with deferred := satAdd r.upd.deferred cold.length } })).1 n
  rw [roomOf_modRoomC_same] at same
  rw [same]
  exact ⟨rfl, rfl⟩

/-- A room's checkpoint registers, its running capture and the Attic that it keeps. -/
def captureView (r : Room) : CkpRoom × Option Capture × Option (BitVec 18 × Nat) := (r.ckp, r.ckps.capture, r.ckps.oldAttic)

theorem keeps_startHeld (d : Device) (u : Ch) (n : Nat) : Keeps (roomView n captureView) d (startHeld d u n) := by
  refine keeps_modChans d _ _ fun c x => ?_
  split
  · obtain ⟨ckp, ckps⟩ := ckp_startUpdate n x
    unfold roomView captureView
    rw [ckp, ckps]
  · rfl

theorem keeps_reportCommit (d : Device) (u : Ch) (n step : Nat) : Keeps (roomView n captureView) d (reportCommit d u n step) := by
  unfold reportCommit
  dsimp only
  split
  · exact .refl d
  · split
    · refine keeps_modLeadRoom _ _ _ _ fun r => ?_
      split <;> rfl
    · exact keeps_sendMsg ..

/-- A room whose capture has committed (R634 to R636), from the device at its commit. -/
def committedRoom (d : Device) (u : Ch) (n : Nat) (k : Capture) (r : Room) : Room :=
  let ckp := (leadRoom d u n).ckp
  let x := chanOf d (leadOf d u)
  let mirrors := ckp.mirror && (regionOf x ckp.mirrorRegion.toNat).kind == 1
  { r with
    ckp := { r.ckp with
      seq := r.ckp.seq + 1, step := BitVec.ofNat 64 k.step, slot := k.slotB, busy := false,
      aValid := r.ckp.aValid || !k.slotB, bValid := r.ckp.bValid || k.slotB,
      lastStatus := (if ckp.mirror && !mirrors then Status.degraded else .ok).code },
    ckps := { r.ckps with
      capture := none, lastStep := k.step, lastMs := nowMs x, oldAttic := none, mirroring := mirrors,
      stepA := if k.slotB then r.ckps.stepA else k.step, stepB := if k.slotB then k.step else r.ckps.stepB } }

/-- The device once the slot counts, before those that wait for the commit are told. -/
def committedDev (d : Device) (u : Ch) (n : Nat) (k : Capture) : Device := modLeadRoom d u n (committedRoom d u n k)

/-- The Attic named before is released (R638). -/
def oldAtticReleased (d : Device) (u : Ch) (n : Nat) (old : Option (BitVec 18 × Nat)) (e : Device) : Device :=
  match old with
  | some a => sendMsg e (leadOf d u) { node := a.1, queue := 1, reply := 0, bytes := leBytes 1 n }
  | none => e

theorem commitCapture_eq {k : Capture} (steady : k.forDrain = false) (d : Device) (u : Ch) (n : Nat) :
    commitCapture d u n k =
      startHeld (reportCommit (ckpDone (oldAtticReleased d u n (leadRoom d u n).ckps.oldAttic (committedDev d u n k)) u n false .ok) u n k.step) u n := by
  unfold commitCapture
  rw [steady]
  rfl

/-- After a commit that no drain waits for, the slot counts. -/
theorem captureView_commitCapture {k : Capture} (steady : k.forDrain = false) (d : Device) (u : Ch) (n : Nat) :
    captureView (leadRoom (commitCapture d u n k) u n) = captureView (committedRoom d u n k (leadRoom d u n)) := by
  let e := committedDev d u n k
  have released : Keeps (roomView n captureView) e (oldAtticReleased d u n (leadRoom d u n).ckps.oldAttic e) := by
    unfold oldAtticReleased
    split
    · exact keeps_sendMsg ..
    · exact .refl e
  have told := ((released.trans (keeps_ckpDone _ _ u n false .ok)).trans (keeps_reportCommit _ u n k.step)).trans (keeps_startHeld _ u n)
  rw [commitCapture_eq steady]
  exact (told.leadRoom u).trans (congrArg captureView (leadRoom_modLeadRoom d u n (committedRoom d u n k)))

/-- A room whose capture has ended without a commit (Table 16.4). -/
def failedRoom (st : Status) (r : Room) : Room :=
  { r with ckps := { r.ckps with capture := none },
           ckp := { r.ckp with busy := false, failed := satInc r.ckp.failed, lastStatus := st.code } }

theorem captureView_captureFails (d : Device) (u : Ch) (n : Nat) (st : Status) :
    captureView (leadRoom (startHeld (captureFails d u n st) u n) u n) = captureView (failedRoom st (leadRoom d u n)) := by
  let e := modLead d u fun x => record x { cls := 0x90, kind := 7, room := BitVec.ofNat 6 n, status := st }
  have recorded : leadRoom e u n = leadRoom d u n := by
    show roomOf (chanOf (modChan d (leadOf d u) _) (leadOf d u)) n = _
    rw [chanOf_modChan_same]
    rfl
  have set : leadRoom (modLeadRoom e u n (failedRoom st)) u n = failedRoom st (leadRoom d u n) := by rw [leadRoom_modLeadRoom, recorded]
  have told := (keeps_ckpDone (roomView n captureView) (modLeadRoom e u n (failedRoom st)) u n false st).trans (keeps_startHeld _ u n)
  exact (told.leadRoom u).trans (congrArg captureView set)

theorem ackTimeout_of_none {u : Ch} {n : Nat} {d : Device} (idle : (leadRoom d u n).ckps.capture = none) : ackTimeout u n d = d := by
  refine if_neg ?_
  rw [idle]
  simp

theorem ackTimeout_of_running {u : Ch} {n : Nat} {d : Device} {k : Capture} (suite : suiteExists d u = true)
    (running : (leadRoom d u n).ckps.capture = some k) : ackTimeout u n d = startHeld (captureFails d u n .degraded) u n :=
  if_pos (by rw [suite, running]; rfl)

theorem leadRoom_consumed (c : Ch) (node : BitVec 18) (d : Device) (u : Ch) (n : Nat) : leadRoom (consumed c node d) u n = leadRoom d u n := by
  unfold consumed
  split <;> rfl

/-! ## Mirrors (R636) -/

/-- A mirror has ended; where it fails, the commit stands with DEGRADED. -/
def mirrored (ok : Bool) (r : Room) : Room :=
  { r with ckps := { r.ckps with mirroring := false }, ckp := { r.ckp with lastStatus := if ok then r.ckp.lastStatus else Status.degraded.code } }

theorem mirrorDone_of_not {u : Ch} {n : Nat} {d : Device} (idle : suiteExists d u = false ∨ (leadRoom d u n).ckps.mirroring = false) (ok : Bool) :
    mirrorDone u n ok d = d := by
  refine if_neg ?_
  rcases idle with gone | quiet
  · simp [gone]
  · simp [quiet]

theorem mirrorDone_of_mirroring {u : Ch} {n : Nat} {d : Device} (suite : suiteExists d u = true) (runs : (leadRoom d u n).ckps.mirroring = true)
    (ok : Bool) : mirrorDone u n ok d = modLeadRoom d u n (mirrored ok) := if_pos (by rw [suite, runs]; rfl)

/-! ## Commands of rooms without a suite -/

/-- Where no suite is, none of these events changes the device. -/
theorem checkpointEvents_of_no_suite {s : State} {u : Ch} (gone : suiteExists s.dev u = false) (room : BitVec 6) (step : Nat) (sh : BitVec 16) (ok : Bool)
    (i : Instr) (h : i ∈ [Instr.checkpointTimer u room, .jobCutMessage u room step, .shardCommitReport u room sh, .captureStageAck u room,
      .captureAckTimeout u room, .mirrorCopyDone u room ok]) : ∃ t, exec i s = .next t ∧ t.dev = s.dev := by
  simp only [List.mem_cons, List.not_mem_nil, or_false] at h
  rcases h with rfl | rfl | rfl | rfl | rfl | rfl
  · exact ⟨_, rfl, checkpointTimer_of_not (.inl gone)⟩
  · exact ⟨_, rfl, if_neg (by simp [gone])⟩
  · exact ⟨_, rfl, if_neg (by simp [gone])⟩
  · exact ⟨_, rfl, if_neg (by simp [gone])⟩
  · exact ⟨_, rfl, if_neg (by simp [gone])⟩
  · exact ⟨_, rfl, mirrorDone_of_not (.inl gone) ok⟩

/-- Settles O57, event by event; a capture stage by stage. -/
theorem checkpointEventsAct : Obligations.CheckpointEventsAct := by
  unfold Obligations.CheckpointEventsAct
  intro s u room n r same other
  refine ⟨fun gone step sh ok => checkpointEvents_of_no_suite gone room step sh ok, fun suite => ?_⟩
  intro fires
  refine ⟨fun quiet => ?quiet, fun fire alone => ?alone, fun fire sharded => ?sharded, fun step => ?cut, fun sh => ?report, fun idle => ?none,
    fun k running => ?stages, fun ok => ?mirror⟩
  case quiet => exact ⟨_, rfl, checkpointTimer_of_not (.inr quiet)⟩
  case alone =>
    obtain ⟨due, capture, pending, -⟩ := askedRoom_spec r.ckp.cut r
    refine ⟨_, rfl, ?_⟩
    dsimp only
    rw [checkpointTimer_of_fires suite fire, if_pos alone, leadRoom_modLeadRoom]
    exact ⟨fun o away => chanOf_modLeadRoom_ne _ _ _ _ away, due, capture, pending⟩
  case sharded =>
    refine ⟨_, rfl, ?_⟩
    dsimp only
    rw [checkpointTimer_of_fires suite fire, if_neg sharded]
    by_cases first : r.upd.shard = 0
    · rw [if_pos first, if_pos first, leadRoom_modLeadRoom]
      exact ⟨fun o away => chanOf_modLeadRoom_ne _ _ _ _ away, rfl⟩
    · rw [if_neg first, if_neg first]
      exact ⟨fun _ _ => rfl, rfl⟩
  case cut =>
    intro acts credit
    have runs : exec (.jobCutMessage u room step) s =
        .next { s with dev := consumed (leadOf s.dev u) r.upd.rootNode (jobCutMessage u n step s.dev) } := by
      show execJobCutMessage u room step s = _
      unfold execJobCutMessage
      rw [onDev_eq, if_pos suite]
    rw [jobCutMessage_eq suite] at runs
    refine ⟨fun idle => ?_, fun told => ?_⟩
    · rw [if_neg idle] at runs
      exact ⟨_, runs, onlyChannels_consumed_self ..⟩
    · rw [if_pos told] at runs
      refine ⟨_, runs, onlyChannels_consumed_modChan s _ _ (sameSender_modRoomC ..), ?_⟩
      rw [leadRoom_consumed, leadRoom_modLeadRoom]
      rfl
  case report =>
    refine ⟨fun later => ⟨_, rfl, if_neg (by simpa [suite] using later)⟩, fun first runs => ?_⟩
    have reported : leadRoom (shardReports u n sh.toNat s.dev) u n = shardReported sh.toNat r := leadRoom_shardReports runs sh.toNat
    have taken : (suiteExists s.dev u && decide (r.upd.shard = 0)) = true := by rw [suite, decide_eq_true first]; rfl
    cases found : r.update.nodes.find? fun q => q.1 == sh.toNat with
    | none =>
      have goes : exec (.shardCommitReport u room sh) s = .next { s with dev := shardReports u n sh.toNat s.dev } := by
        show execShardCommitReport u room sh s = _
        unfold execShardCommitReport
        rw [onDev_eq, if_pos taken]
        dsimp only
        rw [found]
      exact ⟨_, goes, onlyChannels_modChan .., reported⟩
    | some q =>
      have goes : exec (.shardCommitReport u room sh) s =
          .next { s with dev := consumed (leadOf s.dev u) q.2.1 (shardReports u n sh.toNat s.dev) } := by
        show execShardCommitReport u room sh s = _
        unfold execShardCommitReport
        rw [onDev_eq, if_pos taken]
        dsimp only
        rw [found]
      refine ⟨_, goes, onlyChannels_consumed_modChan s _ _ (sameSender_modRoomC ..), ?_⟩
      rw [leadRoom_consumed]
      exact reported
  case none =>
    refine ⟨⟨_, rfl, ?_⟩, ⟨_, rfl, ackTimeout_of_none idle⟩⟩
    dsimp only
    rw [if_pos suite]
    exact stageAck_of_none idle
  case stages =>
    have acks (e : Device) (h : stageAck u n s.dev = e) : exec (.captureStageAck u room) s = .next { s with board := showPower s.board e, dev := e } := by
      show execCaptureStageAck u room s = _
      unfold execCaptureStageAck withBoard
      rw [onBoth_eq]
      dsimp only
      rw [if_pos suite, show stageAck u room.toNat s.dev = e from h]
    refine ⟨fun b next => ?_, fun stage steady _ => ?_, ?_⟩
    · rcases next with ⟨stage, rfl⟩ | ⟨stage, rfl⟩ | ⟨stage, rfl⟩
      · obtain ⟨room, others⟩ := stageBegins_setCapture u n { k with stage := .pages } s.dev
        exact ⟨_, acks _ (stageAck_zero running stage), others, room, fun _ => rfl, fun h => by simp [stage] at h, fun h => by simp [stage] at h⟩
      · obtain ⟨⟨room, others⟩, dir, data⟩ := pagesStage_spec s.dev u n k
        exact ⟨_, acks _ (stageAck_pages running stage), others, room, fun h => by simp [stage] at h, fun _ => ⟨dir, data⟩, fun h => by simp [stage] at h⟩
      · obtain ⟨⟨room, others⟩, count, record⟩ := recordStage_spec s.dev u n k { k with stage := .commit }
        exact ⟨_, acks _ (stageAck_directory running stage), others, room, fun h => by simp [stage] at h, fun h => by simp [stage] at h,
          fun _ => ⟨count, record⟩⟩
    · obtain ⟨ckp, ended⟩ := Prod.ext_iff.mp (captureView_commitCapture steady s.dev u n)
      obtain ⟨capture, old⟩ := Prod.ext_iff.mp ended
      refine ⟨_, acks _ (stageAck_commit running stage), ?_⟩
      intro q
      have q_ckp : q.ckp = (committedRoom s.dev u n k r).ckp := ckp
      rw [q_ckp]
      exact ⟨rfl, rfl, rfl, rfl, rfl, rfl, capture, old⟩
    · obtain ⟨ckp, ended⟩ := Prod.ext_iff.mp (captureView_captureFails s.dev u n .degraded)
      obtain ⟨capture, -⟩ := Prod.ext_iff.mp ended
      have times_out : exec (.captureAckTimeout u room) s = .next { s with dev := startHeld (captureFails s.dev u n .degraded) u n } := by
        show execCaptureAckTimeout u room s = _
        unfold execCaptureAckTimeout
        rw [onDev_eq, ackTimeout_of_running suite running]
      refine ⟨_, times_out, ?_⟩
      intro q
      have q_ckp : q.ckp = (failedRoom .degraded r).ckp := ckp
      rw [q_ckp]
      exact ⟨capture, rfl, rfl, rfl, rfl, rfl⟩
  case mirror =>
    refine ⟨fun quiet => ⟨_, rfl, mirrorDone_of_not (.inr quiet) ok⟩, fun runs => ⟨_, rfl, ?_⟩⟩
    dsimp only
    rw [mirrorDone_of_mirroring suite runs, leadRoom_modLeadRoom]
    exact ⟨fun o away => chanOf_modLeadRoom_ne _ _ _ _ away, rfl⟩

end Sys2Proof.Machine

end

section

namespace Sys2Proof.Machine

/-! ## A trip that no judgement follows (R591, R604) -/

/-- A trip of the monitor would be judged transient, and its port is the channel's first to go. -/
def CalmTrip (m : Monitor) (x : Channel) : Prop :=
  isPermanent x (monitorClass m) (monitorUnit m) 0 false = false ∧ ∀ p, m = .vopt p → portsOut x = 0

/-- What a trip shows of its channel beside the port. -/
structure TripMarked (m : Monitor) (x y : Channel) : Prop where
  trips : ∀ n, n ∈ y.trips ↔ n = m ∨ n ∈ x.trips
  buffer : y.hist.buffer.length = x.hist.buffer.length + 1
  rooms : y.rooms = x.rooms
  step : m = .tjMax ∨ m = .vcore → y.step = 16
  tjHold : y.tjHold = (x.tjHold || decide (m = .tjMax))
  issueHold : y.issueHold = (x.issueHold || decide (m = .vcore ∨ m = .pllCompute))

/-- A channel but for its links, its ports keeping their states. -/
structure Untouched (x y : Channel) : Prop where
  links : SameButLinks x y
  states : ∀ q, (portOf y q).state = (portOf x q).state

theorem Untouched.refl (x : Channel) : Untouched x x := ⟨.refl x, fun _ => rfl⟩

theorem Untouched.trans {x y z : Channel} (h : Untouched x y) (g : Untouched y z) : Untouched x z :=
  ⟨h.links.trans g.links, fun q => (g.states q).trans (h.states q)⟩

theorem portsOut_congr {x y : Channel} (states : ∀ q, (portOf y q).state = (portOf x q).state) : portsOut y = portsOut x := by
  unfold portsOut portOut
  simp only [states]

theorem CalmTrip.untouched {m : Monitor} {x y : Channel} (h : CalmTrip m x) (u : Untouched x y) : CalmTrip m y := by
  refine ⟨?_, fun p hp => (portsOut_congr u.states).trans (h.2 p hp)⟩
  have same : SameButLinks x y := u.links
  rw [isPermanent_congr (x := x) (by rw [same]) (by rw [same]) (by rw [same]) (by rw [same])]
  exact h.1

theorem TripMarked.links {m : Monitor} {x y z : Channel} (h : TripMarked m x y) (same : SameButLinks y z) : TripMarked m x z := by
  rw [same]
  exact ⟨h.trips, h.buffer, h.rooms, h.step, h.tjHold, h.issueHold⟩

theorem TripMarked.after {m : Monitor} {x y z : Channel} (same : SameButLinks x y) (h : TripMarked m y z) : TripMarked m x z := by
  rw [same] at h
  exact ⟨h.trips, h.buffer, h.rooms, h.step, h.tjHold, h.issueHold⟩

/-- The record of a trip. -/
def tripRecord (m : Monitor) : FaultRec := { cls := monitorClass m, unit := monitorUnit m, kind := 5 }

theorem tripRecord_judged (m : Monitor) : unjudged (tripRecord m) = false := by cases m <;> rfl

theorem isPermanent_tripChan (m : Monitor) (x : Channel) :
    isPermanent (tripChan m x) (monitorClass m) (monitorUnit m) 0 false = isPermanent x (monitorClass m) (monitorUnit m) 0 false := by
  apply isPermanent_congr <;> cases m <;> rfl

theorem mem_tripChan (m n : Monitor) (x : Channel) : n ∈ (tripChan m x).trips ↔ n = m ∨ n ∈ x.trips := by
  have stands : n ∈ (if x.trips.contains m then x.trips else x.trips ++ [m]) ↔ n = m ∨ n ∈ x.trips := by
    by_cases old : m ∈ x.trips
    · rw [if_pos (List.contains_iff_mem.mpr old)]
      exact ⟨.inr, fun h => h.elim (fun e => e ▸ old) id⟩
    · rw [if_neg (mt List.contains_iff_mem.mp old), List.mem_append, List.mem_singleton]
      exact or_comm
  cases m <;> exact stands

/-- The channel of a trip, recorded and judged. -/
def trippedChan (m : Monitor) (x : Channel) : Channel := judgedChan (tripRecord m) false (tripChan m x)

theorem tripMarked_trippedChan (m : Monitor) (x : Channel) : TripMarked m x (trippedChan m x) := by
  have frame := (logged_judgedChan (tripRecord m) false (tripChan m x)).frame
  have buffer : (trippedChan m x).hist.buffer.length = (tripChan m x).hist.buffer.length + 1 := rfl
  refine ⟨fun n => ?_, buffer.trans ?_, ?_, ?_, ?_, ?_⟩
  · show n ∈ (judgedChan _ _ _).trips ↔ _
    rw [frame]
    exact mem_tripChan m n x
  · cases m <;> rfl
  all_goals unfold trippedChan
  all_goals rw [frame]
  all_goals cases m <;> simp [tripChan]

/-- The light of a tripped port is gone. -/
def portTrips (m : Monitor) (c : Ch) (d : Device) : Device :=
  match m with
  | .vopt p => portGone d c (BitVec.ofNat 2 p) 5
  | _ => d

theorem trip_eq (d : Device) (c : Ch) (m : Monitor) :
    trip d c m = postAll (portTrips m c (judgeFault (modChan d c (tripChan m)) c (tripRecord m) false))
      { code := 0x05, detail := (monitorUnit m ++ monitorClass m).setWidth 64 } := rfl

/-- Every trip is judged (R604). -/
theorem tripped_trip (d : Device) (c : Ch) (m : Monitor) : Tripped c m d (trip d c m) :=
  ⟨_, judged_judgeFault _ c false (tripRecord_judged m), rfl⟩

theorem judgeFault_of_calm {m : Monitor} {d : Device} {c : Ch} (calm : CalmTrip m (chanOf d c)) :
    judgeFault (modChan d c (tripChan m)) c (tripRecord m) false = modChan d c (trippedChan m) := by
  have transient : isPermanent (chanOf (modChan d c (tripChan m)) c) (tripRecord m).cls (tripRecord m).unit (tripRecord m).addr false = false := by
    rw [chanOf_modChan_same]
    exact (isPermanent_tripChan m _).trans calm.1
  rw [judgeFault_of_judged _ _ _ (tripRecord_judged m), transient, if_neg Bool.false_ne_true, modChan_modChan]
  rfl

theorem chanOf_postAll (d : Device) (e : EventRecord) (c : Ch) : chanOf (postAll d e) c = chanOf d c := (onlyFns_postAll d e).chan c

theorem length_named_ports (p : BitVec 2) : ((List.range 4).filter fun k => BitVec.ofNat 2 k == p).length = 1 := by
  revert p
  decide

/-- The first port of a channel to go leaves alone, without a drain. -/
theorem portGone_of_lone {d : Device} {c : Ch} (lone : portsOut (chanOf d c) = 0) (p : BitVec 2) (st : BitVec 3) :
    portGone d c p st = portLeaves d c p st := by
  obtain ⟨-, -, states⟩ := portLeaves_spec d c p st
  have others (q : BitVec 2) (other : q ≠ p) : portOut (portOf (chanOf (portLeaves d c p st) c) q) = false := by
    have up : portOut (portOf (chanOf d c) q) = false := by
      have none_out := List.filter_eq_nil_iff.mp (List.length_eq_zero_iff.mp lone) q.toNat (List.mem_range.mpr q.isLt)
      rw [BitVec.ofNat_toNat, BitVec.setWidth_eq] at none_out
      exact Bool.eq_false_iff.mpr none_out
    unfold portOut at up ⊢
    rw [states, if_neg (fun h => other h.2)]
    exact up
  have few : portsOut (chanOf (portLeaves d c p st) c) ≤ 1 := by
    rw [← length_named_ports p]
    refine (List.monotone_filter_right _ fun k out => ?_).length_le
    by_contra other
    rw [others _ (by simpa using other)] at out
    exact Bool.false_ne_true out
  unfold portGone
  dsimp only
  rw [if_pos (by rw [Bool.or_eq_true, decide_eq_true_eq]; exact .inr (Nat.lt_succ_of_le few))]

/-- What a trip shows of its channel. -/
structure TripSeen (m : Monitor) (x y : Channel) : Prop where
  marked : TripMarked m x y
  port : ∀ p, m = .vopt p → (portOf y (BitVec.ofNat 2 p)).state = 5

theorem TripSeen.untouched {m : Monitor} {x y z : Channel} (h : TripSeen m x y) (u : Untouched y z) : TripSeen m x z :=
  ⟨h.marked.links u.links, fun p hp => (u.states _).trans (h.port p hp)⟩

theorem TripSeen.after {m : Monitor} {x y z : Channel} (u : Untouched x y) (h : TripSeen m y z) : TripSeen m x z := ⟨h.marked.after u.links, h.port⟩

theorem portsOut_trippedChan (m : Monitor) (x : Channel) : portsOut (trippedChan m x) = portsOut x := by
  have judged : (trippedChan m x).ports = (tripChan m x).ports := by
    have frame := (logged_judgedChan (tripRecord m) false (tripChan m x)).frame
    unfold trippedChan
    rw [frame]
  have acted : (tripChan m x).ports = x.ports := by cases m <;> rfl
  refine portsOut_congr fun q => ?_
  unfold portOf
  rw [judged, acted]

/-- A calm trip marks its channel, and no other channel but in its links; those of the other monitors no other channel at all. -/
theorem trip_of_calm {m : Monitor} {d : Device} {c : Ch} (calm : CalmTrip m (chanOf d c)) :
    TripSeen m (chanOf d c) (chanOf (trip d c m) c) ∧ (∀ o, o ≠ c → Untouched (chanOf d o) (chanOf (trip d c m) o)) ∧
    ((∀ p, m ≠ .vopt p) → ∀ o, o ≠ c → chanOf (trip d c m) o = chanOf d o) := by
  have marked := tripMarked_trippedChan m (chanOf d c)
  let d2 := modChan d c (trippedChan m)
  have here : chanOf d2 c = trippedChan m (chanOf d c) := chanOf_modChan_same ..
  have there (o : Ch) (other : o ≠ c) : chanOf d2 o = chanOf d o := chanOf_modChan_ne _ _ other
  have tripped : ∀ o, chanOf (trip d c m) o = chanOf (portTrips m c d2) o := fun o => by
    rw [trip_eq, chanOf_postAll, judgeFault_of_calm calm]
  by_cases optical : ∃ p, m = .vopt p
  · obtain ⟨p, rfl⟩ := optical
    have gone : portTrips (.vopt p) c d2 = portLeaves d2 c (BitVec.ofNat 2 p) 5 :=
      portGone_of_lone (by rw [here, portsOut_trippedChan]; exact calm.2 p rfl) _ _
    obtain ⟨links, -, states⟩ := portLeaves_spec d2 c (BitVec.ofNat 2 p) 5
    refine ⟨⟨?_, fun q hq => ?_⟩, fun o other => ⟨?_, fun q => ?_⟩, fun electric => absurd rfl (electric p)⟩
    · rw [tripped, gone]
      rw [← here] at marked
      exact marked.links (links c)
    · cases hq
      rw [tripped, gone, states, if_pos ⟨rfl, rfl⟩]
    · rw [tripped, gone, ← there o other]
      exact links o
    · rw [tripped, gone, states, if_neg fun h => other h.1, there o other]
  · have stays : portTrips m c d2 = d2 := by
      cases m with
      | vopt p => exact absurd ⟨p, rfl⟩ optical
      | _ => rfl
    have same (o : Ch) (other : o ≠ c) : chanOf (trip d c m) o = chanOf d o := by rw [tripped, stays, there o other]
    refine ⟨⟨?_, fun q hq => absurd ⟨q, hq⟩ optical⟩, fun o other => ?_, fun _ => same⟩
    · rw [tripped, stays, here]
      exact marked
    · rw [same o other]
      exact .refl _

/-- The trips of one monitor on several channels: each is marked once, and the others stay near to what they were. -/
theorem trips_of_calm {m : Monitor} {Near : Channel → Channel → Prop} (refl : ∀ x, Near x x) (trans : ∀ {x y z}, Near x y → Near y z → Near x z)
    (untouched : ∀ {x y}, Near x y → Untouched x y)
    (others : ∀ {d c}, CalmTrip m (chanOf d c) → ∀ o, o ≠ c → Near (chanOf d o) (chanOf (trip d c m) o)) {l : List Ch} (once : l.Nodup) {d : Device}
    (calm : ∀ o ∈ l, CalmTrip m (chanOf d o)) :
    let e := l.foldl (fun d o => trip d o m) d
    (∀ o ∈ l, TripSeen m (chanOf d o) (chanOf e o)) ∧ ∀ o, o ∉ l → Near (chanOf d o) (chanOf e o) := by
  induction l generalizing d with
  | nil => exact ⟨fun o h => absurd h List.not_mem_nil, fun o _ => refl _⟩
  | cons c l ih =>
    obtain ⟨new, rest⟩ := List.nodup_cons.mp once
    have first : CalmTrip m (chanOf d c) := calm c List.mem_cons_self
    have away (o : Ch) (other : o ≠ c) : Near (chanOf d o) (chanOf (trip d c m) o) := others first o other
    have ne_of_mem {o : Ch} (ho : o ∈ l) : o ≠ c := fun same => new (same ▸ ho)
    obtain ⟨seen, near⟩ := ih rest fun o ho => (calm o (List.mem_cons_of_mem c ho)).untouched (untouched (away o (ne_of_mem ho)))
    refine ⟨fun o ho => ?_, fun o ho => ?_⟩
    · rcases List.mem_cons.mp ho with rfl | later
      · exact (trip_of_calm first).1.untouched (untouched (near o new))
      · exact (seen o later).after (untouched (away o (ne_of_mem later)))
    · obtain ⟨other, later⟩ := not_or.mp (mt List.mem_cons.mpr ho)
      exact trans (away o other) (near o later)

/-! ## Recovery -/

/-- The channel once a monitor's condition has cleared. -/
def untrippedChan (m : Monitor) (x : Channel) : Channel :=
  let t := x.trips.filter (· != m)
  let y := { x with trips := t, issueHold := x.issueHold && (t.contains .vcore || t.contains .pllCompute || x.lost) }
  match m with
  | .vopt p => modPort y (BitVec.ofNat 2 p) fun q => if q.state = 5 then { q with state := 1 } else q
  | .tjMax => { y with tjHold := 100 ≤ hottest y }
  | _ => y

theorem untrip_eq (d : Device) (c : Ch) (m : Monitor) : untrip d c m = modChan d c (untrippedChan m) := rfl

/-- A recovery takes the trip back with the holds that nothing else keeps. -/
theorem untrippedChan_spec (m : Monitor) (x : Channel) :
    let y := untrippedChan m x
    y = { x with trips := x.trips.filter (· != m), issueHold := x.issueHold && (y.trips.contains .vcore || y.trips.contains .pllCompute || x.lost),
                 tjHold := (if m = .tjMax then decide (100 ≤ hottest x) else x.tjHold), ports := y.ports } := by
  cases m <;> rfl

/-- A port without light retrains with its monitor's recovery. -/
theorem portOf_untrippedChan_of_dark {n : Nat} {x : Channel} (dark : (portOf x (BitVec.ofNat 2 n)).state = 5) :
    portOf (untrippedChan (.vopt n) x) (BitVec.ofNat 2 n) = { portOf x (BitVec.ofNat 2 n) with state := 1 } :=
  (portOf_modPort_same ..).trans (if_pos dark)

/-- No other port changes with a recovery. -/
theorem portOf_untrippedChan_of_lit {m : Monitor} {x : Channel} {p : BitVec 2}
    (lit : ¬ ((∃ n, m = .vopt n ∧ p = BitVec.ofNat 2 n) ∧ (portOf x p).state = 5)) : portOf (untrippedChan m x) p = portOf x p := by
  cases m with
  | vopt n =>
    refine (portOf_modPort _ (BitVec.ofNat 2 n) p _).trans ?_
    by_cases here : p = BitVec.ofNat 2 n
    · rw [if_pos here, ← here]
      exact if_neg fun dark => lit ⟨⟨n, rfl, here⟩, dark⟩
    · exact if_neg here
  | _ => rfl

theorem laserChans_nodup (i : BitVec 3) : (laserChans i).Nodup := by
  revert i
  decide

/-! ## ALERT_N -/

theorem alertLow_of_trip {d : Device} {c : Ch} {m : Monitor} (stands : m ∈ (chanOf d c).trips) (b : Board) : alertLow b d = true := by
  have any : (Ch.all.any fun c => !(chanOf d c).trips.isEmpty || (chanOf d c).flt.draining) = true := by
    rw [List.any_eq_true]
    refine ⟨c, Ch.mem_all c, ?_⟩
    have some_trip : (chanOf d c).trips.isEmpty = false := by
      rw [List.isEmpty_eq_false_iff_exists_mem]
      exact ⟨m, stands⟩
    rw [some_trip]
    rfl
  unfold alertLow
  rw [any, Bool.or_true]

/-- Settles O18: a trip by what it leaves of its channel, several trips by one after the other, and a recovery by what it takes back. -/
theorem monitorsTripAndRecover : Obligations.MonitorsTripAndRecover := by
  unfold Obligations.MonitorsTripAndRecover
  intro s c m f i uw calm seen lasers
  have shown {o : Ch} {k : Monitor} {t : State} (h : TripSeen k (chanOf s.dev o) (chanOf t.dev o)) : seen o k t := by
    obtain ⟨⟨trips, buffer, rooms, step, tjHold, issueHold⟩, port⟩ := h
    refine ⟨(trips k).mpr (.inl rfl), fun n other => ?_, buffer, rooms, step, tjHold, issueHold, port⟩
    rw [trips]
    exact or_iff_right other
  refine ⟨?trip, ?recovery, ?pmbus, ?loss, ?returns⟩
  case trip =>
    refine ⟨_, rfl, rfl, tripped_trip .., fun quiet => ?_⟩
    obtain ⟨seen_c, others, -⟩ := trip_of_calm (d := s.dev) quiet
    refine ⟨shown seen_c, alertLow_of_trip ((seen_c.marked.trips m).mpr (.inl rfl)) _, fun o other => ?_⟩
    exact ⟨(others o other).links.rooms, (others o other).links.trips⟩
  case recovery =>
    refine ⟨_, rfl, rfl, fun absent => ?_, fun stands => ?_⟩
    · exact if_neg (mt List.contains_iff_mem.mp absent)
    · dsimp only
      rw [if_pos (List.contains_iff_mem.mpr stands), untrip_eq]
      refine ⟨fun o other => chanOf_modChan_ne _ _ other, ?_⟩
      rw [chanOf_modChan_same]
      refine ⟨untrippedChan_spec m _, fun p => ⟨fun dark => ?_, fun lit => ?_⟩⟩
      · obtain ⟨⟨n, rfl, rfl⟩, state⟩ := dark
        exact portOf_untrippedChan_of_dark state
      · exact portOf_untrippedChan_of_lit lit
  case pmbus =>
    refine ⟨_, rfl, rfl, ?_, ?_, fun foyer quiet => ?_⟩
    · unfold alertLow
      dsimp only [Machine.pmbAlert]
      rw [Bool.or_true, Bool.true_or, Bool.true_or]
    · dsimp only [Machine.pmbAlert]
      split
      · exact judged_judgeFault _ _ _ rfl
      · rfl
    · obtain ⟨each, others⟩ := trips_of_calm (m := .vcore) (Near := fun x y => y = x) (fun _ => rfl) (fun h g => g.trans h)
        (fun h => h ▸ .refl _) (fun calm => (trip_of_calm calm).2.2 fun _ => nofun)
        (l := Ch.all.filter fun o => f.getLsbD o.num) (List.Nodup.filter _ (by decide)) (fun o _ => quiet o)
      dsimp only [Machine.pmbAlert]
      rw [if_neg (by rw [foyer]; exact Bool.false_ne_true)]
      exact fun o => ⟨fun named => shown (each o (List.mem_filter.mpr ⟨Ch.mem_all o, named⟩)),
        fun unnamed => others o fun h => by rw [(List.mem_filter.mp h).2] at unnamed; exact Bool.false_ne_true unnamed.symm⟩
  case loss =>
    refine ⟨_, rfl, rfl, rfl, fun quiet => ?_⟩
    obtain ⟨each, -⟩ := trips_of_calm (m := .vopt (i.toNat % 4)) Untouched.refl Untouched.trans id (fun calm => (trip_of_calm calm).2.1)
      (laserChans_nodup i) (fun o _ => quiet o)
    exact fun o ho => shown (each o ho)
  case returns =>
    have settled (o : Ch) : chanOf ((laserChans i).foldl (fun d c => untrip d c (.vopt (i.toNat % 4))) s.dev) o =
        if o ∈ laserChans i then untrippedChan (.vopt (i.toNat % 4)) (chanOf s.dev o) else chanOf s.dev o :=
      chanOf_modChans (laserChans i) (fun _ => untrippedChan (.vopt (i.toNat % 4))) s.dev o (laserChans_nodup i)
    refine ⟨_, rfl, rfl, fun o away => (settled o).trans (if_neg away), fun o ho => ?_⟩
    have here := (settled o).trans (if_pos ho)
    dsimp only [laserReturn]
    rw [here]
    refine ⟨rfl, rfl, ?_⟩
    split
    · next dark => rw [portOf_untrippedChan_of_dark dark]
    · next lit =>
      rw [portOf_untrippedChan_of_lit]
      exact fun h => lit h.2

end Sys2Proof.Machine

end

section

namespace Sys2Proof.Machine

/-! ## What the loss of a stack or a port leaves of a device without a STARTED room (R730) -/

/-- Which rooms of a channel are STARTED, its stacks, and the states of its ports. -/
def railView (x : Channel) : (Nat → Bool) × Quad Stack × (BitVec 2 → BitVec 3) :=
  (fun n => isStarted (roomOf x n), x.memStacks, fun p => (portOf x p).state)

theorem railView_congr {x y : Channel} (started : ∀ n, isStarted (roomOf y n) = isStarted (roomOf x n)) (mems : y.memStacks = x.memStacks)
    (ports : ∀ p, (portOf y p).state = (portOf x p).state) : railView y = railView x :=
  Prod.ext (funext started) (Prod.ext mems (funext ports))

theorem started_of_railView {x y : Channel} (h : railView y = railView x) (n : Nat) : isStarted (roomOf y n) = isStarted (roomOf x n) :=
  congrFun (congrArg Prod.fst h) n

theorem stacks_of_railView {x y : Channel} (h : railView y = railView x) : y.memStacks = x.memStacks := congrArg (·.2.1) h

theorem ports_of_railView {x y : Channel} (h : railView y = railView x) (p : BitVec 2) : (portOf y p).state = (portOf x p).state :=
  congrFun (congrArg (·.2.2) h) p

theorem railView_of_fields {x y : Channel} (rooms : y.rooms = x.rooms) (mems : y.memStacks = x.memStacks) (ports : y.ports = x.ports) :
    railView y = railView x :=
  railView_congr (fun n => congrArg isStarted (roomOf_congr rooms n)) mems fun p => by unfold portOf; rw [ports]

theorem railView_record (x : Channel) (r : FaultRec) : railView (record x r) = railView x :=
  railView_of_fields (record_rooms ..) (record_stacks ..) (record_ports ..)

theorem OnlyPages.railView {x y : Channel} (h : OnlyPages x y) : railView y = Machine.railView x := by
  obtain ⟨rooms, rest⟩ := h
  refine railView_congr (fun n => ?_) (by rw [rest]) fun p => by rw [rest]; rfl
  rw [show roomOf y n = _ from rooms n]
  rfl

/-- Where the suites are as before, and no room starts, a device without a STARTED room stays so. -/
theorem quiet_of_started {d e : Device} (suites : ∀ u, (suiteOf e u).mask = (suiteOf d u).mask ∧ (suiteOf e u).lead = (suiteOf d u).lead)
    (started : ∀ c n, isStarted (roomOf (chanOf e c) n) = isStarted (roomOf (chanOf d c) n)) (quiet : startedRooms d = []) : startedRooms e = [] := by
  rw [startedRooms_eq_nil_iff] at quiet ⊢
  intro u ex n hn
  have lead : leadOf e u = leadOf d u := by
    unfold leadOf
    rw [(suites u).2]
  unfold leadRoom
  rw [lead, started]
  refine quiet u ?_ n hn
  unfold suiteExists at ex ⊢
  rwa [← (suites u).1]

theorem Keeps.quiet {d e : Device} (h : Keeps railView d e) : startedRooms d = [] → startedRooms e = [] :=
  quiet_of_started h.suites fun c => started_of_railView (h.chans c)

/-! ### A drain that stops no room -/

theorem rail_refresh (d : Device) : Keeps railView d (refresh d) := .of_chans (refresh_keeps d).2.1 (refresh_keeps d).1

theorem railView_drainChan (cancellable : Bool) (limitS : Nat) (x : Channel) : railView (drainChan cancellable limitS x) = railView x := by
  unfold drainChan
  split
  · rfl
  · exact railView_record ..

theorem rail_showDrained (d : Device) : Keeps railView d (showDrained d) :=
  keeps_modChans d Ch.all _ fun c x => by
    split
    · rfl
    · rfl

theorem rail_startDrain {d : Device} (quiet : startedRooms d = []) (cs : List Ch) (cancellable : Bool) (limitS : Nat) :
    Keeps railView d (startDrain d cs cancellable limitS) := by
  unfold startDrain
  extract_lets new d1 fy d2
  have begun : Keeps railView d d1 := keeps_modChans d cs _ fun _ x => railView_drainChan ..
  split
  · exact begun
  · have posted : Keeps railView d d2 := (begun.trans (keeps_withFy d1 _)).trans (keeps_onlyFns (onlyFns_postAll ..))
    rw [drainIdle_of_quiet (posted.quiet quiet)]
    exact (posted.trans (rail_showDrained d2)).trans (rail_refresh _)

theorem rail_setReplace (d : Device) (cause : Option (Ch × Byte × BitVec 16)) : Keeps railView d (setReplace d cause) := by
  unfold setReplace
  extract_lets was fy d1
  split
  · exact keeps_withFy d _
  · exact (keeps_withFy d _).trans (keeps_onlyFns (onlyFns_postAll d1 _))

theorem rail_faultDrain {d : Device} (quiet : startedRooms d = []) (c : Ch) (cls : Byte) (unit : BitVec 16) :
    Keeps railView d (faultDrain d c cls unit) := by
  unfold faultDrain
  extract_lets d1
  have marked : Keeps railView d d1 := keeps_modChan d c _ fun _ => rfl
  have replaced : Keeps railView d (setReplace d1 (some (c, cls, unit))) :=
    marked.trans (rail_setReplace d1 _)
  exact replaced.trans (rail_startDrain (replaced.quiet quiet) _ _ _)

theorem railView_permanentChan (cls : Byte) (unit : BitVec 16) (addr : W64) (x : Channel) : railView (permanentChan cls unit addr x) = railView x :=
  railView_record (noteTimes cls unit addr [] x) { cls := cls, unit := unit, addr := addr, kind := 9, judge := 1 }

/-- A permanent loss of a stack is recorded, and drains the device (Table 15.5). -/
theorem rail_meetPermanent_stack {d : Device} (quiet : startedRooms d = []) (c : Ch) (unit : BitVec 16) (addr : W64) :
    Keeps railView d (meetPermanent d c 0x11 unit addr) := by
  unfold meetPermanent
  extract_lets d1 d2 t d3
  have judged : Keeps railView d d1 := keeps_modChan d c (permanentChan 0x11 unit addr) fun x => railView_permanentChan ..
  have posted : Keeps railView d d2 := judged.trans (keeps_onlyFns (onlyFns_postAll d1 _))
  have met : Keeps railView d d3 := posted.trans (keeps_setChan d2 c _ (railView_record (chanOf d2 c) _))
  refine Keeps.trans ?_ (rail_refresh _)
  split
  · exact met.trans (rail_faultDrain (met.quiet quiet) ..)
  · exact met

/-! ### The loss of a stack -/

theorem rail_replaceTiles (d : Device) (u : Ch) (k : Nat) (l : List Nat) : Keeps railView d (replaceTiles d u k l) := by
  unfold replaceTiles
  split
  · exact .refl d
  · extract_lets w d1
    have poisoned : Keeps railView d d1 := keeps_modChans d _ _ fun _ x => foldl_view railView (f := poisonTile w true) (fun _ _ => rfl) l x
    exact poisoned.trans (keeps_modLead d1 u _ fun _ => rfl)

theorem rail_repairShared (d : Device) (c : Ch) (i a b : Nat) : Keeps railView d (repairShared d c i a b) := by
  unfold repairShared
  split
  · exact .refl d
  · refine keeps_foldl _ (fun d k => ?_) _ _
    dsimp only
    split
    · exact rail_replaceTiles ..
    · exact .refl d

theorem railView_setArose (p : PoisonPlace) (o : Option Arose) (x : Channel) : railView (setArose p o x) = railView x := rfl

theorem railView_modRoomC {x : Channel} {n : Nat} {f : Room → Room} (h : ∀ r, isStarted (f r) = isStarted r) : railView (modRoomC x n f) = railView x :=
  railView_congr (fun m => roomView_modRoomC x m n isStarted f h) rfl fun _ => rfl

theorem railView_poisonPage (o : Option Arose) (x : Channel) (r : PageRef) : railView (poisonPage o x r) = railView x := by
  unfold poisonPage
  extract_lets y
  rw [railView_setArose, (onlyPages_modPte y r _).railView]
  cases r with
  | room n k => exact railView_modRoomC fun _ => rfl
  | common i => rfl

theorem rail_losePages (o : Arose) (d : Device) (c : Ch) : Keeps railView d (losePages o d c) :=
  keeps_foldl _ (fun d r => by
    cases r with
    | room n k => exact keeps_modChan d c (fun x => poisonPage (some o) x (.room n k)) fun x => railView_poisonPage ..
    | common i => exact rail_repairShared ..) _ d

/-- T1 laid out anew differs in pages, frames and moves alone. -/
theorem onlyPages_relay (x : Channel) : OnlyPages x (relay x) := by
  unfold relay
  extract_lets y z
  have placed : OnlyPages x y.2 :=
    List.foldlRecOn (t1Pages x) _ (motive := fun (p : Nat × Channel) => OnlyPages x p.2) (.refl x) fun _ h _ _ => h.trans (onlyPages_modPte ..)
  exact placed.trans ⟨fun _ => .refl _, rfl⟩

theorem suiteExists_of_suiteOfChan {d : Device} {c u : Ch} (found : suiteOfChan d c = some u) : suiteExists d u = true := by
  have member : (suiteOf d u).mask.getLsbD c.num = true := List.find?_some (p := fun u => (suiteOf d u).mask.getLsbD c.num) found
  unfold suiteExists
  rw [bne_iff_ne]
  intro empty
  rw [empty] at member
  simp at member

theorem rail_loseT1Rooms {d : Device} (quiet : startedRooms d = []) (c : Ch) : Keeps railView d (loseT1Rooms d c) := by
  unfold loseT1Rooms
  split
  next u found =>
    refine List.foldlRecOn roomIndexes _ (motive := Keeps railView d) (.refl d) fun e kept n hn => kept.trans ?_
    have ex : suiteExists e u = true := by
      have before := suiteExists_of_suiteOfChan found
      unfold suiteExists at before ⊢
      rwa [(kept.suites u).1]
    have idle : isStarted (leadRoom e u n) = false := (startedRooms_eq_nil_iff e).mp (kept.quiet quiet) u ex n hn
    unfold loseT1Room
    extract_lets r d1
    split
    · exact .refl e
    · rw [show d1 = e from if_neg (by rw [idle]; exact Bool.false_ne_true)]
      exact keeps_modChan e c _ fun x => (onlyPages_freeRoomPages ..).railView
  next => exact .refl d

theorem quiet_stackDown {d : Device} (quiet : startedRooms d = []) (c st : Ch) : startedRooms (modChan d c (stackDown st)) = [] := by
  refine quiet_of_started (d := d) (fun _ => ⟨rfl, rfl⟩) (fun o n => ?_) quiet
  rw [chanOf_modChan]
  split
  next same => rw [same]; rfl
  next => rfl

/-- The loss of a stack that works takes it out of service, and no other, where no room is STARTED. -/
theorem rail_loseStack {d : Device} (quiet : startedRooms d = []) {c st : Ch} (up : ((chanOf d c).memStacks.get st).reg.up = true) :
    Keeps railView (modChan d c (stackDown st)) (loseStack d c st) := by
  have quiet1 : startedRooms (modChan d c (stackDown st)) = [] := quiet_stackDown quiet c st
  have rooms := rail_loseT1Rooms quiet1 c
  have lost := (rooms.trans (rail_losePages (stackArose st) _ c)).trans (keeps_modChan _ c relay fun x => (onlyPages_relay x).railView)
  rw [loseStack_of_up up]
  exact lost.trans (rail_meetPermanent_stack (lost.quiet quiet1) ..)

/-! ### One after the other -/

/-- What each step of a fold makes true of its own element, and keeps true of every other, while something else stands throughout. -/
theorem foldl_forall_mem_of_stands {α β : Type} {f : β → α → β} {I : β → Prop} {P : β → α → Prop} (stands : ∀ y a, I y → I (f y a))
    (own : ∀ y a, I y → P (f y a) a) (keeps : ∀ y a b, I y → P y b → P (f y a) b) (l : List α) {x : β} (hx : I x) : ∀ a ∈ l, P (l.foldl f x) a := by
  intro a ha
  obtain ⟨before, after, rfl⟩ := List.append_of_mem ha
  rw [List.foldl_append, List.foldl_cons]
  have first : I (before.foldl f x) := List.foldlRecOn before f (motive := I) hx fun y hy b _ => stands y b hy
  exact (List.foldlRecOn after f (motive := fun y => I y ∧ P y a) ⟨stands _ a first, own _ a first⟩
    fun y hy b _ => ⟨stands y b hy.1, keeps y b a hy.1 hy.2⟩).2

/-- A stack, by its channel and number, does not work. -/
def StackOut (d : Device) (q : Ch × Ch) : Prop := ((chanOf d q.1).memStacks.get q.2).reg.up = false

theorem stackOut_of_keeps {d e : Device} (h : Keeps railView d e) {q : Ch × Ch} (out : StackOut d q) : StackOut e q := by
  unfold StackOut
  rw [stacks_of_railView (h.chans q.1)]
  exact out

theorem stackOut_stackDown {d : Device} {c st : Ch} {q : Ch × Ch} (out : q = (c, st) ∨ StackOut d q) : StackOut (modChan d c (stackDown st)) q := by
  obtain ⟨o, k⟩ := q
  unfold StackOut at out ⊢
  dsimp only at out ⊢
  by_cases chan : o = c
  · subst chan
    rw [chanOf_modChan_same]
    dsimp only [stackDown]
    rw [Quad.get_set]
    by_cases stack : k = st
    · rw [if_pos stack]
    · rw [if_neg stack]
      exact out.resolve_left fun same => stack (congrArg Prod.snd same)
  · rw [chanOf_modChan_ne _ _ chan]
    exact out.resolve_left fun same => chan (congrArg Prod.fst same)

/-- Without a STARTED room, the loss of a stack leaves it out of service with those that were. -/
theorem loseStack_spec {d : Device} (quiet : startedRooms d = []) (c st : Ch) :
    startedRooms (loseStack d c st) = [] ∧ ∀ q, q = (c, st) ∨ StackOut d q → StackOut (loseStack d c st) q := by
  cases up : ((chanOf d c).memStacks.get st).reg.up with
  | true =>
    have lost := rail_loseStack quiet up
    exact ⟨lost.quiet (quiet_stackDown quiet c st), fun q out => stackOut_of_keeps lost (stackOut_stackDown out)⟩
  | false =>
    rw [loseStack_of_down up]
    exact ⟨quiet, fun q out => out.elim (fun same => same ▸ up) id⟩

theorem stackOut_loseStacks {d : Device} (quiet : startedRooms d = []) (c k : Ch) : StackOut (loseStacks d) (c, k) := by
  have stands (e : Device) (q : Ch × Ch) (h : startedRooms e = []) : startedRooms (loseStack e q.1 q.2) = [] := (loseStack_spec h q.1 q.2).1
  have own (e : Device) (q : Ch × Ch) (h : startedRooms e = []) : StackOut (loseStack e q.1 q.2) q := (loseStack_spec h q.1 q.2).2 q (.inl rfl)
  have keeps (e : Device) (q o : Ch × Ch) (h : startedRooms e = []) (out : StackOut e o) : StackOut (loseStack e q.1 q.2) o :=
    (loseStack_spec h q.1 q.2).2 o (.inr out)
  have out := foldl_forall_mem_of_stands (I := fun d => startedRooms d = []) (P := StackOut) (f := fun (d : Device) (q : Ch × Ch) => loseStack d q.1 q.2)
    stands own keeps (Ch.all.flatMap fun c => Ch.all.map fun k => (c, k)) quiet
  have named : (c, k) ∈ Ch.all.flatMap fun c => Ch.all.map fun k => (c, k) :=
    List.mem_flatMap.mpr ⟨c, Ch.mem_all c, List.mem_map.mpr ⟨k, Ch.mem_all k, rfl⟩⟩
  unfold loseStacks
  exact out (c, k) named

/-! ### The loss of light -/

/-- A port, by its channel and number, is without light. -/
def PortDark (d : Device) (q : Ch × Nat) : Prop := (portOf (chanOf d q.1) (BitVec.ofNat 2 q.2)).state = 5

theorem portDark_of_keeps {d e : Device} (h : Keeps railView d e) {q : Ch × Nat} (dark : PortDark d q) : PortDark e q :=
  (ports_of_railView (h.chans q.1) _).trans dark

theorem quiet_portLeaves {d : Device} (quiet : startedRooms d = []) (c : Ch) (p : BitVec 2) (st : BitVec 3) : startedRooms (portLeaves d c p st) = [] := by
  obtain ⟨links, suites, -⟩ := portLeaves_spec d c p st
  refine quiet_of_started (d := d) (fun u => ?_) (fun o n => congrArg isStarted (roomOf_congr (links o).rooms n)) quiet
  unfold suiteOf
  rw [suites]
  exact ⟨rfl, rfl⟩

/-- Without a STARTED room, a drain that a lost port starts leaves the ports as its leaving does. -/
theorem rail_portGone {d : Device} (quiet : startedRooms d = []) (c : Ch) (p : BitVec 2) (st : BitVec 3) :
    Keeps railView (portLeaves d c p st) (portGone d c p st) := by
  unfold portGone
  dsimp only
  split
  · exact .refl _
  · exact rail_faultDrain (quiet_portLeaves quiet c p st) ..

theorem portGone_spec {d : Device} (quiet : startedRooms d = []) (c : Ch) (p : Nat) :
    startedRooms (portGone d c (BitVec.ofNat 2 p) 5) = [] ∧ ∀ q, q = (c, p) ∨ PortDark d q → PortDark (portGone d c (BitVec.ofNat 2 p) 5) q := by
  have gone := rail_portGone quiet c (BitVec.ofNat 2 p) 5
  obtain ⟨-, -, states⟩ := portLeaves_spec d c (BitVec.ofNat 2 p) 5
  refine ⟨gone.quiet (quiet_portLeaves quiet ..), fun q dark => portDark_of_keeps gone ?_⟩
  refine (states q.1 (BitVec.ofNat 2 q.2)).trans ?_
  rcases dark with rfl | dark
  · exact if_pos ⟨rfl, rfl⟩
  · split
    · rfl
    · exact dark

theorem rail_portsSettled (d : Device) (done : Ch × Nat → Bool) : Keeps railView d (portsSettled d done) := by
  unfold portsSettled
  extract_lets waits fy d1 d2
  obtain ⟨chans, suites⟩ := chans_completeWaits d2 fun w => match w.kind with
    | .join [] => some (if allTrained d then .ok else .degraded, joinWords d)
    | _ => none
  refine Keeps.trans (b := d2) ?_ (.of_chans suites chans)
  simp only [d2]
  split
  · exact (keeps_withFy d _).trans (keeps_modChans d1 Ch.all _ fun _ _ => rfl)
  · exact keeps_withFy d _

theorem loseOptics_eq (d : Device) :
    loseOptics d = portsSettled ((Ch.all.flatMap fun c => (List.range 4).map fun p => (c, p)).foldl
      (fun d q => portGone d q.1 (BitVec.ofNat 2 q.2) 5) d) fun _ => true := by
  unfold loseOptics
  rfl

theorem portDark_loseOptics {d : Device} (quiet : startedRooms d = []) (c : Ch) (p : BitVec 2) : PortDark (loseOptics d) (c, p.toNat) := by
  have stands (e : Device) (q : Ch × Nat) (h : startedRooms e = []) : startedRooms (portGone e q.1 (BitVec.ofNat 2 q.2) 5) = [] :=
    (portGone_spec h q.1 q.2).1
  have own (e : Device) (q : Ch × Nat) (h : startedRooms e = []) : PortDark (portGone e q.1 (BitVec.ofNat 2 q.2) 5) q :=
    (portGone_spec h q.1 q.2).2 q (.inl rfl)
  have keeps (e : Device) (q o : Ch × Nat) (h : startedRooms e = []) (dark : PortDark e o) : PortDark (portGone e q.1 (BitVec.ofNat 2 q.2) 5) o :=
    (portGone_spec h q.1 q.2).2 o (.inr dark)
  have dark := foldl_forall_mem_of_stands (I := fun d => startedRooms d = []) (P := PortDark) (f := fun (d : Device) (q : Ch × Nat) => portGone d q.1 (BitVec.ofNat 2 q.2) 5)
    stands own keeps (Ch.all.flatMap fun c => (List.range 4).map fun p => (c, p)) quiet
  have named : (c, p.toNat) ∈ Ch.all.flatMap fun c => (List.range 4).map fun p => (c, p) :=
    List.mem_flatMap.mpr ⟨c, Ch.mem_all c, List.mem_map.mpr ⟨p.toNat, List.mem_range.mpr p.isLt, rfl⟩⟩
  unfold loseOptics
  exact portDark_of_keeps (rail_portsSettled _ _) (dark (c, p.toNat) named)

/-! ### The falls of VSTK_PG and VOPT_PG -/

/-- The board once VSTK is off. -/
def vstkOffBoard (b : Board) (d : Device) : Board :=
  { showPower b d with pwr := { (showPower b d).pwr with vstkOn := false, pg := b.pwr.pg &&& 5 } }

/-- The board once VOPT is off. -/
def voptOffBoard (b : Board) (d : Device) : Board :=
  { showPower b d with pwr := { (showPower b d).pwr with voptOn := false, pg := b.pwr.pg &&& 3 } }

theorem vstkOffBoard_spec (b : Board) (d : Device) :
    let e := vstkOffBoard b d
    e.pwr.vstkOn = false ∧ e.pwr.pg = b.pwr.pg &&& 5 ∧ e.pwr.voptOn = b.pwr.voptOn ∧ e.pwr.seq = b.pwr.seq ∧ e.loops = b.loops ∧
      e.readyOut = b.readyOut := ⟨rfl, rfl, rfl, rfl, rfl, rfl⟩

theorem voptOffBoard_spec (b : Board) (d : Device) :
    let e := voptOffBoard b d
    e.pwr.voptOn = false ∧ e.pwr.pg = b.pwr.pg &&& 3 ∧ e.pwr.vstkOn = b.pwr.vstkOn ∧ e.pwr.seq = b.pwr.seq ∧ e.loops = b.loops ∧
      e.readyOut = b.readyOut := ⟨rfl, rfl, rfl, rfl, rfl, rfl⟩

theorem exec_railPgFall_stacks {s : State} (on : s.board.pwr.vstkOn = true) (good : s.board.pwr.pg.getLsbD 1 = true) :
    exec (.railPgFall false) s =
      .next { s with board := vstkOffBoard s.board (refresh (loseStacks s.dev)), dev := refresh (loseStacks s.dev) } := by
  show execRailPgFall false s = _
  unfold execRailPgFall onBoth railPgFall
  simp only [on, good, Bool.not_true, Bool.or_self, Bool.false_eq_true, if_false]
  rfl

theorem exec_railPgFall_optics {s : State} (on : s.board.pwr.voptOn = true) (good : s.board.pwr.pg.getLsbD 2 = true) :
    exec (.railPgFall true) s =
      .next { s with board := voptOffBoard s.board (refresh (loseOptics s.dev)), dev := refresh (loseOptics s.dev) } := by
  show execRailPgFall true s = _
  unfold execRailPgFall onBoth railPgFall
  simp only [on, good, Bool.not_true, Bool.or_self, Bool.false_eq_true, if_false, if_true]
  rfl

/-- Settles O15: without a STARTED room each loss keeps what those before it took out of service, for its drain stops no room. -/
theorem railLossDeassertsEnable : Obligations.RailLossDeassertsEnable := by
  unfold Obligations.RailLossDeassertsEnable
  intro s idle both ports
  have quiet (h : idle) : startedRooms s.dev = [] := (startedRooms_eq_nil_iff s.dev).mpr fun u _ n _ => h u n
  refine ⟨fun on good => ?mems, fun on good => ?optics⟩
  case mems =>
    obtain ⟨off, pg, other, seq, loops, ready⟩ := vstkOffBoard_spec s.board (refresh (loseStacks s.dev))
    refine ⟨_, exec_railPgFall_stacks on good, off, pg, other, seq, loops, ready, rfl, fun h c k => ?_⟩
    exact stackOut_of_keeps (rail_refresh _) (stackOut_loseStacks (quiet h) c k)
  case optics =>
    obtain ⟨off, pg, other, seq, loops, ready⟩ := voptOffBoard_spec s.board (refresh (loseOptics s.dev))
    refine ⟨_, exec_railPgFall_optics on good, off, pg, other, seq, loops, ready, ?lost, fun h c p => ?_⟩
    case lost =>
      dsimp only
      exact congrArg refresh (loseOptics_eq s.dev)
    have dark := portDark_of_keeps (rail_refresh _) (portDark_loseOptics (quiet h) c p)
    unfold PortDark at dark
    dsimp only at dark ⊢
    rwa [BitVec.ofNat_toNat, BitVec.setWidth_eq] at dark

end Sys2Proof.Machine

end
